-- ==== Sys2Proof/Word.lean ====
section
/-!
DEFINITION. The machine's word types and the plainest helpers over them (spec/00 R4: bits are numbered from 0 at the
least significant bit, multi-byte values are little-endian).
-/
namespace Sys2Proof

/-- A 64-bit register or address (R11). -/
abbrev Word := BitVec 64

/-- One byte of memory. -/
abbrev Byte := BitVec 8

/-- One 32-bit lane of a vector register (R11). -/
abbrev Lane := BitVec 32

/-- The 32 lanes of a v register (R11). -/
abbrev Lanes := Vector Lane 32

/-- A keyed table: the first entry of a key counts. -/
abbrev Map (α β : Type) := List (α × β)

/-- The entry of a key, if there is one. -/
def Map.get? {α β : Type} [DecidableEq α] : Map α β → α → Option β
  | [], _ => none
  | (k, v) :: rest, a => if k = a then some v else Map.get? rest a

/-- The entry of a key, or a default. -/
def Map.getD {α β : Type} [DecidableEq α] (m : Map α β) (a : α) (d : β) : β :=
  (Map.get? m a).getD d

/-- Replace the entry of a key, or add it at the end. -/
def Map.put {α β : Type} [DecidableEq α] : Map α β → α → β → Map α β
  | [], a, b => [(a, b)]
  | (k, v) :: rest, a, b => if k = a then (a, b) :: rest else (k, v) :: Map.put rest a b

/-- Remove a key. -/
def Map.del {α β : Type} [DecidableEq α] (m : Map α β) (a : α) : Map α β :=
  m.filter fun p => decide (p.1 ≠ a)

/-- The keys of a table, in its order. -/
def Map.keys {α β : Type} (m : Map α β) : List α := m.map Prod.fst

end Sys2Proof
end

