-- ==== Sys2Proof/Syntax.lean ====
section
/-!
DEFINITION. The syntax of the machine's steps: one constructor of `Instr` per row of spec/opcode_table.json. The first
part are the instructions of Table 3.3 with their operands (03 R58-R68); the second part are the events, the steps
that agents other than an issuing context take (95_what_each_step_holds.md), each with the names of the units it
concerns.
-/
namespace Sys2Proof

/-- x0-x63. -/
abbrev XReg := Fin 64
/-- f0-f31. -/
abbrev FReg := Fin 32
/-- v0-v31. -/
abbrev VReg := Fin 32
/-- a0-a63 (R255). -/
abbrev AReg := Fin 64
/-- bs0-bs7 (R176). -/
abbrev BSlot := Fin 8
/-- sem0-sem7 (R263). -/
abbrev SemReg := Fin 8
/-- cv0-cv3 (R188). -/
abbrev CvReg := Fin 4
/-- v24-v31, numbered from 0 (R144). -/
abbrev StreamIx := Fin 8
/-- The lookahead count (R58, R70). -/
abbrev LaCount := Fin 16

/-- Logical coordinates of a cluster (R8). -/
structure ClusterId where
  die : Nat
  x : Nat
  y : Nat
  deriving DecidableEq, Repr

/-- A core of a cluster: 0-7 compute, 8 stager, 9 issuer (R8). -/
structure CoreId where
  cl : ClusterId
  core : Nat
  deriving DecidableEq, Repr

/-- A context of a core: 0 control, 1-10 helpers (R8). -/
structure CtxId where
  core : CoreId
  idx : Nat
  deriving DecidableEq, Repr

/-- A job by its cluster's queue and slot (R238). -/
structure JobRef where
  cl : ClusterId
  slot : Nat
  deriving DecidableEq, Repr

/-- Scopes, narrowest first (R9, Table 3.1). -/
inductive Scope where
  | ctx | core | clu | die | pkg | sys
  deriving DecidableEq, Repr

/-- Order codes of loads, stores and atomics (Table 3.1, codes 0-3 and 7). -/
inductive MemOrd where
  | plain | acq | rel | ar | far
  deriving DecidableEq, Repr

/-- The RND field (Table 2.7): `ctx` is code 0, the context's mode. -/
inductive Rnd where
  | ctx | rne | rtz | rup | rdn | rmm
  deriving DecidableEq, Repr

/-- The format codes of Table 2.1. -/
inductive Fmt where
  | int8 | uint8 | int16 | int32 | int64
  | fp16 | bf16 | fp32 | fp64
  | fp8e4m3 | fp8e5m2 | fp6e2m3 | fp6e3m2 | fp4e2m1
  | mxfp8e4m3 | mxfp8e5m2 | mxfp6e2m3 | mxfp6e3m2 | mxfp4 | mxint8
  | dxb4 | dxb8 | exa
  deriving DecidableEq, Repr

/-- The floating-point formats of the scalar FP instructions (R122). -/
inductive FFmt where
  | fp16 | bf16 | fp32 | fp64
  deriving DecidableEq, Repr

/-- The formats FCVT converts between (R125); the z forms are the unsigned readings. -/
inductive CvtTy where
  | i8 | z8 | i16 | z16 | i32 | z32 | i64 | z64 | f16 | bf16 | f32 | f64
  deriving DecidableEq, Repr

/-- Vector element types (Table 5.1). -/
inductive VTy where
  | i8 | z8 | i16 | z16 | i32 | z32 | f16 | bf16 | f32 | f64
  deriving DecidableEq, Repr

/-- A side of VCVT: an element type, or one of the five small formats held in a lane (R132). -/
inductive LaneFmt where
  | ty (t : VTy)
  | fp8e4m3 | fp8e5m2 | fp6e2m3 | fp6e3m2 | fp4e2m1
  deriving DecidableEq, Repr

/-- The block formats of VQNT and VDQ (R133). -/
inductive BlkFmt where
  | mxfp8e4m3 | mxfp8e5m2 | mxfp6e2m3 | mxfp6e3m2 | mxfp4 | mxint8 | dxb4 | dxb8
  deriving DecidableEq, Repr

/-- A memory operand of F64M (R63). -/
structure MemOp where
  base : XReg
  index : XReg
  scale : Fin 4
  off : BitVec 17
  deriving DecidableEq, Repr

/-- The OP field of AMO (R74). -/
inductive AmoOp where
  | add | and | or | xor | min | max | minz | maxz | swap
  deriving DecidableEq, Repr

/-- The OP field of RED (R227). -/
inductive RedOp where
  | add | and | or | xor | min | max | minz | maxz
  deriving DecidableEq, Repr

/-- The conditions of BCC (R65). -/
inductive BccCond where
  | eq | ne | lt | ge | ltz | gez
  deriving DecidableEq, Repr

/-- The conditions of BMASK (R65). -/
inductive BmaskCond where
  | any | all | none
  deriving DecidableEq, Repr

/-- The conditions of FCMP (R124). -/
inductive FcmpCond where
  | eq | lt | le | un
  deriving DecidableEq, Repr

/-- The forms of FSGN (R127). -/
inductive FsgnOp where
  | cp | neg | xor
  deriving DecidableEq, Repr

/-- The conditions of VCMP (R130). -/
inductive VcmpCond where
  | eq | ne | lt | le | gt | ge | un
  deriving DecidableEq, Repr

/-- The combinations of VRED (R134). -/
inductive VredOp where
  | sum | min | max | and | or | xor
  deriving DecidableEq, Repr

/-- The functions of VSF (R136). -/
inductive VsfFn where
  | exp2 | log2 | exp | rcp | rsqrt | tanh | sigmoid
  deriving DecidableEq, Repr

/-- The source of VBCAST (R137). -/
inductive BcastSrc where
  | x (r : XReg) | f (r : FReg) | lane (r : VReg) (n : Fin 32) | imm (v : BitVec 32)
  deriving DecidableEq, Repr

/-- The shift amount of VSHL and VSHR (R131). -/
inductive VshSrc where
  | reg (r : VReg) | imm (v : BitVec 32)
  deriving DecidableEq, Repr

/-- The form of MESHA (R106). -/
inductive MeshaForm where
  | abs | delta | resolve
  deriving DecidableEq, Repr

/-- The mode of a cluster SRAM bank (R193). -/
inductive BankMode where
  | cache | scratch | fifo
  deriving DecidableEq, Repr

/-- The selectors of XSTAT (Table 15.7). -/
inductive XstatSel where
  | expert | replica | counts | permits | window
  deriving DecidableEq, Repr

/-- The selectors of PNSTAT (Table 15.10). -/
inductive PnstatSel where
  | status | dup | steperr | stray
  deriving DecidableEq, Repr

/-- The source of REDX (R228): an FP32 register, or an EXA value at an address. -/
inductive RedxSrc where
  | f (r : FReg) | exa (r : XReg)
  deriving DecidableEq, Repr

/-- The source and target registers of FCVT: their class follows the format (R125). -/
structure CvtOp where
  dst : CvtTy
  src : CvtTy
  d : Fin 64
  a : Fin 64
  deriving DecidableEq, Repr

/-- Which host sends a request: the owner, or another (R361). -/
inductive HostKind where
  | owner | other
  deriving DecidableEq, Repr

/-- An expert operation that another module asks this Orrery to perform (R316, R370): the instruction's row, its
register operands' values, and the bytes it read (a token, a partial or a record). -/
structure RemoteOp where
  peer : Nat
  tag : Nat
  opc : Nat
  sub : Nat
  part : Nat
  name : Nat
  b : BitVec 64
  sender : Nat
  bytes : List (BitVec 8)
  deriving DecidableEq, Repr

/-- Every step of the machine. The events that concern one numbered unit and carry nothing else have no operand: the
unit is `State.unit`, which the turn sets. (Lean's runtime gives at most 245 constructors operands.) -/
inductive Instr where
  -- system instructions (04 R92-R99)
  | pad32
  | nop
  | rett
  | fence (sc : Scope)
  | exit (a : XReg)
  | trap (imm : BitVec 30)
  | brk (imm : BitVec 30)
  | sysrd (d : XReg) (num : BitVec 30)
  | syswr (a : XReg) (num : BitVec 30)
  | clflagsWrite (a : XReg)
  | sleep (a : XReg) (imm : BitVec 30)
  | sleepExpiry (c : CtxId)
  -- integer register instructions (Table 4.1)
  | add (d a b : XReg)
  | sub (d a b : XReg)
  | mul (d a b : XReg)
  | mulh (d a b : XReg)
  | mulhz (d a b : XReg)
  | div (d a b : XReg)
  | divz (d a b : XReg)
  | rem (d a b : XReg)
  | remz (d a b : XReg)
  | and (d a b : XReg)
  | or (d a b : XReg)
  | xor (d a b : XReg)
  | andn (d a b : XReg)
  | shl (d a b : XReg)
  | shr (d a b : XReg)
  | sha (d a b : XReg)
  | rot (d a b : XReg)
  | slt (d a b : XReg)
  | sltz (d a b : XReg)
  | seq (d a b : XReg)
  | min (d a b : XReg)
  | max (d a b : XReg)
  | minz (d a b : XReg)
  | maxz (d a b : XReg)
  | popc (d a : XReg)
  | clz (d a : XReg)
  | ctz (d a : XReg)
  | bfx (d a : XReg) (pos : Fin 64) (width1 : Fin 64)
  | bfi (d a b : XReg) (pos : Fin 64) (width1 : Fin 64)
  | brev (d a : XReg)
  | sel (d a b c : XReg)
  | rankx (d a b c : XReg)
  -- immediates (Table 4.3), constants, mesh addresses
  | addi (d a : XReg) (imm : BitVec 30)
  | andi (d a : XReg) (imm : BitVec 30)
  | ori (d a : XReg) (imm : BitVec 30)
  | xori (d a : XReg) (imm : BitVec 30)
  | shli (d a : XReg) (n : Fin 64)
  | shri (d a : XReg) (n : Fin 64)
  | shai (d a : XReg) (n : Fin 64)
  | li (d : XReg) (imm : BitVec 30)
  | addpc (d : XReg) (imm : BitVec 30)
  | li64 (d : XReg) (imm : BitVec 64)
  | mesha (form : MeshaForm) (d a b c : XReg) (off : BitVec 22)
  -- branches and jumps (R108, R109)
  | bcc (cond : BccCond) (a b : XReg) (off : BitVec 32)
  | bmask (cond : BmaskCond) (a : XReg) (off : BitVec 32)
  | jal (d : XReg) (imm : BitVec 30)
  | jalr (d a : XReg) (imm : BitVec 30)
  -- basic memory (R110-R115); sz is log2 of the size, sx sign extension
  | ld (d : XReg) (m : MemOp) (sz : Fin 4) (sx : Bool) (ord : MemOrd) (sc : Scope) (la : LaCount)
  | st (src : XReg) (m : MemOp) (sz : Fin 4) (ord : MemOrd) (sc : Scope)
  | ldc (d : XReg) (m : MemOp) (sz : Fin 4) (sx : Bool) (la : LaCount)
  | pfl (m : MemOp)
  | longLatencyComplete (c : CtxId)
  -- helpers (R171, R172)
  | start (d a : XReg) (imm : BitVec 30)
  | startW (d a : XReg) (imm : BitVec 30)
  | joinh (d a : XReg)
  | hstat (d : XReg)
  -- full/empty words (R173, R174)
  | ldf (d : XReg) (m : MemOp) (la : LaCount)
  | ldff (d : XReg) (m : MemOp) (la : LaCount)
  | ste (src : XReg) (m : MemOp)
  | stf (src : XReg) (m : MemOp)
  | festat (d : XReg) (m : MemOp)
  | feset (src : XReg) (m : MemOp)
  -- barriers (Table 7.4)
  | barinitInit (d : BSlot) (a b : XReg)
  | barinitBind (d : BSlot) (a : XReg)
  | bararr (d : XReg) (a : BSlot)
  | barexp (a : BSlot) (b : XReg)
  | barwait (d : XReg) (a : BSlot)
  | waitany (d a : XReg)
  | bartest (d : XReg) (a : BSlot)
  -- messages and streams (R182-R186)
  | msend (a b c : XReg)
  | sendBufferRetry (k : CoreId) (n : Nat)
  | mailboxDelivery (k : CoreId) (n : Nat)
  | mrecv (d a : XReg) (la : LaCount)
  | msends (a b c : XReg)
  | streamChunkArrival (k : CoreId)
  | endOfStream (k : CoreId)
  | mbind (d : XReg) (b : StreamIx) (a : XReg) (hi : Bool) (imm : BitVec 48)
  | munbind (a : XReg)
  -- conversations (Table 7.7)
  | cvopen (d a : XReg)
  | cvjoin (d : CvReg) (a b : XReg) (hi : Bool)
  | cvsend (d : CvReg) (c a b : XReg)
  | cvchoose (d : CvReg) (c a b : XReg)
  | convHeldDelivery (conv : Nat) (n : Nat)
  | cvdeleg (a : CvReg) (b : XReg)
  | cvleave (a : CvReg)
  | cvstat (d : XReg) (a : CvReg)
  -- scalar floating point (Table 5.2)
  | fadd (t : FFmt) (rnd : Rnd) (d a b : FReg)
  | fsub (t : FFmt) (rnd : Rnd) (d a b : FReg)
  | fmul (t : FFmt) (rnd : Rnd) (d a b : FReg)
  | ffma (t : FFmt) (rnd : Rnd) (d a b c : FReg)
  | fdiv (t : FFmt) (rnd : Rnd) (d a b : FReg)
  | fsqrt (t : FFmt) (rnd : Rnd) (d a : FReg)
  | fmin (t : FFmt) (d a b : FReg)
  | fmax (t : FFmt) (d a b : FReg)
  | fcmp (cond : FcmpCond) (t : FFmt) (d : XReg) (a b : FReg)
  | fcvt (o : CvtOp) (rnd : Rnd)
  | fclass (t : FFmt) (d : XReg) (a : FReg)
  | fsgn (op : FsgnOp) (t : FFmt) (d a b : FReg)
  | fmvx (d : XReg) (a : FReg)
  | fmvf (d : FReg) (a : XReg)
  -- vector arithmetic (Table 5.3); m is the mask register
  | vadd (t : VTy) (sat : Bool) (rnd : Rnd) (d a b : VReg) (m : XReg)
  | vsub (t : VTy) (sat : Bool) (rnd : Rnd) (d a b : VReg) (m : XReg)
  | vmul (t : VTy) (sat : Bool) (rnd : Rnd) (d a b : VReg) (m : XReg)
  | vfma (t : VTy) (rnd : Rnd) (d a b c : VReg) (m : XReg)
  | vmin (t : VTy) (d a b : VReg) (m : XReg)
  | vmax (t : VTy) (d a b : VReg) (m : XReg)
  | vcmp (cond : VcmpCond) (t : VTy) (d : XReg) (a b : VReg) (m : XReg)
  | vsel (t : VTy) (d a b : VReg) (m : XReg)
  | vand (t : VTy) (d a b : VReg) (m : XReg)
  | vor (t : VTy) (d a b : VReg) (m : XReg)
  | vxor (t : VTy) (d a b : VReg) (m : XReg)
  | vshl (t : VTy) (d a : VReg) (s : VshSrc) (m : XReg)
  | vshr (t : VTy) (d a : VReg) (s : VshSrc) (m : XReg)
  | vcvt (dst src : LaneFmt) (half : Bool) (rnd : Rnd) (d a : VReg) (m : XReg)
  | vqnt (t : BlkFmt) (rnd : Rnd) (d a : VReg) (c : XReg) (m : XReg)
  | vdq (t : BlkFmt) (rnd : Rnd) (d a : VReg) (c : XReg) (m : XReg)
  | vred (op : VredOp) (t : VTy) (rnd : Rnd) (d : Fin 64) (a : VReg) (m : XReg)
  | vscan (excl : Bool) (t : VTy) (rnd : Rnd) (d a : VReg) (m : XReg)
  | vsf (fn : VsfFn) (rnd : Rnd) (d a : VReg) (m : XReg)
  | vperm (t : VTy) (d a b : VReg) (m : XReg)
  | vbcast (t : VTy) (src : BcastSrc) (d : VReg) (m : XReg)
  | vins (t : VTy) (d : VReg) (a : XReg) (n : Fin 32)
  | vext (t : VTy) (d : XReg) (a : VReg) (n : Fin 32)
  -- vector memory (Table 5.4)
  | vld (t : VTy) (rnd : Rnd) (d : VReg) (a : XReg) (off : BitVec 32) (m : XReg) (la : LaCount)
  | vst (t : VTy) (rnd : Rnd) (src : VReg) (a : XReg) (off : BitVec 32) (m : XReg)
  | vlds (t : VTy) (rnd : Rnd) (d : VReg) (a b : XReg) (off : BitVec 32) (m : XReg) (la : LaCount)
  | vsts (t : VTy) (rnd : Rnd) (src : VReg) (a b : XReg) (off : BitVec 32) (m : XReg)
  | vgath (t : VTy) (rnd : Rnd) (d : VReg) (a : XReg) (b : VReg) (scale : Fin 4) (off : BitVec 32) (m : XReg)
      (la : LaCount)
  | vscat (t : VTy) (rnd : Rnd) (src : VReg) (a : XReg) (b : VReg) (scale : Fin 4) (off : BitVec 32) (m : XReg)
  | vectorCommandComplete (c : CtxId)
  | vfence
  | vstat (d : XReg)
  -- streams (R145-R149)
  | scfgMem (t : VTy) (d : StreamIx) (a b : XReg)
  | scfgMsg (t : VTy) (d : StreamIx) (b : XReg)
  | memoryStreamRead (c : CtxId) (j : StreamIx)
  | srep (d : XReg) (n : Fin 65) (mask : BitVec 8)
  | sstop (d : StreamIx)
  -- atomics, reductions, cache control (R224-R232)
  | amo (op : AmoOp) (d b a : XReg) (wide : Bool) (sx : Bool) (ord : MemOrd) (sc : Scope) (off : BitVec 64)
      (la : LaCount)
  | cas (d b a : XReg) (wide : Bool) (sx : Bool) (ord : MemOrd) (sc : Scope) (off : BitVec 64) (la : LaCount)
  | red (op : RedOp) (b a : XReg) (wide : Bool) (ord : MemOrd) (sc : Scope) (off : BitVec 64)
  | redx (src : RedxSrc) (a : XReg) (ord : MemOrd) (sc : Scope) (off : BitVec 64)
  | cvtexa (rnd : Rnd) (d : FReg) (a : XReg)
  | bankcfg (mode : BankMode) (d a : XReg)
  | bankZeroingDone (cl : ClusterId) (bank : Fin 16)
  | cinv (m : MemOp)
  | cinvAll
  | disc (m : MemOp)
  | cacheFill (cl : ClusterId) (bank : Fin 16)
  | pageWalk (part : Nat) (va : BitVec 64)
  -- jobs (R307-R309)
  | cpjob (d a : XReg) (la : LaCount)
  | mxjob (d a : XReg) (la : LaCount)
  | rtjob (d a : XReg) (la : LaCount)
  | drjob (d a : XReg) (la : LaCount)
  | mgjob (d a : XReg) (la : LaCount)
  | jwait (d a : XReg)
  | jpoll (d a : XReg)
  | jcancel (d a : XReg)
  | copy (j : JobRef)
  | gather (j : JobRef)
  | scatter (j : JobRef)
  | fill (j : JobRef)
  | copyChunkDelivery (j : JobRef)
  | routingJob (j : JobRef)
  | routingToken (j : JobRef)
  | rcopy (j : JobRef)
  | rfill0 (j : JobRef)
  | rfill1 (j : JobRef)
  | rnot (j : JobRef)
  | rand (j : JobRef)
  | ror (j : JobRef)
  | rxor (j : JobRef)
  | rmaj (j : JobRef)
  | dramRow (j : JobRef)
  | demote (j : JobRef)
  | promote (j : JobRef)
  | expand (j : JobRef)
  | migrationPage (j : JobRef) (slots : Nat)
  | jobComplete (j : JobRef)
  -- routing table, matrix engine (R310-R315)
  | shpset (d a : XReg) (entry : Fin 64)
  | jtake (d : XReg)
  | jdone (a : XReg)
  | mlda (h : Bool) (a b : XReg) (row0 : Fin 64) (rows : BitVec 7) (klen : BitVec 8) (la : LaCount)
  | mldb (k : Bool) (a b : XReg) (klen : BitVec 8) (nlen : BitVec 9) (la : LaCount)
  | mzero (d : AReg) (m1 : Fin 64)
  | mma (d : AReg) (h k : Bool) (m1 : Fin 64) (la : LaCount)
  | msta (d : AReg) (a b : XReg) (m1 : Fin 64) (n : BitVec 9)
  | semv (s : SemReg)
  | semp (s : SemReg)
  | mprogRd (d : XReg)
  | mprogWr (a : XReg)
  -- counters and queue pairs (R324, R325)
  | ctrset (a b : XReg)
  | ctradd (d a b : XReg)
  | ctrwait (d a b : XReg)
  | qppost (d a b : XReg)
  | qpcancel (d a b : XReg)
  -- experts (Table 15.5)
  | xreg (d a : XReg)
  | xpol (d a b : XReg)
  | xresv (d a b c : XReg)
  | xrel (d a : XReg)
  | xsend (d a b c : XReg) (len : BitVec 8)
  | xsendr (d a b c : XReg) (len : BitVec 8)
  | xbatchFwd (d a b c : XReg)
  | xbatchBwd (d a b c : XReg)
  | xbatchReload (d a : XReg)
  | weightReloadDone (name : Nat) (r : Fin 16)
  | xseal (d a : XReg)
  | xjoin (d a b : XReg)
  | xstep (d a : XReg)
  | xstat (sel : XstatSel) (d a b : XReg)
  | xspawn (d a b : XReg)
  | xretire (d a b : XReg)
  | replicaPublish (name : Nat) (r : Fin 16)
  | snapshotArrival (die : Nat) (name : Nat)
  | remoteExpertOp (op : RemoteOp)
  -- parameter nodes (Table 15.10)
  | pnrule (d a b : XReg)
  | pnsend (a b c : XReg) (count : BitVec 9)
  | pnstep (d a b c : XReg)
  | pnstat (sel : PnstatSel) (d a : XReg)
  | pnRuleChunk (node : Fin 8) (fuel : Nat)
  | pnBlockDone (node : Fin 8) (block : Nat)
  -- pre-emption, faults, module (18, 20)
  | preq (d a : XReg)
  | preqCtr (d a b : XReg)
  | resume (d a : XReg)
  | resumeCtr (d a b : XReg)
  | faultDetected (p : Fin 16) (unit : BitVec 8) (loc : BitVec 32) (addr : BitVec 64)
  | faultMasked (p : Fin 16) (unit : BitVec 8) (loc : BitVec 32) (addr : BitVec 64)
  | sharedUnitFault (parts : BitVec 16) (unit : BitVec 8) (loc : BitVec 32) (addr : BitVec 64)
  | portLinkChange (port : Fin 16) (up : Bool)
  | completionNodeForward (launch : Nat) (path : List Nat)
  | rmaWrite (host : HostKind) (addr : BitVec 64) (bytes : List (BitVec 8))
  | rmaRead (host : HostKind) (addr : BitVec 64) (len : Nat)
  | rmaAtomic (host : HostKind) (addr : BitVec 64) (op : AmoOp) (wide : Bool) (v : BitVec 64)
  | claim (req : List (BitVec 8))
  | handover (req : List (BitVec 8))
  | heartbeat (req : List (BitVec 8))
  | attestationRequest (challenge : List (BitVec 8))
  -- events of a numbered unit (State.unit): a queue, a partition, a die, a home core, a node, a queue pair, a leaf,
  -- a cluster, a link, an expert, a delivery
  -- work queues: unit is the queue (20 R362-R366)
  | workQueueTail
  | launch
  | copyEntry
  | weave
  | xregEntry
  | preempt
  | resumeEntry
  | reset
  | partcfg
  | peers
  | names
  | completionRecordPost
  -- partitions (18)
  | haltComplete
  | saveComplete
  | restoreComplete
  | dumpComplete
  -- dies (20)
  | thermalAlarm
  | thermalShutdown
  | freeCountReport
  -- home cores (08 R203, R204; 18 R347)
  | homeCoreSchedule
  | dueRefresh
  | patrolScrub
  -- parameter nodes (13)
  | pnContribution
  | pnCommit
  | pnStepDeadline
  -- queue pairs (11 R251-R254)
  | qpSourceReadsDone
  | write
  | writeReduce
  -- experts (13): unit is the position of the delivery, or the expert
  | tokenDelivery
  | windowBoundary
  -- a leaf (06 R165)
  | deadlineExpiry
  -- a cluster by its linear number
  | clflagsUpdate
  | mstaStoresPerformed
  | matrixJobStart
  -- a die link (20 R355)
  | dieLinkFailure
  -- the module (18, 20)
  | managementCoreFault
  | unreliablePacketDrop
  | moduleReset
  | leaseLapse
  deriving DecidableEq, Repr

end Sys2Proof
end

