-- ==== Sys2Proof/WellFormed.lean ====
section
/-!
DEFINITION. Which instructions the encoding admits: the conditions over fields that raise ILLEGAL with the subcode
RESERVED and that the types of the operands do not already exclude (03 R60-R72; 04, 05, 07, 09, 12, 15: the reference
entries). Events have no encoding and are well-formed whenever their operands exist.
-/
namespace Sys2Proof

/-- Table 1.1: the numbers of the system registers. -/
def sysRegKnown (n : Nat) : Bool :=
  n ≤ 5 || (0x10 ≤ n && n ≤ 0x13) || n = 0x18 || n = 0x19 || n = 0x20 || n = 0x21 || (0x28 ≤ n && n ≤ 0x37) ||
    (0x40 ≤ n && n ≤ 0x44)

/-- The type class F of R119. -/
def VTy.isF : VTy → Bool
  | .f16 | .bf16 | .f32 | .f64 => true
  | .i8 | .z8 | .i16 | .z16 | .i32 | .z32 => false

/-- The type class I of R119. -/
def VTy.isI (t : VTy) : Bool := !t.isF

/-- The type class W of R119. -/
def VTy.isW : VTy → Bool
  | .i32 | .z32 | .f32 => true
  | .i8 | .z8 | .i16 | .z16 | .f16 | .bf16 | .f64 => false

/-- R125: a floating-point format of FCVT, held in an f register. -/
def CvtTy.isFloat : CvtTy → Bool
  | .f16 | .bf16 | .f32 | .f64 => true
  | .i8 | .z8 | .i16 | .z16 | .i32 | .z32 | .i64 | .z64 => false

/-- R132: the side of VCVT whose elements take lane pairs. -/
def LaneFmt.isF64 : LaneFmt → Bool
  | .ty .f64 => true
  | _ => false

/-- R63: SCALE must be 0 when INDEX is 0. -/
def MemOp.wf (m : MemOp) : Bool := m.index ≠ 0 || m.scale = 0

/-- R64: a plain access carries SCOPE 0. -/
def ordScopeWf (o : MemOrd) (sc : Scope) : Bool := o ≠ .plain || sc = .ctx

/-- Table 3.1: .sx is legal on loads of 1, 2 or 4 bytes. -/
def loadSizeWf (sz : Fin 4) (sx : Bool) : Bool := !sx || sz ≠ 3

/-- R102: the field lies inside the register. -/
def fieldWf (pos width1 : Fin 64) : Bool := pos.val + width1.val < 64

/-- R121: RND is used only with a floating-point element type. -/
def rndWf (t : VTy) (r : Rnd) : Bool := t.isF || r = .ctx

/-- R268: the accumulators d to d + m1 exist. -/
def accWf (d : AReg) (m1 : Fin 64) : Bool := d.val + m1.val < 64

/-- The encoding conditions of an instruction's entry. -/
def WellFormed (i : Instr) : Bool :=
  match i with
  | .sysrd _ num => sysRegKnown num.toNat
  | .syswr _ num => sysRegKnown num.toNat && num ≠ 0x012
  | .bfx _ _ pos w | .bfi _ _ _ pos w => fieldWf pos w
  | .ld _ m sz sx ord sc _ => m.wf && loadSizeWf sz sx && (ord = .plain || ord = .acq) && ordScopeWf ord sc
  | .st _ m _ ord sc => m.wf && (ord = .plain || ord = .rel) && ordScopeWf ord sc
  | .ldc _ m sz sx _ => m.wf && loadSizeWf sz sx
  | .pfl m | .ldf _ m _ | .ldff _ m _ | .ste _ m | .stf _ m | .festat _ m | .feset _ m | .cinv m | .disc m => m.wf
  | .mbind _ _ _ _ imm => imm.toNat % 4 = 0
  | .fcvt o _ => (!o.dst.isFloat || o.d.val < 32) && (!o.src.isFloat || o.a.val < 32)
  | .vadd t sat r _ _ _ _ | .vsub t sat r _ _ _ _ | .vmul t sat r _ _ _ _ => (!sat || t.isI) && rndWf t r
  | .vfma t _ _ _ _ _ _ => t.isF
  | .vcmp c t _ _ _ _ => c ≠ .un || t.isF
  | .vsel t _ _ _ _ | .vand t _ _ _ _ | .vor t _ _ _ _ | .vxor t _ _ _ _ | .vperm t _ _ _ _ | .vbcast t _ _ _
  | .vins t _ _ _ | .vext t _ _ _ => t.isW
  | .vshl t _ _ _ _ | .vshr t _ _ _ _ => t.isI
  | .vcvt dst src half _ _ _ _ => !half || dst.isF64 ≠ src.isF64
  | .vred op t r d _ _ =>
    (t.isI || op = .sum || op = .min || op = .max) && (r = .ctx || (t.isF && op = .sum)) && (t.isI || d.val < 32)
  | .vscan _ t r _ _ _ => rndWf t r
  | .scfgMem t _ _ _ | .scfgMsg t _ _ => t ≠ .f64
  | .srep _ n _ => n ≠ 0
  | .amo _ _ _ _ wide sx ord sc _ _ | .cas _ _ _ wide sx ord sc _ _ => (!sx || !wide) && ordScopeWf ord sc
  | .red _ _ _ _ ord sc _ | .redx _ _ ord sc _ => ordScopeWf ord sc
  | .mlda _ _ _ row0 rows klen _ =>
    1 ≤ rows.toNat && rows.toNat ≤ 64 && row0.val + rows.toNat ≤ 64 && 1 ≤ klen.toNat && klen.toNat ≤ 128
  | .mldb _ _ _ klen nlen _ => 1 ≤ klen.toNat && klen.toNat ≤ 128 && 1 ≤ nlen.toNat && nlen.toNat ≤ 256
  | .mzero d m1 | .mma d _ _ m1 _ => accWf d m1
  | .msta d _ _ m1 n => accWf d m1 && 1 ≤ n.toNat && n.toNat ≤ 256
  | .xsend _ _ _ _ len | .xsendr _ _ _ _ len => 1 ≤ len.toNat && len.toNat ≤ 248
  | .pnsend _ _ _ count => 1 ≤ count.toNat && count.toNat ≤ 256
  | _ => true

end Sys2Proof
end

