-- ==== Sys2Proof/Decode.lean ====
section
/-!
DEFINITION. The decoder and the encoder (03 R55-R77, Tables 3.1-3.4). A word is a natural number: the instruction's
bits, bit 0 the least significant bit of its first 32-bit word. `candidate` reads the sub-function and the operands
of an opcode; a word is then accepted exactly when it is the word `encode` gives for that instruction and the
instruction is well-formed, so that every nonzero unused field, reserved code and reserved register number (R60, R64,
R69, R70) is refused as RESERVED.
-/
namespace Sys2Proof

/-- Field hi:lo of a word, given by its low bit and its width. -/
def fld (w lo n : Nat) : Nat := w / 2 ^ lo % 2 ^ n

/-- One bit of a word. -/
def bit (w lo : Nat) : Bool := fld w lo 1 = 1

-- Field codes

/-- Table 3.1, SCOPE. -/
def Scope.code : Scope → Nat
  | .ctx => 0 | .core => 1 | .clu => 2 | .die => 3 | .pkg => 4 | .sys => 5
/-- The scope of a code; a reserved code gives `ctx`, which does not encode to it. -/
def Scope.ofCode : Nat → Scope
  | 1 => .core | 2 => .clu | 3 => .die | 4 => .pkg | 5 => .sys | _ => .ctx

/-- Table 3.1, ORD. -/
def MemOrd.code : MemOrd → Nat
  | .plain => 0 | .acq => 1 | .rel => 2 | .ar => 3 | .far => 7
/-- The order of a code. -/
def MemOrd.ofCode : Nat → MemOrd
  | 1 => .acq | 2 => .rel | 3 => .ar | 7 => .far | _ => .plain

/-- Table 2.7, the RND field. -/
def Rnd.code : Rnd → Nat
  | .ctx => 0 | .rne => 1 | .rtz => 2 | .rup => 3 | .rdn => 4 | .rmm => 5
/-- The rounding selection of a code. -/
def Rnd.ofCode : Nat → Rnd
  | 1 => .rne | 2 => .rtz | 3 => .rup | 4 => .rdn | 5 => .rmm | _ => .ctx

/-- Table 2.1. -/
def Fmt.code : Fmt → Nat
  | .int8 => 0x01 | .uint8 => 0x02 | .int16 => 0x03 | .int32 => 0x04 | .int64 => 0x05
  | .fp16 => 0x08 | .bf16 => 0x09 | .fp32 => 0x0A | .fp64 => 0x0B
  | .fp8e4m3 => 0x10 | .fp8e5m2 => 0x11 | .fp6e2m3 => 0x12 | .fp6e3m2 => 0x13 | .fp4e2m1 => 0x14
  | .mxfp8e4m3 => 0x18 | .mxfp8e5m2 => 0x19 | .mxfp6e2m3 => 0x1A | .mxfp6e3m2 => 0x1B | .mxfp4 => 0x1C
  | .mxint8 => 0x1D | .dxb4 => 0x20 | .dxb8 => 0x21 | .exa => 0x30

/-- The format of a code of Table 2.1, or none for a reserved code (R33). -/
def Fmt.ofCode? : Nat → Option Fmt
  | 0x01 => some .int8 | 0x02 => some .uint8 | 0x03 => some .int16 | 0x04 => some .int32 | 0x05 => some .int64
  | 0x08 => some .fp16 | 0x09 => some .bf16 | 0x0A => some .fp32 | 0x0B => some .fp64
  | 0x10 => some .fp8e4m3 | 0x11 => some .fp8e5m2 | 0x12 => some .fp6e2m3 | 0x13 => some .fp6e3m2
  | 0x14 => some .fp4e2m1
  | 0x18 => some .mxfp8e4m3 | 0x19 => some .mxfp8e5m2 | 0x1A => some .mxfp6e2m3 | 0x1B => some .mxfp6e3m2
  | 0x1C => some .mxfp4 | 0x1D => some .mxint8 | 0x20 => some .dxb4 | 0x21 => some .dxb8 | 0x30 => some .exa
  | _ => none

/-- R122: the FMT of a scalar FP instruction. -/
def FFmt.code : FFmt → Nat
  | .fp16 => 0x08 | .bf16 => 0x09 | .fp32 => 0x0A | .fp64 => 0x0B
/-- The scalar FP format of a code. -/
def FFmt.ofCode : Nat → FFmt
  | 0x09 => .bf16 | 0x0A => .fp32 | 0x0B => .fp64 | _ => .fp16

/-- R125: FMT of a side of FCVT, with 64 added for an unsigned reading (TU or SU). -/
def CvtTy.code : CvtTy → Nat
  | .i8 => 0x01 | .z8 => 0x02 | .i16 => 0x03 | .z16 => 0x43 | .i32 => 0x04 | .z32 => 0x44 | .i64 => 0x05
  | .z64 => 0x45 | .f16 => 0x08 | .bf16 => 0x09 | .f32 => 0x0A | .f64 => 0x0B
/-- The side of FCVT of a code. -/
def CvtTy.ofCode : Nat → CvtTy
  | 0x02 => .z8 | 0x03 => .i16 | 0x43 => .z16 | 0x04 => .i32 | 0x44 => .z32 | 0x05 => .i64 | 0x45 => .z64
  | 0x08 => .f16 | 0x09 => .bf16 | 0x0A => .f32 | 0x0B => .f64 | _ => .i8

/-- Table 5.1: FMT of an element type, with 64 added where U is 1. -/
def VTy.code : VTy → Nat
  | .i8 => 0x01 | .z8 => 0x02 | .i16 => 0x03 | .z16 => 0x43 | .i32 => 0x04 | .z32 => 0x44
  | .f16 => 0x08 | .bf16 => 0x09 | .f32 => 0x0A | .f64 => 0x0B
/-- The element type of a code. -/
def VTy.ofCode : Nat → VTy
  | 0x02 => .z8 | 0x03 => .i16 | 0x43 => .z16 | 0x04 => .i32 | 0x44 => .z32
  | 0x08 => .f16 | 0x09 => .bf16 | 0x0A => .f32 | 0x0B => .f64 | _ => .i8

/-- R132: FMT (and U) of a side of VCVT. -/
def LaneFmt.code : LaneFmt → Nat
  | .ty t => t.code
  | .fp8e4m3 => 0x10 | .fp8e5m2 => 0x11 | .fp6e2m3 => 0x12 | .fp6e3m2 => 0x13 | .fp4e2m1 => 0x14
/-- The side of VCVT of a code. -/
def LaneFmt.ofCode : Nat → LaneFmt
  | 0x10 => .fp8e4m3 | 0x11 => .fp8e5m2 | 0x12 => .fp6e2m3 | 0x13 => .fp6e3m2 | 0x14 => .fp4e2m1
  | n => .ty (VTy.ofCode n)

/-- R133: the block format of VQNT and VDQ. -/
def BlkFmt.code : BlkFmt → Nat
  | .mxfp8e4m3 => 0x18 | .mxfp8e5m2 => 0x19 | .mxfp6e2m3 => 0x1A | .mxfp6e3m2 => 0x1B | .mxfp4 => 0x1C
  | .mxint8 => 0x1D | .dxb4 => 0x20 | .dxb8 => 0x21
/-- The block format of a code. -/
def BlkFmt.ofCode : Nat → BlkFmt
  | 0x19 => .mxfp8e5m2 | 0x1A => .mxfp6e2m3 | 0x1B => .mxfp6e3m2 | 0x1C => .mxfp4 | 0x1D => .mxint8
  | 0x20 => .dxb4 | 0x21 => .dxb8 | _ => .mxfp8e4m3

/-- R74: the OP field of AMO. -/
def AmoOp.code : AmoOp → Nat
  | .add => 0 | .and => 1 | .or => 2 | .xor => 3 | .min => 4 | .max => 5 | .minz => 6 | .maxz => 7 | .swap => 8
/-- The operation of a code, if it is assigned. -/
def AmoOp.ofCode? : Nat → Option AmoOp
  | 0 => some .add | 1 => some .and | 2 => some .or | 3 => some .xor | 4 => some .min | 5 => some .max
  | 6 => some .minz | 7 => some .maxz | 8 => some .swap | _ => none

/-- R227: the OP field of RED. -/
def RedOp.code : RedOp → Nat
  | .add => 0 | .and => 1 | .or => 2 | .xor => 3 | .min => 4 | .max => 5 | .minz => 6 | .maxz => 7
/-- The operation of a code, if it is assigned. -/
def RedOp.ofCode? : Nat → Option RedOp
  | 0 => some .add | 1 => some .and | 2 => some .or | 3 => some .xor | 4 => some .min | 5 => some .max
  | 6 => some .minz | 7 => some .maxz | _ => none

/-- R65: COND of BCC. -/
def BccCond.code : BccCond → Nat
  | .eq => 0 | .ne => 1 | .lt => 2 | .ge => 3 | .ltz => 4 | .gez => 5
/-- The condition of a code, if it is assigned. -/
def BccCond.ofCode? : Nat → Option BccCond
  | 0 => some .eq | 1 => some .ne | 2 => some .lt | 3 => some .ge | 4 => some .ltz | 5 => some .gez | _ => none

/-- R65: COND of BMASK. -/
def BmaskCond.code : BmaskCond → Nat
  | .any => 0 | .all => 1 | .none => 2
/-- The condition of a code, if it is assigned. -/
def BmaskCond.ofCode? : Nat → Option BmaskCond
  | 0 => some .any | 1 => some .all | 2 => some .none | _ => Option.none

/-- R124: SUB of FCMP. -/
def FcmpCond.code : FcmpCond → Nat
  | .eq => 0 | .lt => 1 | .le => 2 | .un => 3
/-- The condition of a code. -/
def FcmpCond.ofCode : Nat → FcmpCond
  | 1 => .lt | 2 => .le | 3 => .un | _ => .eq

/-- R127: SUB of FSGN. -/
def FsgnOp.code : FsgnOp → Nat
  | .cp => 0 | .neg => 1 | .xor => 2
/-- The form of a code, if it is assigned. -/
def FsgnOp.ofCode? : Nat → Option FsgnOp
  | 0 => some .cp | 1 => some .neg | 2 => some .xor | _ => none

/-- Table 5.3: VFN of VCMP. -/
def VcmpCond.code : VcmpCond → Nat
  | .eq => 0 | .ne => 1 | .lt => 2 | .le => 3 | .gt => 4 | .ge => 5 | .un => 6
/-- The condition of a code, if it is assigned. -/
def VcmpCond.ofCode? : Nat → Option VcmpCond
  | 0 => some .eq | 1 => some .ne | 2 => some .lt | 3 => some .le | 4 => some .gt | 5 => some .ge | 6 => some .un
  | _ => none

/-- Table 5.3: VFN of VRED. -/
def VredOp.code : VredOp → Nat
  | .sum => 0 | .min => 1 | .max => 2 | .and => 3 | .or => 4 | .xor => 5
/-- The combination of a code, if it is assigned. -/
def VredOp.ofCode? : Nat → Option VredOp
  | 0 => some .sum | 1 => some .min | 2 => some .max | 3 => some .and | 4 => some .or | 5 => some .xor | _ => none

/-- Table 5.3: VFN of VSF. -/
def VsfFn.code : VsfFn → Nat
  | .exp2 => 0 | .log2 => 1 | .exp => 2 | .rcp => 3 | .rsqrt => 4 | .tanh => 5 | .sigmoid => 6
/-- The function of a code, if it is assigned. -/
def VsfFn.ofCode? : Nat → Option VsfFn
  | 0 => some .exp2 | 1 => some .log2 | 2 => some .exp | 3 => some .rcp | 4 => some .rsqrt | 5 => some .tanh
  | 6 => some .sigmoid | _ => none

/-- R107: EFN of MESHA. -/
def MeshaForm.code : MeshaForm → Nat
  | .abs => 0 | .delta => 1 | .resolve => 2
/-- The form of a code, if it is assigned. -/
def MeshaForm.ofCode? : Nat → Option MeshaForm
  | 0 => some .abs | 1 => some .delta | 2 => some .resolve | _ => none

/-- R230: FN of BANKCFG. -/
def BankMode.code : BankMode → Nat
  | .cache => 0 | .scratch => 1 | .fifo => 2
/-- The mode of a code, if it is assigned. -/
def BankMode.ofCode? : Nat → Option BankMode
  | 0 => some .cache | 1 => some .scratch | 2 => some .fifo | _ => none

/-- Table 15.7: FN of XSTAT. -/
def XstatSel.code : XstatSel → Nat
  | .expert => 0 | .replica => 1 | .counts => 2 | .permits => 3 | .window => 4
/-- The selector of a code, if it is assigned. -/
def XstatSel.ofCode? : Nat → Option XstatSel
  | 0 => some .expert | 1 => some .replica | 2 => some .counts | 3 => some .permits | 4 => some .window | _ => none

/-- Table 15.10: FN of PNSTAT. -/
def PnstatSel.code : PnstatSel → Nat
  | .status => 0 | .dup => 1 | .steperr => 2 | .stray => 3
/-- The selector of a code, if it is assigned. -/
def PnstatSel.ofCode? : Nat → Option PnstatSel
  | 0 => some .status | 1 => some .dup | 2 => some .steperr | 3 => some .stray | _ => none

-- Formats

/-- F64R (R61). -/
def encR (opc : Nat) (d a b c fn : Nat) (la : Nat := 0) : Nat :=
  1 + opc * 2 ^ 2 + la * 2 ^ 10 + d * 2 ^ 16 + a * 2 ^ 22 + b * 2 ^ 28 + c * 2 ^ 34 + fn * 2 ^ 40

/-- F64I (R62). -/
def encI (opc : Nat) (d a fn6 imm : Nat) : Nat :=
  1 + opc * 2 ^ 2 + d * 2 ^ 16 + a * 2 ^ 22 + fn6 * 2 ^ 28 + imm * 2 ^ 34

/-- F64M (R63). -/
def encM (opc : Nat) (d : Nat) (m : MemOp) (size ord sc : Nat) (la : Nat := 0) : Nat :=
  1 + opc * 2 ^ 2 + la * 2 ^ 10 + d * 2 ^ 16 + m.base.val * 2 ^ 22 + m.index.val * 2 ^ 28 + size * 2 ^ 34 +
    ord * 2 ^ 38 + sc * 2 ^ 42 + m.scale.val * 2 ^ 45 + m.off.toNat * 2 ^ 47

/-- F64B (R65). -/
def encB (opc : Nat) (a b cond off : Nat) : Nat :=
  1 + opc * 2 ^ 2 + a * 2 ^ 16 + b * 2 ^ 22 + cond * 2 ^ 28 + off * 2 ^ 32

/-- F96V (R66); `ty` is FMT with 64 added where U is 1. -/
def encV (opc : Nat) (d a b c mask ty rnd vfn imm : Nat) (la : Nat := 0) : Nat :=
  2 + opc * 2 ^ 2 + la * 2 ^ 10 + d * 2 ^ 16 + a * 2 ^ 22 + b * 2 ^ 28 + c * 2 ^ 34 + mask * 2 ^ 40 +
    ty % 64 * 2 ^ 46 + rnd * 2 ^ 52 + vfn * 2 ^ 56 + ty / 64 * 2 ^ 63 + imm * 2 ^ 64

/-- F96J (R67). -/
def encJ (opc : Nat) (d a b c efn imm : Nat) (la : Nat := 0) : Nat :=
  2 + opc * 2 ^ 2 + la * 2 ^ 10 + d * 2 ^ 16 + a * 2 ^ 22 + b * 2 ^ 28 + c * 2 ^ 34 + efn * 2 ^ 40 + imm * 2 ^ 48

/-- F128K in its memory form (R68). -/
def encK (opc : Nat) (d a b size ord sc op fmt imm : Nat) (la : Nat := 0) : Nat :=
  3 + opc * 2 ^ 2 + la * 2 ^ 10 + d * 2 ^ 16 + a * 2 ^ 22 + b * 2 ^ 28 + size * 2 ^ 34 + ord * 2 ^ 38 + sc * 2 ^ 42 +
    op * 2 ^ 47 + fmt * 2 ^ 51 + imm * 2 ^ 64

/-- The scalar FP division of FN (R122): FMT 5:0, RND 9:6, SUB 11:10. -/
def fpFn (t : Nat) (rnd sub : Nat) : Nat := t + rnd * 2 ^ 6 + sub * 2 ^ 10

/-- SIZE of a load or store (Table 3.1). -/
def sizeCode (sz : Fin 4) (sx : Bool) : Nat := sz.val + 4 * sx.toNat

/-- SIZE of AMO, CAS and RED (R224): 2 or 3, with bit 2 for .sx. -/
def amoSize (wide sx : Bool) : Nat := 2 + wide.toNat + 4 * sx.toNat

/-- The word of an instruction (R55-R68 and the reference entries); 0 for an event, which has none. -/
def encode (i : Instr) : Nat :=
  match i with
  | .pad32 => 4
  | .nop => encR 0x00 0 0 0 0 0
  | .rett => encR 0x01 0 0 0 0 0
  | .fence sc => encR 0x02 0 0 0 0 sc.code
  | .exit a => encR 0x03 0 a.val 0 0 0
  | .trap imm => encI 0x04 0 0 0 imm.toNat
  | .brk imm => encI 0x05 0 0 0 imm.toNat
  | .sysrd d num => encI 0x06 d.val 0 0 num.toNat
  | .syswr a num => encI 0x07 0 a.val 0 num.toNat
  | .clflagsWrite a => encI 0x07 0 a.val 0 0x012
  | .sleep a imm => encI 0x08 0 a.val 0 imm.toNat
  | .add d a b => encR 0x10 d.val a.val b.val 0 0
  | .sub d a b => encR 0x11 d.val a.val b.val 0 0
  | .mul d a b => encR 0x12 d.val a.val b.val 0 0
  | .mulh d a b => encR 0x13 d.val a.val b.val 0 0
  | .mulhz d a b => encR 0x14 d.val a.val b.val 0 0
  | .div d a b => encR 0x15 d.val a.val b.val 0 0
  | .divz d a b => encR 0x16 d.val a.val b.val 0 0
  | .rem d a b => encR 0x17 d.val a.val b.val 0 0
  | .remz d a b => encR 0x18 d.val a.val b.val 0 0
  | .and d a b => encR 0x19 d.val a.val b.val 0 0
  | .or d a b => encR 0x1A d.val a.val b.val 0 0
  | .xor d a b => encR 0x1B d.val a.val b.val 0 0
  | .andn d a b => encR 0x1C d.val a.val b.val 0 0
  | .shl d a b => encR 0x1D d.val a.val b.val 0 0
  | .shr d a b => encR 0x1E d.val a.val b.val 0 0
  | .sha d a b => encR 0x1F d.val a.val b.val 0 0
  | .rot d a b => encR 0x20 d.val a.val b.val 0 0
  | .slt d a b => encR 0x21 d.val a.val b.val 0 0
  | .sltz d a b => encR 0x22 d.val a.val b.val 0 0
  | .seq d a b => encR 0x23 d.val a.val b.val 0 0
  | .min d a b => encR 0x24 d.val a.val b.val 0 0
  | .max d a b => encR 0x25 d.val a.val b.val 0 0
  | .minz d a b => encR 0x26 d.val a.val b.val 0 0
  | .maxz d a b => encR 0x27 d.val a.val b.val 0 0
  | .popc d a => encR 0x28 d.val a.val 0 0 0
  | .clz d a => encR 0x29 d.val a.val 0 0 0
  | .ctz d a => encR 0x2A d.val a.val 0 0 0
  | .bfx d a pos w1 => encR 0x2B d.val a.val 0 0 (pos.val + w1.val * 2 ^ 6)
  | .bfi d a b pos w1 => encR 0x2C d.val a.val b.val 0 (pos.val + w1.val * 2 ^ 6)
  | .brev d a => encR 0x2D d.val a.val 0 0 0
  | .sel d a b c => encR 0x2E d.val a.val b.val c.val 0
  | .rankx d a b c => encR 0x2F d.val a.val b.val c.val 0
  | .addi d a imm => encI 0x30 d.val a.val 0 imm.toNat
  | .andi d a imm => encI 0x31 d.val a.val 0 imm.toNat
  | .ori d a imm => encI 0x32 d.val a.val 0 imm.toNat
  | .xori d a imm => encI 0x33 d.val a.val 0 imm.toNat
  | .shli d a n => encI 0x34 d.val a.val 0 n.val
  | .shri d a n => encI 0x35 d.val a.val 0 n.val
  | .shai d a n => encI 0x36 d.val a.val 0 n.val
  | .li d imm => encI 0x37 d.val 0 0 imm.toNat
  | .addpc d imm => encI 0x38 d.val 0 0 imm.toNat
  | .li64 d imm => encK 0x39 d.val 0 0 0 0 0 0 0 imm.toNat
  | .mesha f d a b c off => encJ 0x3A d.val a.val b.val c.val f.code off.toNat
  | .bcc cond a b off => encB 0x40 a.val b.val cond.code off.toNat
  | .bmask cond a off => encB 0x41 a.val 0 cond.code off.toNat
  | .jal d imm => encI 0x42 d.val 0 0 imm.toNat
  | .jalr d a imm => encI 0x43 d.val a.val 0 imm.toNat
  | .ld d m sz sx ord sc la => encM 0x48 d.val m (sizeCode sz sx) ord.code sc.code la.val
  | .st s m sz ord sc => encM 0x49 s.val m sz.val ord.code sc.code
  | .ldc d m sz sx la => encM 0x4A d.val m (sizeCode sz sx) 0 0 la.val
  | .pfl m => encM 0x4B 0 m 0 0 0
  | .start d a imm => encI 0x50 d.val a.val 0 imm.toNat
  | .startW d a imm => encI 0x50 d.val a.val 1 imm.toNat
  | .joinh d a => encR 0x51 d.val a.val 0 0 0
  | .hstat d => encR 0x52 d.val 0 0 0 0
  | .ldf d m la => encM 0x53 d.val m 3 4 0 la.val
  | .ldff d m la => encM 0x53 d.val m 3 6 0 la.val
  | .ste s m => encM 0x54 s.val m 3 5 0
  | .stf s m => encM 0x54 s.val m 3 0 0
  | .festat d m => encM 0x55 d.val m 3 0 0
  | .feset s m => encM 0x56 s.val m 3 0 0
  | .barinitInit d a b => encR 0x57 d.val a.val b.val 0 0
  | .barinitBind d a => encR 0x57 d.val a.val 0 0 1
  | .bararr d a => encR 0x58 d.val a.val 0 0 0
  | .barexp a b => encR 0x59 0 a.val b.val 0 0
  | .barwait d a => encR 0x5A d.val a.val 0 0 0
  | .waitany d a => encR 0x5B d.val a.val 0 0 0
  | .bartest d a => encR 0x5C d.val a.val 0 0 0
  | .msend a b c => encJ 0x60 0 a.val b.val c.val 0 0
  | .msends a b c => encJ 0x61 0 a.val b.val c.val 0 0
  | .mrecv d a la => encR 0x62 d.val a.val 0 0 0 la.val
  | .mbind d b a hi imm => encJ 0x63 d.val a.val (24 + b.val) 0 hi.toNat imm.toNat
  | .munbind a => encR 0x64 0 a.val 0 0 0
  | .cvopen d a => encJ 0x68 d.val a.val 0 0 0 0
  | .cvjoin d a b hi => encR 0x69 d.val a.val b.val 0 hi.toNat
  | .cvsend d c a b => encJ 0x6A d.val a.val b.val c.val 0 0
  | .cvchoose d c a b => encJ 0x6B d.val a.val b.val c.val 0 0
  | .cvdeleg a b => encR 0x6C 0 a.val b.val 0 0
  | .cvleave a => encR 0x6D 0 a.val 0 0 0
  | .cvstat d a => encR 0x6E d.val a.val 0 0 0
  | .fadd t r d a b => encR 0x70 d.val a.val b.val 0 (fpFn t.code r.code 0)
  | .fsub t r d a b => encR 0x71 d.val a.val b.val 0 (fpFn t.code r.code 0)
  | .fmul t r d a b => encR 0x72 d.val a.val b.val 0 (fpFn t.code r.code 0)
  | .ffma t r d a b c => encR 0x73 d.val a.val b.val c.val (fpFn t.code r.code 0)
  | .fdiv t r d a b => encR 0x74 d.val a.val b.val 0 (fpFn t.code r.code 0)
  | .fsqrt t r d a => encR 0x75 d.val a.val 0 0 (fpFn t.code r.code 0)
  | .fmin t d a b => encR 0x76 d.val a.val b.val 0 (fpFn t.code 0 0)
  | .fmax t d a b => encR 0x77 d.val a.val b.val 0 (fpFn t.code 0 0)
  | .fcmp cond t d a b => encR 0x78 d.val a.val b.val 0 (fpFn t.code 0 cond.code)
  | .fcvt o r => encR 0x79 o.d.val o.a.val (o.src.code % 64) 0
      (fpFn (o.dst.code % 64) r.code (o.dst.code / 64 + 2 * (o.src.code / 64)))
  | .fclass t d a => encR 0x7A d.val a.val 0 0 (fpFn t.code 0 0)
  | .fsgn op t d a b => encR 0x7B d.val a.val b.val 0 (fpFn t.code 0 op.code)
  | .fmvx d a => encR 0x7C d.val a.val 0 0 0
  | .fmvf d a => encR 0x7D d.val a.val 0 0 0
  | .vadd t sat r d a b m => encV 0x80 d.val a.val b.val 0 m.val t.code r.code sat.toNat 0
  | .vsub t sat r d a b m => encV 0x81 d.val a.val b.val 0 m.val t.code r.code sat.toNat 0
  | .vmul t sat r d a b m => encV 0x82 d.val a.val b.val 0 m.val t.code r.code sat.toNat 0
  | .vfma t r d a b c m => encV 0x83 d.val a.val b.val c.val m.val t.code r.code 0 0
  | .vmin t d a b m => encV 0x84 d.val a.val b.val 0 m.val t.code 0 0 0
  | .vmax t d a b m => encV 0x85 d.val a.val b.val 0 m.val t.code 0 0 0
  | .vcmp cond t d a b m => encV 0x86 d.val a.val b.val 0 m.val t.code 0 cond.code 0
  | .vsel t d a b m => encV 0x87 d.val a.val b.val 0 m.val t.code 0 0 0
  | .vand t d a b m => encV 0x88 d.val a.val b.val 0 m.val t.code 0 0 0
  | .vor t d a b m => encV 0x89 d.val a.val b.val 0 m.val t.code 0 0 0
  | .vxor t d a b m => encV 0x8A d.val a.val b.val 0 m.val t.code 0 0 0
  | .vshl t d a (.reg r) m => encV 0x8B d.val a.val r.val 0 m.val t.code 0 0 0
  | .vshl t d a (.imm v) m => encV 0x8B d.val a.val 0 0 m.val t.code 0 1 v.toNat
  | .vshr t d a (.reg r) m => encV 0x8C d.val a.val r.val 0 m.val t.code 0 0 0
  | .vshr t d a (.imm v) m => encV 0x8C d.val a.val 0 0 m.val t.code 0 1 v.toNat
  | .vcvt dst src half r d a m => encV 0x8D d.val a.val 0 0 m.val dst.code r.code half.toNat src.code
  | .vqnt t r d a c m => encV 0x8E d.val a.val 0 c.val m.val t.code r.code 0 0
  | .vdq t r d a c m => encV 0x8F d.val a.val 0 c.val m.val t.code r.code 0 0
  | .vred op t r d a m => encV 0x90 d.val a.val 0 0 m.val t.code r.code op.code 0
  | .vscan ex t r d a m => encV 0x91 d.val a.val 0 0 m.val t.code r.code ex.toNat 0
  | .vsf fn r d a m => encV 0x92 d.val a.val 0 0 m.val 0x0A r.code fn.code 0
  | .vperm t d a b m => encV 0x93 d.val a.val b.val 0 m.val t.code 0 0 0
  | .vbcast t (.x r) d m => encV 0x94 d.val r.val 0 0 m.val t.code 0 0 0
  | .vbcast t (.f r) d m => encV 0x94 d.val r.val 0 0 m.val t.code 0 1 0
  | .vbcast t (.lane r n) d m => encV 0x94 d.val r.val 0 0 m.val t.code 0 2 n.val
  | .vbcast t (.imm v) d m => encV 0x94 d.val 0 0 0 m.val t.code 0 3 v.toNat
  | .vins t d a n => encV 0x95 d.val a.val 0 0 0 t.code 0 0 n.val
  | .vext t d a n => encV 0x96 d.val a.val 0 0 0 t.code 0 0 n.val
  | .vld t r d a off m la => encV 0xA0 d.val a.val 0 0 m.val t.code r.code 0 off.toNat la.val
  | .vst t r s a off m => encV 0xA1 s.val a.val 0 0 m.val t.code r.code 0 off.toNat
  | .vlds t r d a b off m la => encV 0xA2 d.val a.val b.val 0 m.val t.code r.code 0 off.toNat la.val
  | .vsts t r s a b off m => encV 0xA3 s.val a.val b.val 0 m.val t.code r.code 0 off.toNat
  | .vgath t r d a b sc off m la => encV 0xA4 d.val a.val b.val 0 m.val t.code r.code sc.val off.toNat la.val
  | .vscat t r s a b sc off m => encV 0xA5 s.val a.val b.val 0 m.val t.code r.code sc.val off.toNat
  | .vfence => encV 0xAE 0 0 0 0 0 0 0 0 0
  | .vstat d => encV 0xAF d.val 0 0 0 0 0 0 0 0
  | .scfgMem t d a b => encJ 0xB0 (24 + d.val) a.val b.val 0 1 t.code
  | .scfgMsg t d b => encJ 0xB0 (24 + d.val) 0 b.val 0 0 t.code
  | .srep d n mask => encJ 0xB1 d.val 0 0 0 0 (n.val + mask.toNat * 2 ^ 8)
  | .sstop d => encR 0xB2 (24 + d.val) 0 0 0 0
  | .amo op d b a wide sx ord sc off la =>
    encK 0xB4 d.val a.val b.val (amoSize wide sx) ord.code sc.code op.code 0 off.toNat la.val
  | .cas d b a wide sx ord sc off la =>
    encK 0xB5 d.val a.val b.val (amoSize wide sx) ord.code sc.code 0 0 off.toNat la.val
  | .red op b a wide ord sc off =>
    encK 0xB6 0 a.val b.val (amoSize wide false) ord.code sc.code op.code 0 off.toNat
  | .redx (.f r) a ord sc off => encK 0xB7 0 a.val r.val 0 ord.code sc.code 0 0x30 off.toNat
  | .redx (.exa r) a ord sc off => encK 0xB7 0 a.val r.val 0 ord.code sc.code 1 0x30 off.toNat
  | .cvtexa r d a => encR 0xB8 d.val a.val 0 0 r.code
  | .bankcfg mode d a => encR 0xB9 d.val a.val 0 0 mode.code
  | .cinv m => encM 0xBA 0 m 0 0 0
  | .cinvAll => encM 0xBA 0 ⟨0, 0, 0, 0⟩ 1 0 0
  | .disc m => encM 0xBB 0 m 0 0 0
  | .jwait d a => encR 0xC0 d.val a.val 0 0 0
  | .jpoll d a => encR 0xC1 d.val a.val 0 0 0
  | .jcancel d a => encR 0xC2 d.val a.val 0 0 0
  | .cpjob d a la => encJ 0xC3 d.val a.val 0 0 0 0 la.val
  | .mxjob d a la => encJ 0xC4 d.val a.val 0 0 0 0 la.val
  | .shpset d a entry => encJ 0xC5 d.val a.val 0 0 0 entry.val
  | .rtjob d a la => encJ 0xC6 d.val a.val 0 0 0 0 la.val
  | .drjob d a la => encJ 0xC7 d.val a.val 0 0 0 0 la.val
  | .mgjob d a la => encJ 0xC8 d.val a.val 0 0 0 0 la.val
  | .ctrset a b => encJ 0xC9 0 a.val b.val 0 0 0
  | .ctradd d a b => encJ 0xCA d.val a.val b.val 0 0 0
  | .ctrwait d a b => encJ 0xCB d.val a.val b.val 0 0 0
  | .qppost d a b => encJ 0xCC d.val a.val b.val 0 0 0
  | .qpcancel d a b => encR 0xCD d.val a.val b.val 0 0
  | .xreg d a => encJ 0xD0 d.val a.val 0 0 0 0
  | .xpol d a b => encJ 0xD1 d.val a.val b.val 0 0 0
  | .xresv d a b c => encJ 0xD2 d.val a.val b.val c.val 0 0
  | .xrel d a => encR 0xD3 d.val a.val 0 0 0
  | .xsend d a b c len => encJ 0xD4 d.val a.val b.val c.val 0 len.toNat
  | .xsendr d a b c len => encJ 0xD5 d.val a.val b.val c.val 0 len.toNat
  | .xbatchFwd d a b c => encJ 0xD6 d.val a.val b.val c.val 0 0
  | .xbatchBwd d a b c => encJ 0xD6 d.val a.val b.val c.val 1 0
  | .xbatchReload d a => encJ 0xD6 d.val a.val 0 0 2 0
  | .xseal d a => encR 0xD7 d.val a.val 0 0 0
  | .xjoin d a b => encJ 0xD8 d.val a.val b.val 0 0 0
  | .xstep d a => encR 0xD9 d.val a.val 0 0 0
  | .xstat sel d a b => encR 0xDA d.val a.val b.val 0 sel.code
  | .xspawn d a b => encJ 0xDB d.val a.val b.val 0 0 0
  | .xretire d a b => encR 0xDC d.val a.val b.val 0 0
  | .pnrule d a b => encJ 0xE0 d.val a.val b.val 0 0 0
  | .pnsend a b c count => encJ 0xE1 0 a.val b.val c.val 0 count.toNat
  | .pnstep d a b c => encR 0xE2 d.val a.val b.val c.val 0
  | .pnstat sel d a => encR 0xE3 d.val a.val 0 0 sel.code
  | .jtake d => encR 0xE8 d.val 0 0 0 0
  | .jdone a => encR 0xE8 0 a.val 0 0 1
  | .mlda h a b row0 rows klen la => encJ 0xE9 0 a.val b.val 0 0
      (h.toNat + row0.val * 2 ^ 2 + rows.toNat * 2 ^ 8 + klen.toNat * 2 ^ 16) la.val
  | .mldb k a b klen nlen la => encJ 0xEA 0 a.val b.val 0 0
      (k.toNat + klen.toNat * 2 ^ 8 + nlen.toNat * 2 ^ 16) la.val
  | .semv s => encR 0xEB s.val 0 0 0 0
  | .semp s => encR 0xEB s.val 0 0 0 1
  | .mzero d m1 => encR 0xEC d.val 0 0 0 m1.val
  | .mma d h k m1 la => encJ 0xED d.val 0 0 0 0 (h.toNat + k.toNat * 2 + m1.val * 2 ^ 8) la.val
  | .msta d a b m1 n => encJ 0xEE d.val a.val b.val 0 0 (m1.val + n.toNat * 2 ^ 8)
  | .mprogRd d => encR 0xEF d.val 0 0 0 0
  | .mprogWr a => encR 0xEF 0 a.val 0 0 1
  | .preq d a => encR 0xF0 d.val a.val 0 0 0
  | .preqCtr d a b => encR 0xF0 d.val a.val b.val 0 1
  | .resume d a => encR 0xF1 d.val a.val 0 0 0
  | .resumeCtr d a b => encR 0xF1 d.val a.val b.val 0 1
  | _ => 0

-- The decoder

/-- The length in bytes that LEN gives (R55, R56). -/
def lenBytes (w : Nat) : Nat := 4 + 4 * (w % 4)

/-- The length of an instruction in bytes; 4 for PAD32. -/
def Instr.len (i : Instr) : Nat := lenBytes (encode i)

/-- The kind of core that issues (R8, R75). -/
inductive CoreKind where
  | compute | stager | issuer
  deriving DecidableEq, Repr

/-- The subcodes of ILLEGAL (Table 3.4). -/
inductive IllegalSub where
  | unassigned | length | straddle | reserved | format | matrixOnly
  deriving DecidableEq, Repr

/-- Table 3.4, the SUB column. -/
def IllegalSub.code : IllegalSub → Nat
  | .unassigned => 1 | .length => 2 | .straddle => 3 | .reserved => 4 | .format => 5 | .matrixOnly => 6

/-- What decoding gives. -/
inductive Dec where
  | ok (i : Instr)
  | bad (sub : IllegalSub)
  deriving DecidableEq, Repr

/-- Table 3.3: the LEN code of an assigned opcode. -/
def opcLen (opc : Nat) : Option Nat :=
  if opc ≤ 0x08 || (0x10 ≤ opc && opc ≤ 0x38) || (0x40 ≤ opc && opc ≤ 0x43) || (0x48 ≤ opc && opc ≤ 0x4B) ||
      (0x50 ≤ opc && opc ≤ 0x5C) || opc = 0x62 || opc = 0x64 || opc = 0x69 || (0x6C ≤ opc && opc ≤ 0x6E) ||
      (0x70 ≤ opc && opc ≤ 0x7D) || opc = 0xB2 || (0xB8 ≤ opc && opc ≤ 0xBB) || (0xC0 ≤ opc && opc ≤ 0xC2) ||
      opc = 0xCD || opc = 0xD3 || opc = 0xD7 || opc = 0xD9 || opc = 0xDA || opc = 0xDC || opc = 0xE2 ||
      opc = 0xE3 || opc = 0xE8 || opc = 0xEB || opc = 0xEC || opc = 0xEF || opc = 0xF0 || opc = 0xF1 then some 1
  else if opc = 0x3A || opc = 0x60 || opc = 0x61 || opc = 0x63 || opc = 0x68 || opc = 0x6A || opc = 0x6B ||
      (0x80 ≤ opc && opc ≤ 0x96) || (0xA0 ≤ opc && opc ≤ 0xA5) || opc = 0xAE || opc = 0xAF || opc = 0xB0 ||
      opc = 0xB1 || (0xC3 ≤ opc && opc ≤ 0xCC) || (0xD0 ≤ opc && opc ≤ 0xD2) || (0xD4 ≤ opc && opc ≤ 0xD6) ||
      opc = 0xD8 || opc = 0xDB || opc = 0xE0 || opc = 0xE1 || opc = 0xE9 || opc = 0xEA || opc = 0xED ||
      opc = 0xEE then some 2
  else if opc = 0x39 || (0xB4 ≤ opc && opc ≤ 0xB7) then some 3
  else none

/-- R75, R262: the opcodes a core executes, so far as row 3 of Table 3.4 tests them. -/
def opcOnCore (k : CoreKind) (opc : Nat) : Bool :=
  match k with
  | .compute => true
  | .stager => common opc || opc = 0xE8 || opc = 0xE9 || opc = 0xEB
  | .issuer => common opc || opc = 0xE8 || opc = 0xEA || (0xEB ≤ opc && opc ≤ 0xEF)
where
  /-- The opcodes of R75 below 0xE8. -/
  common (opc : Nat) : Bool :=
    opc ≤ 0x4F || (0x70 ≤ opc && opc ≤ 0x7F) || (0xB4 ≤ opc && opc ≤ 0xB8) || (0xC0 ≤ opc && opc ≤ 0xC2)

/-- The x register of the field at bit lo. -/
def xAt (w lo : Nat) : XReg := Fin.ofNat 64 (fld w lo 6)
/-- The f or v register of the field at bit lo; a reserved number does not encode back to the field (R60). -/
def fAt (w lo : Nat) : FReg := Fin.ofNat 32 (fld w lo 6)
/-- The LA field (R58). -/
def laAt (w : Nat) : LaCount := Fin.ofNat 16 (fld w 10 4)
/-- IMM30 (R62). -/
def imm30 (w : Nat) : BitVec 30 := BitVec.ofNat 30 (fld w 34 30)
/-- IMM32 of F96V (R66). -/
def imm32 (w : Nat) : BitVec 32 := BitVec.ofNat 32 (fld w 64 32)
/-- IMM64 (R68). -/
def imm64 (w : Nat) : BitVec 64 := BitVec.ofNat 64 (fld w 64 64)
/-- The memory operand of F64M (R63). -/
def memAt (w : Nat) : MemOp := ⟨xAt w 22, xAt w 28, Fin.ofNat 4 (fld w 45 2), BitVec.ofNat 17 (fld w 47 17)⟩

/-- A sub-function field whose one assigned value is 0 (R74): any other is UNASSIGNED. A field that an instruction's entry
does not name is no such field: nonzero, it is RESERVED (R69, R89). -/
def zeroFn (f : Nat) (i : Instr) : Option Instr := if f = 0 then some i else none

/-- The instruction of an F64R word; none where the FN value is unassigned (R74). Of CVJOIN, FN above 1 is unassigned
(assumption 47). -/
def candR (opc w : Nat) : Option Instr :=
  let d := xAt w 16
  let a := xAt w 22
  let b := xAt w 28
  let c := xAt w 34
  let fn := fld w 40 12
  let fd := fAt w 16
  let fa := fAt w 22
  let fb := fAt w 28
  let ft := FFmt.ofCode (fld w 40 6)
  let rnd := Rnd.ofCode (fld w 46 4)
  let sub := fld w 50 2
  match opc with
  | 0x00 => zeroFn fn .nop
  | 0x01 => zeroFn fn .rett
  | 0x02 => if fn ≤ 5 then some (.fence (Scope.ofCode fn)) else none
  | 0x03 => zeroFn fn (.exit a)
  | 0x10 => zeroFn fn (.add d a b)
  | 0x11 => zeroFn fn (.sub d a b)
  | 0x12 => zeroFn fn (.mul d a b)
  | 0x13 => zeroFn fn (.mulh d a b)
  | 0x14 => zeroFn fn (.mulhz d a b)
  | 0x15 => zeroFn fn (.div d a b)
  | 0x16 => zeroFn fn (.divz d a b)
  | 0x17 => zeroFn fn (.rem d a b)
  | 0x18 => zeroFn fn (.remz d a b)
  | 0x19 => zeroFn fn (.and d a b)
  | 0x1A => zeroFn fn (.or d a b)
  | 0x1B => zeroFn fn (.xor d a b)
  | 0x1C => zeroFn fn (.andn d a b)
  | 0x1D => zeroFn fn (.shl d a b)
  | 0x1E => zeroFn fn (.shr d a b)
  | 0x1F => zeroFn fn (.sha d a b)
  | 0x20 => zeroFn fn (.rot d a b)
  | 0x21 => zeroFn fn (.slt d a b)
  | 0x22 => zeroFn fn (.sltz d a b)
  | 0x23 => zeroFn fn (.seq d a b)
  | 0x24 => zeroFn fn (.min d a b)
  | 0x25 => zeroFn fn (.max d a b)
  | 0x26 => zeroFn fn (.minz d a b)
  | 0x27 => zeroFn fn (.maxz d a b)
  | 0x28 => zeroFn fn (.popc d a)
  | 0x29 => zeroFn fn (.clz d a)
  | 0x2A => zeroFn fn (.ctz d a)
  | 0x2B => some (.bfx d a (xAt w 40) (xAt w 46))
  | 0x2C => some (.bfi d a b (xAt w 40) (xAt w 46))
  | 0x2D => zeroFn fn (.brev d a)
  | 0x2E => zeroFn fn (.sel d a b c)
  | 0x2F => zeroFn fn (.rankx d a b c)
  | 0x51 => zeroFn fn (.joinh d a)
  | 0x52 => zeroFn fn (.hstat d)
  | 0x57 => if fn = 0 then some (.barinitInit (Fin.ofNat 8 (fld w 16 6)) a b)
    else if fn = 1 then some (.barinitBind (Fin.ofNat 8 (fld w 16 6)) a) else none
  | 0x58 => some (.bararr d (Fin.ofNat 8 (fld w 22 6)))
  | 0x59 => some (.barexp (Fin.ofNat 8 (fld w 22 6)) b)
  | 0x5A => some (.barwait d (Fin.ofNat 8 (fld w 22 6)))
  | 0x5B => some (.waitany d a)
  | 0x5C => some (.bartest d (Fin.ofNat 8 (fld w 22 6)))
  | 0x62 => zeroFn fn (.mrecv d a (laAt w))
  | 0x64 => zeroFn fn (.munbind a)
  | 0x69 => if fn ≤ 1 then some (.cvjoin (Fin.ofNat 4 (fld w 16 6)) a b (fn = 1)) else none
  | 0x6C => zeroFn fn (.cvdeleg (Fin.ofNat 4 (fld w 22 6)) b)
  | 0x6D => zeroFn fn (.cvleave (Fin.ofNat 4 (fld w 22 6)))
  | 0x6E => zeroFn fn (.cvstat d (Fin.ofNat 4 (fld w 22 6)))
  | 0x70 => zeroFn sub (.fadd ft rnd fd fa fb)
  | 0x71 => zeroFn sub (.fsub ft rnd fd fa fb)
  | 0x72 => zeroFn sub (.fmul ft rnd fd fa fb)
  | 0x73 => zeroFn sub (.ffma ft rnd fd fa fb (fAt w 34))
  | 0x74 => zeroFn sub (.fdiv ft rnd fd fa fb)
  | 0x75 => zeroFn sub (.fsqrt ft rnd fd fa)
  | 0x76 => zeroFn sub (.fmin ft fd fa fb)
  | 0x77 => zeroFn sub (.fmax ft fd fa fb)
  | 0x78 => some (.fcmp (FcmpCond.ofCode sub) ft d fa fb)
  | 0x79 => some (.fcvt ⟨CvtTy.ofCode (fld w 40 6 + 64 * fld w 50 1), CvtTy.ofCode (fld w 28 6 + 64 * fld w 51 1),
      d, a⟩ rnd)
  | 0x7A => zeroFn sub (.fclass ft d fa)
  | 0x7B => (FsgnOp.ofCode? sub).map fun op => .fsgn op ft fd fa fb
  | 0x7C => zeroFn fn (.fmvx d fa)
  | 0x7D => zeroFn fn (.fmvf fd a)
  | 0xB2 => zeroFn fn (.sstop (Fin.ofNat 8 (fld w 16 6 - 24)))
  | 0xB8 => some (.cvtexa (Rnd.ofCode (fld w 40 4)) fd a)
  | 0xB9 => (BankMode.ofCode? fn).map fun m => .bankcfg m d a
  | 0xC0 => zeroFn fn (.jwait d a)
  | 0xC1 => zeroFn fn (.jpoll d a)
  | 0xC2 => zeroFn fn (.jcancel d a)
  | 0xCD => zeroFn fn (.qpcancel d a b)
  | 0xD3 => zeroFn fn (.xrel d a)
  | 0xD7 => zeroFn fn (.xseal d a)
  | 0xD9 => zeroFn fn (.xstep d a)
  | 0xDA => (XstatSel.ofCode? fn).map fun s => .xstat s d a b
  | 0xDC => zeroFn fn (.xretire d a b)
  | 0xE2 => zeroFn fn (.pnstep d a b c)
  | 0xE3 => (PnstatSel.ofCode? fn).map fun s => .pnstat s d a
  | 0xE8 => if fn = 0 then some (.jtake d) else if fn = 1 then some (.jdone a) else none
  | 0xEB => if fn = 0 then some (.semv (Fin.ofNat 8 (fld w 16 6)))
    else if fn = 1 then some (.semp (Fin.ofNat 8 (fld w 16 6))) else none
  | 0xEC => some (.mzero d (xAt w 40))
  | 0xEF => if fn = 0 then some (.mprogRd d) else if fn = 1 then some (.mprogWr a) else none
  | 0xF0 => if fn = 0 then some (.preq d a) else if fn = 1 then some (.preqCtr d a b) else none
  | 0xF1 => if fn = 0 then some (.resume d a) else if fn = 1 then some (.resumeCtr d a b) else none
  | _ => none

/-- The instruction of an F64I word (R62). A register number absent from Table 1.1 is unassigned (R15). Of START, FN6
above 1 is unassigned (assumption 47). -/
def candI (opc w : Nat) : Option Instr :=
  let d := xAt w 16
  let a := xAt w 22
  let fn := fld w 28 6
  let imm := imm30 w
  match opc with
  | 0x04 => zeroFn fn (.trap imm)
  | 0x05 => zeroFn fn (.brk imm)
  | 0x06 => if sysRegKnown imm.toNat then zeroFn fn (.sysrd d imm) else none
  | 0x07 => if sysRegKnown imm.toNat then zeroFn fn (if imm = 0x012 then .clflagsWrite a else .syswr a imm) else none
  | 0x08 => zeroFn fn (.sleep a imm)
  | 0x30 => zeroFn fn (.addi d a imm)
  | 0x31 => zeroFn fn (.andi d a imm)
  | 0x32 => zeroFn fn (.ori d a imm)
  | 0x33 => zeroFn fn (.xori d a imm)
  | 0x34 => zeroFn fn (.shli d a (xAt w 34))
  | 0x35 => zeroFn fn (.shri d a (xAt w 34))
  | 0x36 => zeroFn fn (.shai d a (xAt w 34))
  | 0x37 => zeroFn fn (.li d imm)
  | 0x38 => zeroFn fn (.addpc d imm)
  | 0x42 => zeroFn fn (.jal d imm)
  | 0x43 => zeroFn fn (.jalr d a imm)
  | 0x50 => if fn = 0 then some (.start d a imm) else if fn = 1 then some (.startW d a imm) else none
  | _ => none

/-- The instruction of an F64M word (R63). Its codes are never sub-functions: a wrong one is RESERVED (R64). -/
def candM (opc w : Nat) : Option Instr :=
  let d := xAt w 16
  let m := memAt w
  let sz : Fin 4 := Fin.ofNat 4 (fld w 34 2)
  let sx := bit w 36
  let oc := fld w 38 4
  let ord := MemOrd.ofCode oc
  let sc := Scope.ofCode (fld w 42 3)
  match opc with
  | 0x48 => some (.ld d m sz sx ord sc (laAt w))
  | 0x49 => some (.st d m sz ord sc)
  | 0x4A => some (.ldc d m sz sx (laAt w))
  | 0x4B => some (.pfl m)
  | 0x53 => if oc = 6 then some (.ldff d m (laAt w)) else some (.ldf d m (laAt w))
  | 0x54 => if oc = 5 then some (.ste d m) else some (.stf d m)
  | 0x55 => some (.festat d m)
  | 0x56 => some (.feset d m)
  | 0xBA => if fld w 34 4 = 1 then some .cinvAll else some (.cinv m)
  | 0xBB => some (.disc m)
  | _ => none

/-- The instruction of an F64B word (R65). -/
def candB (opc w : Nat) : Option Instr :=
  let off := BitVec.ofNat 32 (fld w 32 32)
  match opc with
  | 0x40 => (BccCond.ofCode? (fld w 28 4)).map fun c => .bcc c (xAt w 16) (xAt w 22) off
  | 0x41 => (BmaskCond.ofCode? (fld w 28 4)).map fun c => .bmask c (xAt w 16) off
  | _ => none

/-- The instruction of an F96V word (R66). -/
def candV (opc w : Nat) : Option Instr :=
  let d := fAt w 16
  let a := fAt w 22
  let b := fAt w 28
  let m := xAt w 40
  let ty := fld w 46 6 + 64 * fld w 63 1
  let t := VTy.ofCode ty
  let rnd := Rnd.ofCode (fld w 52 4)
  let vfn := fld w 56 7
  let imm := imm32 w
  match opc with
  | 0x80 => if vfn ≤ 1 then some (.vadd t (vfn = 1) rnd d a b m) else none
  | 0x81 => if vfn ≤ 1 then some (.vsub t (vfn = 1) rnd d a b m) else none
  | 0x82 => if vfn ≤ 1 then some (.vmul t (vfn = 1) rnd d a b m) else none
  | 0x83 => zeroFn vfn (.vfma t rnd d a b (fAt w 34) m)
  | 0x84 => zeroFn vfn (.vmin t d a b m)
  | 0x85 => zeroFn vfn (.vmax t d a b m)
  | 0x86 => (VcmpCond.ofCode? vfn).map fun c => .vcmp c t (xAt w 16) a b m
  | 0x87 => zeroFn vfn (.vsel t d a b m)
  | 0x88 => zeroFn vfn (.vand t d a b m)
  | 0x89 => zeroFn vfn (.vor t d a b m)
  | 0x8A => zeroFn vfn (.vxor t d a b m)
  | 0x8B => if vfn = 0 then some (.vshl t d a (.reg b) m) else if vfn = 1 then some (.vshl t d a (.imm imm) m) else none
  | 0x8C => if vfn = 0 then some (.vshr t d a (.reg b) m) else if vfn = 1 then some (.vshr t d a (.imm imm) m) else none
  | 0x8D => if vfn ≤ 1 then some (.vcvt (LaneFmt.ofCode ty) (LaneFmt.ofCode (fld w 64 7)) (vfn = 1) rnd d a m) else none
  | 0x8E => zeroFn vfn (.vqnt (BlkFmt.ofCode ty) rnd d a (xAt w 34) m)
  | 0x8F => zeroFn vfn (.vdq (BlkFmt.ofCode ty) rnd d a (xAt w 34) m)
  | 0x90 => (VredOp.ofCode? vfn).map fun o => .vred o t rnd (xAt w 16) a m
  | 0x91 => if vfn ≤ 1 then some (.vscan (vfn = 1) t rnd d a m) else none
  | 0x92 => (VsfFn.ofCode? vfn).map fun f => .vsf f rnd d a m
  | 0x93 => zeroFn vfn (.vperm t d a b m)
  | 0x94 => if vfn = 0 then some (.vbcast t (.x (xAt w 22)) d m)
    else if vfn = 1 then some (.vbcast t (.f a) d m)
    else if vfn = 2 then some (.vbcast t (.lane a (Fin.ofNat 32 (fld w 64 5))) d m)
    else if vfn = 3 then some (.vbcast t (.imm imm) d m) else none
  | 0x95 => zeroFn vfn (.vins t d (xAt w 22) (Fin.ofNat 32 (fld w 64 5)))
  | 0x96 => zeroFn vfn (.vext t (xAt w 16) a (Fin.ofNat 32 (fld w 64 5)))
  | 0xA0 => zeroFn vfn (.vld t rnd d (xAt w 22) imm m (laAt w))
  | 0xA1 => zeroFn vfn (.vst t rnd d (xAt w 22) imm m)
  | 0xA2 => zeroFn vfn (.vlds t rnd d (xAt w 22) (xAt w 28) imm m (laAt w))
  | 0xA3 => zeroFn vfn (.vsts t rnd d (xAt w 22) (xAt w 28) imm m)
  | 0xA4 => if vfn ≤ 3 then some (.vgath t rnd d (xAt w 22) b (Fin.ofNat 4 vfn) imm m (laAt w)) else none
  | 0xA5 => if vfn ≤ 3 then some (.vscat t rnd d (xAt w 22) b (Fin.ofNat 4 vfn) imm m) else none
  | 0xAE => zeroFn vfn .vfence
  | 0xAF => zeroFn vfn (.vstat (xAt w 16))
  | _ => none

/-- The instruction of an F96J word (R67). Of MBIND, EFN above 1 is unassigned (assumption 47). -/
def candJ (opc w : Nat) : Option Instr :=
  let d := xAt w 16
  let a := xAt w 22
  let b := xAt w 28
  let c := xAt w 34
  let efn := fld w 40 8
  let la := laAt w
  match opc with
  | 0x3A => (MeshaForm.ofCode? efn).map fun f => .mesha f d a b c (BitVec.ofNat 22 (fld w 48 22))
  | 0x60 => zeroFn efn (.msend a b c)
  | 0x61 => zeroFn efn (.msends a b c)
  | 0x63 => if efn ≤ 1 then
      some (.mbind d (Fin.ofNat 8 (fld w 28 6 - 24)) a (efn = 1) (BitVec.ofNat 48 (fld w 48 48))) else none
  | 0x68 => zeroFn efn (.cvopen d a)
  | 0x6A => zeroFn efn (.cvsend (Fin.ofNat 4 (fld w 16 6)) c a b)
  | 0x6B => zeroFn efn (.cvchoose (Fin.ofNat 4 (fld w 16 6)) c a b)
  | 0xB0 => if efn = 1 then some (.scfgMem (VTy.ofCode (fld w 48 7)) (Fin.ofNat 8 (fld w 16 6 - 24)) a b)
    else if efn = 0 then some (.scfgMsg (VTy.ofCode (fld w 48 7)) (Fin.ofNat 8 (fld w 16 6 - 24)) b) else none
  | 0xB1 => zeroFn efn (.srep d (Fin.ofNat 65 (fld w 48 7)) (BitVec.ofNat 8 (fld w 56 8)))
  | 0xC3 => zeroFn efn (.cpjob d a la)
  | 0xC4 => zeroFn efn (.mxjob d a la)
  | 0xC5 => zeroFn efn (.shpset d a (xAt w 48))
  | 0xC6 => zeroFn efn (.rtjob d a la)
  | 0xC7 => zeroFn efn (.drjob d a la)
  | 0xC8 => zeroFn efn (.mgjob d a la)
  | 0xC9 => zeroFn efn (.ctrset a b)
  | 0xCA => zeroFn efn (.ctradd d a b)
  | 0xCB => zeroFn efn (.ctrwait d a b)
  | 0xCC => zeroFn efn (.qppost d a b)
  | 0xD0 => zeroFn efn (.xreg d a)
  | 0xD1 => some (.xpol d a b)
  | 0xD2 => some (.xresv d a b c)
  | 0xD4 => some (.xsend d a b c (BitVec.ofNat 8 (fld w 48 8)))
  | 0xD5 => some (.xsendr d a b c (BitVec.ofNat 8 (fld w 48 8)))
  | 0xD6 => if efn = 0 then some (.xbatchFwd d a b c) else if efn = 1 then some (.xbatchBwd d a b c)
    else if efn = 2 then some (.xbatchReload d a) else none
  | 0xD8 => some (.xjoin d a b)
  | 0xDB => some (.xspawn d a b)
  | 0xE0 => zeroFn efn (.pnrule d a b)
  | 0xE1 => some (.pnsend a b c (BitVec.ofNat 9 (fld w 48 9)))
  | 0xE9 => zeroFn efn (.mlda (bit w 48) a b (xAt w 50) (BitVec.ofNat 7 (fld w 56 7)) (BitVec.ofNat 8 (fld w 64 8)) la)
  | 0xEA => zeroFn efn (.mldb (bit w 48) a b (BitVec.ofNat 8 (fld w 56 8)) (BitVec.ofNat 9 (fld w 64 9)) la)
  | 0xED => zeroFn efn (.mma d (bit w 48) (bit w 49) (xAt w 56) la)
  | 0xEE => zeroFn efn (.msta d a b (xAt w 48) (BitVec.ofNat 9 (fld w 56 9)))
  | _ => none

/-- The instruction of an F128K word (R68). -/
def candK (opc w : Nat) : Option Instr :=
  let d := xAt w 16
  let a := xAt w 22
  let b := xAt w 28
  let wide := bit w 34
  let sx := bit w 36
  let ord := MemOrd.ofCode (fld w 38 4)
  let sc := Scope.ofCode (fld w 42 3)
  let op := fld w 47 4
  match opc with
  | 0x39 => zeroFn (fld w 34 30) (.li64 d (imm64 w))
  | 0xB4 => (AmoOp.ofCode? op).map fun o => .amo o d b a wide sx ord sc (imm64 w) (laAt w)
  | 0xB5 => zeroFn op (.cas d b a wide sx ord sc (imm64 w) (laAt w))
  | 0xB6 => (RedOp.ofCode? op).map fun o => .red o b a wide ord sc (imm64 w)
  | 0xB7 => if op = 0 then some (.redx (.f (fAt w 28)) a ord sc (imm64 w))
    else if op = 1 then some (.redx (.exa b) a ord sc (imm64 w)) else none
  | _ => none

/-- The instruction a word of assigned opcode and right length names; none where its sub-function or condition code
is unassigned (row 6 of Table 3.4). -/
def candidate (opc w : Nat) : Option Instr :=
  match opcLen opc with
  | some 1 =>
    if (0x48 ≤ opc && opc ≤ 0x4B) || (0x53 ≤ opc && opc ≤ 0x56) || opc = 0xBA || opc = 0xBB then candM opc w
    else if opc = 0x40 || opc = 0x41 then candB opc w
    else if (0x04 ≤ opc && opc ≤ 0x08) || (0x30 ≤ opc && opc ≤ 0x38) || opc = 0x42 || opc = 0x43 || opc = 0x50 then
      candI opc w
    else candR opc w
  | some 2 => if (0x80 ≤ opc && opc ≤ 0xAF) then candV opc w else candJ opc w
  | some 3 => candK opc w
  | _ => none

/-- The decoder: kind of core, address of the instruction, and the bits from that address on (R55-R59, R75, R77). -/
def decodeWord (k : CoreKind) (addr w : Nat) : Dec :=
  if w % 4 = 0 then
    if w % 2 ^ 32 = 4 then .ok .pad32 else .bad .length
  else if addr % 32 + lenBytes w > 32 then .bad .straddle
  else
    let opc := fld w 2 8
    let word := w % 2 ^ (8 * lenBytes w)
    match opcLen opc with
    | none => .bad .unassigned
    | some len =>
      if !opcOnCore k opc then .bad .unassigned
      else if w % 4 ≠ len then .bad .length
      else if k = .compute && 0xE8 ≤ opc && opc ≤ 0xEF then .bad .matrixOnly
      else
        match candidate opc word with
        | none => .bad .unassigned
        | some i => if WellFormed i && encode i = word then .ok i else .bad .reserved

/-- The number a little-endian byte sequence stands for (R4, R57). -/
def leNat : List Byte → Nat
  | [] => 0
  | b :: bs => b.toNat + 256 * leNat bs

/-- The decoder on the bytes stored from the instruction's address upward. -/
def decodeBytes (k : CoreKind) (addr : Nat) (bs : List Byte) : Dec := decodeWord k addr (leNat bs)

/-- The little-endian bytes of a number. -/
def leBytes : Nat → Nat → List Byte
  | 0, _ => []
  | n + 1, w => BitVec.ofNat 8 w :: leBytes n (w / 256)

/-- The bytes of an instruction, from its address upward (R57). -/
def encodeBytes (i : Instr) : List Byte := leBytes i.len (encode i)

/-- The instruction the decoder reads from bits numbered as the opcode table numbers them, on the kind of core that
executes it; bits above nbits are 0. -/
def decodeTableWord (nbits w : Nat) : Option Instr :=
  let bs := leBytes 16 (w % 2 ^ nbits)
  match decodeBytes .compute 0 bs, decodeBytes .stager 0 bs, decodeBytes .issuer 0 bs with
  | .ok i, _, _ => some i
  | _, .ok i, _ => some i
  | _, _, .ok i => some i
  | _, _, _ => none

end Sys2Proof
end

