-- ==== Sys2Proof/Machine/State.lean ====
section
/-!
DEFINITION. The state of one Falesque module: every piece of state the spec gives the machine, as plain data, and its
value after module reset. INVENTORY.md lists each field with its rule.
-/
namespace Sys2Proof.Machine

-- Outcomes

/-- Why the machine stops. -/
inductive Fault where
  /-- Raised by RESTORE_COMPLETE when a save area does not hold what the save wrote, registers of context records at
  fixed offsets apart: the spec calls the resumed partition's behaviour undefined (18 R344). Safe: the machine stops
  where hardware goes on in a way that the spec does not give. -/
  | saveAltered
  deriving DecidableEq, Repr

/-- Why a step has no outcome. -/
inductive Refusal where
  /-- An instruction without a meaning in this model. Safe. -/
  | notModelled (mnemonic : String)
  /-- Answered by an event (a row of the opcode table that an agent other than a context performs) in a state in which
  that agent cannot take the step: nothing is queued, the unit does not exist, the condition the rule names does not
  hold. Safe: the machine has no such step there. -/
  | notEnabled (event : String)
  deriving DecidableEq, Repr

-- Traps

/-- Trap causes (Table 18.1) with their subcodes. -/
inductive Cause where
  | illegal (sub : IllegalSub)
  | priv | lookahead | align
  | notPresent | protect | compressed | notPinned
  | race | turn
  | noConv | noRole | bound | notBound | unbound
  | msg | expert | brk | trap
  deriving DecidableEq, Repr

/-- TRAPCAUSE.CAUSE (Table 18.1). -/
def Cause.code : Cause → Nat
  | .illegal _ => 0x01 | .priv => 0x02 | .lookahead => 0x03 | .align => 0x04
  | .notPresent | .protect | .compressed | .notPinned => 0x05
  | .race => 0x06 | .turn => 0x07 | .noConv | .noRole | .bound | .notBound | .unbound => 0x08
  | .msg => 0x09 | .expert => 0x0A | .brk => 0x0B | .trap => 0x0C

/-- TRAPCAUSE.SUB (Table 18.1). -/
def Cause.sub : Cause → Nat
  | .illegal s => s.code
  | .notPresent | .noConv => 1 | .protect | .noRole => 2 | .compressed | .bound => 3 | .notPinned | .notBound => 4
  | .unbound => 5
  | .priv | .lookahead | .align | .race | .turn | .msg | .expert | .brk | .trap => 0

/-- A trap to be taken: cause, TRAPADDR, TRAPINFO (R27, R334). -/
structure Trap where
  cause : Cause
  addr : Word := 0
  info : Word := 0
  deriving DecidableEq, Repr

-- One context (01 R11)

/-- The name of a register for the checks of R71 and R117. -/
inductive RegName where
  | x (r : XReg) | f (r : FReg) | v (r : VReg) | a (r : AReg)
  deriving DecidableEq, Repr

/-- A register write not yet made: the result of a long-latency instruction whose window is open (R71). -/
inductive RegWrite where
  | x (r : XReg) (val : Word)
  | f (r : FReg) (val : Word)
  | a (r : AReg) (val : Vector Lane 256)
  deriving DecidableEq, Repr

/-- An open lookahead window (R71, R72). -/
structure Window where
  /-- Address of L. -/
  pc : Word
  /-- Instructions that may still issue before L completes. -/
  left : Nat
  /-- The registers L writes. -/
  regs : List RegName
  /-- Results of L not yet in their registers. -/
  pend : List RegWrite
  /-- The number of the vector command that performs L, if one does and has not completed. -/
  cmd : Option Nat
  deriving DecidableEq, Repr

/-- Rounding modes (Table 2.7). -/
inductive RMode where
  | rne | rtz | rup | rdn | rmm
  deriving DecidableEq, Repr

/-- A value of a floating-point format: (-1)^neg * m * 2^e when finite; m = 0 is a signed zero. -/
inductive FVal where
  | nan (signalling : Bool)
  | inf (neg : Bool)
  | fin (neg : Bool) (m : Nat) (e : Int)
  deriving DecidableEq, Repr

/-- The place where an access is performed: a physical address at its home slice, or a byte of a cluster's scratchpad,
numbered cluster by cluster (R197, R201). -/
inductive Place where
  | glob (pa : Nat)
  | scr (key : Nat)
  deriving DecidableEq, Repr

/-- The loop state of SREP (R146, R147). -/
structure LoopSt where
  /-- Address of the SREP. -/
  srep : Word
  /-- Address of the first body instruction. -/
  body : Word
  /-- Address after the body; while instructions of the body are still to be passed over to find it, the address
  reached. -/
  stop : Word
  toPass : Nat
  n : Nat
  mask : BitVec 8
  dst : XReg
  count : Nat
  /-- L: the lanes valid in this iteration. -/
  lanes : BitVec 32
  /-- Between iterations: the head groups are awaited. -/
  head : Bool
  deriving DecidableEq, Repr

/-- One group of a stream: its lanes, and how many hold elements (R144, R145). -/
structure Group where
  lanes : Lanes
  n : Nat
  deriving DecidableEq, Repr

/-- Where a stream's elements come from (R145). -/
inductive StreamSrc where
  | mem (base : Word)
  | msg
  deriving DecidableEq, Repr

/-- A configured stream register (R144, R145). -/
structure StreamSt where
  src : StreamSrc
  ty : VTy
  /-- Elements to deliver; for messages 0 means until the end-of-stream word. -/
  bound : Nat
  delivered : Nat
  /-- Groups not yet consumed, head first. -/
  groups : List Group
  /-- Bytes of a message stream that do not yet fill a group. -/
  rest : List Byte
  ended : Bool
  /-- FPMODE at SCFG. -/
  rm : RMode
  deriving DecidableEq, Repr

/-- A barrier that a BARWAIT or a WAITANY waits for: its slot, its place, and whether it has become BROKEN since
(R178). -/
structure BarAwait where
  slot : BSlot
  cl : ClusterId
  off : Nat
  broken : Bool
  deriving DecidableEq, Repr

/-- A piece of a range whose checks have passed, still to be read: its place, its length, and whether it is on a CHECKED
page (R25, R184, R321). -/
structure HeldPiece where
  place : Place
  len : Nat
  checked : Bool
  deriving DecidableEq, Repr

/-- A slot bs0-bs7 (R176). -/
structure SlotSt where
  addr : Word
  seen : BitVec 32
  deriving DecidableEq, Repr

/-- One context. -/
structure Ctx where
  x : Vector Word 64
  f : Vector Word 32
  v : Vector Lanes 32
  pc : Word
  /-- PRIV.LEVEL: SUPER or USER (Table 1.3). -/
  super : Bool
  /-- PRIV.INH. -/
  inh : Bool
  fpmode : RMode
  /-- NX, UF, OF, DZ, NV in bits 4:0 (Table 1.4). -/
  fpflags : BitVec 5
  regionid : Word
  /-- Bit n: helper n has exited. -/
  hdone : BitVec 11
  trappc : Word
  /-- TRAPCAUSE: PPRIV 17:16, SUB 15:8, CAUSE 7:0 (Table 1.5). -/
  trapcause : Word
  trapaddr : Word
  trapinfo : Word
  windows : List Window
  /-- Blocks fetched since the last FENCE: block address and its 32 bytes (R19, R21). -/
  fetched : Map Nat (List Byte)
  /-- The number of the first store that the context's latest FENCE does not precede (R21); 0 before its first one. -/
  fence : Nat
  /-- The number of the first store that the context's launch does not precede (R21, 19 R353). -/
  loaded : Nat
  loop : Option LoopSt
  streams : Vector (Option StreamSt) 8
  /-- OVER of Table 5.6. -/
  ovr : BitVec 8
  bs : Vector SlotSt 8
  rot : Fin 8
  cv : Vector Word 4
  /-- The slot is busy (control context) or live (helper) (R150). -/
  live : Bool
  /-- The instruction at PC has been tried and waits (R153). -/
  waiting : Bool
  /-- The cycle at which a SLEEP ends (R99). -/
  wake : Option Nat
  /-- The cycle of the most recent issue (R154). -/
  lastIssue : Option Nat
  /-- The context whose START, or binding, started this helper (R152). -/
  starter : Option CtxId
  /-- The leaf (R152). -/
  leaf : Option Nat
  /-- The instruction that has issued and performed a part of its work, and goes on with the rest (R154, R184, R230,
  R260, R270, R321). -/
  doing : Option Instr
  /-- The instruction that waits with a request outstanding: at a bank, for a slot, for a job (R153, R170). -/
  asked : Option Instr
  /-- Position of an instruction that performs its work in parts: MSENDS (R184), XJOIN (R321). -/
  pos : Nat
  /-- What such an instruction still reads, checked at its issue. -/
  plan : List HeldPiece
  /-- The barriers that the instruction at PC waits for (R178). -/
  awaits : List BarAwait
  deriving DecidableEq, Repr

/-- A context just after reset: every register zero. -/
def Ctx.init : Ctx where
  x := Vector.replicate 64 0
  f := Vector.replicate 32 0
  v := Vector.replicate 32 (Vector.replicate 32 0)
  pc := 0
  super := false
  inh := false
  fpmode := .rne
  fpflags := 0
  regionid := 0
  hdone := 0
  trappc := 0
  trapcause := 0
  trapaddr := 0
  trapinfo := 0
  windows := []
  fetched := []
  fence := 0
  loaded := 0
  loop := none
  streams := Vector.replicate 8 none
  ovr := 0
  bs := Vector.replicate 8 ⟨0, 0⟩
  rot := 0
  cv := Vector.replicate 4 0
  live := false
  waiting := false
  wake := none
  lastIssue := none
  starter := none
  leaf := none
  doing := none
  asked := none
  pos := 0
  plan := []
  awaits := []

/-- A leaf: what its contexts share (R152, R162, R165). -/
structure Leaf where
  deadline : Word
  launchptr : Word
  levelix : Vector Word 8
  levelcnt : Vector Word 8
  part : Nat
  /-- The control context. -/
  home : CtxId
  /-- The launch it belongs to; none for a leaf that serves a replica (13 R275). -/
  launch : Option Nat
  deriving DecidableEq, Repr

-- Cores (05 R116, 07 R180-R186)

/-- One element of a queued vector memory command, checked and translated at issue (R118, R140). -/
structure ElemPlan where
  /-- Element number. -/
  e : Nat
  /-- The place of its first byte, and the first bit within that byte. -/
  place : Place
  bit : Nat
  /-- The page format that makes it convert; none when it moves as stored (R139). -/
  fmt : Option Fmt
  /-- The place of its block's scale. -/
  scale : Option Place
  /-- It is performed at the home, not at the cluster's own copy: its page, or that of its scale, is CHECKED (R218). -/
  home : Bool
  deriving DecidableEq, Repr

/-- A queued vector command with what it captured at issue (R117, R98, R146). -/
structure VCmd where
  seq : Nat
  /-- The context's index on its core. -/
  ctx : Nat
  instr : Instr
  /-- The mask, and the first and second x or f operand. -/
  mask : Word
  op1 : Word
  op2 : Word
  rm : RMode
  /-- L of the enclosing SREP iteration; all ones outside one. -/
  lanes : BitVec 32
  /-- Head groups of the stream registers it reads. -/
  heads : List (VReg × Lanes)
  plan : List ElemPlan
  /-- The number of the first store that follows its issue and the completion of the context's command before it (R141). -/
  since : Nat
  deriving DecidableEq, Repr

/-- A message on its way or in a mailbox; the header is complete but for PRIO (Table 7.5). -/
structure Message where
  ctx : Nat
  hdr : Word
  payload : List Byte
  /-- The sender's cluster, for the acquire of R168; none for a conversation message, whose scope is pkg. -/
  src : Option ClusterId
  deriving DecidableEq, Repr

/-- An entry of a core's send buffer (R180). -/
structure SendEntry where
  dst : CoreId
  hi : Bool
  msg : Message
  /-- The sender's context index. -/
  sender : Nat
  /-- The mailbox was found full. -/
  retry : Bool
  /-- The order of the sends (R180). -/
  order : Nat
  deriving DecidableEq, Repr

/-- A chunk of a stream, or its end-of-stream word, at the receiving core (R184, R186). -/
structure Chunk where
  tag : BitVec 8
  /-- COREID of the sender. -/
  sender : Word
  bytes : List Byte
  /-- n of the end-of-stream word. -/
  eos : Option (BitVec 32)
  deriving DecidableEq, Repr

/-- A stream-table entry (R166, R185, R186). -/
structure TableEntry where
  tag : BitVec 8
  ctx : Nat
  reg : StreamIx
  handler : Word
  hi : Bool
  /-- SSTOP has not detached its register (R149). -/
  attached : Bool
  /-- COREID of the sender of the stream in progress. -/
  busy : Option Word
  /-- x1 and the sender's cluster of a handler start not yet made. -/
  pending : Option (Word × ClusterId)
  /-- Order of the pending start among the core's. -/
  order : Nat
  deriving DecidableEq, Repr

/-- A core. -/
structure CoreSt where
  trapvec : Word
  vq : List VCmd
  vseq : Nat
  hi : List Message
  lo : List Message
  sendBuf : List SendEntry
  table : Vector (Option TableEntry) 16
  orders : Nat
  inbox : List Chunk
  /-- Contexts that wait in START.W (R167). -/
  startW : List Nat
  /-- The cycle of the core's most recent issue (R154). -/
  lastIssue : Option Nat
  deriving DecidableEq, Repr

/-- A core just after reset. -/
def CoreSt.init : CoreSt where
  trapvec := 0
  vq := []
  vseq := 0
  hi := []
  lo := []
  sendBuf := []
  table := Vector.replicate 16 none
  orders := 0
  inbox := []
  startW := []
  lastIssue := none

-- Memory (08, 09)

/-- A class of commutative updates (R221). -/
inductive RedClass where
  | int (op : RedOp) (wide : Bool)
  | exa
  deriving DecidableEq, Repr

/-- A cluster's partial of a line (R221). -/
structure Partial where
  cl : ClusterId
  line : Nat
  bank : Nat
  cls : RedClass
  bytes : List Byte
  deriving DecidableEq, Repr

/-- Agents of races (R212, R218). -/
inductive Agent where
  | ctx (c : CtxId)
  /-- KIND of Table 9.1, its WHERE, and the job's own number. -/
  | job (kind loc id : Nat)
  deriving DecidableEq, Repr

/-- An access performed on a CHECKED page by an agent whose region is open (R218). -/
structure Access where
  agent : Agent
  region : Word
  lo : Nat
  len : Nat
  write : Bool
  atomic : Bool
  deriving DecidableEq, Repr

/-- An entry that a walker has read: its physical address and walk level. -/
structure WalkMark where
  pte : Nat
  level : Nat
  deriving DecidableEq, Repr

/-- A line from which a walker has read an entry, marked at its home slice, with the walk level of its entries
(R211). -/
structure LineMark where
  line : Nat
  level : Nat
  deriving DecidableEq, Repr

/-- The home policy of a physical range, from the leaf entry that a walker last found for it: first address, size, and
the fixed die (R201, R205). -/
structure Homing where
  pa : Nat
  size : Nat
  die : Option Nat
  deriving DecidableEq, Repr

/-- The value that a granule of 8 bytes had before a store changed it, with the store's number (R21), and whether the
store was a host's (20 R361). -/
structure OldGranule where
  seq : Nat
  pa : Nat
  bytes : List Byte
  host : Bool
  deriving DecidableEq, Repr

/-- What a home slice sends to the memory below it (R201, R202, 09 R222). -/
inductive BelowKind where
  | fetch | writeBack | far
  deriving DecidableEq, Repr

/-- A request of a home slice for memory below that has not reached a home core: the line, and whether it belongs to a
job with DL (R204). -/
structure Below where
  line : Nat
  kind : BelowKind
  dl : Bool
  deriving DecidableEq, Repr

/-- A way of a set of the memory-side cache: its 256-byte line, and whether it is dirty toward the capacity tier
(R202). -/
structure MscWay where
  line : Nat
  dirty : Bool
  deriving DecidableEq, Repr

/-- A TLB entry (R210): the partition, the page's first virtual address and level, and the entries it was read from. -/
structure TlbEntry where
  part : Nat
  va : Nat
  level : Nat
  path : List Nat
  deriving DecidableEq, Repr

/-- A page walk in progress (R210): the partition, an address of the page, the entries that it has read, the TLB entry
that it gives, none where it faults, and the clusters whose misses have joined it. -/
structure PageWalk where
  part : Nat
  va : Nat
  path : List WalkMark
  entry : Option TlbEntry
  joined : List ClusterId
  deriving DecidableEq, Repr

/-- The memory of the module. -/
structure Mem where
  /-- Physical memory as the home slices see it, without partials. -/
  home : List Host.Cell
  /-- Scratchpad bytes, cluster by cluster, 4 MiB each. -/
  sram : List Host.Cell
  /-- Scratchpad words that are full (word number of `sram`). -/
  full : List Nat
  /-- Lines present in L2 (line number, PA / 128). -/
  l2 : List Nat
  /-- Lines dirty in L2, with the contents that memory below may hold: those that the line has had since it was last
  known to equal memory below, oldest first. -/
  dirty : Map Nat (List (List Byte))
  /-- Memory-side cache: the ways in use of each set, at most seven (R202). -/
  msc : Map Nat (List MscWay)
  partials : List Partial
  accesses : List Access
  /-- The TLBs of the clusters and of the dies (R210). -/
  ctlb : Map ClusterId (List TlbEntry)
  dtlb : Map Nat (List TlbEntry)
  /-- The walks in progress, oldest first, at most one for each walker (R210). -/
  walks : List PageWalk
  marks : List LineMark
  homing : List Homing
  /-- What stores have replaced, latest first, and the number of the next store (R21). -/
  past : List OldGranule
  stores : Nat
  /-- Requests that no home core has received yet. -/
  below : List Below
  deriving DecidableEq, Repr

/-- Memory just after reset: nothing listed. -/
def Mem.init : Mem where
  home := []
  sram := []
  full := []
  l2 := []
  dirty := []
  msc := []
  partials := []
  accesses := []
  ctlb := []
  dtlb := []
  walks := []
  marks := []
  homing := []
  past := []
  stores := 0
  below := []

-- Clusters (08 R193-R196)

/-- A CACHE way that holds a copy of a line (R195). -/
structure Way where
  line : Nat
  bank : Nat
  bytes : List Byte
  deriving DecidableEq, Repr

/-- A full/empty request that waits at its bank (R174). -/
structure FeWait where
  ctx : CtxId
  word : Nat
  /-- STE stores this value; none for LDF and LDFF. -/
  store : Option Word
  /-- LDFF keeps the word full. -/
  keep : Bool
  /-- The answer, once served; for STE its presence counts. -/
  answer : Option Word
  deriving DecidableEq, Repr

/-- A BANKCFG between its first and its last step (R196, R230). -/
structure BankChange where
  bank : Fin 16
  mode : BankMode
  deriving DecidableEq, Repr

-- Jobs (11 R235-R243)

/-- A footprint entry of a card; `fmt` is its ATTR FMT code (R235). -/
structure Footprint where
  base : Word
  len : Nat
  fmt : Nat
  deriving DecidableEq, Repr

/-- A job card as read at issue (R235, R238). -/
structure Card where
  addr : Word
  engine : Nat
  op : Nat
  detach : Bool
  eflags : Nat
  reads : List Footprint
  writes : List Footprint
  rm : RMode
  dl : Bool
  /-- The bound barrier's address, taken from its slot at issue (R246). -/
  bar : Option Word
  ctr : Option Nat
  /-- The 144 parameter bytes. -/
  params : List Byte
  deriving DecidableEq, Repr

/-- Where a job stands (R238-R241). -/
inductive JobPhase where
  /-- Waits for its predecessors. -/
  | queued
  /-- Ready, or taken by its engine. -/
  | ready
  | running
  /-- Every access is done; R241 is still to be performed. -/
  | ending
  /-- Its status waits to be reported. -/
  | done
  deriving DecidableEq, Repr

/-- A captured shape entry (Table 11.7). -/
structure Shape where
  part : Nat
  base : Word
  t : Nat
  e : Nat
  tstride : Word
  estride : Word
  bf16 : Bool
  deriving DecidableEq, Repr

/-- A job in its slot. -/
structure JobSt where
  /-- Submission sequence number; the job id holds it modulo 2^59 (R238). -/
  seq : Nat
  card : Card
  part : Nat
  /-- The level of its submitter, with which its pages are accessed. -/
  super : Bool
  /-- Slots of the earlier jobs it waits for (R239). -/
  preds : List Nat
  phase : JobPhase
  /-- Order of arrival at a shared engine (R240). -/
  arrival : Nat
  /-- Units, tokens or rows finished; for a migration job, bytes of its footprint. -/
  progress : Nat
  /-- Bytes delivered, or pages moved. -/
  detail : Nat
  /-- Pages skipped by a migration engine. -/
  skipped : Nat
  flags : BitVec 5
  code : Nat
  entry : Nat
  shape : Option Shape
  /-- The home core that executes an in-DRAM job (R295), or the migration engine that runs a migration job; the number
  of the first store that its latest row operation, or its start, does not precede (14 R299). -/
  home : Nat
  fence : Nat
  deriving DecidableEq, Repr

-- The matrix engine (12)

/-- One control core's half of the engine (R259, R260). -/
structure CtrlHalf where
  running : Bool
  entry : Word
  holds : Bool
  /-- It waits in JTAKE for the other core. -/
  atTake : Bool
  /-- Card address of a job the other core's JTAKE has taken for both. -/
  given : Option Word
  deriving DecidableEq, Repr

/-- The matrix engine of a cluster; operand elements are held as their values, missing ones are +0. -/
structure MatrixSt where
  a0 : List (List FVal)
  a1 : List (List FVal)
  b0 : List (List FVal)
  b1 : List (List FVal)
  /-- Accumulators of 256 lanes; one that is not listed holds +0 in every lane. -/
  acc : Map Nat (List Lane)
  row : Nat
  kstep : Nat
  sem : Vector Nat 8
  stager : CtrlHalf
  issuer : CtrlHalf
  held : Option Nat
  /-- MSTA stores not yet performed: place and bytes. -/
  stores : List (Place × List Byte)
  deriving DecidableEq, Repr

/-- The matrix engine at partition assignment (R255, R259). -/
def MatrixSt.init : MatrixSt where
  a0 := []
  a1 := []
  b0 := []
  b1 := []
  acc := []
  row := 0
  kstep := 0
  sem := Vector.replicate 8 0
  stager := ⟨false, 0, false, false, none⟩
  issuer := ⟨false, 0, false, false, none⟩
  held := none
  stores := []

/-- A cluster. -/
structure Cluster where
  part : Option Nat
  modes : Vector BankMode 16
  changing : List BankChange
  ways : List Way
  /-- Lines requested by load misses and prefetches, oldest first. -/
  fills : List Nat
  feWaits : List FeWait
  clflags : BitVec 5
  /-- Flags on their way to CLFLAGS, with the cycle at which each was set (R49). -/
  clPend : List (BitVec 5 × Nat)
  jobs : Map Nat JobSt
  jobSeq : Nat
  /-- The cycle and the core of the latest submission, and the core of the latest one in an earlier cycle (R238). -/
  subCycle : Nat
  subCore : Option Nat
  subBefore : Option Nat
  mx : MatrixSt
  deriving DecidableEq, Repr

/-- The bank modes at assignment (R194). -/
def initModes : Vector BankMode 16 :=
  Vector.ofFn fun b => if b.val < 8 then .cache else if b.val < 15 then .scratch else .fifo

/-- A cluster just after reset. -/
def Cluster.init : Cluster where
  part := none
  modes := initModes
  changing := []
  ways := []
  fills := []
  feWaits := []
  clflags := 0
  clPend := []
  jobs := []
  jobSeq := 0
  subCycle := 0
  subCore := none
  subBefore := none
  mx := MatrixSt.init

/-- A die: shape entries (R247, R315). -/
structure Die where
  shapes : Map Nat Shape
  deriving DecidableEq, Repr

-- Queue pairs (11 R251-R254, 15 R325)

/-- A queue-pair entry (Table 11.8), posted. -/
structure QpEntry where
  qp : Nat
  /-- List position, and the queue pair's post sequence: the handle (R325). -/
  pos : Nat
  seq : Nat
  part : Nat
  /-- The address of its record. -/
  addr : Word
  src : Word
  dst : Word
  len : Nat
  trig : Option (Nat × Nat)
  lctr : Option Nat
  rctr : Option Nat
  module : Nat
  reduce : Bool
  dkind : Nat
  redop : Nat
  fmt : Nat
  /-- NODE: step, block, contributor, node. -/
  step : Nat
  block : Nat
  contrib : Nat
  node : Nat
  /-- A COPY entry of a work queue: queue and entry number, for its completion record (R365). -/
  wq : Option (Nat × Nat)
  deriving DecidableEq, Repr

/-- A fired entry: its source bytes once every source read is performed, the places that it writes, checked then (R254),
and the cycle of the firing (R253). -/
structure QpFired where
  entry : QpEntry
  data : Option (List Byte)
  dest : List (Place × Nat)
  cycle : Nat
  deriving DecidableEq, Repr

-- Conversations (07 R187-R192)

/-- A transition of a weave (Table 7.6). -/
structure Trans where
  state : Nat
  srole : Nat
  kind : Nat
  next : Nat
  rrole : Nat
  deriving DecidableEq, Repr

/-- A validated weave. -/
structure Weave where
  nstates : Nat
  nroles : Nat
  nkinds : Nat
  choice : Nat
  trans : List Trans
  deriving DecidableEq, Repr

/-- The endpoint a role maps to, with its binding's PRIO (R189). -/
structure RoleMap where
  ctx : CtxId
  hi : Bool
  deriving DecidableEq, Repr

/-- A message that waits at the conversation table for its mailbox (R190). -/
structure HeldMsg where
  dst : CoreId
  hi : Bool
  msg : Message
  /-- The sender, and the order of its send (R180). -/
  sender : CtxId
  order : Nat
  deriving DecidableEq, Repr

/-- A conversation (R188). -/
structure Conv where
  part : Nat
  weave : Weave
  state : Nat
  seq : BitVec 32
  roles : Vector (Option RoleMap) 8
  /-- Recorded delegations not yet applied: role and endpoint (R191). -/
  delegs : List (Nat × RoleMap)
  held : List HeldMsg
  /-- The table keeps the entry only for held deliveries: every role has left (R192). -/
  gone : Bool
  deriving DecidableEq, Repr

-- Experts (13 R271-R288)

/-- A token in a queue or on its way: its bytes, the sender's COREID bits and module (Table 15.6). -/
structure Token where
  bytes : List Byte
  sender : Nat
  module : Nat
  deriving DecidableEq, Repr

/-- States of a replica (Table 13.4); `free` is an index not in use. -/
inductive RepState where
  | free | creating | live | draining | retired
  deriving DecidableEq, Repr

/-- A replica (R277). -/
structure Replica where
  state : RepState
  group : Nat
  version : Option Nat
  out : Nat
  fwd : Nat
  bwd : Nat
  joined : Bool
  queue : List Token
  bqueue : List Token
  /-- A reload of its weights is in progress (R320). -/
  reloading : Bool
  /-- CREATING: its weights have been copied (R283, 18 R340). -/
  copied : Bool
  deriving DecidableEq, Repr

/-- An unused replica index. -/
def Replica.init : Replica := ⟨.free, 0, none, 0, 0, 0, false, [], [], false, false⟩

/-- A policy record (Table 13.3). -/
structure Policy where
  window : Nat
  create : Nat
  retire : Nat
  maxrep : Nat
  ce : Nat
  cd : Nat
  deriving DecidableEq, Repr

/-- A permit handle (R280). -/
structure Handle where
  id : Nat
  step : Nat
  count : Nat
  deriving DecidableEq, Repr

/-- An expert (Table 13.2 and its state). -/
structure Expert where
  part : Nat
  gsize : Nat
  node : Nat
  module : Nat
  block0 : Nat
  nblk : Nat
  weights : Word
  wbytes : Nat
  entry : Word
  arg : Word
  rdeadline : Word
  /-- First cluster and COPY address of each group. -/
  groups : List (ClusterId × Word)
  /-- The policy in force, and the latest record. -/
  policy : Policy
  nextPolicy : Policy
  reps : Vector Replica 16
  snap : Nat
  ectr : Nat
  dctr : Vector Nat 8
  /-- Tokens admitted in the current window, cycles it still lasts once a step has started one, and whether the last
  window was low. -/
  count : Nat
  windowLeft : Option Nat
  low : Bool
  sealed : Bool
  join : BitVec 16
  handles : List Handle
  nextHandle : Nat
  deriving DecidableEq, Repr

/-- A token between its admission and its replica (R279, R281, R287). -/
structure Delivery where
  name : Nat
  rep : Nat
  token : Token
  step : Nat
  backward : Bool
  deriving DecidableEq, Repr

/-- A snapshot on its way to a die's selector, or held by it (R278). -/
structure Snapshot where
  die : Nat
  name : Nat
  version : Nat
  live : BitVec 16
  deriving DecidableEq, Repr

-- Parameter nodes (13 R289-R294)

/-- A block descriptor (Table 13.7). -/
structure BlockDesc where
  len : Nat
  ncontrib : Nat
  offset : Nat
  wdest : Word
  deriving DecidableEq, Repr

/-- A contribution (R290). -/
structure Contribution where
  /-- The low 32 bits of its step. -/
  step : Nat
  block : Nat
  contrib : Nat
  exa : Bool
  /-- Element bits: FP32, or 512-bit EXA values. -/
  elems : List Nat
  /-- RCTR of the queue-pair entry that sent it: it gains 1 once the sequencer has performed it (21 R376). -/
  rctr : Option Nat
  deriving DecidableEq, Repr

/-- A block of the pending step. -/
structure BlockSt where
  bitmap : Nat
  mask : Nat
  /-- EXA buffer, element by element; missing ones are +0. -/
  buf : List Nat
  complete : Bool
  /-- Chunks of its rule that have exited. -/
  chunks : Nat
  /-- Its rule has run, with the error RULE or without. -/
  done : Bool
  failed : Bool
  deriving DecidableEq, Repr

/-- The rule core inside a chunk (R291): PC, x registers, v registers of 64 lanes, the address of the private gradient
buffer, and the lookahead windows: instructions left and the registers they cover (R71). -/
structure RuleCore where
  pc : Word
  x : Vector Word 64
  v : Map Nat (List Lane)
  grad : Word
  windows : List (Nat × List RegName)
  deriving DecidableEq, Repr

/-- A parameter node. -/
structure Node where
  /-- The partition that owns it. -/
  part : Option Nat
  loaded : Bool
  /-- The partition that issued PNRULE. -/
  rulePart : Nat
  code : Word
  hyper : Word
  store : Word
  nelem : Nat
  ctr : Option Nat
  blocks : List BlockDesc
  committed : Nat
  /-- Copy B is the current one. -/
  curB : Bool
  sts : List BlockSt
  /-- Complete blocks whose rule has not run, in order of completion. -/
  order : List Nat
  rule : Option RuleCore
  /-- Elements of the next arrays written in this attempt: array 0-2 and element. -/
  written : List (Nat × Nat)
  /-- Contributions that have arrived at the sequencer. -/
  inbox : List Contribution
  armed : Bool
  /-- Cycles left to the deadline of the armed step; none when there is no deadline. -/
  left : Option Nat
  /-- Every rule of the armed step had run before its deadline passed. -/
  met : Bool
  /-- Cycles still to wait before the commit (R348). -/
  wait : Nat
  failed : Bool
  dup : Nat
  steperr : Nat
  stray : Nat
  flags : BitVec 5
  deriving DecidableEq, Repr

/-- A node just after reset. -/
def Node.init : Node where
  part := none
  loaded := false
  rulePart := 0
  code := 0
  hyper := 0
  store := 0
  nelem := 0
  ctr := none
  blocks := []
  committed := 0
  curB := false
  sts := []
  order := []
  rule := none
  written := []
  inbox := []
  armed := false
  left := none
  met := false
  wait := 0
  failed := false
  dup := 0
  steperr := 0
  stray := 0
  flags := 0

-- Partitions (18 R336, 20 Table 20.7)

/-- Table 18.2, with the way to DUMPED as a state of its own. -/
inductive PartState where
  | running | halting | saving | saved | restoring | dumping | dumped | faulted
  deriving DecidableEq, Repr

/-- A queue descriptor of QTAB (Table 20.7): physical addresses and sizes. -/
structure QueueDesc where
  ring : Nat
  control : Nat
  compl : Nat
  log2n : Nat
  clog2n : Nat
  deriving DecidableEq, Repr

/-- What PARTCFG sets (Table 20.7). -/
structure PartCfg where
  ptroot : Nat
  trapvec : Word
  save : Nat
  dump : Nat
  flog : Nat
  npool : Nat × Nat
  cpool : Nat × Nat
  ctrs : Nat × Nat
  qps : Nat × Nat
  wq0 : Nat
  nwq : Nat
  cfgq : Nat
  nodes : BitVec 8
  ctrlset : BitVec 16
  convs : Nat
  xnames : Nat
  queues : List QueueDesc
  clusters : List ClusterId
  enumcopy : Nat
  enumva : Word
  deriving DecidableEq, Repr

/-- A compressed page (14 R302): the address that its leaf's FRAME gives, the 4 KiB slots of the capacity tier that hold
it, its contents. -/
structure Packed where
  frame : Nat
  slots : List Nat
  cells : List Host.Cell
  deriving DecidableEq, Repr

/-- A configured partition. -/
structure Part where
  cfg : PartCfg
  state : PartState
  stepno : Nat
  /-- A fault discard has happened since the last XSTEP (R285). -/
  discarded : Bool
  /-- Counter that gains 1 at SAVED, and at RUNNING (R343, R345). -/
  preqCtr : Option Nat
  resumeCtr : Option Nat
  logSeq : Nat
  /-- CYCLE at the halt (R344). -/
  haltCycle : Nat
  /-- What the dump is for: class, WHERE, ADDR and DETAIL of the record, and the CYCLE of the detection (R338, R346). -/
  dumpRec : Option (Nat × Nat × Word × List Byte × Nat)
  /-- Names the layout bytes of the latest save (R344). -/
  saveTag : Nat
  /-- Launches waiting to be placed, oldest first: queue, entry, record address, record (R161). -/
  waiting : List (Nat × Nat × Word × List Byte)
  /-- Free ranges of the pools, first and count: near-tier frames of 64 KiB, capacity-tier slots of 4 KiB (R302). -/
  frames : List (Nat × Nat)
  slots : List (Nat × Nat)
  /-- Its compressed pages. -/
  packed : List Packed
  deriving DecidableEq, Repr

-- Launches (06 R157-R163)

/-- A combining node of a completion tree: words still missing, and the combined word (R163). -/
structure TreeNode where
  path : List Nat
  missing : Nat
  word : Word
  deriving DecidableEq, Repr

/-- A launch that has been placed. -/
structure Launch where
  queue : Nat
  entry : Nat
  part : Nat
  counts : List Nat
  tree : List TreeNode
  deriving DecidableEq, Repr

-- Host interface (20)

/-- A work queue's state on the device. -/
structure WorkQueue where
  /-- TAIL as last observed, HEAD, CTAIL. -/
  tail : Nat
  head : Nat
  ctail : Nat
  /-- The entry read and not yet performed. -/
  entry : Option (Nat × List Byte)
  /-- Completion records held until the ring has room: status word, entry number. -/
  records : List (Word × Word)
  deriving DecidableEq, Repr

/-- Ownership and boot (20 R367, R368, R372, R373). -/
structure Owner where
  key : List Byte
  nonce : Nat
  seq : Nat
  /-- Cycles of the lease that remain; none when the election is open. -/
  lease : Option Nat
  lastCount : Nat
  deriving DecidableEq, Repr

/-- A firmware image slot in flash: version and contents (R372). -/
structure Image where
  version : Nat
  bytes : List Byte
  deriving DecidableEq, Repr

/-- What the module has sent to peers, and what it waits for (20 R369-R371). -/
inductive PeerMsg where
  /-- Bytes of a queue-pair entry for a peer. -/
  | write (peer : Nat) (e : QpEntry) (data : List Byte)
  | contribution (peer : Nat) (node : Nat) (part : Nat) (c : Contribution)
  | expertOp (op : RemoteOp)
  /-- The answer to a peer's expert operation: its result, none where the name is not registered here, and what it
  returns besides. -/
  | answer (peer tag : Nat) (result : Option Word) (bytes : List Byte)
  /-- The join mask of a step for blocks of a peer's node: first block and count (R281). -/
  | joinMask (peer node part block count : Nat) (mask : BitVec 16)
  | late (peer : Nat) (sender : Nat) (bytes : List Byte)
  deriving DecidableEq, Repr

/-- Telemetry (20 R359, R373, R374). -/
structure Telemetry where
  dropped : Nat
  /-- Deadline-class requests served late, per home core (R204). -/
  late : Map Nat Nat
  alarms : BitVec 8
  request : List Byte
  report : List Byte
  deriving DecidableEq, Repr

/-- The grades (00 R3). -/
inductive Grade where
  | fq576 | fq512 | fq448
  deriving DecidableEq, Repr

/-- What a home core is asked to do: a home slice's request; to fetch a line for the memory-side cache, which the
request then makes dirty or not, or to take a line that it evicts (08 R202); the next row of an in-DRAM job (14 R300); a
transfer of a migration engine (14 R303). -/
inductive ReqKind where
  | slice (k : BelowKind)
  | fill (dirty : Bool)
  | evict
  | row (job : JobRef)
  | move (write : Bool)
  deriving DecidableEq, Repr

/-- A request at a home core (08 R203): its 128-byte line, its bank, subarray and row (08 R199), its latest-service cycle
if it is of the deadline class, and whether it is of a job with DL (08 R204), its arrival cycle. -/
structure HomeReq where
  kind : ReqKind
  line : Nat
  bank : Nat
  sub : Nat
  row : Nat
  deadline : Option Nat
  dl : Bool
  arrived : Nat
  deriving DecidableEq, Repr

/-- A home core: requests, the open row of each bank (subarray and row), the refreshes that it has postponed, and the
sets of the memory-side cache whose tags its tag cache holds (08 R202-R204). -/
structure HomeCore where
  reqs : List HomeReq
  openRows : Map Nat (Nat × Nat)
  postponed : Nat
  tags : List Nat
  deriving DecidableEq, Repr

/-- The units of the base die and of the module. -/
structure Pkg where
  grade : Grade
  links : BitVec 10
  ports : BitVec 16
  /-- Physical positions of live clusters and slices, and live stacks and channels, as the enumeration table gives
  them (Table 20.3). -/
  clmap : List Byte
  l2map : List Byte
  liveStacks : BitVec 16
  channels : BitVec 32
  idkey : List Byte
  /-- The private half of the identity key; it never leaves the core (20 R373). -/
  idseed : List Byte
  serial : List Byte
  owner : Owner
  images : List Image
  /-- The image that runs. -/
  running : Option Nat
  poweredDown : Bool
  telemetry : Telemetry
  ctrs : Map Nat Word
  qps : Map Nat (List QpEntry)
  /-- Post sequence of each queue pair. -/
  qpSeq : Map Nat Nat
  fired : List QpFired
  convs : Map Nat Conv
  experts : Map Nat Expert
  deliveries : List Delivery
  /-- Snapshots the selectors hold, and snapshots on their way. -/
  selectors : List Snapshot
  inFlight : List Snapshot
  nodes : Vector Node 8
  queues : Map Nat WorkQueue
  /-- Control block of queue 0: 64 bytes; its ring: 8 KiB; its completion ring: 4 KiB (Table 20.4). -/
  window : List Host.Cell
  peers : List (List Byte)
  /-- Remote names: first, count, peer (R370). -/
  names : List (Nat × Nat × Nat)
  outbox : List PeerMsg
  /-- What peers have sent to this module and what has not been performed here (20 R369-R371). -/
  incoming : List PeerMsg
  /-- What partitions have sent to peers (R338): partition, peer, cycle. -/
  sent : List (Nat × Nat × Nat)
  homes : Map Nat HomeCore
  /-- Control contexts that the distributor counts as busy: given, or freed and not yet reported (R356). -/
  busy : List CtxId
  /-- Fault records kept in the management core's flash log (R349). -/
  flash : List (List Byte)
  /-- STEPNO of partitions that have been reset (18 R348; Table 1.1: not reset). -/
  steps : Map Nat Nat
  /-- The answer to the latest host RMA operation; none is an access error (R361). -/
  answer : Option (List Byte)
  deriving DecidableEq, Repr

-- The machine

/-- What a turn of the agenda is for. -/
inductive Act where
  /-- A core issues one of its ready contexts (R154). -/
  | core (k : CoreId)
  /-- An event of the opcode table; `unit` names the unit of an event without operand. -/
  | event (i : Instr) (unit : Nat)
  /-- A message of a peer module arrives (20 R369). -/
  | peer (m : PeerMsg)
  deriving DecidableEq, Repr

/-- One turn: the cycles that pass before it, and what acts. -/
structure Turn where
  cycles : Nat
  act : Act
  deriving DecidableEq, Repr

/-- The module. -/
structure State where
  /-- The context that issues, and its state; `ctxs` holds the others. -/
  cur : CtxId
  ctx : Ctx
  ctxs : Map CtxId Ctx
  leaves : Map Nat Leaf
  nextLeaf : Nat
  cores : Map CoreId CoreSt
  clusters : Map ClusterId Cluster
  dies : Map Nat Die
  mem : Mem
  parts : Map Nat Part
  launches : Map Nat Launch
  nextLaunch : Nat
  pkg : Pkg
  /-- Cycles since module reset (R15). -/
  cycle : Nat
  /-- The MODEL's own: what acts next, the unit of an operandless event, the index of the next free value, and the
  order of arrival at shared engines. -/
  agenda : List Turn
  unit : Nat
  fresh : Nat
  arrivals : Nat
  deriving DecidableEq, Repr

/-- Logical position (0, 0, 0), core 0, context 0. -/
def ctx0 : CtxId := ⟨⟨⟨0, 0, 0⟩, 0⟩, 0⟩

/-- The first 9 * 8 positions of each die's map: every cluster of FQ-576 is live. -/
def fullMap : List Byte := (List.replicate 8 (List.replicate 9 (0xFF : Byte) ++ List.replicate 7 0)).flatten

/-- The base-die and module units after module reset. -/
def Pkg.init : Pkg where
  grade := .fq576
  links := 0x3FF
  ports := 0
  clmap := fullMap
  l2map := List.replicate 128 0xFF
  liveStacks := 0xFFF
  channels := 0xFFFFFFFF
  idkey := [
    0x3B, 0x6A, 0x27, 0xBC, 0xCE, 0xB6, 0xA4, 0x2D, 0x62, 0xA3, 0xA8, 0xD0, 0x2A, 0x6F, 0x0D, 0x73,
    0x65, 0x32, 0x15, 0x77, 0x1D, 0xE2, 0x43, 0xA6, 0x3A, 0xC0, 0x48, 0xA1, 0x8B, 0x59, 0xDA, 0x29]
  idseed := List.replicate 32 0
  serial := List.replicate 16 0
  owner := ⟨List.replicate 32 0, 0, 0, none, 0⟩
  images := [⟨0, []⟩, ⟨0, []⟩]
  running := some 0
  poweredDown := false
  telemetry := ⟨0, [], 0, [], []⟩
  ctrs := []
  qps := []
  qpSeq := []
  fired := []
  convs := []
  experts := []
  deliveries := []
  selectors := []
  inFlight := []
  nodes := Vector.replicate 8 Node.init
  queues := []
  window := []
  peers := []
  names := []
  outbox := []
  incoming := []
  sent := []
  homes := []
  busy := []
  flash := []
  steps := []
  answer := none

/-- The machine right after module reset: no partition is configured and no context runs. -/
def State.reset : State where
  cur := ctx0
  ctx := Ctx.init
  ctxs := []
  leaves := []
  nextLeaf := 0
  cores := []
  clusters := []
  dies := []
  mem := Mem.init
  parts := []
  launches := []
  nextLaunch := 0
  pkg := Pkg.init
  cycle := 0
  agenda := []
  unit := 0
  fresh := 0
  arrivals := 0

end Sys2Proof.Machine
end

