-- ==== Sys2Proof/Machine/Num.lean ====
section
/-!
DEFINITION. Number formats and rounding (02 R34-R37, R45-R54): values as exact dyadic numbers, one rounding function
for every format of Table 2.2, the exact operations, and the conversions of Table 2.9.
-/
namespace Sys2Proof.Machine

/-- The flag bits of Table 1.4: NX 4, UF 3, OF 2, DZ 1, NV 0. -/
abbrev Flags := BitVec 5
def flNV : Flags := 1
def flDZ : Flags := 2
def flOF : Flags := 4
def flUF : Flags := 8
def flNX : Flags := 16

/-- A flag, if a condition holds. -/
def flagIf (b : Bool) (f : Flags) : Flags := if b then f else 0

/-- The last column of Table 2.2: what the top exponent code holds. -/
inductive TopCode where
  | ieee | e4m3 | normal
  deriving DecidableEq, Repr

/-- A row of Table 2.2. -/
structure FSpec where
  eb : Nat
  mb : Nat
  bias : Nat
  top : TopCode
  deriving DecidableEq, Repr

def specFp64 : FSpec := ⟨11, 52, 1023, .ieee⟩
def specFp32 : FSpec := ⟨8, 23, 127, .ieee⟩
def specBf16 : FSpec := ⟨8, 7, 127, .ieee⟩
def specFp16 : FSpec := ⟨5, 10, 15, .ieee⟩
def specE5M2 : FSpec := ⟨5, 2, 15, .ieee⟩
def specE4M3 : FSpec := ⟨4, 3, 7, .e4m3⟩
def specE3M2 : FSpec := ⟨3, 2, 3, .normal⟩
def specE2M3 : FSpec := ⟨2, 3, 1, .normal⟩
def specE2M1 : FSpec := ⟨2, 1, 1, .normal⟩

/-- Width of the format in bits. -/
def FSpec.width (s : FSpec) : Nat := 1 + s.eb + s.mb

/-- The exponent of the largest power of two the format holds. -/
def FSpec.emax (s : FSpec) : Int :=
  match s.top with
  | .ieee => (2 ^ s.eb : Nat) - 2 - s.bias
  | .e4m3 | .normal => (2 ^ s.eb : Nat) - 1 - s.bias

/-- The exponent of the smallest normal value. -/
def FSpec.emin (s : FSpec) : Int := 1 - s.bias

/-- The significand of the largest finite value, in units of 2^(emax - mb). -/
def FSpec.maxSig (s : FSpec) : Nat :=
  match s.top with
  | .e4m3 => 2 ^ (s.mb + 1) - 2
  | .ieee | .normal => 2 ^ (s.mb + 1) - 1

/-- The bits of the largest finite value without its sign. -/
def FSpec.maxBits (s : FSpec) : Nat := (s.emax + s.bias - 1).toNat * 2 ^ s.mb + s.maxSig

/-- The bits of a sign. -/
def FSpec.sign (s : FSpec) (neg : Bool) : Nat := if neg then 2 ^ (s.eb + s.mb) else 0

/-- The bits of +Inf. -/
def FSpec.infBits (s : FSpec) : Nat := (2 ^ s.eb - 1) * 2 ^ s.mb

/-- Table 2.3; a format without NaN gives +0 (R51). -/
def FSpec.nanBits (s : FSpec) : Nat :=
  match s.top with
  | .ieee => s.infBits + 2 ^ (s.mb - 1)
  | .e4m3 => s.infBits + 2 ^ s.mb - 1
  | .normal => 0

/-- R35, R36: the value of a bit pattern. -/
def FSpec.decode (s : FSpec) (bits : Nat) : FVal :=
  let neg := bits / 2 ^ (s.eb + s.mb) % 2 = 1
  let e := bits / 2 ^ s.mb % 2 ^ s.eb
  let m := bits % 2 ^ s.mb
  let top := e = 2 ^ s.eb - 1
  if s.top = .ieee && top then if m = 0 then .inf neg else .nan (m < 2 ^ (s.mb - 1))
  else if s.top = .e4m3 && top && m = 2 ^ s.mb - 1 then .nan false
  else if e = 0 then .fin neg m (s.emin - s.mb)
  else .fin neg (m + 2 ^ s.mb) (e - s.bias - s.mb)

/-- Number of bits of a natural number. -/
def bitLen (m : Nat) : Nat := if m = 0 then 0 else Nat.log2 m + 1

/-- Table 2.7: whether the magnitude is rounded up, from its sign, the parity of the truncated magnitude, the ordering
of the discarded part against one half, and whether anything is discarded. -/
def roundsUp (rm : RMode) (neg odd : Bool) (half : Ordering) (inexact : Bool) : Bool :=
  match rm with
  | .rne => half = .gt || (half = .eq && odd)
  | .rtz => false
  | .rup => inexact && !neg
  | .rdn => inexact && neg
  | .rmm => half ≠ .lt

/-- Round (m + d) * 2^e, where d is 0, or strictly between 0 and 1 when sticky holds, to a multiple of 2^q: the
multiple, and whether it differs from the exact value. -/
def roundQ (rm : RMode) (neg : Bool) (m : Nat) (e : Int) (sticky : Bool) (q : Int) : Nat × Bool :=
  if q ≤ e then
    let r := m * 2 ^ (e - q).toNat
    (if roundsUp rm neg (r % 2 = 1) .lt sticky then r + 1 else r, sticky)
  else
    let d := (q - e).toNat
    let r := m / 2 ^ d
    let rem := m % 2 ^ d
    let half := if sticky && 2 * rem = 2 ^ d then .gt else compare (2 * rem) (2 ^ d)
    let inexact := rem ≠ 0 || sticky
    (if roundsUp rm neg (r % 2 = 1) half inexact then r + 1 else r, inexact)

/-- R46: the rounding of a nonzero exact value (m + d) * 2^e, d as in `roundQ`, with its flags. -/
def FSpec.round (s : FSpec) (rm : RMode) (neg : Bool) (m : Nat) (e : Int) (sticky : Bool := false) : Nat × Flags :=
  let ex : Int := e + bitLen m - 1
  let unb := (roundQ rm neg m e sticky (ex - s.mb)).1
  let exR : Int := if unb ≥ 2 ^ (s.mb + 1) then ex + 1 else ex
  let q := max ex s.emin - s.mb
  let r := roundQ rm neg m e sticky q
  let tooBig := exR > s.emax || (exR = s.emax && (if unb ≥ 2 ^ (s.mb + 1) then 2 ^ s.mb else unb) > s.maxSig)
  if tooBig then
    let toInf := s.top = .ieee &&
      (match rm with | .rne | .rmm => true | .rtz => false | .rup => !neg | .rdn => neg)
    (s.sign neg + if toInf then s.infBits else s.maxBits, flOF ||| flNX)
  else
    let tiny := exR < s.emin
    let bits := if r.1 = 0 then 0 else (q + s.mb + s.bias - 1).toNat * 2 ^ s.mb + r.1
    (s.sign neg + bits, flagIf r.2 flNX ||| flagIf (r.2 && tiny) flUF)

/-- An exact value in a format (Table 2.9, the columns of the floating-point formats). -/
def FSpec.encode (s : FSpec) (rm : RMode) (v : FVal) : Nat × Flags :=
  match v with
  | .nan sig => (s.nanBits, flagIf (sig || s.top = .normal) flNV)
  | .inf neg => if s.top = .ieee then (s.sign neg + s.infBits, 0) else (s.sign neg + s.maxBits, flOF)
  | .fin neg m e => if m = 0 then (s.sign neg, 0) else s.round rm neg m e

/-- NV for a signalling NaN among operands (R47). -/
def sigFlag : List FVal → Flags
  | [] => 0
  | .nan true :: _ => flNV
  | _ :: vs => sigFlag vs

/-- Whether a value is a NaN. -/
def FVal.isNan : FVal → Bool
  | .nan _ => true
  | _ => false

/-- The value with its sign inverted. -/
def FVal.neg : FVal → FVal
  | .nan s => .nan s
  | .inf n => .inf (!n)
  | .fin n m e => .fin (!n) m e

/-- The signed integer m * 2^(e - q) of a finite value whose exponent is at least q. -/
def scaled (neg : Bool) (m : Nat) (e q : Int) : Int :=
  let a : Int := (m * 2 ^ (e - q).toNat : Nat)
  if neg then -a else a

/-- The exact sum of finite values as (negative, magnitude, exponent). -/
def exactAdd (n1 : Bool) (m1 : Nat) (e1 : Int) (n2 : Bool) (m2 : Nat) (e2 : Int) : Bool × Nat × Int :=
  let q := min e1 e2
  let t := scaled n1 m1 e1 q + scaled n2 m2 e2 q
  (t < 0, t.natAbs, q)

/-- Round an exact finite sum; an exact zero is the common sign of its terms, else +0, or -0 under RDN (R46). -/
def FSpec.sum (s : FSpec) (rm : RMode) (n1 : Bool) (m1 : Nat) (e1 : Int) (n2 : Bool) (m2 : Nat) (e2 : Int) :
    Nat × Flags :=
  let t := exactAdd n1 m1 e1 n2 m2 e2
  if t.2.1 = 0 then
    (s.sign (if m1 = 0 && m2 = 0 && n1 = n2 then n1 else rm = .rdn), 0)
  else s.round rm t.1 t.2.1 t.2.2

/-- R54: A + B. -/
def fAdd (s : FSpec) (rm : RMode) (a b : FVal) : Nat × Flags :=
  match a, b with
  | .nan _, _ | _, .nan _ => (s.nanBits, sigFlag [a, b])
  | .inf n, .inf n' => if n = n' then (s.sign n + s.infBits, 0) else (s.nanBits, flNV)
  | .inf n, _ | _, .inf n => (s.sign n + s.infBits, 0)
  | .fin n1 m1 e1, .fin n2 m2 e2 => s.sum rm n1 m1 e1 n2 m2 e2

/-- R54: A - B. -/
def fSub (s : FSpec) (rm : RMode) (a b : FVal) : Nat × Flags := fAdd s rm a b.neg

/-- R54: A * B. -/
def fMul (s : FSpec) (rm : RMode) (a b : FVal) : Nat × Flags :=
  match a, b with
  | .nan _, _ | _, .nan _ => (s.nanBits, sigFlag [a, b])
  | .inf n, .inf n' => (s.sign (n != n') + s.infBits, 0)
  | .inf n, .fin n' m _ | .fin n' m _, .inf n =>
    if m = 0 then (s.nanBits, flNV) else (s.sign (n != n') + s.infBits, 0)
  | .fin n1 m1 e1, .fin n2 m2 e2 =>
    if m1 * m2 = 0 then (s.sign (n1 != n2), 0) else s.round rm (n1 != n2) (m1 * m2) (e1 + e2)

/-- R54, R122: A * B + C, rounded once; 0 * Inf sets NV even when C is a quiet NaN. -/
def fFma (s : FSpec) (rm : RMode) (a b c : FVal) : Nat × Flags :=
  match a, b with
  | .nan _, _ | _, .nan _ => (s.nanBits, sigFlag [a, b, c])
  | .inf n, .inf n' => infPlus (n != n')
  | .inf n, .fin n' m _ | .fin n' m _, .inf n => if m = 0 then (s.nanBits, flNV) else infPlus (n != n')
  | .fin n1 m1 e1, .fin n2 m2 e2 =>
    match c with
    | .nan g => (s.nanBits, flagIf g flNV)
    | .inf n => (s.sign n + s.infBits, 0)
    | .fin n3 m3 e3 => s.sum rm (n1 != n2) (m1 * m2) (e1 + e2) n3 m3 e3
where
  /-- An infinite product plus C. -/
  infPlus (n : Bool) : Nat × Flags :=
    match c with
    | .nan g => (s.nanBits, flagIf g flNV)
    | .inf n' => if n = n' then (s.sign n + s.infBits, 0) else (s.nanBits, flNV)
    | .fin _ _ _ => (s.sign n + s.infBits, 0)

/-- Extra bits that division and square root compute below any target's precision. -/
def guardBits : Nat := 64

/-- R54: A / B. -/
def fDiv (s : FSpec) (rm : RMode) (a b : FVal) : Nat × Flags :=
  match a, b with
  | .nan _, _ | _, .nan _ => (s.nanBits, sigFlag [a, b])
  | .inf _, .inf _ => (s.nanBits, flNV)
  | .inf n, .fin n' _ _ => (s.sign (n != n') + s.infBits, 0)
  | .fin n _ _, .inf n' => (s.sign (n != n'), 0)
  | .fin n1 m1 e1, .fin n2 m2 e2 =>
    let n := n1 != n2
    if m2 = 0 then if m1 = 0 then (s.nanBits, flNV) else (s.sign n + s.infBits, flDZ)
    else if m1 = 0 then (s.sign n, 0)
    else
      let k := guardBits + bitLen m2
      let p := m1 * 2 ^ k
      s.round rm n (p / m2) (e1 - e2 - k) (p % m2 ≠ 0)

/-- The integer square root of n, found bit by bit from bit k - 1 downward. -/
def isqrtFrom (n : Nat) : Nat → Nat → Nat
  | 0, r => r
  | k + 1, r => isqrtFrom n k (if (r + 2 ^ k) * (r + 2 ^ k) ≤ n then r + 2 ^ k else r)

/-- The integer square root. -/
def isqrt (n : Nat) : Nat := isqrtFrom n (bitLen n / 2 + 1) 0

/-- R54: the square root of A. -/
def fSqrt (s : FSpec) (rm : RMode) (a : FVal) : Nat × Flags :=
  match a with
  | .nan g => (s.nanBits, flagIf g flNV)
  | .inf n => if n then (s.nanBits, flNV) else (s.infBits, 0)
  | .fin n m e =>
    if m = 0 then (s.sign n, 0)
    else if n then (s.nanBits, flNV)
    else
      let k := 2 * guardBits + if e % 2 = 0 then 0 else 1
      let v := m * 2 ^ k
      let r := isqrt v
      s.round rm false r ((e - k) / 2) (r * r ≠ v)

/-- The order of two values that are not NaN; zeros are equal. -/
def FVal.cmp (a b : FVal) : Ordering :=
  match a, b with
  | .inf n, .inf n' => if n = n' then .eq else if n then .lt else .gt
  | .inf n, _ => if n then .lt else .gt
  | _, .inf n => if n then .gt else .lt
  | .fin n1 m1 e1, .fin n2 m2 e2 => let q := min e1 e2; compare (scaled n1 m1 e1 q) (scaled n2 m2 e2 q)
  | _, _ => .eq

/-- The sign of a value; a NaN counts as positive. -/
def FVal.isNeg : FVal → Bool
  | .nan _ => false
  | .inf n | .fin n _ _ => n

/-- R123: minimumNumber (or maximumNumber) on bit patterns of a format. -/
def fMinMax (s : FSpec) (isMax : Bool) (a b : Nat) : Nat × Flags :=
  let va := s.decode a
  let vb := s.decode b
  let fl := sigFlag [va, vb]
  if va.isNan && vb.isNan then (s.nanBits, fl)
  else if va.isNan then (b, fl)
  else if vb.isNan then (a, fl)
  else
    let aLess := match va.cmp vb with | .lt => true | .gt => false | .eq => va.isNeg
    (if aLess != isMax then a else b, fl)

/-- R124: EQ, LT, LE and UN with their NV. -/
def fCompare (c : FcmpCond) (a b : FVal) : Bool × Flags :=
  let un := a.isNan || b.isNan
  let sig := sigFlag [a, b]
  match c with
  | .eq => (!un && a.cmp b = .eq, sig)
  | .lt => (!un && a.cmp b = .lt, flagIf un flNV)
  | .le => (!un && a.cmp b ≠ .gt, flagIf un flNV)
  | .un => (un, sig)

/-- R126: the class bit. -/
def fClass (s : FSpec) (bits : Nat) : Nat :=
  match s.decode bits with
  | .inf n => if n then 0 else 7
  | .nan g => if g then 8 else 9
  | .fin n m _ =>
    let sub := m < 2 ^ s.mb
    if m = 0 then if n then 3 else 4
    else if n then if sub then 2 else 1
    else if sub then 5 else 6

/-- Round an exact value to an integer (R46); whether it is inexact. -/
def roundInt (rm : RMode) (neg : Bool) (m : Nat) (e : Int) : Int × Bool :=
  let r := roundQ rm neg m e false 0
  (if neg then -(r.1 : Int) else r.1, r.2)

/-- Table 2.9, integer targets of the range lo to hi. -/
def toIntRange (rm : RMode) (lo hi : Int) (v : FVal) : Int × Flags :=
  match v with
  | .nan _ => (0, flNV)
  | .inf n => (if n then lo else hi, flNV)
  | .fin n m e =>
    let r := roundInt rm n m e
    if r.1 < lo then (lo, flNV) else if r.1 > hi then (hi, flNV) else (r.1, flagIf r.2 flNX)

/-- An integer as an exact value. -/
def FVal.ofInt (i : Int) : FVal := .fin (i < 0) i.natAbs 0

/-- Integer to integer: exact, or saturated with NV (R50). -/
def satInt (lo hi : Int) (i : Int) : Int × Flags :=
  if i < lo then (lo, flNV) else if i > hi then (hi, flNV) else (i, 0)

/-- A number format as conversions see it: an integer of w bits, or a row of Table 2.2. -/
inductive NumTy where
  | int (signed : Bool) (w : Nat)
  | flt (s : FSpec)
  deriving DecidableEq, Repr

/-- The least and the greatest integer of an integer type. -/
def intLo (signed : Bool) (w : Nat) : Int := if signed then -(2 ^ (w - 1) : Nat) else 0
def intHi (signed : Bool) (w : Nat) : Int := if signed then (2 ^ (w - 1) : Nat) - 1 else (2 ^ w : Nat) - 1

/-- The low w bits of a number, read as signed or unsigned. -/
def readInt (signed : Bool) (w n : Nat) : Int :=
  let u := n % 2 ^ w
  if signed && 2 ^ (w - 1) ≤ u then (u : Int) - (2 ^ w : Nat) else u

/-- The low w bits of an integer in two's complement. -/
def wrapBits (w : Nat) (i : Int) : Nat := (i % (2 ^ w : Nat)).toNat

/-- The width of a number in bits. -/
def NumTy.width : NumTy → Nat
  | .int _ w => w
  | .flt s => s.width

/-- R50, Table 2.9: convert a bit pattern of one format into another. -/
def convert (rm : RMode) (src dst : NumTy) (bits : Nat) : Nat × Flags :=
  match src, dst with
  | .int sg w, .int sg' w' =>
    let r := satInt (intLo sg' w') (intHi sg' w') (readInt sg w bits)
    (wrapBits w' r.1, r.2)
  | .int sg w, .flt s => s.encode rm (FVal.ofInt (readInt sg w bits))
  | .flt s, .int sg w =>
    let r := toIntRange rm (intLo sg w) (intHi sg w) (s.decode (bits % 2 ^ s.width))
    (wrapBits w r.1, r.2)
  | .flt s, .flt s' => s'.encode rm (s.decode (bits % 2 ^ s.width))

/-- R122: the format of a scalar FP instruction. -/
def ffmtSpec : FFmt → FSpec
  | .fp16 => specFp16 | .bf16 => specBf16 | .fp32 => specFp32 | .fp64 => specFp64

/-- R125. -/
def cvtNumTy : CvtTy → NumTy
  | .i8 => .int true 8 | .z8 => .int false 8 | .i16 => .int true 16 | .z16 => .int false 16
  | .i32 => .int true 32 | .z32 => .int false 32 | .i64 => .int true 64 | .z64 => .int false 64
  | .f16 => .flt specFp16 | .bf16 => .flt specBf16 | .f32 => .flt specFp32 | .f64 => .flt specFp64

/-- Table 5.1. -/
def vtyNum : VTy → NumTy
  | .i8 => .int true 8 | .z8 => .int false 8 | .i16 => .int true 16 | .z16 => .int false 16
  | .i32 => .int true 32 | .z32 => .int false 32
  | .f16 => .flt specFp16 | .bf16 => .flt specBf16 | .f32 => .flt specFp32 | .f64 => .flt specFp64

/-- R132. -/
def laneNum : LaneFmt → NumTy
  | .ty t => vtyNum t
  | .fp8e4m3 => .flt specE4M3 | .fp8e5m2 => .flt specE5M2 | .fp6e2m3 => .flt specE2M3
  | .fp6e3m2 => .flt specE3M2 | .fp4e2m1 => .flt specE2M1

/-- The number format of an element of a page or card format; none for EXA. -/
def fmtNum : Fmt → Option NumTy
  | .int8 => some (.int true 8) | .uint8 => some (.int false 8) | .int16 => some (.int true 16)
  | .int32 => some (.int true 32) | .int64 => some (.int true 64)
  | .fp16 => some (.flt specFp16) | .bf16 => some (.flt specBf16) | .fp32 => some (.flt specFp32)
  | .fp64 => some (.flt specFp64)
  | .fp8e4m3 => some (.flt specE4M3) | .fp8e5m2 => some (.flt specE5M2) | .fp6e2m3 => some (.flt specE2M3)
  | .fp6e3m2 => some (.flt specE3M2) | .fp4e2m1 => some (.flt specE2M1)
  | .mxfp8e4m3 | .mxfp8e5m2 | .mxfp6e2m3 | .mxfp6e3m2 | .mxfp4 | .mxint8 | .dxb4 | .dxb8 | .exa => none

/-- R52: the pairwise tree over n = 2^k leaves, absent leaves as none; its flags. -/
def pairTree (s : FSpec) (rm : RMode) : Nat → List (Option Nat) → Option Nat × Flags
  | 0, ts => (ts.headD none, 0)
  | k + 1, ts =>
    let l := pairTree s rm k (ts.take (2 ^ k))
    let r := pairTree s rm k (ts.drop (2 ^ k))
    match l.1, r.1 with
    | none, none => (none, 0)
    | some a, none => (some a, l.2)
    | none, some b => (some b, r.2)
    | some a, some b =>
      let t := fAdd s rm (s.decode a) (s.decode b)
      (some t.1, l.2 ||| r.2 ||| t.2)

/-- The least k with 2^k at least n. -/
def ceilLog2 (n : Nat) : Nat := if n ≤ 1 then 0 else Nat.log2 (n - 1) + 1

/-- R52: the sum of terms, absent ones as none; +0 when all are absent. -/
def pairSum (s : FSpec) (rm : RMode) (ts : List (Option Nat)) : Nat × Flags :=
  let r := pairTree s rm (ceilLog2 ts.length) ts
  (r.1.getD 0, r.2)

end Sys2Proof.Machine
end

