-- ==== Sys2Proof/Machine/Block.lean ====
section
/-!
DEFINITION. The block formats MX and DXB, packing, and EXA, the exact accumulator (02 R37-R44).
-/
namespace Sys2Proof

/-- Bits of one element of a block format (Table 2.1). -/
def BlkFmt.bits : BlkFmt → Nat
  | .mxfp8e4m3 | .mxfp8e5m2 | .mxint8 | .dxb8 => 8
  | .mxfp6e2m3 | .mxfp6e3m2 => 6
  | .mxfp4 | .dxb4 => 4

/-- Whether a block format is DXB. -/
def BlkFmt.isDxb : BlkFmt → Bool
  | .dxb4 | .dxb8 => true
  | _ => false

/-- Bytes of a block's scale: 1 for MX, 4 for DXB (R208). -/
def BlkFmt.scaleBytes (b : BlkFmt) : Nat := if b.isDxb then 4 else 1

/-- Bytes of a block's 32 elements (R37). -/
def BlkFmt.dataBytes (b : BlkFmt) : Nat := 4 * b.bits

/-- The block format of a storage format. -/
def Fmt.blk? : Fmt → Option BlkFmt
  | .mxfp8e4m3 => some .mxfp8e4m3 | .mxfp8e5m2 => some .mxfp8e5m2 | .mxfp6e2m3 => some .mxfp6e2m3
  | .mxfp6e3m2 => some .mxfp6e3m2 | .mxfp4 => some .mxfp4 | .mxint8 => some .mxint8
  | .dxb4 => some .dxb4 | .dxb8 => some .dxb8
  | _ => none

/-- Bits of one element of a storage format; EXA has 512 (Table 2.1). -/
def Fmt.bits (f : Fmt) : Nat :=
  match f.blk? with
  | some b => b.bits
  | none => match Machine.fmtNum f with | some t => t.width | none => 512

end Sys2Proof

namespace Sys2Proof.Machine

/-- R37: the packed number of a list of elements of w bits, lowest first. -/
def packElems (w : Nat) : List Nat → Nat
  | [] => 0
  | e :: es => e % 2 ^ w + 2 ^ w * packElems w es

/-- The elements of a packed number. -/
def unpackElems (w : Nat) : Nat → Nat → List Nat
  | 0, _ => []
  | n + 1, p => p % 2 ^ w :: unpackElems w n (p / 2 ^ w)

/-- The element format of an MX block with floating-point elements. -/
def mxSpec : BlkFmt → FSpec
  | .mxfp8e5m2 => specE5M2 | .mxfp6e2m3 => specE2M3 | .mxfp6e3m2 => specE3M2 | .mxfp4 => specE2M1
  | _ => specE4M3

/-- R39: the exponent of the element format's largest power of two. -/
def mxEmax : BlkFmt → Int
  | .mxfp8e4m3 => 8 | .mxfp8e5m2 => 15 | .mxfp6e2m3 => 2 | .mxfp6e3m2 => 4 | .mxfp4 => 2 | _ => 0

/-- The signed reading of an MXINT8 element. -/
def int8Of (n : Nat) : Int := readInt true 8 n

/-- R39: one element, already divided by 2^X; saturating, never Inf or NaN. -/
def mxEncode (b : BlkFmt) (rm : RMode) (v : FVal) : Nat × Flags :=
  match b, v with
  | .mxint8, .fin n m e =>
    let r := roundInt rm n m (e + 6)
    let s := if r.1 > 127 then 127 else if r.1 < -127 then -127 else r.1
    (wrapBits 8 s, flagIf (s ≠ r.1) flOF ||| flagIf (r.2 || s ≠ r.1) flNX ||| flagIf (m ≠ 0 && s = 0) flUF)
  | .mxint8, .inf n => (wrapBits 8 (if n then -127 else 127), flOF)
  | _, .inf n => ((mxSpec b).sign n + (mxSpec b).maxBits, flOF)
  | _, .fin n m e =>
    let s := mxSpec b
    if m = 0 then (s.sign n, 0)
    else
      let r := s.round rm n m e
      if r.2 &&& flOF ≠ 0 then (s.sign n + s.maxBits, r.2)
      else (r.1, r.2 ||| flagIf (r.1 % 2 ^ (s.width - 1) = 0) flUF)
  | _, .nan _ => (0, 0)

/-- The exponent of the leading bit of the largest finite magnitude; none when all are zero or none is finite. -/
def leadExp : List FVal → Option Int
  | [] => none
  | .fin _ m e :: vs =>
    let rest := leadExp vs
    if m = 0 then rest
    else
      let k : Int := e + bitLen m - 1
      some (match rest with | some r => max r k | none => k)
  | _ :: vs => leadExp vs

/-- The value divided by 2^x. -/
def FVal.scaleDown (v : FVal) (x : Int) : FVal :=
  match v with
  | .fin n m e => .fin n m (e - x)
  | v => v

/-- R39: quantise a block into an MX format: elements, scale code, flags. -/
def mxQuant (b : BlkFmt) (rm : RMode) (vs : List FVal) : List Nat × Nat × Flags :=
  if vs.any FVal.isNan then (vs.map fun _ => 0, 0xFF, sigFlag vs)
  else
    let x : Int := match leadExp vs with
      | none => 0
      | some l => min (max (l - mxEmax b) (-127)) 127
    let es := vs.map fun v => mxEncode b rm (v.scaleDown x)
    (es.map Prod.fst, (x + 127).toNat, es.foldl (fun f e => f ||| e.2) 0)

/-- R38: an MX element's value under scale code s. -/
def mxDecode (b : BlkFmt) (s elem : Nat) : FVal :=
  if s = 0xFF then .nan false
  else
    match b with
    | .mxint8 => let q := int8Of elem; .fin (q < 0) q.natAbs (-6 + s - 127)
    | _ => ((mxSpec b).decode elem).scaleDown (127 - (s : Int))

-- DXB

/-- R41: mmax, msmall and the shift c. -/
def dxbMax (b : BlkFmt) : Nat := if b = .dxb8 then 63 else 3
def dxbSmall (b : BlkFmt) : Nat := if b = .dxb8 then 8 else 2
def dxbShift (b : BlkFmt) : Int := if b = .dxb8 then 516 else 512

/-- R40: the magnitude field of an element is this many bits wide. -/
def dxbMBits (b : BlkFmt) : Nat := if b = .dxb8 then 6 else 2

/-- round_rne(|v| * 2^(c - E)) of a finite magnitude. -/
def dxbRne (b : BlkFmt) (m : Nat) (e : Int) (E : Nat) : Nat := (roundQ .rne false m (e + dxbShift b - E) false 0).1

/-- R41, fit: the smallest E from 1 to 1022 under which the magnitude rounds to at most mmax, else 1022. -/
def dxbFit (b : BlkFmt) (m : Nat) (e : Int) : Nat :=
  if m = 0 then 1
  else
    -- The leading bit's exponent fixes E up to two places.
    let top : Int := e + bitLen m - 1
    let guess := (top + dxbShift b - dxbMBits b).toNat
    search guess 4
where
  /-- The first exponent from E on that fits. -/
  search (E : Nat) : Nat → Nat
    | 0 => min (max E 1) 1022
    | k + 1 =>
      let E' := min (max E 1) 1022
      if dxbRne b m e E' ≤ dxbMax b || E' = 1022 then E' else search (E' + 1) k

/-- The larger of two finite magnitudes. -/
def maxMag (a c : Nat × Int) : Nat × Int :=
  if scaled false a.1 a.2 (min a.2 c.2) ≤ scaled false c.1 c.2 (min a.2 c.2) then c else a

/-- The largest magnitude of a list. -/
def maxMagOf : List (Nat × Int) → Nat × Int
  | [] => (0, 0)
  | v :: vs => vs.foldl maxMag v

/-- The finite magnitudes of a block. -/
def finMags : List FVal → List (Nat × Int)
  | [] => []
  | .fin _ m e :: vs => (m, e) :: finMags vs
  | _ :: vs => finMags vs

/-- R41, enc(v, E): the magnitude m and its flags. -/
def dxbEnc (b : BlkFmt) (rm : RMode) (n : Bool) (m : Nat) (e : Int) (E : Nat) : Nat × Flags :=
  let r := roundQ rm n m (e + dxbShift b - E) false 0
  let q := min r.1 (dxbMax b)
  (q, flagIf (r.1 > dxbMax b) flOF ||| flagIf (r.2 || r.1 > dxbMax b) flNX ||| flagIf (m ≠ 0 && q = 0) (flUF ||| flNX))

/-- The distance | |v| - q * 2^(E - c) | in units of 2^k, for k at most both exponents. -/
def dxbDist (b : BlkFmt) (m : Nat) (e : Int) (q E : Nat) (k : Int) : Nat :=
  (scaled false m e k - scaled false q (E - dxbShift b) k).natAbs

/-- R41: the choice of one element that is not NaN: selector, magnitude, flags. -/
def dxbChoose (b : BlkFmt) (rm : RMode) (E0 E1 : Nat) (v : FVal) : Bool × Bool × Nat × Flags :=
  match v with
  | .nan _ => (false, false, 0, 0)
  | .inf n => (true, n, dxbMax b, flOF)
  | .fin n m e =>
    let q0 := dxbEnc b rm n m e E0
    let q1 := dxbEnc b rm n m e E1
    let k := min e (min ((E0 : Int) - dxbShift b) ((E1 : Int) - dxbShift b))
    if dxbDist b m e q0.1 E0 k < dxbDist b m e q1.1 E1 k then (false, n, q0) else (true, n, q1)

/-- R40: an element's bits. -/
def dxbBits (b : BlkFmt) (sel s : Bool) (m : Nat) : Nat :=
  m + s.toNat * 2 ^ dxbMBits b + sel.toNat * 2 ^ (dxbMBits b + 1)

/-- R41: quantise a block into DXB: elements, scale word, flags. -/
def dxbQuant (b : BlkFmt) (rm : RMode) (vs : List FVal) : List Nat × Nat × Flags :=
  let fins := finMags vs
  let hasInf := vs.any fun v => match v with | .inf _ => true | _ => false
  let E1 := if fins.isEmpty then if hasInf then 1022 else 1
    else let t := maxMagOf fins; dxbFit b t.1 t.2
  let small := fins.filter fun v => dxbRne b v.1 v.2 E1 < dxbSmall b
  let E0 := if small.isEmpty then E1 else let t := maxMagOf small; dxbFit b t.1 t.2
  let cs := vs.map fun v => (v.isNan, dxbChoose b rm E0 E1 v)
  let fl := cs.foldl (fun f c => f ||| c.2.2.2.2) 0 ||| sigFlag vs
  let plain (nanSel : Bool) : List Nat :=
    cs.map fun c => if c.1 then dxbBits b nanSel false 0 else dxbBits b c.2.1 c.2.2.1 c.2.2.2.1
  if vs.any FVal.isNan then
    if E0 = E1 || !(cs.any fun c => !c.1 && !c.2.1) then (plain false, E1 * 2 ^ 10 + 1023, fl)
    else (plain true, 1023 * 2 ^ 10 + E0, fl ||| flNV)
  else (plain false, E1 * 2 ^ 10 + E0, fl)

/-- R40: a DXB element's value under a scale word; the reserved bits of the word make it NaN. -/
def dxbDecode (b : BlkFmt) (word elem : Nat) : FVal :=
  let mb := dxbMBits b
  let E : Nat := if elem / 2 ^ (mb + 1) % 2 = 1 then word / 2 ^ 10 % 2 ^ 10 else word % 2 ^ 10
  let s := elem / 2 ^ mb % 2 = 1
  if word / 2 ^ 20 % 2 ^ 12 ≠ 0 || E = 1023 then .nan false
  else if E = 0 then .fin s 0 0
  else .fin s (elem % 2 ^ mb) (E - dxbShift b)

/-- Quantise a block (R39, R41): elements, scale, flags. -/
def blkQuant (b : BlkFmt) (rm : RMode) (vs : List FVal) : List Nat × Nat × Flags :=
  if b.isDxb then dxbQuant b rm vs else mxQuant b rm vs

/-- The exact value of a block element (R38, R40). -/
def blkDecode (b : BlkFmt) (scale elem : Nat) : FVal :=
  if b.isDxb then dxbDecode b scale elem else mxDecode b (scale % 256) elem

/-- R40: NV when a block with reserved scale bits has an element decoded. -/
def blkScaleFlag (b : BlkFmt) (scale : Nat) : Flags := flagIf (b.isDxb && scale / 2 ^ 20 % 2 ^ 12 ≠ 0) flNV

-- EXA

/-- An EXA value (R42): N modulo 2^496 and the four marks. -/
structure Exa where
  n : Nat
  nan : Bool
  pinf : Bool
  ninf : Bool
  ov : Bool
  deriving DecidableEq, Repr

/-- R42: the 512 bits of an EXA value; reserved bits are ignored. -/
def Exa.ofBits (b : Nat) : Exa :=
  ⟨b % 2 ^ 496, b / 2 ^ 496 % 2 = 1, b / 2 ^ 497 % 2 = 1, b / 2 ^ 498 % 2 = 1, b / 2 ^ 499 % 2 = 1⟩

/-- R42: reserved bits and byte 63 are written as zero. -/
def Exa.toBits (a : Exa) : Nat :=
  a.n % 2 ^ 496 + a.nan.toNat * 2 ^ 496 + a.pinf.toNat * 2 ^ 497 + a.ninf.toNat * 2 ^ 498 + a.ov.toNat * 2 ^ 499

/-- The signed value of N. -/
def Exa.val (a : Exa) : Int := readInt true 496 a.n

/-- R43, add_n. -/
def Exa.addN (a : Exa) (k : Int) : Exa :=
  let t := a.val + k
  { a with
    n := wrapBits 496 t
    ov := a.ov || t < -(2 ^ 495 : Nat) || t > (2 ^ 495 : Nat) - 1 }

/-- R43, accumulate: add an FP32 value. -/
def Exa.addF32 (a : Exa) (bits : Nat) : Exa :=
  match specFp32.decode bits with
  | .nan _ => { a with nan := true }
  | .inf n => if n then { a with ninf := true } else { a with pinf := true }
  | .fin n m e => a.addN (scaled n m e (-149))

/-- R43, accumulate_exa. -/
def Exa.addExa (a b : Exa) : Exa :=
  { a with
    nan := a.nan || b.nan, pinf := a.pinf || b.pinf, ninf := a.ninf || b.ninf, ov := a.ov || b.ov }.addN b.val

/-- R44, Table 2.6: the value as FP32 bits with its flags. -/
def Exa.toF32 (a : Exa) (rm : RMode) : Nat × Flags :=
  if a.nan || (a.pinf && a.ninf) || a.ov then (specFp32.nanBits, flNV)
  else if a.pinf then (specFp32.infBits, 0)
  else if a.ninf then (specFp32.sign true + specFp32.infBits, 0)
  else if a.n = 0 then (0, 0)
  else specFp32.round rm (a.val < 0) a.val.natAbs (-149)

end Sys2Proof.Machine
end

