-- ==== Sys2Proof/Config.lean ====
section
/-!
DEFINITION. What the spec leaves to the implementation or leaves open: constants without a body, so that no proof can
know their value. notes/assumptions/5.md lists who uses each.
-/
namespace Sys2Proof.Config

/-- A free value: the n-th choice that the spec leaves open (assumption 5). -/
opaque freeNat : Nat → Nat

/-- A free choice between two outcomes (assumption 5). -/
opaque freeBit : Nat → Bool

/-- A free byte of a record layout that only RESUME interprets (18 R344). -/
opaque layoutByte : Nat → Byte

/-- A free byte of a layout that records something: what is recorded, and the byte's offset (18 R344). -/
opaque recordByte : List Nat → Nat → Byte

/-- Refreshes that the JEDEC interface permits a home core to postpone (08 R204). -/
opaque postponeLimit : Nat

/-- The verification of a firmware image against the root key (20 R372). -/
opaque imageVerifies : List Byte → Bool

/-- A peer's module holds a name, at the n-th free choice (20 R370). -/
opaque peerHolds : Nat → Nat → Nat → Bool

/-- The lengths in elements of the blocks that the expert of a peer's name has, in a step: peer, name, step (15 R321). -/
opaque peerSegments : Nat → Nat → Nat → List Nat

/-- The length in elements of a block of a peer's node, in a step: peer, node, block, step (15 R321). -/
opaque peerBlock : Nat → Nat → Nat → Nat → Nat

/-- The set of a capacity-tier line in the memory-side cache (08 R202). -/
opaque mscSet : Nat → Nat

/-- The bank, the subarray and the row of a capacity-tier line at its subchannel (08 R200). -/
opaque capRow : Nat → Nat × Nat × Nat

/-- The queue-pair engine that serves a queue pair, or a work queue's COPY entries (11 R251). -/
opaque qpEngine : Nat → Nat

/-- Sets whose tags a home core's tag cache holds (08 R202). -/
opaque tagSets : Nat

/-- The image slot that an offset of the host's window writes, if it lies in the flash window (20 R372). -/
opaque flashSlot : Nat → Nat → Option Nat

/-- The version of a firmware image (20 R372). -/
opaque imageVersion : List Byte → Nat

/-- The random nonce drawn at the n-th free choice (20 R367). -/
opaque nonce : Nat → Nat

end Sys2Proof.Config
end

