-- ==== Sys2Proof/Machine/Operands.lean ====
section
/-!
DEFINITION. Operand forms: reading and writing a context's registers (01 R11, R12), sign extensions, the effective
addresses (03 R63, R68), and the registers that each instruction reads and writes, for the lookahead check (03 R71).
-/
namespace Sys2Proof.Machine

-- Registers

/-- Read an x register; x0 reads as zero (R11). -/
def Ctx.rx (c : Ctx) (r : XReg) : Word := if r = 0 then 0 else c.x.get r

/-- Write an x register; a write to x0 is ignored (R11). -/
def Ctx.wx (c : Ctx) (r : XReg) (v : Word) : Ctx := if r = 0 then c else { c with x := c.x.set r.val v }

/-- Read an f register. -/
def Ctx.rf (c : Ctx) (r : FReg) : Word := c.f.get r

/-- Write an f register, all 64 bits. A narrower result is written zero-extended (R12, R122). -/
def Ctx.wf (c : Ctx) (r : FReg) (v : Word) : Ctx := { c with f := c.f.set r.val v }

/-- The lanes of a v register. -/
def Ctx.rv (c : Ctx) (r : VReg) : Lanes := c.v.get r

/-- Write the lanes of a v register. -/
def Ctx.wv (c : Ctx) (r : VReg) (l : Lanes) : Ctx := { c with v := c.v.set r.val l }

/-- The v register that a stream register is: v24 + j (R144). -/
def vOfStream (j : StreamIx) : VReg := ⟨24 + j.val, by omega⟩

/-- The stream register that a v register is, if it is one of v24-v31. -/
def streamOf? (r : VReg) : Option StreamIx := if h : 24 ≤ r.val then some ⟨r.val - 24, by omega⟩ else none

/-- A 64-bit word of a natural number. -/
def word (n : Nat) : Word := BitVec.ofNat 64 n

/-- A register number of an operand field that holds an x or an f register. -/
def fReg (n : Fin 64) : FReg := Fin.ofNat 32 n.val

-- Immediates and addresses

/-- sext(IMM30). -/
def sext30 (i : BitVec 30) : Word := i.signExtend 64
/-- sext(OFF32) or sext(IMM32). -/
def sext32 (i : BitVec 32) : Word := i.signExtend 64

/-- ea = x[BASE] + (x[INDEX] << SCALE) + sext(OFF17), modulo 2^64 (R63). -/
def memEa (m : MemOp) (c : Ctx) : Word :=
  c.rx m.base + (c.rx m.index <<< m.scale.val) + m.off.signExtend 64

/-- Bits 63:56 of an address all equal: it is canonical (R23). -/
def canonical (a : Word) : Bool := a.toNat / 2 ^ 56 = 0 || a.toNat / 2 ^ 56 = 0xFF

/-- Bits 63:56 are 0xFE: the address is mesh space (R23). -/
def isMesh (a : Word) : Bool := a.toNat / 2 ^ 56 = 0xFE

-- The registers an instruction names

/-- The x registers that an address operand reads. -/
def memRegs (m : MemOp) : List RegName := [.x m.base, .x m.index]

/-- The accumulators d .. d + m1 of a matrix instruction. -/
def accRange (d : AReg) (m1 : Fin 64) : List RegName :=
  (List.range (m1.val + 1)).map fun k => .a (Fin.ofNat 64 (d.val + k))

/-- The register of one side of FCVT (R125). -/
def cvtReg (t : CvtTy) (r : Fin 64) : RegName := if t.isFloat then .f (fReg r) else .x r

/-- The registers that a VSHL or VSHR amount reads. -/
def vshRegs : VshSrc → List RegName
  | .reg r => [.v r] | .imm _ => []

/-- The registers that the source of VBCAST reads. -/
def bcastRegs : BcastSrc → List RegName
  | .x r => [.x r] | .f r => [.f r] | .lane r _ => [.v r] | .imm _ => []

/-- The register that the source of REDX reads. -/
def redxReg : RedxSrc → RegName
  | .f r => .f r | .exa r => .x r

/-- The registers that an instruction writes (03 R71: the registers its reference entry lists). -/
def dests : Instr → List RegName
  | .sysrd d _ | .li d _ | .addpc d _ | .li64 d _ | .jal d _ | .jalr d _ _ => [.x d]
  | .add d _ _ | .sub d _ _ | .mul d _ _ | .mulh d _ _ | .mulhz d _ _ | .div d _ _ | .divz d _ _ | .rem d _ _
  | .remz d _ _ | .and d _ _ | .or d _ _ | .xor d _ _ | .andn d _ _ | .shl d _ _ | .shr d _ _ | .sha d _ _
  | .rot d _ _ | .slt d _ _ | .sltz d _ _ | .seq d _ _ | .min d _ _ | .max d _ _ | .minz d _ _ | .maxz d _ _ => [.x d]
  | .popc d _ | .clz d _ | .ctz d _ | .bfx d _ _ _ | .bfi d _ _ _ _ | .brev d _ | .sel d _ _ _ | .rankx d _ _ _
  | .addi d _ _ | .andi d _ _ | .ori d _ _ | .xori d _ _ | .shli d _ _ | .shri d _ _ | .shai d _ _
  | .mesha _ d _ _ _ _ => [.x d]
  | .ld d _ _ _ _ _ _ | .ldc d _ _ _ _ => [.x d]
  | .start d _ _ | .startW d _ _ | .joinh d _ | .hstat d | .ldf d _ _ | .ldff d _ _ | .festat d _ => [.x d]
  | .bararr d _ | .barwait d _ | .waitany d _ | .bartest d _ | .mrecv d _ _ | .mbind d _ _ _ _ => [.x d]
  | .cvopen d _ | .cvstat d _ => [.x d]
  | .fadd _ _ d _ _ | .fsub _ _ d _ _ | .fmul _ _ d _ _ | .ffma _ _ d _ _ _ | .fdiv _ _ d _ _ | .fsqrt _ _ d _
  | .fmin _ d _ _ | .fmax _ d _ _ | .fsgn _ _ d _ _ | .fmvf d _ | .cvtexa _ d _ => [.f d]
  | .fcmp _ _ d _ _ | .fclass _ d _ | .fmvx d _ => [.x d]
  | .fcvt o _ => [cvtReg o.dst o.d]
  | .vadd _ _ _ d _ _ _ | .vsub _ _ _ d _ _ _ | .vmul _ _ _ d _ _ _ | .vfma _ _ d _ _ _ _ | .vmin _ d _ _ _
  | .vmax _ d _ _ _ | .vsel _ d _ _ _ | .vand _ d _ _ _ | .vor _ d _ _ _ | .vxor _ d _ _ _ | .vshl _ d _ _ _
  | .vshr _ d _ _ _ | .vcvt _ _ _ _ d _ _ | .vdq _ _ d _ _ _ | .vscan _ _ _ d _ _ | .vsf _ _ d _ _
  | .vperm _ d _ _ _ | .vbcast _ _ d _ | .vins _ d _ _ => [.v d]
  | .vqnt _ _ d _ c _ => [.v d, .x c]
  | .vcmp _ _ d _ _ _ | .vext _ d _ _ | .vstat d | .srep d _ _ => [.x d]
  | .vred _ t _ d _ _ => [if t.isF then .f (fReg d) else .x d]
  | .vld _ _ d _ _ _ _ | .vlds _ _ d _ _ _ _ _ | .vgath _ _ d _ _ _ _ _ _ => [.v d]
  | .amo _ d _ _ _ _ _ _ _ _ | .cas d _ _ _ _ _ _ _ _ | .bankcfg _ d _ => [.x d]
  | .cpjob d _ _ | .mxjob d _ _ | .rtjob d _ _ | .drjob d _ _ | .mgjob d _ _ | .jwait d _ | .jpoll d _
  | .jcancel d _ | .shpset d _ _ | .jtake d | .mprogRd d => [.x d]
  | .mzero d m1 => accRange d m1
  | .mma d _ _ m1 _ => accRange d m1
  | .ctradd d _ _ | .ctrwait d _ _ | .qppost d _ _ | .qpcancel d _ _ => [.x d]
  | .xreg d _ | .xpol d _ _ | .xresv d _ _ _ | .xrel d _ | .xsend d _ _ _ _ | .xsendr d _ _ _ _ | .xbatchFwd d _ _ _
  | .xbatchBwd d _ _ _ | .xbatchReload d _ | .xseal d _ | .xjoin d _ _ | .xstep d _ | .xstat _ d _ _ | .xspawn d _ _
  | .xretire d _ _ | .pnrule d _ _ | .pnstep d _ _ _ | .pnstat _ d _ => [.x d]
  | .preq d _ | .preqCtr d _ _ | .resume d _ | .resumeCtr d _ _ => [.x d]
  | _ => []

/-- The registers that an instruction reads. -/
def sources : Instr → List RegName
  | .exit a | .syswr a _ | .clflagsWrite a | .sleep a _ | .munbind a | .jdone a | .mprogWr a => [.x a]
  | .add _ a b | .sub _ a b | .mul _ a b | .mulh _ a b | .mulhz _ a b | .div _ a b | .divz _ a b | .rem _ a b
  | .remz _ a b | .and _ a b | .or _ a b | .xor _ a b | .andn _ a b | .shl _ a b | .shr _ a b | .sha _ a b
  | .rot _ a b | .slt _ a b | .sltz _ a b | .seq _ a b | .min _ a b | .max _ a b | .minz _ a b | .maxz _ a b
  | .bfi _ a b _ _ | .bcc _ a b _ => [.x a, .x b]
  | .popc _ a | .clz _ a | .ctz _ a | .bfx _ a _ _ | .brev _ a | .addi _ a _ | .andi _ a _ | .ori _ a _ | .xori _ a _
  | .shli _ a _ | .shri _ a _ | .shai _ a _ | .bmask _ a _ | .jalr _ a _ => [.x a]
  | .sel _ a b c | .rankx _ a b c | .mesha _ _ a b c _ => [.x a, .x b, .x c]
  | .ld _ m _ _ _ _ _ | .ldc _ m _ _ _ | .pfl m | .ldf _ m _ | .ldff _ m _ | .festat _ m | .cinv m | .disc m => memRegs m
  | .st r m _ _ _ | .ste r m | .stf r m | .feset r m => .x r :: memRegs m
  | .start _ a _ | .startW _ a _ | .joinh _ a | .barinitBind _ a | .waitany _ a | .mrecv _ a _ | .mbind _ _ a _ _
  | .cvopen _ a => [.x a]
  | .barinitInit _ a b | .cvjoin _ a b _ => [.x a, .x b]
  | .barexp _ b | .cvdeleg _ b => [.x b]
  | .msend a b c | .msends a b c | .pnsend a b c _ => [.x a, .x b, .x c]
  | .cvsend _ c a b | .cvchoose _ c a b => [.x c, .x a, .x b]
  | .fadd _ _ _ a b | .fsub _ _ _ a b | .fmul _ _ _ a b | .fdiv _ _ _ a b | .fmin _ _ a b | .fmax _ _ a b
  | .fcmp _ _ _ a b | .fsgn _ _ _ a b => [.f a, .f b]
  | .ffma _ _ _ a b c => [.f a, .f b, .f c]
  | .fsqrt _ _ _ a | .fclass _ _ a | .fmvx _ a => [.f a]
  | .fmvf _ a | .cvtexa _ _ a => [.x a]
  | .fcvt o _ => [cvtReg o.src o.a]
  | .vadd _ _ _ _ a b m | .vsub _ _ _ _ a b m | .vmul _ _ _ _ a b m | .vmin _ _ a b m | .vmax _ _ a b m
  | .vcmp _ _ _ a b m | .vsel _ _ a b m | .vand _ _ a b m | .vor _ _ a b m | .vxor _ _ a b m | .vperm _ _ a b m =>
    [.v a, .v b, .x m]
  | .vfma _ _ _ a b c m => [.v a, .v b, .v c, .x m]
  | .vshl _ _ a s m | .vshr _ _ a s m => .v a :: .x m :: vshRegs s
  | .vcvt _ _ _ _ _ a m | .vqnt _ _ _ a _ m | .vred _ _ _ _ a m | .vscan _ _ _ _ a m | .vsf _ _ _ a m => [.v a, .x m]
  | .vdq _ _ _ a c m => [.v a, .x c, .x m]
  | .vbcast _ s _ m => .x m :: bcastRegs s
  | .vins _ _ a _ => [.x a]
  | .vext _ _ a _ => [.v a]
  | .vld _ _ _ a _ m _ => [.x a, .x m]
  | .vst _ _ r a _ m => [.v r, .x a, .x m]
  | .vlds _ _ _ a b _ m _ => [.x a, .x b, .x m]
  | .vsts _ _ r a b _ m => [.v r, .x a, .x b, .x m]
  | .vgath _ _ _ a b _ _ m _ => [.x a, .v b, .x m]
  | .vscat _ _ r a b _ _ m => [.v r, .x a, .v b, .x m]
  | .scfgMem _ _ a b => [.x a, .x b]
  | .scfgMsg _ _ b => [.x b]
  | .amo _ _ b a _ _ _ _ _ _ => [.x b, .x a]
  | .cas d b a _ _ _ _ _ _ => [.x d, .x b, .x a]
  | .red _ b a _ _ _ _ => [.x b, .x a]
  | .redx s a _ _ _ => [redxReg s, .x a]
  | .bankcfg _ _ a | .cpjob _ a _ | .mxjob _ a _ | .rtjob _ a _ | .drjob _ a _ | .mgjob _ a _ | .jwait _ a
  | .jpoll _ a | .jcancel _ a | .shpset _ a _ => [.x a]
  | .mlda _ a b _ _ _ _ | .mldb _ a b _ _ _ | .ctrset a b => [.x a, .x b]
  | .mma d _ _ m1 _ => accRange d m1
  | .msta d a b m1 _ => .x a :: .x b :: accRange d m1
  | .ctradd _ a b | .ctrwait _ a b | .qppost _ a b | .qpcancel _ a b | .xpol _ a b | .xjoin _ a b | .xstat _ _ a b
  | .xspawn _ a b | .xretire _ a b | .pnrule _ a b | .preqCtr _ a b | .resumeCtr _ a b => [.x a, .x b]
  | .xreg _ a | .xrel _ a | .xbatchReload _ a | .xseal _ a | .xstep _ a | .pnstat _ _ a | .preq _ a | .resume _ a =>
    [.x a]
  | .xresv _ a b c | .xsend _ a b c _ | .xsendr _ a b c _ | .xbatchFwd _ a b c | .xbatchBwd _ a b c
  | .pnstep _ a b c => [.x a, .x b, .x c]
  | _ => []

/-- x0 is never a register that a window covers (R71). -/
def RegName.real : RegName → Bool
  | .x r => r ≠ 0
  | _ => true

/-- The stream register that SCFG and SSTOP name in D: they write its lanes (R71, R145, R149). -/
def streamDests : Instr → List RegName
  | .scfgMem _ d _ _ | .scfgMsg _ d _ | .sstop d => [.v (vOfStream d)]
  | _ => []

/-- An instruction reads or writes one of the registers. -/
def touches (i : Instr) (rs : List RegName) : Bool :=
  (dests i ++ streamDests i ++ sources i).any fun r => r.real && rs.contains r

/-- A vector instruction: it goes to the vector command queue (R116). -/
def isVector : Instr → Bool
  | .vadd .. | .vsub .. | .vmul .. | .vfma .. | .vmin .. | .vmax .. | .vcmp .. | .vsel .. | .vand .. | .vor ..
  | .vxor .. | .vshl .. | .vshr .. | .vcvt .. | .vqnt .. | .vdq .. | .vred .. | .vscan .. | .vsf .. | .vperm ..
  | .vbcast .. | .vins .. | .vext .. | .vld .. | .vst .. | .vlds .. | .vsts .. | .vgath .. | .vscat .. => true
  | _ => false

end Sys2Proof.Machine
end

