-- ==== Sys2Proof/Machine/Ops.lean ====
section
/-!
DEFINITION. The operations that the meanings share: bytes of memory, the figures of a grade, access to the parts of
the state, free choices, what a context's instruction may answer, the checks before it (01 R26), its completion, taking
a trap and returning from one (01 R25-R29), regions (09 R217) and elapsed time.
-/
namespace Sys2Proof.Machine

/-- What a step answers. -/
abbrev Out := Host.Outcome State Fault Refusal

/-- An event that its agent cannot take in this state. -/
def disabled (name : String) : Out := .refused (.notEnabled name)

-- Bytes of memory

/-- What a byte that nothing has written reads as (assumption 2). -/
def blankByte : Byte := 0

/-- Read one byte. -/
def cellsGet : List Host.Cell → Nat → Byte
  | [], _ => blankByte
  | (k, v) :: rest, a => if k = a then v else cellsGet rest a

/-- Write one byte, keeping the canonical form. -/
def cellsSet : List Host.Cell → Nat → Byte → List Host.Cell
  | [], a, b => if b = blankByte then [] else [(a, b)]
  | (k, v) :: rest, a, b =>
    if a < k then (if b = blankByte then (k, v) :: rest else (a, b) :: (k, v) :: rest)
    else if a = k then (if b = blankByte then rest else (a, b) :: rest)
    else (k, v) :: cellsSet rest a b

/-- Addresses rise strictly from a bound on, and no entry is blank. -/
def cellsWfFrom : Nat → List Host.Cell → Bool
  | _, [] => true
  | lo, (k, v) :: rest => decide (lo ≤ k) && v != blankByte && cellsWfFrom (k + 1) rest

/-- The canonical form of a list of cells. -/
def cellsWf (m : List Host.Cell) : Bool := cellsWfFrom 0 m

/-- Read n bytes from an address on. -/
def cellsRead (m : List Host.Cell) : Nat → Nat → List Byte
  | _, 0 => []
  | a, n + 1 => cellsGet m a :: cellsRead m (a + 1) n

/-- Write bytes from an address on. -/
def cellsWrite : List Host.Cell → Nat → List Byte → List Host.Cell
  | m, _, [] => m
  | m, a, b :: bs => cellsWrite (cellsSet m a b) (a + 1) bs

/-- Both memories are in canonical form. -/
abbrev Mem.wf (m : Mem) : Prop := cellsWf m.home = true ∧ cellsWf m.sram = true

/-- One byte of memory, global or of a scratchpad. -/
def Mem.byte (m : Mem) : Place → Byte
  | .glob pa => cellsGet m.home pa
  | .scr k => cellsGet m.sram k

/-- Bits hi..lo of a natural number, given by the low bit and the width. -/
def bits (w lo n : Nat) : Nat := w / 2 ^ lo % 2 ^ n

/-- The little-endian bytes of a word. -/
def wordBytes (w : Word) : List Byte := leBytes 8 w.toNat

/-- The little-endian number in bytes a .. a + n - 1 of a record. -/
def recNat (bs : List Byte) (a n : Nat) : Nat := leNat ((bs.drop a).take n)

/-- The doubleword at byte a of a record. -/
def recWord (bs : List Byte) (a : Nat) : Word := word (recNat bs a 8)

/-- Bytes a .. a + n - 1 of a record are zero. -/
def recZero (bs : List Byte) (a n : Nat) : Bool := ((bs.drop a).take n).all (· = 0)

-- The figures of a grade (Table 0.3)

/-- Clusters per die in x. -/
def Grade.gx : Grade → Nat | .fq576 => 9 | .fq512 | .fq448 => 8
/-- Clusters per die in y. -/
def Grade.gy : Grade → Nat | .fq576 | .fq512 => 8 | .fq448 => 7
/-- L2 slices per die. -/
def Grade.slices : Grade → Nat | .fq576 | .fq512 => 128 | .fq448 => 120
/-- Live pseudo-channels (R199). -/
def Grade.npc : Grade → Nat | .fq576 | .fq512 => 768 | .fq448 => 640
/-- Addressable near-tier bytes. -/
def Grade.nearSize : Grade → Nat | .fq576 | .fq512 => 752 * 2 ^ 30 | .fq448 => 624 * 2 ^ 30
/-- Clusters of a quadrant (Table 6.2). -/
def Grade.quadrant : Grade → Nat | .fq576 => 18 | .fq512 => 16 | .fq448 => 14

/-- First physical address of the capacity tier (Table 8.2). -/
def capBase : Nat := 2 ^ 41

/-- A physical range lies in the near tier. -/
def inNear (g : Grade) (pa n : Nat) : Bool := pa + n ≤ g.nearSize
/-- A physical range lies in the capacity tier. -/
def inCap (pa n : Nat) : Bool := capBase ≤ pa && pa + n ≤ 2 ^ 42
/-- A physical range lies in a present range of Table 8.2. -/
def inPresent (g : Grade) (pa n : Nat) : Bool := inNear g pa n || inCap pa n

/-- Index of a cluster in its die: y * GX + x (R158). -/
def clIndex (g : Grade) (c : ClusterId) : Nat := c.y * g.gx + c.x
/-- A cluster's number in the package, die by die. -/
def clLinear (g : Grade) (c : ClusterId) : Nat := c.die * (g.gx * g.gy) + clIndex g c
/-- The cluster of a number. -/
def clOfLinear (g : Grade) (n : Nat) : ClusterId :=
  ⟨n / (g.gx * g.gy), n % (g.gx * g.gy) % g.gx, n % (g.gx * g.gy) / g.gx⟩
/-- The cluster lies in the grid. -/
def inGrid (g : Grade) (c : ClusterId) : Bool := c.die < 8 && c.x < g.gx && c.y < g.gy
/-- Every cluster of the package, in logical order. -/
def allClusters (g : Grade) : List ClusterId := (List.range (8 * (g.gx * g.gy))).map (clOfLinear g)
/-- Logical cluster order: die, then y, then x (R221). -/
def clBefore (a b : ClusterId) : Bool :=
  a.die < b.die || (a.die = b.die && (a.y < b.y || (a.y = b.y && a.x < b.x)))

/-- The home slice of a line (R201): policy fixed to a die, or package interleave. -/
def homeSlice (g : Grade) (pa : Nat) (die : Option Nat) : Nat :=
  let q := pa / 2 ^ 7
  let h := Nat.xor (Nat.xor (q % 2 ^ 16) (q / 2 ^ 16 % 2 ^ 16)) (q / 2 ^ 32 % 8)
  match die with
  | none => h * (8 * g.slices) / 2 ^ 16
  | some d => d * g.slices + h * g.slices / 2 ^ 16

/-- The home core of a physical address (R199, R200). -/
def homeCoreOf (g : Grade) (pa : Nat) : Nat :=
  if pa < capBase then pa / 2 ^ 21 % g.npc else g.npc + (pa - capBase) / 2 ^ 8 % 64

/-- A row of DRAM: its home core, and the bank, the subarray and the row there (R199). -/
structure RowPlace where
  core : Nat
  bank : Nat
  sub : Nat
  row : Nat
  deriving DecidableEq, Repr

/-- Row n of a near-tier frame (R199). -/
def frameRow (g : Grade) (f row : Nat) : RowPlace := ⟨f % g.npc, f / g.npc % 16, f / g.npc / 16, row⟩

/-- The row that holds a physical address. How a subchannel lays its lines out in rows is the implementation's
(assumption 5). -/
def rowOf (g : Grade) (pa : Nat) : RowPlace :=
  if pa < capBase then frameRow g (pa / 2 ^ 21) (pa % 2 ^ 21 / 2048)
  else
    let (bank, sub, row) := Config.capRow ((pa - capBase) / 2 ^ 8)
    ⟨homeCoreOf g pa, bank, sub, row⟩

/-- COREID of a context (Table 1.2). -/
def coreIdBits (c : CtxId) : Nat :=
  c.core.cl.die * 2 ^ 18 + c.core.cl.y * 2 ^ 13 + c.core.cl.x * 2 ^ 8 + c.core.core * 2 ^ 4 + c.idx
/-- COREID bits 21:8 of a cluster, in place. -/
def clusterBits (c : ClusterId) : Nat := coreIdBits ⟨⟨c, 0⟩, 0⟩
/-- The cluster that COREID bits name. -/
def clOfBits (n : Nat) : ClusterId := ⟨bits n 18 4, bits n 8 5, bits n 13 5⟩

-- Parts of the state

/-- The state of a context. -/
def State.getCtx (s : State) (c : CtxId) : Ctx := if c = s.cur then s.ctx else Map.getD s.ctxs c Ctx.init
/-- Replace the state of a context. -/
def State.setCtx (s : State) (c : CtxId) (v : Ctx) : State :=
  if c = s.cur then { s with ctx := v } else { s with ctxs := Map.put s.ctxs c v }
/-- Make a context the one that issues. -/
def State.switchTo (s : State) (c : CtxId) : State :=
  if c = s.cur then s else { s with cur := c, ctx := s.getCtx c, ctxs := Map.put s.ctxs s.cur s.ctx }

/-- The state of a core. -/
def State.getCore (s : State) (k : CoreId) : CoreSt := Map.getD s.cores k CoreSt.init
/-- Replace the state of a core. -/
def State.setCore (s : State) (k : CoreId) (v : CoreSt) : State := { s with cores := Map.put s.cores k v }
/-- The state of a cluster. -/
def State.getCl (s : State) (c : ClusterId) : Cluster := Map.getD s.clusters c Cluster.init
/-- Replace the state of a cluster. -/
def State.setCl (s : State) (c : ClusterId) (v : Cluster) : State := { s with clusters := Map.put s.clusters c v }
/-- The state of a die. -/
def State.getDie (s : State) (d : Nat) : Die := Map.getD s.dies d ⟨[]⟩
/-- Replace the state of a die. -/
def State.setDie (s : State) (d : Nat) (v : Die) : State := { s with dies := Map.put s.dies d v }
/-- A partition, if it is configured. -/
def State.part? (s : State) (p : Nat) : Option Part := Map.get? s.parts p
/-- Replace a partition. -/
def State.setPart (s : State) (p : Nat) (v : Part) : State := { s with parts := Map.put s.parts p v }
/-- No firmware image runs: the module stays in reset and answers only telemetry reads (20 R372). -/
def State.inReset (s : State) : Bool := s.pkg.running.isNone
/-- The partition is RUNNING (Table 18.2). -/
def State.running (s : State) (p : Nat) : Bool :=
  match s.part? p with | some v => v.state = .running | none => false

/-- The issuing context's cluster. -/
def State.cl (s : State) : ClusterId := s.cur.core.cl
/-- The issuing context's partition. -/
def State.part (s : State) : Option Nat := (s.getCl s.cl).part
/-- The issuing context's partition number; 0 where there is none. -/
def State.partNo (s : State) : Nat := s.part.getD 0
/-- The issuing context's core. -/
def State.core (s : State) : CoreSt := s.getCore s.cur.core
/-- The clusters of a partition, in logical order. -/
def State.partClusters (s : State) (p : Nat) : List ClusterId :=
  (allClusters s.pkg.grade).filter fun c => (s.getCl c).part = some p

/-- Give every context that the machine holds a new state. -/
def State.mapCtxs (s : State) (f : CtxId → Ctx → Ctx) : State :=
  { s with ctx := f s.cur s.ctx, ctxs := s.ctxs.map fun p => (p.1, f p.1 p.2) }

/-- A cluster belongs to a partition. -/
def State.clIn (s : State) (p : Nat) (c : ClusterId) : Bool := (s.getCl c).part = some p
/-- The contexts whose state the machine holds. -/
def State.knownCtxs (s : State) : List CtxId := s.cur :: s.ctxs.keys.filter (· ≠ s.cur)
/-- The live contexts of a partition. -/
def State.ctxsOf (s : State) (p : Nat) : List CtxId :=
  s.knownCtxs.filter fun c => s.clIn p c.core.cl && (s.getCtx c).live

/-- A core starts a context that no other context of the core has started: TRAPVEC is its partition's trap vector again
(Table 1.1, assumption 1). -/
def State.resetVec (s : State) (k : CoreId) : State :=
  match (s.getCl k.cl).part.bind s.part? with
  | some v => s.setCore k { s.getCore k with trapvec := v.cfg.trapvec }
  | none => s

/-- The kind of a core (R8). -/
def coreKind (k : CoreId) : CoreKind := if k.core = 8 then .stager else if k.core = 9 then .issuer else .compute
/-- Contexts of a core (R150). -/
def ctxCount (k : CoreId) : Nat := if k.core < 8 then 11 else 1

/-- Read an x register of the issuing context. -/
def State.rx (s : State) (r : XReg) : Word := s.ctx.rx r
/-- Write an x register of the issuing context. -/
def State.wx (s : State) (r : XReg) (v : Word) : State := { s with ctx := s.ctx.wx r v }
/-- Read an f register of the issuing context. -/
def State.rf (s : State) (r : FReg) : Word := s.ctx.rf r
/-- Write an f register of the issuing context. -/
def State.wf (s : State) (r : FReg) (v : Word) : State := { s with ctx := s.ctx.wf r v }

-- Free choices (assumption 5)

/-- A free choice below n; with one possibility there is nothing to choose. -/
def State.pick (s : State) (n : Nat) : Nat × State :=
  if n ≤ 1 then (0, s) else (Config.freeNat s.fresh % n, { s with fresh := s.fresh + 1 })

/-- A free bit. -/
def State.flip (s : State) : Bool × State := (Config.freeBit s.fresh, { s with fresh := s.fresh + 1 })

-- What an instruction answers

/-- What the body of an instruction answers, its checks passed. -/
inductive Res where
  /-- It is performed; the next instruction follows. -/
  | done (s : State)
  /-- It is performed; the context goes on at an address. -/
  | jump (s : State) (pc : Word)
  /-- It traps; nothing is performed (R25). -/
  | trap (t : Trap)
  /-- It waits, to be issued again (R153, R170). -/
  | wait (s : State)
  /-- It is performed, and the context is no more. -/
  | gone (s : State)

/-- A check: passed with a result, failed with a trap, or held until something else completes. -/
inductive Chk (α : Type) where
  | ok (a : α)
  | trap (t : Trap)
  | hold

/-- Go on with a further check. -/
def Chk.bind {α β : Type} (c : Chk α) (f : α → Chk β) : Chk β :=
  match c with
  | .ok a => f a
  | .trap t => .trap t
  | .hold => .hold

/-- Go on with the effect. -/
def Chk.res {α : Type} (c : Chk α) (s : State) (f : α → Res) : Res :=
  match c with
  | .ok a => f a
  | .trap t => .trap t
  | .hold => .wait s

/-- A condition that traps when it fails. -/
def need (b : Bool) (t : Trap) : Chk Unit := if b then .ok () else .trap t

-- Lookahead windows (R71, R72)

/-- Make a pending register write. -/
def Ctx.applyWrite (c : Ctx) : RegWrite → Ctx
  | .x r v => c.wx r v
  | .f r v => c.wf r v
  | .a _ _ => c

/-- Make the pending writes of a window. -/
def Ctx.applyWrites (c : Ctx) : List RegWrite → Ctx
  | [] => c
  | w :: ws => (c.applyWrite w).applyWrites ws

/-- Complete every window's instruction: its results reach their registers (R71, on a trap; R22). -/
def Ctx.settle (c : Ctx) : Ctx :=
  (c.windows.foldl (fun c w => c.applyWrites w.pend) c)

/-- One counted instruction of the windows has issued: the window that ends completes its instruction. -/
def Ctx.tick (c : Ctx) : Ctx :=
  let ws := c.windows.map fun w => { w with left := w.left - 1 }
  let c := (ws.filter fun w => w.left = 0).foldl (fun c w => c.applyWrites w.pend) c
  let keep := ws.filter fun w => w.left ≠ 0 || w.cmd.isSome
  { c with windows := keep.map fun w => { w with pend := if w.left = 0 then [] else w.pend } }

/-- Give a long-latency instruction its results: at once without lookahead, else when its window ends. -/
def State.longResult (s : State) (i : Instr) (la : LaCount) (ws : List RegWrite) : State :=
  if la = 0 then { s with ctx := s.ctx.applyWrites ws }
  else { s with ctx := { s.ctx with windows := s.ctx.windows ++ [⟨s.ctx.pc, la.val + 1, dests i, ws, none⟩] } }

-- Traps (R25-R29)

/-- TRAPCAUSE of a trap taken at a level (Table 1.5). -/
def trapCauseWord (t : Trap) (super : Bool) : Word :=
  word (t.cause.code + t.cause.sub * 2 ^ 8 + super.toNat * 2 ^ 16)

/-- Trap entry (R27). Open windows have completed (R25, R71) and are closed. -/
def Ctx.trapEntry (c : Ctx) (vec : Word) (t : Trap) : Ctx :=
  { c.settle with
    trappc := c.pc
    trapcause := trapCauseWord t c.super
    trapaddr := t.addr
    trapinfo := t.info
    super := true
    inh := true
    pc := vec
    windows := []
    waiting := false
    wake := none
    doing := none
    asked := none
    pos := 0
    plan := []
    awaits := [] }

/-- The vector commands of a context that are queued (R116). -/
def State.queued (s : State) (c : CtxId) : List VCmd := (s.getCore c.core).vq.filter fun q => q.ctx = c.idx

/-- The context of a double trap stops where it is. Open windows have completed (R25, R71). -/
def Ctx.stop (c : Ctx) : Ctx :=
  { c.settle with windows := [], loop := none, waiting := false, wake := none, doing := none, asked := none }

/-- A double trap (R29): the context stops, and its partition is halted and dumped, with the record of R346, unless what
halts it is already recorded. -/
def State.doubleTrap (s : State) (t : Trap) : State :=
  match s.part? s.partNo with
  | none => { s with ctx := { s.ctx.stop with live := false } }
  | some p =>
    { s with ctx := s.ctx.stop }.setPart s.partNo { p with
      state := .dumping
      haltCycle := s.cycle
      dumpRec := some (p.dumpRec.getD (2, coreIdBits s.cur, 0,
        wordBytes (trapCauseWord t s.ctx.super) ++ wordBytes s.ctx.pc, s.cycle)) }

/-- Take a trap: after the context's vector commands (R25), into the handler, or into a double trap. -/
def State.enterTrap (s : State) (t : Trap) : State :=
  if s.queued s.cur ≠ [] then { s with ctx := { s.ctx with waiting := true } }
  else if s.ctx.inh then s.doubleTrap t
  else { s with ctx := { s.ctx.trapEntry s.core.trapvec t with lastIssue := some s.cycle }, fresh := s.fresh + 1 }

/-- Return from a trap (R28): the level and the address that the trap registers hold. -/
def Ctx.trapReturn (c : Ctx) : Ctx :=
  { c with super := bits c.trapcause.toNat 16 2 = 1, inh := false }

-- Loops (R146, R147)

/-- The context stands where the known part of a body ends, and the body goes on (assumption 13). -/
def Ctx.atFrontier (c : Ctx) : Bool :=
  match c.loop with
  | none => false
  | some l => !l.head && l.toPass ≠ 0 && c.pc = l.stop

/-- The context is in the body of an SREP. -/
def Ctx.inBody (c : Ctx) : Bool :=
  match c.loop with
  | none => false
  | some l => !l.head && l.body ≤ c.pc && (c.pc < l.stop || c.atFrontier)

/-- Opcodes that a loop body may hold. -/
def bodyOpc (o : Nat) : Bool := (0x10 ≤ o && o ≤ 0x38) || (0x80 ≤ o && o ≤ 0x96) || (0xA0 ≤ o && o ≤ 0xA5)

/-- Consume the head group. A memory stream's head whose read failed, and which nothing has read, is passed over. -/
def StreamSt.consume (st : StreamSt) : StreamSt :=
  match st.groups, st.src with
  | _ :: gs, _ => { st with groups := gs }
  | [], .msg => st
  | [], .mem _ =>
    let n := min st.bound (st.delivered + 32)
    { st with delivered := n, ended := st.bound ≤ n }

/-- Consume the head group of every stream of a mask (R146). -/
def consumeHeads (mask : BitVec 8) (st : Vector (Option StreamSt) 8) : Vector (Option StreamSt) 8 :=
  Vector.ofFn fun j => (st.get j).map fun x => if mask.getLsbD j.val then x.consume else x

/-- An iteration is complete: the heads are consumed, and the loop is at its head again. -/
def Ctx.endIteration (c : Ctx) (l : LoopSt) : Ctx :=
  { c with
    loop := some { l with head := true, count := l.count + 1 }
    streams := consumeHeads l.mask c.streams }

/-- Completion of an instruction at its address, the context then standing at `npc`: the last instruction of an SREP body
completes the iteration. -/
def Ctx.advance (c : Ctx) (npc : Word) : Ctx :=
  match c.loop with
  | some l =>
    if c.inBody && l.toPass = 0 && npc = l.stop then { c.endIteration l with pc := l.srep } else { c with pc := npc }
  | none => { c with pc := npc }

/-- A return to an address, and where the context goes on: a return to the end of a body, whose last instruction a
handler has performed, completes the iteration (R147, assumption 13). -/
def Ctx.returnTo (c : Ctx) (pc : Word) : Ctx × Word :=
  match c.loop with
  | some l => if !l.head && l.toPass = 0 && pc = l.stop then (c.endIteration l, l.srep) else (c, pc)
  | none => (c, pc)

/-- The cycle of the most recent issue, as an instruction completes: one that has performed a part before has issued then
(R154). -/
def State.issueCycle (s : State) : Option Nat := if s.ctx.doing.isSome then s.ctx.lastIssue else some s.cycle

/-- The instruction of the issuing context has performed a part: it has issued, and goes on without being fetched again
(R154, 18 R335). -/
def State.started (s : State) (i : Instr) : State :=
  { s with ctx := { s.ctx with doing := some i, lastIssue := s.issueCycle } }

/-- The instruction of the issuing context waits with a request outstanding: it is not fetched again, so that no fetch trap
leaves the request behind (18 R335). -/
def State.asks (s : State) (i : Instr) : State := { s with ctx := { s.ctx with asked := some i } }

/-- Completion of an instruction (R71, R146, R154). -/
def State.retire (s : State) (i : Instr) (target : Option Word) : State :=
  { s with ctx := { (s.ctx.tick.advance (target.getD (s.ctx.pc + word i.len))) with
      lastIssue := s.issueCycle, waiting := false, doing := none, asked := none, pos := 0, plan := [], awaits := [] } }

-- The checks before an instruction's own (R26 causes 1-3)

/-- System registers that only SUPER may access (Table 1.1). -/
def superReg (n : Nat) : Bool := n = 0x003 || n = 0x012 || (0x040 ≤ n && n ≤ 0x044)

/-- The instruction may be executed at USER (R15, R76). -/
def userMay : Instr → Bool
  | .rett | .preq .. | .preqCtr .. | .resume .. | .resumeCtr .. | .clflagsWrite .. => false
  | .sysrd _ n | .syswr _ n => !superReg n.toNat
  | _ => true

/-- The instruction's bits 63:0, for TRAPINFO (R77). -/
def instrBits (i : Instr) : Word := word (encode i)

/-- ILLEGAL with a subcode, at an instruction. -/
def illegal (i : Instr) (sub : IllegalSub) : Trap := ⟨.illegal sub, 0, instrBits i⟩

/-- The instruction is not allowed where it stands in an SREP body, or while a loop is active (R147). -/
def loopForbids (c : Ctx) (i : Instr) : Bool :=
  match c.loop with
  | none => false
  | some l =>
    (c.inBody && !bodyOpc (encode i / 4 % 256)) ||
    (match i with | .srep .. => !(l.head && c.pc = l.srep) | _ => false)

/-- The destination is a configured stream register (R144). -/
def writesStream (c : Ctx) (i : Instr) : Bool :=
  (dests i).any fun r =>
    match r with
    | .v v => match streamOf? v with | some j => (c.streams.get j).isSome | none => false
    | _ => false

/-- The windows whose registers the instruction reads or writes. -/
def hitWindows (c : Ctx) (i : Instr) : List Window := c.windows.filter fun w => w.left ≠ 0 && touches i w.regs

/-- The x and f registers that a queued command writes. -/
def scalarDests (i : Instr) : List RegName :=
  (dests i).filter fun r => match r with | .x _ | .f _ => true | _ => false

/-- The instruction waits: for the instruction of a window that has ended (R71), or for a queued vector command that
writes one of its x or f registers (R117). -/
def State.mustWait (s : State) (i : Instr) : Bool :=
  s.ctx.windows.any (fun w => w.left = 0) || (s.queued s.cur).any fun q => touches i (scalarDests q.instr)

/-- The outcome of an instruction whose body has answered: a trap changes nothing that the body did. -/
def State.finish (s : State) (i : Instr) : Res → Out
  | .done s' => .next (s'.retire i none)
  | .jump s' pc => .next (s'.retire i (some pc))
  | .trap t => .next (s.enterTrap t)
  | .wait s' => .next { s' with ctx := { s'.ctx with waiting := true } }
  | .gone s' => .next s'

/-- Perform an instruction of the issuing context. -/
def State.run (s : State) (i : Instr) (body : State → Res) : Out :=
  if loopForbids s.ctx i || writesStream s.ctx i then .next (s.enterTrap (illegal i .reserved))
  else if !s.ctx.super && !userMay i then .next (s.enterTrap ⟨.priv, 0, instrBits i⟩)
  else match hitWindows s.ctx i with
    | w :: ws =>
      let (k, s') := s.pick (ws.length + 1)
      .next (s'.enterTrap ⟨.lookahead, 0, ((w :: ws).getD k w).pc⟩)
    | [] =>
      if s.mustWait i then .next { s with ctx := { s.ctx with waiting := true } }
      else s.finish i (body s)

-- Regions (R217)

/-- The region of the issuing context ends: what it has accessed no longer races (R218). -/
def State.endRegion (s : State) : State :=
  { s with
    ctx := { s.ctx with regionid := s.ctx.regionid + 1 }
    mem := { s.mem with accesses := s.mem.accesses.filter fun a => a.agent ≠ .ctx s.cur } }

/-- The scope reaches beyond the cluster: an acquire of it removes stale ways (R215). -/
def wideScope : Scope → Bool
  | .die | .pkg | .sys => true | .ctx | .core | .clu => false

/-- Drop every copy in a cluster's CACHE ways (R195, R215). -/
def State.dropWays (s : State) (c : ClusterId) : State := s.setCl c { s.getCl c with ways := [] }

/-- An acquire of the issuing context at a scope. -/
def State.acquire (s : State) (sc : Scope) : State := if wideScope sc then s.dropWays s.cl else s

/-- The pair scope of an operation on a target cluster (R168). -/
def pairScope (own target : ClusterId) : Scope :=
  if own = target then .clu else if own.die = target.die then .die else .pkg

-- Time

/-- Cycles count down to zero. -/
def countDown (w : Word) (n : Nat) : Word := word (w.toNat - n)

/-- `Ctx.pos` of a BANKCFG that has passed step 1 (R196), its previous mode apart. -/
def bankStarted : Nat := 2 ^ 32

/-- An instruction that has issued and that a halt lets complete: a BANKCFG past its first step, a JDONE (Table 18.6). -/
def Ctx.mustEnd (c : Ctx) : Bool := match c.doing with | some (.bankcfg ..) | some (.jdone _) => true | _ => false

/-- The request of a waiting instruction has been met: a full/empty request that has been answered, a JTAKE whose job the
other core has taken (R170, 12 R260). -/
def State.isMet (s : State) (c : CtxId) : Bool :=
  let m := (s.getCl c.core.cl).mx
  (s.clusters.any fun k => k.2.feWaits.any fun w => decide (w.ctx = c) && w.answer.isSome)
    || (c.core.core = 8 && m.stager.given.isSome) || (c.core.core = 9 && m.issuer.given.isSome)

/-- A context has to go on to its halt: an SREP iteration, an instruction whose request has been met, an instruction that
completes (Table 18.6). -/
def State.finishing (s : State) (c : CtxId) : Bool := (s.getCtx c).inBody || (s.getCtx c).mustEnd || s.isMet c

/-- A context is not at its halt: it is live, and its partition runs, or it has to go on until it halts (18 R340). -/
def State.goesOn (s : State) (c : CtxId) : Bool :=
  (s.getCtx c).live && !s.pkg.poweredDown &&
    match (s.getCl c.core.cl).part.bind s.part? with
    | some v => v.state = .running || ((v.state = .halting || v.state = .dumping) && s.finishing c)
    | none => false

/-- A place lies in n bytes from a place on. -/
def Place.within (lo : Place) (n : Nat) (p : Place) : Bool :=
  match lo, p with
  | .glob a, .glob x | .scr a, .scr x => decide (a ≤ x) && decide (x < a + n)
  | _, _ => false

/-- Where the accesses of a vector command lie, the scales of blocks among them. -/
def VCmd.places (q : VCmd) : List Place := (q.plan.map fun e => e.place :: e.scale.toList).flatten

/-- An access has been checked and translated to a place among n bytes, and is still to be performed: of a queued vector
command (5 R140), of an MSTA row (12 R313), of an instruction that reads a range part by part. -/
def State.awaits (s : State) (lo : Place) (n : Nat) : Bool :=
  (s.cores.any fun k => k.2.vq.any fun q => q.places.any (lo.within n))
    || (s.clusters.any fun k => k.2.mx.stores.any fun w => lo.within n w.1)
    || (s.knownCtxs.filter s.goesOn).any fun c => (s.getCtx c).plan.any fun h => lo.within n h.place

/-- A partition runs, or is coming to its halt: its state has not been saved or dumped, or has been restored. -/
def State.beforeSave (s : State) (p : Nat) : Bool :=
  match s.part? p with
  | some v => [PartState.running, .halting, .dumping].contains v.state
  | none => false

/-- A context belongs to such a partition. -/
def State.unsaved (s : State) (c : CtxId) : Bool :=
  match (s.getCl c.core.cl).part with | some p => s.beforeSave p | none => false

/-- The partition's cycles count against its leaves and experts: until its last context has halted (R165, R282, R339).
-/
def State.counts (s : State) (p : Nat) : Bool :=
  match s.part? p with
  | some v => v.state = .running || ((v.state = .halting || v.state = .dumping) && (s.ctxsOf p).any s.finishing)
  | none => false

/-- The step deadline of a node of the partition counts (R293): it stands still only from the halt to the restore. -/
def State.countsSteps (s : State) (p : Nat) : Bool :=
  match s.part? p with
  | some v => !([PartState.halting, .saving, .saved, .restoring].contains v.state)
  | none => false

/-- Cycles pass: CYCLE, DEADLINE of resident leaves (R165), the windows of the Orrery (R282), the deadlines and the
commit delays of parameter nodes (R293, R348), the lease (R368). -/
def State.elapse (s : State) (n : Nat) : State :=
  { s with
    cycle := s.cycle + n
    leaves := s.leaves.map fun p =>
      (p.1, if s.counts p.2.part then { p.2 with deadline := countDown p.2.deadline n } else p.2)
    pkg := { s.pkg with
      experts := s.pkg.experts.map fun p =>
        (p.1, if s.counts p.2.part then { p.2 with windowLeft := p.2.windowLeft.map (· - n) } else p.2)
      nodes := s.pkg.nodes.map fun d =>
        { d with
          wait := d.wait - n
          left := match d.part with | some p => if s.countsSteps p then d.left.map (· - n) else d.left | none => d.left }
      owner := { s.pkg.owner with lease := s.pkg.owner.lease.map (· - n) } } }

end Sys2Proof.Machine
end

