-- ==== Sys2Proof/Machine/Flags.lean ====
section
/-!
DEFINITION. The flag computations: FPFLAGS of a context (01 R18, 02 R48) and CLFLAGS of a cluster with the flags that
are still on their way to it (02 R49). The flags that each operation raises are computed with its value in Num.lean,
Special.lean and Block.lean (02 R47, Tables 2.8-2.10).
-/
namespace Sys2Proof.Machine

/-- A flag is on its way to CLFLAGS for up to 32 cycles (R49). -/
def flagDelay : Nat := 32

/-- Flags raised by a job of a cluster, or by a context of it, at this cycle: on their way to CLFLAGS (R49). -/
def State.raiseCluster (s : State) (c : ClusterId) (fl : BitVec 5) : State :=
  if fl = 0 then s else s.setCl c { s.getCl c with clPend := (s.getCl c).clPend ++ [(fl, s.cycle)] }

/-- Flags raised by an instruction of a context: they reach FPFLAGS, and CLFLAGS within 32 cycles. -/
def State.raiseAt (s : State) (c : CtxId) (fl : BitVec 5) : State :=
  if fl = 0 then s
  else (s.setCtx c { s.getCtx c with fpflags := (s.getCtx c).fpflags ||| fl }).raiseCluster c.core.cl fl

/-- Flags raised by the issuing context. -/
def State.raise (s : State) (fl : BitVec 5) : State := s.raiseAt s.cur fl

/-- The flags on their way that have had their 32 cycles. -/
def arrived (now : Nat) (p : List (BitVec 5 × Nat)) : List (BitVec 5 × Nat) := p.filter fun q => q.2 + flagDelay ≤ now
/-- The flags still within their 32 cycles. -/
def arriving (now : Nat) (p : List (BitVec 5 × Nat)) : List (BitVec 5 × Nat) := p.filter fun q => now < q.2 + flagDelay

/-- The OR of flags. -/
def orFlags (p : List (BitVec 5 × Nat)) : BitVec 5 := p.foldl (fun f q => f ||| q.1) 0

/-- CLFLAGS as read: every flag that has had its 32 cycles is present. -/
def State.clflagsRead (s : State) (c : ClusterId) : BitVec 5 :=
  (s.getCl c).clflags ||| orFlags (arrived s.cycle (s.getCl c).clPend)

/-- A write to CLFLAGS: what has arrived is cleared; what is on its way arrives afterwards and remains. -/
def State.clflagsClear (s : State) (c : ClusterId) : State :=
  s.setCl c { s.getCl c with clflags := 0, clPend := arriving s.cycle (s.getCl c).clPend }

/-- The flags on their way reach CLFLAGS. -/
def State.clflagsArrive (s : State) (c : ClusterId) : State :=
  s.setCl c { s.getCl c with clflags := (s.getCl c).clflags ||| orFlags (s.getCl c).clPend, clPend := [] }

end Sys2Proof.Machine
end

