-- ==== Sys2Proof/Machine/Mem.lean ====
section
/-!
DEFINITION. Memory: page tables and translation (08 R205-R211), the home slices with the contents of memory below
(08 R201, 09 R221, R222), races (09 R218), the cluster's cached copies (08 R195), scratchpad banks (08 R193, R197), and
the accesses of a context, of an engine and of a host.
-/
namespace Sys2Proof.Machine

-- Lines

/-- The line of a physical address (R201). -/
def lineOf (pa : Nat) : Nat := pa / 128
/-- The lines that a range touches. -/
def linesOf (pa n : Nat) : List Nat :=
  if n = 0 then [] else (List.range (lineOf (pa + n - 1) - lineOf pa + 1)).map (lineOf pa + ·)

-- Combining values (R221, R225, R227)

/-- The result of an integer combination on w-bit values. -/
def redValue (op : RedOp) (w a b : Nat) : Nat :=
  match op with
  | .add => (a + b) % 2 ^ w
  | .and => Nat.land a b
  | .or => Nat.lor a b
  | .xor => Nat.xor a b
  | .min => if readInt true w a ≤ readInt true w b then a else b
  | .max => if readInt true w b ≤ readInt true w a then a else b
  | .minz => if a ≤ b then a else b
  | .maxz => if b ≤ a then a else b

/-- The identity of a class (R221), for a w-bit value. -/
def redIdentity (op : RedOp) (w : Nat) : Nat :=
  match op with
  | .add | .or | .xor | .maxz => 0
  | .and | .minz => 2 ^ w - 1
  | .min => 2 ^ (w - 1) - 1
  | .max => 2 ^ (w - 1)

/-- Combine a list of little-endian elements of n bytes, element by element. -/
def combineElems (n : Nat) (f : Nat → Nat → Nat) : Nat → List Byte → List Byte → List Byte
  | 0, _, _ => []
  | k + 1, a, b => leBytes n (f (leNat (a.take n)) (leNat (b.take n))) ++ combineElems n f k (a.drop n) (b.drop n)

/-- Combine two lines of a class (R221): elements of 4 or 8 bytes, or EXA values of 64 bytes added by R43. An identity
leaves the element as it is, reserved bits too (assumption 21). -/
def combineLine (c : RedClass) (a b : List Byte) : List Byte :=
  match c with
  | .int op true => combineElems 8 (redValue op 64) 16 a b
  | .int op false => combineElems 4 (redValue op 32) 32 a b
  | .exa => combineElems 64 (fun x y => if y = 0 then x else ((Exa.ofBits x).addExa (Exa.ofBits y)).toBits) 2 a b

/-- A line of identities. -/
def identityLine (c : RedClass) : List Byte :=
  match c with
  | .int op true => (List.replicate 16 (leBytes 8 (redIdentity op 64))).flatten
  | .int op false => (List.replicate 32 (leBytes 4 (redIdentity op 32))).flatten
  | .exa => List.replicate 128 0

-- The home slices

/-- Insert a partial in logical cluster order (R221). -/
def insertPartial (p : Partial) : List Partial → List Partial
  | [] => [p]
  | q :: qs => if clBefore q.cl p.cl then q :: insertPartial p qs else p :: q :: qs

/-- The home slice of a line, with the policy that a walker last found for its page (R201, R205). -/
def Mem.sliceOf (m : Mem) (g : Grade) (line : Nat) : Nat :=
  homeSlice g (128 * line) ((m.homing.find? fun h => h.pa ≤ 128 * line && 128 * line < h.pa + h.size).bind Homing.die)

/-- The line's home copy is in L2; a line that was not there is fetched from below. -/
def Mem.allocate (m : Mem) (line : Nat) : Mem :=
  if m.l2.contains line then m else { m with l2 := m.l2 ++ [line], below := m.below ++ [⟨line, .fetch, false⟩] }

/-- The line's home copy is about to change in L2: what memory below may hold from then on. -/
def Mem.dirtyLine (m : Mem) (line : Nat) : Mem :=
  let now := cellsRead m.home (128 * line) 128
  { m.allocate line with dirty := Map.put m.dirty line (Map.getD m.dirty line [] ++ [now]) }

/-- The granules of 8 bytes that a range touches, by their first addresses. -/
def granulesOf (pa n : Nat) : List Nat :=
  if n = 0 then [] else (List.range ((pa + n - 1) / 8 - pa / 8 + 1)).map fun i => 8 * (pa / 8 + i)

/-- A store to n bytes is about to be performed: what their granules hold, as given, is kept (R21, 14 R299). -/
def Mem.keepOld (m : Mem) (pa n : Nat) (now : Nat → List Byte) : Mem :=
  { m with
    past := (granulesOf pa n).map (fun a => ⟨m.stores, a, now a, false⟩) ++ m.past
    stores := m.stores + 1 }

/-- A store changes bytes of physical memory. -/
def Mem.put (m : Mem) (pa : Nat) (bs : List Byte) : Mem :=
  { m.keepOld pa bs.length (fun a => cellsRead m.home a 8) with home := cellsWrite m.home pa bs }

/-- log2 of the page size at a level (Table 8.4). -/
def levelBits (level : Nat) : Nat := match level with | 0 => 48 | 1 => 39 | 2 => 30 | 3 => 21 | _ => 16
/-- FRAME as a physical address. -/
def leafFrame (e : Nat) : Nat := bits e 32 26 * 2 ^ 16
/-- A leaf bit where the table allows none. -/
def leafAllowed (level : Nat) : Bool := 2 ≤ level

/-- The stores from number n on were a host's. -/
def Mem.byHost (m : Mem) (n : Nat) : Mem :=
  { m with past := m.past.map fun o => if n ≤ o.seq then { o with host := true } else o }

/-- What a host's access has stored is marked so: the state before it, and after it. -/
def State.asHost (s t : State) : State := { t with mem := t.mem.byHost s.mem.stores }

/-- The store changes FRAME, TIER, HOMEP or HOMEDIE of a valid leaf (R211). -/
def remaps (level old new : Nat) : Bool :=
  bit old 0 && bit old 1 && leafAllowed level &&
    (bits old 32 26 ≠ bits new 32 26 || bits old 9 6 ≠ bits new 9 6)

/-- The pages whose mapping a store changes, as it was: first address and size. Every entry of a marked line counts
(R211). -/
def Mem.remapped (m : Mem) (pa : Nat) (bs : List Byte) : List (Nat × Nat) :=
  let after := cellsWrite m.home pa bs
  ((m.marks.filter fun k => (linesOf pa bs.length).contains k.line).map fun k =>
    (List.range 16).filterMap fun i =>
      let old := leNat (cellsRead m.home (128 * k.line + 8 * i) 8)
      if remaps k.level old (leNat (cellsRead after (128 * k.line + 8 * i) 8))
      then some (leafFrame old, 2 ^ levelBits k.level) else none).flatten

/-- The TLB copies of every entry in the lines of a range go, and the walks that have read one give nothing (R211). -/
def Mem.dropTlbs (m : Mem) (pa n : Nat) : Mem :=
  let keep := fun path : List Nat => !path.any fun a => (linesOf pa n).contains (lineOf a)
  { m with
    ctlb := m.ctlb.map fun p => (p.1, p.2.filter fun t => keep t.path)
    dtlb := m.dtlb.map fun p => (p.1, p.2.filter fun t => keep t.path)
    walks := m.walks.filter fun w => keep (w.path.map WalkMark.pte) }

/-- The partials of a line that satisfy a condition, in logical cluster order. -/
def Mem.partialsOf (m : Mem) (line : Nat) (f : Partial → Bool) : List Partial :=
  (m.partials.filter fun p => decide (p.line = line) && f p).foldl (fun l p => insertPartial p l) []

/-- Partials of one line combined into its bytes, in the order given. -/
def mergedLine (ps : List Partial) (bs : List Byte) : List Byte := ps.foldl (fun b p => combineLine p.cls b p.bytes) bs

/-- Every L2 line of a physical range is merged, written back and invalidated (R211), given how a line is merged. -/
def Mem.flushWith (m : Mem) (merge : Mem → Nat → Mem) (pa n : Nat) : Mem :=
  let within := fun line => decide (lineOf pa ≤ line ∧ line < lineOf (pa + n))
  let m := ((m.partials.map Partial.line).filter within).eraseDups.foldl merge m
  { m with
    l2 := m.l2.filter fun l => !within l
    dirty := m.dirty.filter fun d => !within d.1
    below := m.below ++ (m.dirty.keys.filter within).map fun l => ⟨l, .writeBack, false⟩ }

/-- Merge the partials of a line that satisfy a condition into its home copy, and drop them. Where that changes a marked
entry, the pages that it remaps are flushed first (R211, R221), which may merge further lines: the first argument bounds
how deep. -/
def Mem.recallN : Nat → Mem → Nat → (Partial → Bool) → Mem
  | 0, m, _, _ => m
  | k + 1, m, line, f =>
    match m.partialsOf line f with
    | [] => m
    | ps =>
      let m := { m with partials := m.partials.filter fun p => !(decide (p.line = line) && f p) }
      let pages := m.remapped (128 * line) (mergedLine ps (cellsRead m.home (128 * line) 128))
      let m := pages.foldl (fun m r => m.flushWith (fun m l => Mem.recallN k m l fun _ => true) r.1 r.2)
        (m.dropTlbs (128 * line) 128)
      let m := m.dirtyLine line
      { m with home := cellsWrite m.home (128 * line) (mergedLine ps (cellsRead m.home (128 * line) 128)) }

/-- Merge the partials of a line that satisfy a condition. -/
def Mem.recallIf (m : Mem) (line : Nat) (f : Partial → Bool) : Mem := Mem.recallN m.partials.length m line f

/-- Recall every partial of a line (R221). -/
def Mem.recall (m : Mem) (line : Nat) : Mem := m.recallIf line fun _ => true

/-- Recall every partial of every line that satisfies a condition on partials. -/
def Mem.recallAll (m : Mem) (f : Partial → Bool) : Mem :=
  ((m.partials.filter f).map Partial.line).eraseDups.foldl (fun m l => m.recallIf l f) m

/-- An access that reads a line at its home: partials are merged, and the line is in L2 (R201, R221). -/
def Mem.visit (m : Mem) (line : Nat) : Mem := (m.recall line).allocate line

/-- Visit the lines of a range. -/
def Mem.visitRange (m : Mem) (pa n : Nat) : Mem := (linesOf pa n).foldl Mem.visit m

/-- Read a range at its home slices, without counting it as an access. -/
def Mem.peek (m : Mem) (pa n : Nat) : List Byte := cellsRead ((linesOf pa n).foldl Mem.recall m).home pa n

/-- The values that a granule of 8 bytes has had before stores whose numbers start at n. -/
def Mem.oldValues (m : Mem) (pa n : Nat) : List (List Byte) :=
  (m.past.filter fun o => o.pa = pa && n ≤ o.seq).map OldGranule.bytes

/-- The number of the first store whose replaced value a context may still fetch in a granule: it comes after the
context's latest FENCE, and after what a host had stored there before the context's launch (R21, 19 R353, assumption 10). -/
def Mem.oldFrom (m : Mem) (pa fence loaded : Nat) : Nat :=
  (m.past.filter fun o => o.pa = pa && o.host && o.seq < loaded).foldl (fun n o => max n (o.seq + 1)) fence

/-- Every L2 line of a physical range is merged, written back and invalidated (R211). -/
def Mem.flushRange (m : Mem) (pa n : Nat) : Mem := m.flushWith Mem.recall pa n

-- Page tables (R205-R207)

/-- A leaf entry that a walk has found, its level, and the first virtual address of its page. -/
structure Page where
  e : Nat
  level : Nat
  va : Nat
  deriving DecidableEq, Repr

/-- Page size. -/
def Page.size (p : Page) : Nat := 2 ^ levelBits p.level
/-- TIER. -/
def leafTier (e : Nat) : Nat := bits e 9 2
/-- A bit of the entry. -/
def Page.has (p : Page) (n : Nat) : Bool := bit p.e n
/-- CHECKED. -/
def Page.checked (p : Page) : Bool := p.has 7
/-- FMT, none when 0. -/
def Page.fmt (p : Page) : Option Fmt := Fmt.ofCode? (bits p.e 16 6)
/-- The die of a fixed home policy. -/
def Page.homeDie (p : Page) : Option Nat := if p.has 11 then some (bits p.e 12 3) else none
/-- The physical address of a virtual address in the page. -/
def Page.pa (p : Page) (va : Nat) : Nat := leafFrame p.e + va % p.size

/-- A malformed leaf entry (R206). -/
def leafMalformed (g : Grade) (level e : Nat) : Bool :=
  let size := 2 ^ levelBits level
  let frame := leafFrame e
  let fmt := Fmt.ofCode? (bits e 16 6)
  let geometry := bits e 25 2 ≠ 0
  bits e 58 6 ≠ 0 || bit e 27 || bits e 22 3 ≠ 0 || bit e 15 || leafTier e = 3
    || frame % size ≠ 0
    || (match leafTier e with | 0 => !inNear g frame size | 1 => !inCap frame size | _ => !inCap frame 1)
    || (bits e 16 6 ≠ 0 && fmt.isNone)
    || (fmt = some .exa && geometry)
    || ((fmt.bind Fmt.blk?).isNone && (geometry || bits e 28 4 ≠ 0))
    || 10 < bits e 28 4
    || (bit e 8 && (level ≠ 3 || !bit e 6 || leafTier e ≠ 0))

/-- A malformed pointer entry (R205). -/
def pointerMalformed (g : Grade) (level e : Nat) : Bool :=
  bits e 2 6 ≠ 0 || bits e 42 22 ≠ 0 || (level ≠ 3 && bits e 8 4 ≠ 0) || level = 4
    || !inPresent g (bits e 8 34 * 2 ^ 8) (if level = 3 then 256 else 4096)

/-- The result of a walk, with the entries it has read. -/
inductive Walk where
  | page (p : Page) (path : List WalkMark)
  | fault (level : Nat) (malformed : Bool) (path : List WalkMark)
  deriving DecidableEq, Repr

/-- The address of the entry of a virtual address in a table. -/
def pteAddr (va level table : Nat) : Nat := table + 8 * (va / 2 ^ levelBits level % (if level = 4 then 32 else 512))

/-- An entry, read as an ordinary load through its home slice (R210). -/
def Mem.pte (m : Mem) (pa : Nat) : Nat := leNat (m.peek pa 8)

/-- Walk from a table on; the first argument counts the levels left. -/
def walkFrom (g : Grade) (m : Mem) (va : Nat) : Nat → Nat → Nat → List WalkMark → Walk
  | 0, level, _, path => .fault level true path
  | k + 1, level, table, path =>
    let a := pteAddr va level table
    let e := m.pte a
    let path := path ++ [⟨a, level⟩]
    if !bit e 0 then .fault level false path
    else if bit e 1 then
      if !leafAllowed level || leafMalformed g level e then .fault level true path
      else .page ⟨e, level, va / 2 ^ levelBits level * 2 ^ levelBits level⟩ path
    else if pointerMalformed g level e then .fault level true path
    else walkFrom g m va k (level + 1) (bits e 8 34 * 2 ^ 8) path

/-- Walk a partition's tables for a canonical virtual address. -/
def State.walk (s : State) (part va : Nat) : Walk :=
  match s.part? part with
  | none => .fault 0 false []
  | some p => walkFrom s.pkg.grade s.mem va 5 0 p.cfg.ptroot []

/-- The entries that a walker has read: they are read through their home slices, and their lines are marked (R211). -/
def Mem.walked (m : Mem) (path : List WalkMark) : Mem :=
  let m := path.foldl (fun m k => m.visit (lineOf k.pte)) m
  { m with marks := path.foldl (fun l k =>
      if l.contains ⟨lineOf k.pte, k.level⟩ then l else l ++ [⟨lineOf k.pte, k.level⟩]) m.marks }

/-- The home policy of a page that a walker has found (R205). -/
def Mem.learn (m : Mem) (p : Page) : Mem :=
  let h : Homing := ⟨leafFrame p.e, p.size, p.homeDie⟩
  if m.homing.contains h then m
  else { m with homing := h :: m.homing.filter fun k => h.pa + h.size ≤ k.pa || k.pa + k.size ≤ h.pa }

/-- A page enters the TLBs of a cluster and of its die. -/
def Mem.fillTlbs (m : Mem) (c : ClusterId) (t : TlbEntry) : Mem :=
  let add := fun l : List TlbEntry => if l.contains t then l else l ++ [t]
  { m with
    ctlb := Map.put m.ctlb c (add (Map.getD m.ctlb c []))
    dtlb := Map.put m.dtlb c.die (add (Map.getD m.dtlb c.die [])) }

/-- The entries that a walk has read. -/
def Walk.path : Walk → List WalkMark
  | .page _ path | .fault _ _ path => path

/-- The TLB entry that a walk gives. -/
def Walk.entry (part : Nat) : Walk → Option TlbEntry
  | .page p path => some ⟨part, p.va, p.level, path.map WalkMark.pte⟩
  | .fault .. => none

/-- The walkers of the base die. -/
def walkers : Nat := 128

/-- A walk has ended: its page is in the TLBs of every cluster that joined it (R210). -/
def Mem.endWalk (m : Mem) (w : PageWalk) : Mem :=
  let m := { m with walks := m.walks.erase w }
  match w.entry with
  | some t => w.joined.foldl (fun m c => m.fillTlbs c t) m
  | none => m

/-- With every walker busy, the oldest walk ends before another begins. -/
def Mem.freeWalker (m : Mem) : Mem :=
  match m.walks with
  | w :: _ => if walkers ≤ m.walks.length then m.endWalk w else m
  | [] => m

/-- A miss joins the walk in progress for its page, or starts one, which reads the page's entries (R210). -/
def Mem.missWalk (m : Mem) (who : Option ClusterId) (part va : Nat) (w : Walk) : Mem :=
  let same := fun (x : PageWalk) => decide (x.part = part ∧ x.path = w.path)
  if m.walks.any same then
    { m with walks := m.walks.map fun x => if same x then { x with joined := (x.joined ++ who.toList).eraseDups } else x }
  else
    let m := m.freeWalker.walked w.path
    let m := match w with | .page p _ => m.learn p | .fault .. => m
    { m with walks := m.walks ++ [⟨part, va, w.path, w.entry part, who.toList⟩] }

/-- An access has been translated. One of a cluster looks the page up in the cluster's TLB, then in its die's; a page
that is in neither is walked. The engines of the base die have no TLB: their pages are walked (R210, R211). -/
def Mem.noteWalk (m : Mem) (who : Option ClusterId) (part va : Nat) (w : Walk) : Mem :=
  match who, w.entry part with
  | some c, some t =>
    if (Map.getD m.ctlb c []).contains t then m
    else if (Map.getD m.dtlb c.die []).contains t then m.fillTlbs c t
    else m.missWalk who part va w
  | _, _ => m.missWalk who part va w

/-- The homes of remapped pages write back, and the TLB copies of the entries in the stored lines go (R211). -/
def Mem.shootDown (m : Mem) (pa : Nat) (bs : List Byte) : Mem :=
  (m.remapped pa bs).foldl (fun m r => m.flushRange r.1 r.2) (m.dropTlbs pa bs.length)

/-- A store is performed at its home (R201, R211, R221). -/
def Mem.write (m : Mem) (pa : Nat) (bs : List Byte) : Mem :=
  let lines := linesOf pa bs.length
  let m := (lines.foldl Mem.recall m).shootDown pa bs
  (lines.foldl Mem.dirtyLine m).put pa bs

/-- Bytes change in the memory below the home slices. -/
def Mem.putBelow (m : Mem) (pa : Nat) (bs : List Byte) : Mem := (m.shootDown pa bs).put pa bs

/-- A far operation on a line that is not in L2: performed below, and not allocated (R222). -/
def Mem.writeBelow (m : Mem) (pa : Nat) (bs : List Byte) : Mem :=
  let m := m.putBelow pa bs
  { m with below := m.below ++ (linesOf pa bs.length).map fun l => ⟨l, .far, false⟩ }

-- Translation of an access (R207)

/-- What an access needs of its page. -/
inductive AccKind where
  | load | store | atomic | fetch
  deriving DecidableEq, Repr

/-- XLATE at an address. -/
def xlateTrap (c : Cause) (va : Word) (level : Nat) (malformed : Bool) : Trap :=
  ⟨c, va, word (level + 8 * malformed.toNat)⟩

/-- The page gives the permission (R207). -/
def Page.permits (p : Page) (super : Bool) (k : AccKind) : Bool :=
  (super || !p.has 5) &&
    (match k with
      | .load => p.has 2 | .store => p.has 3 | .atomic => p.has 2 && p.has 3 | .fetch => p.has 4)

/-- The check of a walk's result: NOTPRESENT before COMPRESSED before PROTECT (R207). -/
def checkWalk (super : Bool) (k : AccKind) (va : Word) : Walk → Except Trap Page
  | .fault l m _ => .error (xlateTrap .notPresent va l m)
  | .page p _ =>
    if leafTier p.e = 2 then .error (xlateTrap .compressed va p.level false)
    else if !p.permits super k then .error (xlateTrap .protect va p.level false)
    else .ok p

/-- Translate a canonical address for a partition. -/
def State.xlate (s : State) (part : Nat) (super : Bool) (k : AccKind) (va : Word) : Except Trap Page :=
  checkWalk super k va (s.walk part va.toNat)

/-- The page of an address, if it translates. -/
def State.pageAt (s : State) (p : Nat) (a : Nat) : Option Page :=
  if canonical (word a) then match s.walk p a with | .page g _ => some g | .fault .. => none else none

/-- The pages of an area from an address to `stop` each satisfy a condition. -/
def State.pagesAll (s : State) (p : Nat) (ok : Page → Bool) : Nat → Nat → Nat → Bool
  | 0, _, _ => false
  | k + 1, a, stop =>
    decide (stop ≤ a) || match s.pageAt p a with
      | none => false
      | some g => ok g && s.pagesAll p ok k (g.va + g.size) stop

/-- Every page of n bytes from an address on satisfies a condition. -/
def State.areaAll (s : State) (p : Nat) (ok : Page → Bool) (a n : Nat) : Bool :=
  s.pagesAll p ok (n / 2 ^ 16 + 3) a (a + n)

/-- A check from an exception. -/
def Chk.of {α : Type} : Except Trap α → Chk α
  | .ok a => .ok a
  | .error t => .trap t

-- Races (R218)

/-- Two agents are one: a job or an entry that another engine or home core has gone on with is the same (11 R240). -/
def Agent.same : Agent → Agent → Bool
  | .ctx c, .ctx d => c = d
  | .job k _ n, .job k' _ n' => k = k' && n = n'
  | _, _ => false

/-- The accesses that an access of an agent races with. -/
def Mem.racing (m : Mem) (ag : Agent) (lo n : Nat) (write atomic : Bool) : List Access :=
  m.accesses.filter fun a =>
    !a.agent.same ag && lo < a.lo + a.len && a.lo < lo + n && (write || a.write) && !(atomic && a.atomic)

/-- TRAPINFO of RACE (Table 9.1). -/
def raceInfo (a : Access) : Word :=
  match a.agent with
  | .ctx c => word (bits a.region.toNat 0 24 * 2 ^ 32 + a.write.toNat * 2 ^ 31 + coreIdBits c)
  | .job k l _ => word (k * 2 ^ 60 + a.write.toNat * 2 ^ 31 + l)

/-- RACE at an address, naming one of the accesses it races with. -/
def State.raceTrap (s : State) (rs : List Access) (ea : Word) : Trap :=
  ⟨.race, ea, (rs[(s.pick rs.length).1]?.map raceInfo).getD 0⟩

/-- The race check of an access of the issuing context. -/
def State.raceCheck (s : State) (p : Page) (ea : Word) (lo n : Nat) (k : AccKind) : Chk Unit :=
  if p.checked then
    match s.mem.racing (.ctx s.cur) lo n (k != .load) (k == .atomic) with
    | [] => .ok ()
    | r :: rs => .trap (s.raceTrap (r :: rs) ea)
  else .ok ()

/-- Log an access on a CHECKED page while its agent's region is open. -/
def Mem.log (m : Mem) (a : Access) : Mem := if m.accesses.contains a then m else { m with accesses := m.accesses ++ [a] }

/-- Log an access of the issuing context. -/
def State.note (s : State) (p : Page) (lo n : Nat) (k : AccKind) : State :=
  if p.checked then
    { s with mem := s.mem.log ⟨.ctx s.cur, s.ctx.regionid, lo, n, k != .load, k == .atomic⟩ }
  else s

-- Mesh space (R106, R113, R156, R193)

/-- The key of a scratchpad byte. -/
def scrKey (c : ClusterId) (off : Nat) : Nat := ((c.die * 32 + c.y) * 32 + c.x) * 2 ^ 22 + off

/-- A two's-complement field. -/
def sfield (w lo n : Nat) : Int := readInt true n (bits w lo n)

/-- The cluster that a mesh-space address names, as seen from a cluster; none outside the grid (R113). -/
def meshCluster (g : Grade) (own : ClusterId) (ea : Word) : Option ClusterId :=
  let a := ea.toNat
  let (d, x, y) : Int × Int × Int :=
    if bit a 55 then (own.die + sfield a 51 4, own.x + sfield a 46 5, own.y + sfield a 41 5)
    else (bits a 51 4, bits a 46 5, bits a 41 5)
  if d < 0 || x < 0 || y < 0 then none
  else
    let c : ClusterId := ⟨d.toNat, x.toNat, y.toNat⟩
    if inGrid g c then some c else none

/-- OFFSET of a mesh-space address. -/
def meshOff (ea : Word) : Nat := bits ea.toNat 0 22

/-- The bank of a scratchpad offset. -/
def bankOf (off : Nat) : Fin 16 := Fin.ofNat 16 (off / 2 ^ 18)

/-- A mesh-space address, checked by R113 and R156; `zeros` says that bits 40:22 must be zero. -/
def State.meshTarget (s : State) (part : Option Nat) (own : ClusterId) (ea : Word) : Chk (ClusterId × Nat) :=
  if bits ea.toNat 22 19 ≠ 0 then .trap ⟨.notPresent, ea, 0⟩
  else match meshCluster s.pkg.grade own ea with
    | none => .trap ⟨.notPresent, ea, 0⟩
    | some c =>
      let k := s.getCl c
      let b := bankOf (meshOff ea)
      if k.part ≠ part || part.isNone then .trap ⟨.protect, ea, 0⟩
      else if k.changing.any fun x => x.bank = b then .hold
      else if k.modes.get b ≠ .scratch then .trap ⟨.protect, ea, 0⟩
      else .ok (c, meshOff ea)

-- The accesses of a context

/-- Where an access goes. -/
inductive Target where
  | glob (p : Page) (pa : Nat)
  | mesh (c : ClusterId) (off : Nat)
  deriving DecidableEq, Repr

/-- The place of a target's first byte. -/
def Target.place : Target → Place
  | .glob _ pa => .glob pa
  | .mesh c off => .scr (scrKey c off)

/-- Kind and permission of an access of the issuing context, alignment apart (R23, R113, R207). -/
def State.locate (s : State) (k : AccKind) (ea : Word) : Chk Target :=
  if isMesh ea then (s.meshTarget s.part s.cl ea).bind fun t => .ok (.mesh t.1 t.2)
  else if canonical ea then
    match s.xlate s.partNo s.ctx.super k ea with
    | .error t => .trap t
    | .ok p => .ok (.glob p (p.pa ea.toNat))
  else .trap ⟨.notPresent, ea, 0⟩

/-- An address is aligned to n bytes. -/
def aligned (ea : Word) (n : Nat) : Bool := n = 0 || ea.toNat % n = 0

/-- The checks of a scalar access, in the order of R26: address kind, alignment, translation, race. -/
def State.access (s : State) (k : AccKind) (ea : Word) (n al : Nat) : Chk Target :=
  if !isMesh ea && !canonical ea then .trap ⟨.notPresent, ea, 0⟩
  else if !aligned ea al then .trap ⟨.align, ea, 0⟩
  else (s.locate k ea).bind fun t =>
    match t with
    | .glob p pa => (s.raceCheck p ea pa n k).bind fun _ => .ok t
    | .mesh .. => .ok t

/-- The walk of an access is noted. -/
def State.noteAccess (s : State) (ea : Word) : State :=
  if isMesh ea then s else { s with mem := s.mem.noteWalk (some s.cl) s.partNo ea.toNat (s.walk s.partNo ea.toNat) }

/-- The copy of a line in a cluster's ways. -/
def Cluster.wayOf (k : Cluster) (line : Nat) : Option Way := k.ways.find? fun w => w.line = line

/-- The cluster has a CACHE bank. -/
def Cluster.hasCache (k : Cluster) : Bool := k.modes.toList.contains .cache

/-- A load miss requests its line (R195). -/
def Cluster.request (k : Cluster) (line : Nat) : Cluster :=
  if k.hasCache && !k.fills.contains line then { k with fills := k.fills ++ [line] } else k

/-- Bytes stored by the cluster reach its own copies (R195). -/
def Way.update (w : Way) (pa : Nat) (bs : List Byte) : Way :=
  if (linesOf pa bs.length).contains w.line then
    { w with bytes := w.bytes.mapIdx fun i b =>
        if pa ≤ 128 * w.line + i ∧ 128 * w.line + i < pa + bs.length then bs.getD (128 * w.line + i - pa) b else b }
  else w

/-- A read at the home slices, of a range. -/
def State.readHome (s : State) (pa n : Nat) : State × List Byte :=
  let m := s.mem.visitRange pa n
  ({ s with mem := m }, cellsRead m.home pa n)

/-- A plain read by a cluster within one line: from its own copy, or from the home; a miss requests the line (R195). -/
def State.readVia (s : State) (c : ClusterId) (pa n : Nat) : State × List Byte :=
  match (s.getCl c).wayOf (lineOf pa) with
  | some w => (s, (w.bytes.drop (pa % 128)).take n)
  | none =>
    let (s, bs) := s.readHome pa n
    (s.setCl c ((s.getCl c).request (lineOf pa)), bs)

/-- A load of the issuing context within one line. On a CHECKED page it is performed at the home (R218). -/
def State.loadGlob (s : State) (p : Page) (pa n : Nat) : State × List Byte :=
  if p.checked then
    let (s, bs) := s.readHome pa n
    (s.note p pa n .load, bs)
  else s.readVia s.cl pa n

/-- A plain load of a target. -/
def State.load (s : State) (t : Target) (n : Nat) : State × List Byte :=
  match t with
  | .glob p pa => s.loadGlob p pa n
  | .mesh c off => (s, cellsRead s.mem.sram (scrKey c off) n)

/-- Bytes written by a cluster at their homes, and in its own copies (R195). -/
def State.writeHome (s : State) (c : ClusterId) (pa : Nat) (bs : List Byte) : State :=
  let s := { s with mem := s.mem.write pa bs }
  s.setCl c { s.getCl c with ways := (s.getCl c).ways.map fun w => w.update pa bs }

/-- A plain store of the issuing context. -/
def State.store (s : State) (t : Target) (bs : List Byte) : State :=
  match t with
  | .glob p pa => (s.writeHome s.cl pa bs).note p pa bs.length .store
  | .mesh c off => { s with mem := { s.mem with sram := cellsWrite s.mem.sram (scrKey c off) bs } }

-- Ranges of a context

/-- Cut a range at line boundaries: addresses and lengths; the first argument bounds the number of pieces. -/
def cutLines : Nat → Nat → Nat → List (Nat × Nat)
  | 0, _, _ => []
  | k + 1, a, n => if n = 0 then [] else
      let l := min n (128 - a % 128)
      (a, l) :: cutLines k (a + l) (n - l)

/-- The pieces of a range of n bytes. -/
def pieces (ea : Word) (n : Nat) : List (Nat × Nat) := cutLines (n / 128 + 2) ea.toNat n

/-- Check the pieces of a range as plain accesses of the issuing context. -/
def State.checkPieces (s : State) (k : AccKind) : List (Nat × Nat) → Chk (List (Word × Target × Nat))
  | [] => .ok []
  | (a, n) :: rest =>
    (s.access k (word a) n 1).bind fun t => (s.checkPieces k rest).bind fun ts => .ok ((word a, t, n) :: ts)

/-- Check a range, in the order of R26: its start's kind and alignment, then each piece (R182, R183, R306). -/
def State.checkRange (s : State) (k : AccKind) (ea : Word) (n al : Nat) : Chk (List (Word × Target × Nat)) :=
  if !isMesh ea && !canonical ea then .trap ⟨.notPresent, ea, 0⟩
  else if !aligned ea al then .trap ⟨.align, ea, 0⟩ else s.checkPieces k (pieces ea n)

/-- Load a checked range. -/
def State.loadRange (s : State) : List (Word × Target × Nat) → State × List Byte
  | [] => (s, [])
  | (a, t, n) :: rest =>
    let (s, b) := (s.noteAccess a).load t n
    let (s, bs) := s.loadRange rest
    (s, b ++ bs)

/-- Store to a checked range. -/
def State.storeRange (s : State) : List (Word × Target × Nat) → List Byte → State
  | [], _ => s
  | (a, t, n) :: rest, bs => ((s.noteAccess a).store t (bs.take n)).storeRange rest (bs.drop n)

/-- Check and load a record of n bytes, aligned to al. -/
def State.loadRecord (s : State) (ea : Word) (n al : Nat) : Chk (State × List Byte) :=
  (s.checkRange .load ea n al).bind fun ts => .ok (s.loadRange ts)

-- Physical accesses of the base die (fault log, save areas, rings)

/-- Write a physical range at its homes. -/
def State.writePhys (s : State) (pa : Nat) (bs : List Byte) : State := { s with mem := s.mem.write pa bs }

/-- The vector commands of a context that access memory. -/
def isVectorMem : Instr → Bool
  | .vld .. | .vst .. | .vlds .. | .vsts .. | .vgath .. | .vscat .. => true
  | _ => false

/-- The issuing context has queued vector commands that access memory: scalar accesses follow them (R110, R141). -/
def State.vecMemBusy (s : State) : Bool := (s.queued s.cur).any fun q => isVectorMem q.instr

end Sys2Proof.Machine
end

