-- ==== Sys2Proof/Machine/Fetch.lean ====
section
/-!
DEFINITION. Instruction fetch (01 R19-R21): blocks of 32 bytes, what a block fetched before may still give, and the
instruction or the trap at the program counter.
-/
namespace Sys2Proof.Machine

/-- What the fetch of an address gives: an instruction, or a trap. -/
inductive Fetched where
  | instr (i : Instr)
  | trap (t : Trap)
  deriving DecidableEq, Repr

/-- The bytes that a granule may give: those that it has now, those of the block as the context fetched it before, and
those that stores have replaced after the context's latest FENCE and after a host's load of it (R21, assumption 10). -/
def State.granuleChoices (s : State) (pa : Nat) (now : List Byte) (seen : Option (List Byte)) : List (List Byte) :=
  (now :: (seen.toList ++ s.mem.oldValues pa (s.mem.oldFrom pa s.ctx.fence s.ctx.loaded))).eraseDups

/-- One granule of a block is fetched. -/
def State.chooseGranule (s : State) (pa : Nat) (now : List Byte) (seen : Option (List Byte)) : State × List Byte :=
  let choices := s.granuleChoices pa now seen
  let (n, s) := s.pick choices.length
  (s, choices.getD n now)

/-- The granules of a block, one by one. -/
def State.chooseBlock (s : State) : Nat → Nat → List Byte → Option (List Byte) → State × List Byte
  | 0, _, _, _ => (s, [])
  | k + 1, pa, now, seen =>
    let (s, g) := s.chooseGranule pa (now.take 8) (seen.map (·.take 8))
    let (s, gs) := s.chooseBlock k (pa + 8) (now.drop 8) (seen.map (·.drop 8))
    (s, g ++ gs)

/-- The issuing context's fetch of the block at a physical address, the block being at a virtual address. -/
def State.fetchBlock (s : State) (va pa : Nat) : State × List Byte :=
  let (s, now) := s.readHome pa 32
  let (s, blk) := s.chooseBlock 4 pa now (Map.get? s.ctx.fetched va)
  ({ s with ctx := { s.ctx with fetched := Map.put s.ctx.fetched va blk } }, blk)

/-- The bytes from an address to the end of its block, or the trap of the fetch (R20, R109). -/
def State.fetchBytes (s : State) (a : Word) : State × Except Trap (List Byte) :=
  if isMesh a then (s, .error ⟨.protect, a, 0⟩)
  else if !canonical a then (s, .error ⟨.notPresent, a, 0⟩)
  else
    match s.xlate s.partNo s.ctx.super .fetch a with
    | .error t => (s, .error t)
    | .ok p =>
      let s := s.noteAccess a
      let off := a.toNat % 32
      let (s, blk) := s.fetchBlock (a.toNat - off) (p.pa a.toNat - off)
      (s, .ok (blk.drop off))

/-- TRAPINFO of an illegal instruction (R77): its bits, or only its first word. -/
def illegalInfo (sub : IllegalSub) (w : Nat) : Word :=
  if sub = .straddle || w % 4 = 0 then word (w % 2 ^ 32) else word w

/-- Fetch and decode at the program counter. -/
def State.fetch (s : State) : State × Fetched :=
  match s.fetchBytes s.ctx.pc with
  | (s, .error t) => (s, .trap t)
  | (s, .ok bs) =>
    match decodeBytes (coreKind s.cur.core) s.ctx.pc.toNat bs with
    | .ok i => (s, .instr i)
    | .bad sub => (s, .trap ⟨.illegal sub, 0, illegalInfo sub (leNat bs)⟩)

end Sys2Proof.Machine
end

