-- ==== Sys2Proof/Machine/Float.lean ====
section
/-!
DEFINITION. Scalar floating-point instructions (05 R122-R127).
-/
namespace Sys2Proof.Machine

/-- mode(RND): the context's mode for code 0 (Table 3.7). -/
def modeOf (rnd : Rnd) (fpmode : RMode) : RMode :=
  match rnd with
  | .ctx => fpmode | .rne => .rne | .rtz => .rtz | .rup => .rup | .rdn => .rdn | .rmm => .rmm

/-- mode(RND) of the issuing context. -/
def State.mode (s : State) (rnd : Rnd) : RMode := modeOf rnd s.ctx.fpmode

/-- The bits of an operand of a format (R12, R122). -/
def State.fbits (s : State) (t : FFmt) (r : FReg) : Nat := (s.rf r).toNat % 2 ^ (ffmtSpec t).width

/-- The value of an operand. -/
def State.fval (s : State) (t : FFmt) (r : FReg) : FVal := (ffmtSpec t).decode (s.fbits t r)

/-- Write a result with its flags: the bits above the format are zero. -/
def State.fput (s : State) (d : FReg) (r : Nat × Flags) : State := (s.raise r.2).wf d (word r.1)

/-- FADD (R54). -/
def execFadd (t : FFmt) (rnd : Rnd) (d a b : FReg) (s : State) : Out :=
  s.run (.fadd t rnd d a b) fun s => .done (s.fput d (fAdd (ffmtSpec t) (s.mode rnd) (s.fval t a) (s.fval t b)))
/-- FSUB. -/
def execFsub (t : FFmt) (rnd : Rnd) (d a b : FReg) (s : State) : Out :=
  s.run (.fsub t rnd d a b) fun s => .done (s.fput d (fSub (ffmtSpec t) (s.mode rnd) (s.fval t a) (s.fval t b)))
/-- FMUL. -/
def execFmul (t : FFmt) (rnd : Rnd) (d a b : FReg) (s : State) : Out :=
  s.run (.fmul t rnd d a b) fun s => .done (s.fput d (fMul (ffmtSpec t) (s.mode rnd) (s.fval t a) (s.fval t b)))
/-- FFMA: one rounding. -/
def execFfma (t : FFmt) (rnd : Rnd) (d a b c : FReg) (s : State) : Out :=
  s.run (.ffma t rnd d a b c) fun s =>
    .done (s.fput d (fFma (ffmtSpec t) (s.mode rnd) (s.fval t a) (s.fval t b) (s.fval t c)))
/-- FDIV. -/
def execFdiv (t : FFmt) (rnd : Rnd) (d a b : FReg) (s : State) : Out :=
  s.run (.fdiv t rnd d a b) fun s => .done (s.fput d (fDiv (ffmtSpec t) (s.mode rnd) (s.fval t a) (s.fval t b)))
/-- FSQRT. -/
def execFsqrt (t : FFmt) (rnd : Rnd) (d a : FReg) (s : State) : Out :=
  s.run (.fsqrt t rnd d a) fun s => .done (s.fput d (fSqrt (ffmtSpec t) (s.mode rnd) (s.fval t a)))
/-- FMIN (R123). -/
def execFmin (t : FFmt) (d a b : FReg) (s : State) : Out :=
  s.run (.fmin t d a b) fun s => .done (s.fput d (fMinMax (ffmtSpec t) false (s.fbits t a) (s.fbits t b)))
/-- FMAX (R123). -/
def execFmax (t : FFmt) (d a b : FReg) (s : State) : Out :=
  s.run (.fmax t d a b) fun s => .done (s.fput d (fMinMax (ffmtSpec t) true (s.fbits t a) (s.fbits t b)))

/-- FCMP (R124). -/
def execFcmp (cond : FcmpCond) (t : FFmt) (d : XReg) (a b : FReg) (s : State) : Out :=
  s.run (.fcmp cond t d a b) fun s =>
    let r := fCompare cond (s.fval t a) (s.fval t b)
    .done ((s.raise r.2).wx d (word r.1.toNat))

/-- The source bits of FCVT. -/
def State.cvtSource (s : State) (o : CvtOp) : Nat :=
  if o.src.isFloat then (s.rf (fReg o.a)).toNat else (s.rx o.a).toNat

/-- An integer result of FCVT: zero- or sign-extended (R125). -/
def cvtExtend (t : CvtTy) (n : Nat) : Word :=
  match cvtNumTy t with
  | .int sg w => BitVec.ofInt 64 (readInt sg w n)
  | .flt _ => word n

/-- FCVT (R125). -/
def execFcvt (o : CvtOp) (rnd : Rnd) (s : State) : Out :=
  s.run (.fcvt o rnd) fun s =>
    let r := convert (s.mode rnd) (cvtNumTy o.src) (cvtNumTy o.dst) (s.cvtSource o)
    .done (if o.dst.isFloat then s.fput (fReg o.d) r else (s.raise r.2).wx o.d (cvtExtend o.dst r.1))

/-- FCLASS (R126). -/
def execFclass (t : FFmt) (d : XReg) (a : FReg) (s : State) : Out :=
  s.run (.fclass t d a) fun s => .done (s.wx d (word (2 ^ fClass (ffmtSpec t) (s.fbits t a))))

/-- The bits of a with a new sign (R127). -/
def signInject (op : FsgnOp) (w a b : Nat) : Nat :=
  let sa := bit a (w - 1)
  let sb := bit b (w - 1)
  let n : Bool := match op with | .cp => sb | .neg => !sb | .xor => sa != sb
  a % 2 ^ (w - 1) + n.toNat * 2 ^ (w - 1)

/-- FSGN (R127). -/
def execFsgn (op : FsgnOp) (t : FFmt) (d a b : FReg) (s : State) : Out :=
  s.run (.fsgn op t d a b) fun s =>
    .done (s.wf d (word (signInject op (ffmtSpec t).width (s.fbits t a) (s.fbits t b))))

/-- FMVX: all 64 bits. -/
def execFmvx (d : XReg) (a : FReg) (s : State) : Out := s.run (.fmvx d a) fun s => .done (s.wx d (s.rf a))
/-- FMVF: all 64 bits. -/
def execFmvf (d : FReg) (a : XReg) (s : State) : Out := s.run (.fmvf d a) fun s => .done (s.wf d (s.rx a))

end Sys2Proof.Machine
end

