-- ==== Sys2Proof/Machine/Memory.lean ====
section
/-!
DEFINITION. Basic memory instructions (04 R110-R115) and the completion of long-latency instructions (03 R71).
-/
namespace Sys2Proof.Machine

/-- Bytes of an access. -/
def sizeBytes (sz : Fin 4) : Nat := 2 ^ sz.val

/-- A loaded value: sign- or zero-extended. -/
def extendBytes (sx : Bool) (bs : List Byte) : Word :=
  if sx then BitVec.ofInt 64 (readInt true (8 * bs.length) (leNat bs)) else word (leNat bs)

/-- The value is loaded by the issuing context, which then goes on. -/
def State.loadInto (s : State) (i : Instr) (d : XReg) (ea : Word) (n : Nat) (sx : Bool) (la : LaCount) : Res :=
  (s.access .load ea n n).res s fun t =>
    let (s, bs) := (s.noteAccess ea).load t n
    .done (s.longResult i la [.x d (extendBytes sx bs)])

/-- LD (R110). An acquire removes stale ways before the load and ends the region (R215, R217). -/
def execLd (d : XReg) (m : MemOp) (sz : Fin 4) (sx : Bool) (ord : MemOrd) (sc : Scope) (la : LaCount) (s : State) : Out :=
  s.run (.ld d m sz sx ord sc la) fun s =>
    if s.vecMemBusy then .wait s
    else if ord = .plain then s.loadInto (.ld d m sz sx ord sc la) d (memEa m s.ctx) (sizeBytes sz) sx la
    else
      (s.access .load (memEa m s.ctx) (sizeBytes sz) (sizeBytes sz)).res s fun t =>
        let (s, bs) := ((s.acquire sc).noteAccess (memEa m s.ctx)).load t (sizeBytes sz)
        .done (s.endRegion.longResult (.ld d m sz sx ord sc la) la [.x d (extendBytes sx bs)])

/-- ST (R110). A release ends the region (R217). -/
def execSt (src : XReg) (m : MemOp) (sz : Fin 4) (ord : MemOrd) (sc : Scope) (s : State) : Out :=
  s.run (.st src m sz ord sc) fun s =>
    if s.vecMemBusy then .wait s
    else
      (s.access .store (memEa m s.ctx) (sizeBytes sz) (sizeBytes sz)).res s fun t =>
        let s := (s.noteAccess (memEa m s.ctx)).store t (leBytes (sizeBytes sz) (s.rx src).toNat)
        .done (if ord = .plain then s else s.endRegion)

/-- LDC (R114, R223). -/
def execLdc (d : XReg) (m : MemOp) (sz : Fin 4) (sx : Bool) (la : LaCount) (s : State) : Out :=
  s.run (.ldc d m sz sx la) fun s =>
    if s.vecMemBusy then .wait s
    else s.loadInto (.ldc d m sz sx la) d (memEa m s.ctx) (sizeBytes sz) sx la

/-- PFL (R115): the line is requested, through its home slice, into the cluster's ways; it never traps. -/
def State.prefetch (s : State) (ea : Word) : State :=
  if !canonical ea then s
  else match s.xlate s.partNo s.ctx.super .load ea with
    | .error _ => s
    | .ok p =>
      let s := s.noteAccess ea
      let line := lineOf (p.pa ea.toNat)
      let s := { s with mem := s.mem.allocate line }
      if (s.getCl s.cl).hasCache then s.setCl s.cl ((s.getCl s.cl).request line) else s

/-- PFL. -/
def execPfl (m : MemOp) (s : State) : Out := s.run (.pfl m) fun s => .done (s.prefetch (memEa m s.ctx))

/-- A long-latency instruction completes before its window ends: its results reach their registers (R71). One whose
window is saved completes after the restore (18 R340, R345). -/
def execLongLatencyComplete (c : CtxId) (s : State) : Out :=
  let k := s.getCtx c
  if s.unsaved c && k.windows.any fun w => w.pend ≠ [] then
    .next (s.setCtx c { k.settle with windows := k.windows.map fun w => { w with pend := [] } })
  else disabled "LONG_LATENCY_COMPLETE"

end Sys2Proof.Machine
end

