-- ==== Sys2Proof/Machine/Atomic.lean ====
section
/-!
DEFINITION. Atomics and reductions (09 R221-R229): where they are performed, the partials of a cluster, AMO, CAS, RED,
REDX and CVTEXA.
-/
namespace Sys2Proof.Machine

-- At the home (R222)

/-- The partials of a line. -/
def Mem.holders (m : Mem) (line : Nat) : List Partial := m.partials.filter fun p => p.line = line

/-- The line is in U, with a class (R221). -/
def Mem.inClass (m : Mem) (line : Nat) (k : RedClass) : Bool :=
  !(m.holders line).isEmpty && (m.holders line).all fun p => p.cls = k

/-- Write n bytes of one line at its home without a recall (R221, same class at home). -/
def Mem.writeKeep (m : Mem) (pa : Nat) (bs : List Byte) : Mem :=
  ((m.shootDown pa bs).dirtyLine (lineOf pa)).put pa bs

/-- Where an operation at the home takes effect on its line (Table 9.9). -/
inductive HomePlace where
  /-- On the L2 copy, without a recall. -/
  | keep
  /-- On the L2 copy, merged first. -/
  | l2
  /-- On memory below. -/
  | below
  deriving DecidableEq, Repr

/-- The place of an operation of a class, or of none; `plainFar` says that it is far, `homeless` that it is a
reduction with ORD 0 or 2 of a cluster without a CACHE bank. -/
def Mem.homePlace (m : Mem) (line : Nat) (cls : Option RedClass) (far homeless : Bool) : HomePlace :=
  if (far || homeless) && (match cls with | some k => m.inClass line k | none => false) then .keep
  else if far && (m.holders line).isEmpty && !m.l2.contains line then .below
  else .l2

/-- Read n bytes at a place of operation. -/
def Mem.prepare (m : Mem) (pa : Nat) : HomePlace → Mem
  | .keep => m.allocate (lineOf pa)
  | .l2 => m.visit (lineOf pa)
  | .below => m

/-- Write bytes at a place of operation. -/
def Mem.writeAt (m : Mem) (pa : Nat) (bs : List Byte) : HomePlace → Mem
  | .keep => m.writeKeep pa bs
  | .l2 => m.write pa bs
  | .below => m.writeBelow pa bs

/-- An indivisible read and write of a target by the issuing context: the old bytes. The function says what is written,
if anything. A CAS that fails writes nothing, and leaves the issuing cluster's ways as they are (assumption 73). -/
def State.rmw (s : State) (t : Target) (n : Nat) (cls : Option RedClass) (far homeless : Bool)
    (f : List Byte → Option (List Byte)) : State × List Byte :=
  match t with
  | .mesh c off =>
    let old := cellsRead s.mem.sram (scrKey c off) n
    (match f old with
      | none => s
      | some bs => { s with mem := { s.mem with sram := cellsWrite s.mem.sram (scrKey c off) bs } }, old)
  | .glob p pa =>
    let h := s.mem.homePlace (lineOf pa) cls far homeless
    let m := s.mem.prepare pa h
    let old := cellsRead m.home pa n
    let s := { s with mem := m }
    let s :=
      match f old with
      | none => s
      | some bs =>
        let s := { s with mem := s.mem.writeAt pa bs h }
        s.setCl s.cl { s.getCl s.cl with ways := (s.getCl s.cl).ways.map fun w => Way.update w pa bs }
    (s.note p pa n .atomic, old)

-- At a partial (R221)

/-- The CACHE banks of a cluster that take allocations. -/
def Cluster.cacheBanks (k : Cluster) : List (Fin 16) :=
  (List.finRange 16).filter fun b => decide (k.modes.get b = .cache) && !k.changing.any fun x => x.bank = b

/-- The set of a line (R195). -/
def setOf (line : Nat) : Nat := line % 2048

/-- A bank of a cluster holds something in the set of a line. -/
def State.occupied (s : State) (c : ClusterId) (line : Nat) (b : Fin 16) : Bool :=
  (s.getCl c).ways.any (fun w => w.bank = b.val && setOf w.line = setOf line)
    || s.mem.partials.any fun p => p.cl = c && p.bank = b.val && setOf p.line = setOf line

/-- What a bank of a cluster holds in the set of a line leaves it: a copy is dropped, a partial is merged at home. -/
def State.evict (s : State) (c : ClusterId) (line : Nat) (b : Fin 16) : State :=
  let k := s.getCl c
  let s := s.setCl c { k with ways := k.ways.filter fun w => !(decide (w.bank = b.val) && setOf w.line = setOf line) }
  { s with mem := s.mem.recallAll fun p => p.cl = c && p.bank = b.val && setOf p.line = setOf line }

/-- A way for a line: a CACHE bank that holds nothing in its set, or one of the implementation's choice (R195,
assumption 5), emptied. -/
def State.takeWay (s : State) (c : ClusterId) (line : Nat) : State × Nat :=
  let banks := (s.getCl c).cacheBanks
  match banks.find? fun b => !s.occupied c line b with
  | some b => (s, b.val)
  | none =>
    let (n, s) := s.pick banks.length
    let b := banks.getD n 0
    (s.evict c line b, b.val)

/-- Change a part of a list. -/
def splice (bs : List Byte) (o : Nat) (v : List Byte) : List Byte := bs.take o ++ v ++ bs.drop (o + v.length)

/-- A reduction at the issuing cluster's partial of a line: another class is recalled first, and a cluster without a
partial takes a way filled with identities. Copies of the line in the cluster go, so that its contexts see their own
reductions (R214). TLB copies of entries in the line go; the merge at the home does the rest of R211. -/
def State.redPartial (s : State) (k : RedClass) (pa n : Nat) (f : List Byte → List Byte) : State :=
  let line := lineOf pa
  let c := s.cl
  let s := if s.mem.inClass line k then s else { s with mem := s.mem.recall line }
  let s :=
    if s.mem.partials.any fun p => p.cl = c && p.line = line then s
    else
      let (s, b) := s.takeWay c line
      { s with mem := { s.mem with partials := s.mem.partials ++ [⟨c, line, b, k, identityLine k⟩] } }
  let o := pa % 128
  let m := s.mem.keepOld pa n fun a => s.mem.peek a 8
  let m := { m with
    partials := m.partials.map fun (p : Partial) =>
      if p.cl = c && p.line = line then { p with bytes := splice p.bytes o (f ((p.bytes.drop o).take n)) } else p }
  let s := { s with mem := m.dropTlbs pa n }
  s.setCl c { s.getCl c with ways := (s.getCl c).ways.filter fun w => w.line ≠ line }

-- The instructions

/-- An ORD acquires. -/
def acquires : MemOrd → Bool | .acq | .ar => true | .plain | .rel | .far => false
/-- An ORD acquires or releases: the region ends (R217). -/
def syncs : MemOrd → Bool | .acq | .ar | .rel => true | .plain | .far => false

/-- The acquire and the end of the region that an ORD asks for. -/
def State.ordered (s : State) (ord : MemOrd) (sc : Scope) : State :=
  let s := if acquires ord then s.acquire sc else s
  if syncs ord then s.endRegion else s

/-- The combination of an AMO (R225), on w-bit values. -/
def amoValue (op : AmoOp) (w old b : Nat) : Nat :=
  match op with
  | .add => redValue .add w old b | .and => redValue .and w old b | .or => redValue .or w old b
  | .xor => redValue .xor w old b | .min => redValue .min w old b | .max => redValue .max w old b
  | .minz => redValue .minz w old b | .maxz => redValue .maxz w old b
  | .swap => b

/-- Bytes of an atomic. -/
def atomBytes (wide : Bool) : Nat := if wide then 8 else 4

/-- An AMO or a CAS: the checks, the operation, and x[D]. -/
def State.atomic (s : State) (i : Instr) (d a : XReg) (wide sx : Bool) (ord : MemOrd) (sc : Scope) (off : BitVec 64)
    (la : LaCount) (f : Nat → Option Nat) : Res :=
  let n := atomBytes wide
  let ea := s.rx a + off
  if s.vecMemBusy then .wait s
  else (s.access .atomic ea n n).res s fun t =>
    let (s, old) := (s.noteAccess ea).rmw t n none (ord = .far) false fun bs => (f (leNat bs)).map (leBytes n)
    .done ((s.ordered ord sc).longResult i la [.x d (extendBytes sx old)])

/-- AMO (R225). -/
def execAmo (op : AmoOp) (d b a : XReg) (wide sx : Bool) (ord : MemOrd) (sc : Scope) (off : BitVec 64) (la : LaCount)
    (s : State) : Out :=
  s.run (.amo op d b a wide sx ord sc off la) fun s =>
    let w := 8 * atomBytes wide
    s.atomic (.amo op d b a wide sx ord sc off la) d a wide sx ord sc off la fun old =>
      some (amoValue op w old (bits (s.rx b).toNat 0 w))

/-- CAS (R226): a failing one writes nothing. -/
def execCas (d b a : XReg) (wide sx : Bool) (ord : MemOrd) (sc : Scope) (off : BitVec 64) (la : LaCount) (s : State) :
    Out :=
  s.run (.cas d b a wide sx ord sc off la) fun s =>
    let w := 8 * atomBytes wide
    s.atomic (.cas d b a wide sx ord sc off la) d a wide sx ord sc off la fun old =>
      if old = bits (s.rx d).toNat 0 w then some (bits (s.rx b).toNat 0 w) else none

/-- A reduction of n bytes at a checked target (R227): at a partial, or at the home, or in a bank. -/
def State.reduce (s : State) (t : Target) (n : Nat) (k : RedClass) (ord : MemOrd) (sc : Scope)
    (f : List Byte → List Byte) : State :=
  let homeless := (s.getCl s.cl).cacheBanks.isEmpty
  let s :=
    match t with
    | .mesh .. => (s.rmw t n none false false fun bs => some (f bs)).1
    | .glob p pa =>
      if acquires ord then
        (({ s with mem := s.mem.recall (lineOf pa) }).rmw t n none false false fun bs => some (f bs)).1
      else if decide (ord = MemOrd.far) || homeless then (s.rmw t n (some k) (decide (ord = MemOrd.far)) homeless fun bs => some (f bs)).1
      else (s.redPartial k pa n f).note p pa n .atomic
  s.ordered ord sc

/-- RED (R227). -/
def execRed (op : RedOp) (b a : XReg) (wide : Bool) (ord : MemOrd) (sc : Scope) (off : BitVec 64) (s : State) : Out :=
  s.run (.red op b a wide ord sc off) fun s =>
    let n := atomBytes wide
    let ea := s.rx a + off
    if s.vecMemBusy then .wait s
    else (s.access .atomic ea n n).res s fun t =>
      .done ((s.noteAccess ea).reduce t n (.int op wide) ord sc fun bs =>
        leBytes n (redValue op (8 * n) (leNat bs) (bits (s.rx b).toNat 0 (8 * n))))

/-- The EXA operand of REDX: the source is read, and what it does to an EXA value (R228). -/
def State.redxSource (s : State) : RedxSrc → Chk (State × (Exa → Exa))
  | .f r => .ok (s, fun e => e.addF32 ((s.rf r).toNat % 2 ^ 32))
  | .exa r =>
    (s.access .load (s.rx r) 64 64).bind fun t =>
      let (s, bs) := (s.noteAccess (s.rx r)).load t 64
      .ok (s, fun e => e.addExa (Exa.ofBits (leNat bs)))

/-- REDX (R228): no flag is set. The target is checked before the source at x[B] (assumption 73). -/
def execRedx (src : RedxSrc) (a : XReg) (ord : MemOrd) (sc : Scope) (off : BitVec 64) (s : State) : Out :=
  s.run (.redx src a ord sc off) fun s =>
    let ea := s.rx a + off
    if s.vecMemBusy then .wait s
    else (s.access .atomic ea 64 64).res s fun t =>
      (s.redxSource src).res s fun r =>
        .done ((r.1.noteAccess ea).reduce t 64 .exa ord sc fun bs => leBytes 64 (r.2 (Exa.ofBits (leNat bs))).toBits)

/-- CVTEXA (R229): a line in U is merged and read at its home. -/
def execCvtexa (rnd : Rnd) (d : FReg) (a : XReg) (s : State) : Out :=
  s.run (.cvtexa rnd d a) fun s =>
    if s.vecMemBusy then .wait s
    else (s.access .load (s.rx a) 64 64).res s fun t =>
      let s := s.noteAccess (s.rx a)
      let (s, bs) :=
        match t with
        | .glob p pa =>
          if (s.mem.holders (lineOf pa)).isEmpty then s.load t 64
          else
            let (s, bs) := s.readHome pa 64
            (s.note p pa 64 .load, bs)
        | .mesh .. => s.load t 64
      .done (s.fput d ((Exa.ofBits (leNat bs)).toF32 (s.mode rnd)))

end Sys2Proof.Machine
end

