-- ==== Sys2Proof/Machine/FullEmpty.lean ====
section
/-!
DEFINITION. Full/empty words (07 R173, R174): the checks of their addresses, the requests that wait at a bank and how
they are served, and LDF, LDFF, STE, STF, FESTAT, FESET.
-/
namespace Sys2Proof.Machine

/-- The checks of a full/empty or barrier address, in the order of R173 and R176: address kind, R113 and R156, then
alignment to n bytes. -/
def State.bankAccess (s : State) (ea : Word) (n : Nat) : Chk (ClusterId × Nat) :=
  if isMesh ea then
    (s.meshTarget s.part s.cl ea).bind fun t => (need (aligned ea n) ⟨.align, ea, 0⟩).bind fun _ => .ok t
  else .trap ⟨.notPresent, ea, 0⟩

/-- The address of a full/empty word: a canonical address raises PROTECT (R173). -/
def State.feAccess (s : State) (ea : Word) : Chk (ClusterId × Nat) :=
  if canonical ea then .trap ⟨.protect, ea, 0⟩ else s.bankAccess ea 8

/-- The number of a scratchpad word. -/
def feWord (c : ClusterId) (off : Nat) : Nat := scrKey c off / 8

/-- FE of a word. -/
def State.fe (s : State) (w : Nat) : Bool := s.mem.full.contains w

/-- Set FE of a word. -/
def State.setFe (s : State) (w : Nat) (full : Bool) : State :=
  let rest := s.mem.full.filter (· ≠ w)
  { s with mem := { s.mem with full := if full then rest ++ [w] else rest } }

/-- Read a scratchpad word. -/
def State.readWord (s : State) (w : Nat) : Word := word (leNat (cellsRead s.mem.sram (8 * w) 8))

/-- Write a scratchpad word. -/
def State.writeWord (s : State) (w : Nat) (v : Word) : State :=
  { s with mem := { s.mem with sram := cellsWrite s.mem.sram (8 * w) (wordBytes v) } }

/-- One line of R174 at the bank, its condition met: the word read. -/
def State.feDo (s : State) (w : Nat) (store : Option Word) (keep : Bool) : State × Word :=
  match store with
  | some v => ((s.writeWord w v).setFe w true, v)
  | none => (if keep then s else s.setFe w false, s.readWord w)

/-- Mark the first waiting request of a word that the bank can serve, and answer it: the answer's function gets the
request, and says nothing when the request stays. -/
def answerFirst (can : FeWait → Bool) (v : FeWait → Word) : List FeWait → Option (FeWait × List FeWait)
  | [] => none
  | q :: qs =>
    if can q then some (q, { q with answer := some (v q) } :: qs)
    else (answerFirst can v qs).map fun r => (r.1, q :: r.2)

/-- Serve the requests that wait at a word, in arrival order, until none can be served (R174). -/
def State.serveFe (s : State) (c : ClusterId) (w : Nat) : Nat → State
  | 0 => s
  | n + 1 =>
    let can := fun (q : FeWait) => decide (q.word = w) && q.answer.isNone && (q.store.isNone == s.fe w)
    match answerFirst can (fun q => (s.feDo w q.store q.keep).2) (s.getCl c).feWaits with
    | none => s
    | some (q, qs) =>
      let s := (s.feDo w q.store q.keep).1
      (s.setCl c { s.getCl c with feWaits := qs }).serveFe c w n

/-- Serve a word after it has changed. -/
def State.wakeFe (s : State) (c : ClusterId) (w : Nat) : State := s.serveFe c w ((s.getCl c).feWaits.length + 1)

/-- The request of the issuing context at a cluster. -/
def State.feRequest (s : State) (c : ClusterId) : Option FeWait := (s.getCl c).feWaits.find? fun q => q.ctx = s.cur

/-- The request of the issuing context at a cluster goes. -/
def State.dropRequest (s : State) (c : ClusterId) : State :=
  s.setCl c { s.getCl c with feWaits := (s.getCl c).feWaits.filter fun q => q.ctx ≠ s.cur }

/-- LDF, LDFF and STE at the bank: the value read once the word is as they need it, else they wait in order. A request
that the bank has answered meanwhile is taken up first. -/
def State.feOp (s : State) (i : Instr) (ea : Word) (store : Option Word) (keep : Bool)
    (fin : State → ClusterId → Word → Res) : Res :=
  match (meshCluster s.pkg.grade s.cl ea).bind fun c => (s.feRequest c).bind fun q => q.answer.map fun v => (c, v) with
  | some (c, v) => fin (s.dropRequest c) c v
  | none =>
    (s.feAccess ea).res s fun t =>
      let w := feWord t.1 t.2
      if store.isNone == s.fe w then
        let (s', v) := s.feDo w store keep
        fin ((s'.dropRequest t.1).wakeFe t.1 w) t.1 v
      else if (s.feRequest t.1).isSome then .wait s
      else
        let k := s.getCl t.1
        .wait ((s.setCl t.1 { k with feWaits := k.feWaits ++ [⟨s.cur, w, store, keep, none⟩] }).asks i)

/-- A full/empty load completes: it acquires at the pair scope and ends the region (R169). -/
def State.feLoad (s : State) (i : Instr) (d : XReg) (m : MemOp) (keep : Bool) (la : LaCount) : Res :=
  if s.vecMemBusy then .wait s
  else s.feOp i (memEa m s.ctx) none keep fun s c v =>
    .done ((s.acquire (pairScope s.cl c)).endRegion.longResult i la [.x d v])

/-- LDF (R174). -/
def execLdf (d : XReg) (m : MemOp) (la : LaCount) (s : State) : Out :=
  s.run (.ldf d m la) fun s => s.feLoad (.ldf d m la) d m false la

/-- LDFF (R174): the word stays full. -/
def execLdff (d : XReg) (m : MemOp) (la : LaCount) (s : State) : Out :=
  s.run (.ldff d m la) fun s => s.feLoad (.ldff d m la) d m true la

/-- STE (R174): a release, at the pair scope. -/
def execSte (src : XReg) (m : MemOp) (s : State) : Out :=
  s.run (.ste src m) fun s =>
    if s.vecMemBusy then .wait s
    else s.feOp (.ste src m) (memEa m s.ctx) (some (s.rx src)) false fun s _ _ => .done s.endRegion

/-- STF (R174): it never waits, and overwrites a full word. -/
def execStf (src : XReg) (m : MemOp) (s : State) : Out :=
  s.run (.stf src m) fun s =>
    if s.vecMemBusy then .wait s
    else (s.feAccess (memEa m s.ctx)).res s fun t =>
      let w := feWord t.1 t.2
      .done (((s.writeWord w (s.rx src)).setFe w true).wakeFe t.1 w).endRegion

/-- FESTAT (R174). -/
def execFestat (d : XReg) (m : MemOp) (s : State) : Out :=
  s.run (.festat d m) fun s =>
    if s.vecMemBusy then .wait s
    else (s.feAccess (memEa m s.ctx)).res s fun t =>
      .done (s.wx d (word (s.fe (feWord t.1 t.2)).toNat))

/-- FESET (R174): the word is unchanged, and waiters are woken. -/
def execFeset (src : XReg) (m : MemOp) (s : State) : Out :=
  s.run (.feset src m) fun s =>
    if s.vecMemBusy then .wait s
    else (s.feAccess (memEa m s.ctx)).res s fun t =>
      let w := feWord t.1 t.2
      .done ((s.setFe w ((s.rx src).getLsbD 0)).wakeFe t.1 w)

end Sys2Proof.Machine
end

