-- ==== Sys2Proof/Machine/Report.lean ====
section
/-!
DEFINITION. What a partition reports: fault records (18 R338, Table 18.5), completion records and event words
(18 R337, 20 R364).
-/
namespace Sys2Proof.Machine

/-- Bytes padded with zeros to a length. -/
def padTo (n : Nat) (bs : List Byte) : List Byte := (bs ++ List.replicate n 0).take n

/-- Fault-record kinds (Table 18.5). -/
inductive FaultKind where
  | barrier | qpair | pnode | deadline | doubleTrap | hwFault | corrected
  deriving DecidableEq, Repr

/-- KIND of Table 18.5. -/
def FaultKind.code : FaultKind → Nat
  | .barrier => 1 | .qpair => 2 | .pnode => 3 | .deadline => 4 | .doubleTrap => 5 | .hwFault => 6 | .corrected => 7

/-- A fault record (Table 18.5). -/
structure FaultRec where
  kind : FaultKind
  cls : Nat := 0
  unit : Nat := 0
  wher : Nat := 0
  addr : Nat := 0
  detail : List Byte := []
  deriving DecidableEq, Repr

/-- Its 64 bytes. -/
def FaultRec.bytes (r : FaultRec) (seq cycle : Nat) : List Byte :=
  leBytes 8 seq ++ leBytes 8 cycle ++ leBytes 1 r.kind.code ++ leBytes 1 r.cls ++ leBytes 1 r.unit ++ [0]
    ++ leBytes 4 r.wher ++ leBytes 8 r.addr ++ padTo 32 r.detail

/-- Write a fault record to a partition's log, with the CYCLE of its detection: at ring index SEQ mod 4,096, and SEQ
into the ring header (R338). -/
def State.logFaultAt (s : State) (p : Nat) (r : FaultRec) (cycle : Nat) : State :=
  match s.part? p with
  | none => s
  | some v =>
    let seq := v.logSeq + 1
    let s := s.writePhys (v.cfg.flog + 64 * (seq % 4096)) (r.bytes seq cycle)
    let s := s.writePhys (v.cfg.flog - 64) (leBytes 8 seq)
    s.setPart p { v with logSeq := seq }

/-- Log a fault that is detected now. -/
def State.logFault (s : State) (p : Nat) (r : FaultRec) : State := s.logFaultAt p r s.cycle

/-- The state of a work queue on the device. -/
def State.getQueue (s : State) (q : Nat) : WorkQueue := Map.getD s.pkg.queues q ⟨0, 0, 0, none, []⟩
/-- Replace it. -/
def State.setQueue (s : State) (q : Nat) (v : WorkQueue) : State :=
  { s with pkg := { s.pkg with queues := Map.put s.pkg.queues q v } }

/-- A completion record is due on a queue: status word, and entry number (R364). -/
def State.pushRecord (s : State) (q : Nat) (status : Word) (entry : Word) : State :=
  let v := s.getQueue q
  s.setQueue q { v with records := v.records ++ [(status, entry)] }

/-- The status word of a rejected entry (20 R365): a code of Table 20.6, and bits 31:0. -/
def rejectWord (code result : Nat) : Word := word (result % 2 ^ 32 + code * 2 ^ 32 + 0xFF * 2 ^ 48)

/-- A queue holds a LAUNCH that has been read and not yet placed. -/
def WorkQueue.launching (q : WorkQueue) : Bool := match q.entry with | some e => recNat e.2 0 1 = 1 | none => false

/-- The partition's queues that hold an incomplete launch: running, waiting, or read and not yet placed. -/
def State.busyQueues (s : State) (p : Nat) : List Nat :=
  match s.part? p with
  | none => []
  | some v =>
    (List.range v.cfg.nwq).map (v.cfg.wq0 + ·) |>.filter fun q =>
      s.launches.any (fun l => l.2.part = p && l.2.queue = q) || v.waiting.any (fun w => w.1 = q)
        || (s.getQueue q).launching

/-- An event word (Table 18.3). -/
def eventWord (event cls p seq : Nat) : Word := word (event * 2 ^ 56 + cls * 2 ^ 48 + p * 2 ^ 32 + seq % 2 ^ 32)

/-- Post an event word to the partition's queues with incomplete launches and to its configuration queue (R337). -/
def State.postEvent (s : State) (p event cls seq : Nat) : State :=
  match s.part? p with
  | none => s
  | some v =>
    let qs := s.busyQueues p
    let qs := if qs.contains v.cfg.cfgq then qs else qs ++ [v.cfg.cfgq]
    qs.foldl (fun s q => s.pushRecord q (eventWord event cls p seq) (BitVec.allOnes 64)) s

/-- The number of the latest fault record. -/
def State.logSeq (s : State) (p : Nat) : Nat := match s.part? p with | some v => v.logSeq | none => 0

end Sys2Proof.Machine
end

