-- ==== Sys2Proof/Machine/Barrier.lean ====
section
/-!
DEFINITION. Barriers (07 R175-R178): the object, its operations at the bank, and BARINIT, BARARR, BAREXP, BARWAIT,
WAITANY, BARTEST.
-/
namespace Sys2Proof.Machine

/-- A barrier object (Table 7.3). A STATE byte that is not 0 is BROKEN. -/
structure Barrier where
  phase : Nat
  arrive : Nat
  bytes : Nat
  expect : Nat
  state : Nat
  err : Nat
  deriving DecidableEq, Repr

/-- The object in 32 bytes. -/
def Barrier.ofBytes (b : List Byte) : Barrier :=
  ⟨recNat b 0 4, recNat b 4 4, recNat b 8 8, recNat b 16 4, recNat b 20 1, recNat b 21 1⟩

/-- Its 32 bytes; the reserved ones are zero. -/
def Barrier.toBytes (b : Barrier) : List Byte :=
  leBytes 4 b.phase ++ leBytes 4 b.arrive ++ leBytes 8 b.bytes ++ leBytes 4 b.expect ++ leBytes 1 b.state
    ++ leBytes 1 b.err ++ List.replicate 10 0

/-- BROKEN. -/
def Barrier.broken (b : Barrier) : Bool := b.state ≠ 0

/-- The test of completion (R176). -/
def Barrier.complete (b : Barrier) : Barrier :=
  if !b.broken && b.arrive = 0 && b.bytes = 0 then { b with phase := (b.phase + 1) % 2 ^ 32, arrive := b.expect } else b

/-- An arrival at an OPEN barrier that expects one. -/
def Barrier.arriveOne (b : Barrier) : Barrier := ({ b with arrive := b.arrive - 1 }).complete

/-- A delivery of n bytes that BYTES covers (R178). -/
def Barrier.deliver (b : Barrier) (n : Nat) : Barrier := ({ b with bytes := b.bytes - n }).complete

/-- Broken, with an error. -/
def Barrier.break (b : Barrier) (err : Nat) : Barrier := { b with state := 1, err := err }

/-- The barrier at a scratchpad offset. -/
def State.barrier (s : State) (c : ClusterId) (off : Nat) : Barrier :=
  Barrier.ofBytes (cellsRead s.mem.sram (scrKey c off) 32)

/-- Replace it; the full/empty bits of its words stay (R175). -/
def State.setBarrier (s : State) (c : ClusterId) (off : Nat) (b : Barrier) : State :=
  { s with mem := { s.mem with sram := cellsWrite s.mem.sram (scrKey c off) b.toBytes } }

/-- The absolute mesh-space address of a scratchpad offset (R106). -/
def meshAbs (c : ClusterId) (off : Nat) : Word :=
  word (0xFE * 2 ^ 56 + c.die * 2 ^ 51 + c.x * 2 ^ 46 + c.y * 2 ^ 41 + off)

/-- Every BARWAIT and WAITANY that waits for a barrier learns that it has become BROKEN (R178). -/
def State.tellBroken (s : State) (c : ClusterId) (off : Nat) : State :=
  s.mapCtxs fun _ k => { k with
    awaits := k.awaits.map fun w => if w.cl = c && w.off = off then { w with broken := true } else w }

/-- The barrier becomes BROKEN: those that wait for it learn it, and a fault record names its address and ERR (R178). -/
def State.breakBarrier (s : State) (c : ClusterId) (off : Nat) (b : Barrier) (err : Nat) : State :=
  let s := (s.setBarrier c off (b.break err)).tellBroken c off
  match (s.getCl c).part with
  | none => s
  | some p =>
    s.logFault p { kind := .barrier, wher := clusterBits c, addr := (meshAbs c off).toNat, detail := leBytes 1 err }

/-- A delivery bound to a barrier (R178): at a BROKEN barrier it changes nothing; one beyond BYTES breaks it. -/
def State.deliverBarrier (s : State) (c : ClusterId) (off n : Nat) : State :=
  let b := s.barrier c off
  if b.broken then s
  else if b.bytes < n then s.breakBarrier c off b 1
  else s.setBarrier c off (b.deliver n)

/-- A bound job has ended in error (R178). A barrier that is BROKEN keeps its ERR, and nothing is logged (assumption 62). -/
def State.failBarrier (s : State) (c : ClusterId) (off : Nat) : State :=
  let b := s.barrier c off
  if b.broken then s else s.breakBarrier c off b 3

/-- The address of a barrier, checked (R176). -/
def State.barAccess (s : State) (ea : Word) : Chk (ClusterId × Nat) :=
  if isMesh ea then s.bankAccess ea 32 else .trap ⟨.protect, ea, 0⟩

/-- Set a slot of the issuing context. -/
def State.setSlot (s : State) (b : BSlot) (addr : Word) (seen : Nat) : State :=
  { s with ctx := { s.ctx with bs := s.ctx.bs.set b.val ⟨addr, BitVec.ofNat 32 seen⟩ } }

/-- The address in a slot of the issuing context. -/
def State.slotAddr (s : State) (b : BSlot) : Word := (s.ctx.bs.get b).addr

/-- The seen phase of a slot. -/
def State.slotSeen (s : State) (b : BSlot) : Nat := (s.ctx.bs.get b).seen.toNat

/-- BARINIT.INIT (Table 7.4). -/
def execBarinitInit (d : BSlot) (a b : XReg) (s : State) : Out :=
  s.run (.barinitInit d a b) fun s =>
    if s.vecMemBusy then .wait s
    else (s.barAccess (s.rx a)).res s fun t =>
      let n := bits (s.rx b).toNat 0 32
      let v : Barrier := ⟨0, n, 0, n, 0, 0⟩
      let s := if n = 0 then s.breakBarrier t.1 t.2 v 2 else s.setBarrier t.1 t.2 v
      .done (s.setSlot d (s.rx a) 0)

/-- BARINIT.BIND (Table 7.4). -/
def execBarinitBind (d : BSlot) (a : XReg) (s : State) : Out :=
  s.run (.barinitBind d a) fun s =>
    if s.vecMemBusy then .wait s
    else (s.barAccess (s.rx a)).res s fun t => .done (s.setSlot d (s.rx a) (s.barrier t.1 t.2).phase)

/-- BARARR (Table 7.4): a release, at the pair scope; it ends the region. -/
def execBararr (d : XReg) (a : BSlot) (s : State) : Out :=
  s.run (.bararr d a) fun s =>
    if s.vecMemBusy then .wait s
    else (s.barAccess (s.slotAddr a)).res s fun t =>
      let v := s.barrier t.1 t.2
      let s' :=
        if v.broken then s
        else (if v.arrive = 0 then s.breakBarrier t.1 t.2 v 2 else s.setBarrier t.1 t.2 v.arriveOne).setSlot a
          (s.slotAddr a) v.phase
      .done (s'.wx d (word v.phase)).endRegion

/-- BAREXP (Table 7.4). -/
def execBarexp (a : BSlot) (b : XReg) (s : State) : Out :=
  s.run (.barexp a b) fun s =>
    if s.vecMemBusy then .wait s
    else (s.barAccess (s.slotAddr a)).res s fun t =>
      let v := s.barrier t.1 t.2
      if v.broken then .done s
      else if 2 ^ 63 ≤ v.bytes + (s.rx b).toNat then .done (s.breakBarrier t.1 t.2 v 1)
      else .done (s.setBarrier t.1 t.2 { v with bytes := v.bytes + (s.rx b).toNat })

/-- The barrier of a slot has become BROKEN since the issuing context began to wait for it (R178). -/
def Ctx.toldBroken (c : Ctx) (b : BSlot) : Bool := c.awaits.any fun w => decide (w.slot = b) && w.broken

/-- The status of a slot's barrier: 2 BROKEN, 1 complete for the slot, 0 pending. -/
def State.slotStatus (s : State) (b : BSlot) (t : ClusterId × Nat) : Nat :=
  let v := s.barrier t.1 t.2
  if v.broken || s.ctx.toldBroken b then 2 else if v.phase ≠ s.slotSeen b then 1 else 0

/-- The issuing context waits for the barriers of slots. -/
def State.awaitBars (s : State) (ts : List (BSlot × ClusterId × Nat)) : State :=
  { s with ctx := { s.ctx with awaits := ts.map fun t => ⟨t.1, t.2.1, t.2.2, s.ctx.toldBroken t.1⟩ } }

/-- A slot whose phase is complete, or whose barrier is BROKEN, is taken (Table 7.4): the region ends, and a complete
phase is an acquire at the pair scope. -/
def State.takeSlot (s : State) (b : BSlot) (t : ClusterId × Nat) (status : Nat) : State :=
  let s := if status = 1 then
      (s.acquire (pairScope s.cl t.1)).setSlot b (s.slotAddr b) (s.barrier t.1 t.2).phase
    else s
  s.endRegion

/-- BARWAIT (Table 7.4). -/
def execBarwait (d : XReg) (a : BSlot) (s : State) : Out :=
  s.run (.barwait d a) fun s =>
    if s.vecMemBusy then .wait s
    else (s.barAccess (s.slotAddr a)).res s fun t =>
      match s.slotStatus a t with
      | 0 => .wait (s.awaitBars [(a, t)])
      | st => .done ((s.takeSlot a t st).wx d (word st))

/-- BARTEST (Table 7.4). -/
def execBartest (d : XReg) (a : BSlot) (s : State) : Out :=
  s.run (.bartest d a) fun s =>
    if s.vecMemBusy then .wait s
    else (s.barAccess (s.slotAddr a)).res s fun t =>
      match s.slotStatus a t with
      | 0 => .done (s.wx d 0)
      | st => .done ((s.takeSlot a t st).wx d (word st))

/-- The slots of a mask, checked in increasing order: each with its place and its status. -/
def State.checkSlots (s : State) : List BSlot → Chk (List (BSlot × (ClusterId × Nat) × Nat))
  | [] => .ok []
  | b :: bs =>
    (s.barAccess (s.slotAddr b)).bind fun t =>
      (s.checkSlots bs).bind fun rest => .ok ((b, t, s.slotStatus b t) :: rest)

/-- The slots in the order ROT, ROT + 1, ... -/
def rotOrder (rot : Fin 8) : List BSlot := (List.finRange 8).map fun j => rot + j

/-- ROT advances. -/
def State.advanceRot (s : State) : State := { s with ctx := { s.ctx with rot := s.ctx.rot + 1 } }

/-- WAITANY (R177). -/
def execWaitany (d a : XReg) (s : State) : Out :=
  s.run (.waitany d a) fun s =>
    if s.vecMemBusy then .wait s
    else
      let m := (s.rx a).setWidth 8
      if m = 0 then .done (s.wx d 0).advanceRot.endRegion
      else (s.checkSlots ((List.finRange 8).filter fun b => m.getLsbD b.val)).res s fun ts =>
        match (rotOrder s.ctx.rot).findSome? fun b => ts.find? fun t => t.1 = b && t.2.2 ≠ 0 with
        | none => .wait (s.awaitBars (ts.map fun t => (t.1, t.2.1)))
        | some (b, t, st) => .done ((s.takeSlot b t st).wx d (word (b.val + st * 2 ^ 8))).advanceRot

end Sys2Proof.Machine
end

