-- ==== Sys2Proof/Machine/Branch.lean ====
section
/-!
DEFINITION. Branches and jumps (04 R108, R109).
-/
namespace Sys2Proof.Machine

/-- The condition of BCC (Table 4.5). -/
def bccTaken (c : BccCond) (a b : Word) : Bool :=
  match c with
  | .eq => a = b | .ne => a ≠ b | .lt => a.slt b | .ge => !a.slt b | .ltz => a.ult b | .gez => !a.ult b

/-- The condition of BMASK, on bits 31:0. -/
def bmaskTaken (c : BmaskCond) (a : Word) : Bool :=
  let m : BitVec 32 := a.setWidth 32
  match c with
  | .any => m ≠ 0 | .all => m = BitVec.allOnes 32 | .none => m = 0

/-- A branch target: PC + sext(OFF32) * 4. -/
def branchTarget (pc : Word) (off : BitVec 32) : Word := pc + sext32 off * 4

/-- BCC (R108). -/
def execBcc (cond : BccCond) (a b : XReg) (off : BitVec 32) (s : State) : Out :=
  s.run (.bcc cond a b off) fun s =>
    if bccTaken cond (s.rx a) (s.rx b) then .jump s (branchTarget s.ctx.pc off) else .done s

/-- BMASK (R108). -/
def execBmask (cond : BmaskCond) (a : XReg) (off : BitVec 32) (s : State) : Out :=
  s.run (.bmask cond a off) fun s =>
    if bmaskTaken cond (s.rx a) then .jump s (branchTarget s.ctx.pc off) else .done s

/-- Jump and link: a misaligned target traps at the jump (R20, R109). -/
def jumpLink (d : XReg) (target : Word) (s : State) : Res :=
  if target.toNat % 4 ≠ 0 then .trap ⟨.align, target, 0⟩ else .jump (s.wx d (s.ctx.pc + 8)) target

/-- JAL (R109). -/
def execJal (d : XReg) (imm : BitVec 30) (s : State) : Out :=
  s.run (.jal d imm) fun s => jumpLink d (s.ctx.pc + sext30 imm * 4) s

/-- JALR (R109). -/
def execJalr (d a : XReg) (imm : BitVec 30) (s : State) : Out :=
  s.run (.jalr d a imm) fun s => jumpLink d (s.rx a + sext30 imm) s

end Sys2Proof.Machine
end

