-- ==== Sys2Proof/Machine/Helpers.lean ====
section
/-!
DEFINITION. Helpers (06 R150, R152, R166, R167; 07 R171, R172): helper slots and who gets them, START, JOINH, HSTAT.
-/
namespace Sys2Proof.Machine

/-- The helper slots of a core that are free, in order (R150). -/
def State.freeSlots (s : State) (k : CoreId) : List Nat :=
  ((List.range 10).map (· + 1)).filter fun n => !(s.getCtx ⟨k, n⟩).live

/-- The state in which a helper starts (R30, R171), from a context that has fetched nothing. -/
def helperStart (c : Ctx) (pc x1 : Word) (n : Nat) (starter : CtxId) (leaf : Option Nat) : Ctx :=
  (({ c with pc := pc, live := true, starter := some starter, leaf := leaf }).wx 1 x1).wx 2 (word n)

/-- Start a helper of a context in a slot of a core: it is of the context's leaf, and of its launch (R152). -/
def State.startHelper (s : State) (starter : CtxId) (n : Nat) (pc x1 : Word) : State :=
  let c := s.getCtx starter
  s.setCtx ⟨starter.core, n⟩ (helperStart { Ctx.init with loaded := c.loaded } pc x1 n starter c.leaf)

/-- The entries of a core's stream table in use, with their indexes. -/
def CoreSt.entries (k : CoreSt) : List (Fin 16 × TableEntry) :=
  (List.finRange 16).filterMap fun n => (k.table.get n).map fun e => (n, e)

/-- The handler start of a core that comes first: high priority, then oldest (R167). -/
def CoreSt.firstStart (k : CoreSt) : Option (Fin 16 × TableEntry) :=
  (k.entries.filter fun e => e.2.pending.isSome).foldl (fun best e =>
    match best with
    | none => some e
    | some b => if (e.2.hi && !b.2.hi) || (e.2.hi == b.2.hi && decide (e.2.order < b.2.order)) then some e else some b)
    none

/-- Start one pending handler, if a slot is free (R166, R186): it acquires at the pair scope with the sender (R168). A
start that is requested before a waiting START.W issues again takes the slot that had become free for it (assumption 51).
-/
def State.startHandler (s : State) (k : CoreId) : State :=
  match s.freeSlots k, (s.getCore k).firstStart with
  | n :: _, some (ix, e) =>
    match e.pending with
    | some (x1, src) =>
      let c := s.getCore k
      let s := s.setCore k { c with table := c.table.set ix.val (some { e with pending := none }) }
      let s := if wideScope (pairScope k.cl src) then s.dropWays k.cl else s
      s.startHelper ⟨k, e.ctx⟩ n e.handler x1
    | none => s
  | _, _ => s

/-- Serve the pending handler starts of a core with its free slots. -/
def State.grantSlots (s : State) (k : CoreId) : State := (List.range 16).foldl (fun s _ => s.startHandler k) s

/-- A context whose START.W waits comes before another: least recently issued, then lower index (R167). -/
def State.issuedBefore (s : State) (k : CoreId) (a b : Nat) : Bool :=
  match (s.getCtx ⟨k, a⟩).lastIssue, (s.getCtx ⟨k, b⟩).lastIssue with
  | none, none => a < b
  | none, some _ => true
  | some _, none => false
  | some x, some y => x < y || (x = y && a < b)

/-- The slot that a START of the issuing context gets (R167): pending handler starts come first, then the START.W
contexts that have waited. -/
def State.slotForStart (s : State) (waits : Bool) : Option Nat :=
  let k := s.cur.core
  let ahead := s.core.startW.filter fun n => n ≠ s.cur.idx && (!waits || s.issuedBefore k n s.cur.idx)
  if s.core.firstStart.isSome then none else (s.freeSlots k)[ahead.length]?.bind fun _ => (s.freeSlots k)[0]?

/-- The START target: PC + sext(IMM30) * 4. -/
def startTarget (pc : Word) (imm : BitVec 30) : Word := pc + sext30 imm * 4

/-- START (R171): -1 when no slot is given; it ends the region, and is a release: queued vector accesses come first
(R169). -/
def execStart (d a : XReg) (imm : BitVec 30) (s : State) : Out :=
  s.run (.start d a imm) fun s =>
    if s.vecMemBusy then .wait s
    else match s.slotForStart false with
    | some n => .done ((s.startHelper s.cur n (startTarget s.ctx.pc imm) (s.rx a)).wx d (word n)).endRegion
    | none => .done (s.wx d (BitVec.allOnes 64)).endRegion

/-- START.W: it waits for a slot. -/
def execStartW (d a : XReg) (imm : BitVec 30) (s : State) : Out :=
  s.run (.startW d a imm) fun s =>
    let k := s.core
    if s.vecMemBusy then .wait s
    else match s.slotForStart true with
    | some n =>
      let s := s.setCore s.cur.core { k with startW := k.startW.filter (· ≠ s.cur.idx) }
      .done ((s.startHelper s.cur n (startTarget s.ctx.pc imm) (s.rx a)).wx d (word n)).endRegion
    | none =>
      .wait (if k.startW.contains s.cur.idx then s
        else (s.setCore s.cur.core { k with startW := k.startW ++ [s.cur.idx] }).asks (.startW d a imm))

/-- The mask of JOINH. -/
def joinMask (v : Word) : BitVec 11 := v.setWidth 11 &&& 0x7FE

/-- JOINH (R172). -/
def execJoinh (d a : XReg) (s : State) : Out :=
  s.run (.joinh d a) fun s =>
    let m := joinMask (s.rx a)
    if s.ctx.hdone &&& m = m then
      .done ({ s with ctx := { s.ctx with hdone := s.ctx.hdone &&& ~~~m } }.wx d (m.setWidth 64)).endRegion
    else .wait s

/-- HSTAT's value (R172): HDONE, and the live helpers that the context started. -/
def State.hstat (s : State) : Word :=
  let live := ((List.range 10).map (· + 1)).filter fun n =>
    let c := s.getCtx ⟨s.cur.core, n⟩
    c.live && c.starter = some s.cur
  word (s.ctx.hdone.toNat + live.foldl (fun m n => m + 2 ^ (16 + n)) 0)

/-- HSTAT. -/
def execHstat (d : XReg) (s : State) : Out := s.run (.hstat d) fun s => .done (s.wx d s.hstat)

end Sys2Proof.Machine
end

