-- ==== Sys2Proof/Machine/Special.lean ====
section
/-!
DEFINITION. The special functions of R53 on FP32, correctly rounded in every mode. A result that has a finite binary
expansion is formed exactly. Any other is computed as a fixed-point number with `fxBits` fraction bits, truncated, and
rounded once with the discarded part marked as nonzero: no value of these functions on FP32 operands lies nearer to a
rounding boundary than that precision resolves (DEDUCED, notes/assumptions/7.md).
-/
namespace Sys2Proof.Machine

/-- Fraction bits of the fixed-point numbers below. -/
def fxBits : Nat := 400

/-- 1 in fixed point. -/
def fxOne : Nat := 2 ^ fxBits

/-- The sum of r^k / k! from the term t with index k on. -/
def expTerms (r : Nat) : Nat → Nat → Nat → Nat
  | 0, _, _ => 0
  | fuel + 1, k, t => t + expTerms r fuel (k + 1) (t * r / fxOne / (k + 1))

/-- e^r in fixed point, for 0 <= r < 1. -/
def fxExp (r : Nat) : Nat := expTerms r 120 0 fxOne

/-- The sum of t^(2k+1) / (2k+1) from the power p = t^(2k+1) on. -/
def atanhTerms (t2 : Nat) : Nat → Nat → Nat → Nat
  | 0, _, _ => 0
  | fuel + 1, k, p => p / (2 * k + 1) + atanhTerms t2 fuel (k + 1) (p * t2 / fxOne)

/-- ln z in fixed point, for z in [1, 2): 2 atanh((z - 1) / (z + 1)). -/
def fxLn (z : Nat) : Nat :=
  let t := (z - fxOne) * fxOne / (z + fxOne)
  2 * atanhTerms (t * t / fxOne) 180 0 t

/-- ln 2 in fixed point. -/
def fxLn2 : Nat := fxLn (2 * fxOne)

/-- The fixed-point magnitude of m * 2^e, truncated. -/
def toFx (m : Nat) (e : Int) : Nat :=
  let k := e + fxBits
  if 0 ≤ k then m * 2 ^ k.toNat else m / 2 ^ (-k).toNat

/-- Round an inexact positive fixed-point result times 2^e. -/
def roundFx (rm : RMode) (neg : Bool) (v : Nat) (e : Int) : Nat × Flags :=
  specFp32.round rm neg v (e - fxBits) true

/-- A positive result above every finite FP32 value, or below every nonzero one (R46). -/
def hugeFp32 (rm : RMode) : Nat × Flags := specFp32.round rm false 1 200
def tinyFp32 (rm : RMode) : Nat × Flags := specFp32.round rm false (2 ^ 64) (-500) true

/-- A result just below 1. -/
def belowOne (rm : RMode) (neg : Bool) : Nat × Flags := specFp32.round rm neg (2 ^ 200 - 1) (-200) true

/-- e^x for a finite nonzero x = (-1)^n m 2^e. -/
def expFin (rm : RMode) (n : Bool) (m : Nat) (e : Int) : Nat × Flags :=
  if e + bitLen m > 9 then if n then tinyFp32 rm else hugeFp32 rm
  else
    let ln2 := fxLn2
    let a := toFx m e
    if n then
      -- x = -(k ln 2) + r with 0 <= r < ln 2
      let k := (a + ln2 - 1) / ln2
      roundFx rm false (fxExp (k * ln2 - a)) (-k)
    else roundFx rm false (fxExp (a % ln2)) (a / ln2)

/-- 2^x for a finite nonzero x. -/
def exp2Fin (rm : RMode) (n : Bool) (m : Nat) (e : Int) : Nat × Flags :=
  if e + bitLen m > 9 then if n then tinyFp32 rm else hugeFp32 rm
  else
    let a := toFx m e
    if a % fxOne = 0 then
      specFp32.round rm false 1 (if n then -((a / fxOne : Nat) : Int) else (a / fxOne : Nat))
    else if n then
      let k := a / fxOne + 1
      roundFx rm false (fxExp ((k * fxOne - a) * fxLn2 / fxOne)) (-k)
    else roundFx rm false (fxExp (a % fxOne * fxLn2 / fxOne)) (a / fxOne : Nat)

/-- log2 x for a finite positive x. -/
def log2Fin (rm : RMode) (m : Nat) (e : Int) : Nat × Flags :=
  let l := bitLen m
  let ex := e + l - 1
  if m = 2 ^ (l - 1) then if ex = 0 then (0, 0) else specFp32.round rm (ex < 0) ex.natAbs 0
  else
    -- x = z 2^ex with z in (1, 2); taken as (z / 2) 2^(ex + 1) when z is above 1.5
    let z := m * 2 ^ (fxBits + 1 - l)
    let ln2 := fxLn2
    if 2 * z > 3 * fxOne then
      -- ln(z / 2) = -ln(2 / z)
      let f := fxLn (2 * fxOne * fxOne / z) * fxOne / ln2
      let t : Int := (ex + 1) * fxOne - f
      roundFx rm (t < 0) t.natAbs 0
    else
      let t : Int := ex * fxOne + fxLn z * fxOne / ln2
      roundFx rm (t < 0) t.natAbs 0

/-- tanh x for a finite nonzero x. -/
def tanhFin (rm : RMode) (n : Bool) (m : Nat) (e : Int) : Nat × Flags :=
  if e + bitLen m > 6 then belowOne rm n
  else if e + bitLen m ≤ -50 then
    -- x - x^3 / 3 + ...: just below x
    specFp32.round rm n (m * 2 ^ 60 - 1) (e - 60) true
  else
    -- (1 - q) / (1 + q) with q = e^(-2|x|)
    let ln2 := fxLn2
    let a := toFx m (e + 1)
    let k := (a + ln2 - 1) / ln2
    let q := fxExp (k * ln2 - a) / 2 ^ k
    roundFx rm n ((fxOne - q) * fxOne / (fxOne + q)) 0

/-- 1 / (1 + e^-x) for a finite nonzero x. -/
def sigmoidFin (rm : RMode) (n : Bool) (m : Nat) (e : Int) : Nat × Flags :=
  if e + bitLen m > 8 then if n then tinyFp32 rm else belowOne rm false
  else
    let ln2 := fxLn2
    let a := toFx m e
    let k := (a + ln2 - 1) / ln2
    let q := fxExp (k * ln2 - a)
    -- e^-|x| = q 2^-k
    if n then roundFx rm false (q * fxOne / (fxOne + q / 2 ^ k)) (-k)
    else roundFx rm false (fxOne * fxOne / (fxOne + q / 2 ^ k)) 0

/-- 1 / x for a finite nonzero x. -/
def rcpFin (rm : RMode) (n : Bool) (m : Nat) (e : Int) : Nat × Flags :=
  fDiv specFp32 rm (.fin false 1 0) (.fin n m e)

/-- 1 / sqrt x for a finite positive x. -/
def rsqrtFin (rm : RMode) (m : Nat) (e : Int) : Nat × Flags :=
  let k : Nat := 200 + if e % 2 = 0 then 0 else 1
  -- x^-1 = (2^k / m) 2^(-e - k), and -e - k is even
  let r := isqrt (2 ^ k / m)
  specFp32.round rm false r ((-e - k) / 2) (r * r * m ≠ 2 ^ k)

/-- R53, Table 2.10. -/
def specialFn (fn : VsfFn) (rm : RMode) (bits : Nat) : Nat × Flags :=
  let nan := specFp32.nanBits
  let inf := specFp32.infBits
  let one := 0x3F800000
  match specFp32.decode bits with
  | .nan g => (nan, flagIf g flNV)
  | .inf n =>
    match fn with
    | .exp2 | .exp => (if n then 0 else inf, 0)
    | .log2 => if n then (nan, flNV) else (inf, 0)
    | .rcp => (specFp32.sign n, 0)
    | .rsqrt => if n then (nan, flNV) else (0, 0)
    | .tanh => (specFp32.sign n + one, 0)
    | .sigmoid => (if n then 0 else one, 0)
  | .fin n m e =>
    if m = 0 then
      match fn with
      | .exp2 | .exp => (one, 0)
      | .log2 => (specFp32.sign true + inf, flDZ)
      | .rcp | .rsqrt => (specFp32.sign n + inf, flDZ)
      | .tanh => (specFp32.sign n, 0)
      | .sigmoid => (0x3F000000, 0)
    else
      match fn with
      | .exp2 => exp2Fin rm n m e
      | .exp => expFin rm n m e
      | .log2 => if n then (nan, flNV) else log2Fin rm m e
      | .rcp => rcpFin rm n m e
      | .rsqrt => if n then (nan, flNV) else rsqrtFin rm m e
      | .tanh => tanhFin rm n m e
      | .sigmoid => sigmoidFin rm n m e

end Sys2Proof.Machine
end

