-- ==== Sys2Proof/Machine/VecPlan.lean ====
section
/-!
DEFINITION. Vector elements (05 R119), the plan of a vector memory access made at its issue (05 R139, R140, 08 R208),
and the heads of stream registers (05 R144-R148).
-/
namespace Sys2Proof.Machine

-- Elements (Table 5.1)

/-- Elements of a v register. -/
def elemCount (t : VTy) : Nat := if t = .f64 then 16 else 32

/-- Lane n of a v register, as a number. -/
def laneAt (l : Lanes) (n : Nat) : Nat := (l[n]?.getD 0).toNat

/-- The bits of element i. -/
def elemBits (t : VTy) (l : Lanes) (i : Nat) : Nat :=
  if t = .f64 then laneAt l (2 * i) + laneAt l (2 * i + 1) * 2 ^ 32 else laneAt l i % 2 ^ (vtyNum t).width

/-- A result element filling its lane: sign extension for signed integers, zeros otherwise (Table 5.1). -/
def fillLane (n : NumTy) (b : Nat) : Nat :=
  match n with
  | .int true w => wrapBits 32 (readInt true w b)
  | .int false w => b % 2 ^ w
  | .flt s => b % 2 ^ s.width

/-- The lane of an element of a type that it is written to, part by part: lane j of the register receives it from
element i. -/
def lanePart (t : VTy) (j b : Nat) : Lane :=
  BitVec.ofNat 32 (if t = .f64 then (if j % 2 = 0 then b % 2 ^ 32 else b / 2 ^ 32) else fillLane (vtyNum t) b)

/-- The element that lane j belongs to. -/
def elemOf (t : VTy) (j : Nat) : Nat := if t = .f64 then j / 2 else j

-- Page formats (R139, R208)

/-- How the elements of an access and those of a page go together (R139). -/
inductive PageConv where
  /-- They move as stored. -/
  | stored
  | elem (f : Fmt)
  | block (b : BlkFmt)
  /-- EXA pages take no vector access. -/
  | exa
  deriving DecidableEq, Repr

/-- The storage format of an element type. -/
def vtyFmt : VTy → Fmt
  | .i8 => .int8 | .z8 => .uint8 | .i16 | .z16 => .int16 | .i32 | .z32 => .int32
  | .f16 => .fp16 | .bf16 => .bf16 | .f32 => .fp32 | .f64 => .fp64

/-- The conversion that a page makes for an element type. -/
def convOf (t : VTy) : Option Fmt → PageConv
  | none => .stored
  | some f =>
    if f = vtyFmt t then .stored
    else if f = .exa then .exa
    else match Fmt.blk? f with | some b => .block b | none => .elem f

/-- Bits of an element in memory. -/
def PageConv.bits (t : VTy) : PageConv → Nat
  | .stored => (vtyNum t).width
  | .exa => 512
  | .elem f => Fmt.bits f
  | .block b => b.bits

/-- PITCH of a page: a row holds 32 * 2^PITCH elements. -/
def Page.rowLen (p : Page) : Nat := 32 * 2 ^ Sys2Proof.Machine.bits p.e 28 4

/-- The block of element k of a page (R208). -/
def Page.blockOf (p : Page) (k : Nat) : Nat :=
  if p.has 25 then k / p.rowLen / 32 * p.rowLen + k % p.rowLen else k / 32

/-- The data bytes of a block-format page (R208). -/
def Page.dataBytes (p : Page) (b : BlkFmt) : Nat :=
  if p.has 26 then p.size else p.size / (b.dataBytes + b.scaleBytes) * b.dataBytes

/-- Bytes that an element of `n` bits at bit `o` of a byte touches. -/
def bytesOf (o n : Nat) : Nat := (o + n + 7) / 8

-- The plan (R140)

/-- A vector memory access at its issue. -/
structure VecAccess where
  t : VTy
  store : Bool
  /-- VLD and VST: consecutive elements from `base` on. -/
  uniform : Bool
  base : Word
  /-- Address of element i, given the element's size in bytes. -/
  ea : Nat → Nat → Word
  /-- Every element is active. -/
  whole : Bool

/-- The kind of its accesses. -/
def VecAccess.kind (v : VecAccess) : AccKind := if v.store then .store else .load

/-- A trap of element i: its address, and its index as TRAPINFO (R140). -/
def elemTrap (c : Cause) (ea : Word) (i : Nat) : Trap := ⟨c, ea, word i⟩

/-- The page of an address and the conversion it makes; mesh space and what does not translate move as stored. -/
def State.convAt (s : State) (t : VTy) (a : Word) : PageConv :=
  if canonical a then
    match s.walk s.partNo a.toNat with
    | .page p _ => convOf t p.fmt
    | .fault .. => .stored
  else .stored

/-- The start of a VLD or VST lies on a group or a block (R139): the offset in elements. -/
def startOk (t : VTy) (conv : PageConv) (p : Page) (start : Nat) : Bool :=
  let n := conv.bits t
  match conv with
  | .stored | .exa => true
  | .elem _ => n % 8 = 0 || start * 8 % (32 * n) = 0
  | .block _ => start * 8 % (32 * n) = 0 || (t = .f64 && n = 8 && !p.has 25 && start % 16 = 0)

/-- A planned element with the pages that its check found: the element's own page, none in mesh space, and its address;
the page of its block's scale, with its address (R208). -/
structure Planned where
  plan : ElemPlan
  page : Option Page
  ea : Word
  scale : Option (Page × Word)
  deriving DecidableEq, Repr

/-- The scale of an element's block: its page and its address, checked as an access of its own where it lies in the
page that follows (R208). One that would lie past the end of its own page, as in a last row group of columns that the
page holds in part, is beyond what the page holds: PROTECT (assumption 72). -/
def State.scaleOf (s : State) (v : VecAccess) (p : Page) (b : BlkFmt) (k : Nat) (ea : Word) (i : Nat) :
    Chk (Page × Word) :=
  let j := p.blockOf k
  if p.has 26 then
    let a := word (p.va + p.size + j * b.scaleBytes)
    if !canonical a then .trap (elemTrap .notPresent ea i)
    else match s.xlate s.partNo s.ctx.super v.kind a with
      | .error t => .trap (elemTrap t.cause ea i)
      | .ok q => .ok (q, a)
  else if p.size < p.dataBytes b + (j + 1) * b.scaleBytes then .trap (elemTrap .protect ea i)
  else .ok (p, word (p.va + p.dataBytes b + j * b.scaleBytes))

/-- The access of an element is one that the page's format allows (R139). -/
def formatOk (v : VecAccess) (conv first : PageConv) (p : Page) : Bool :=
  let n := conv.bits v.t
  (!v.uniform || conv = first)
    && (match conv with
      | .stored => true
      | .exa => false
      | .elem _ => n % 8 = 0 || v.uniform
      | .block _ =>
        (v.uniform || (n = 8 && !v.store)) && (!v.store || (v.whole && v.t ≠ .f64 && !p.has 25)))

/-- The first bit of element i within its page, at `off` bytes. Consecutive elements of a sub-byte format are counted
from the start (R37, R139). -/
def VecAccess.bitPos (v : VecAccess) (n0 i off : Nat) : Nat := off * 8 + if v.uniform then i * n0 % 8 else 0

/-- Element i, on a page, is in the page of element 0's group: asked of VLD and VST with sub-byte elements (R139). -/
def VecAccess.inGroup (v : VecAccess) (n0 : Nat) (p : Page) : Bool :=
  !v.uniform || n0 % 8 = 0 || (p.va ≤ v.base.toNat && v.base.toNat < p.va + p.size)

/-- Check element i, which lies in a global page, and find its place (R140): beyond the data of a block page, alignment,
format, and its block's scale. `n` is the element's size in bits: element 0's page gives it for VLD and VST. An element
that runs past the end of its page is beyond the data of a block page, and FORMAT on any other (assumption 48). -/
def State.planIn (s : State) (v : VecAccess) (first : PageConv) (i : Nat) (ea : Word) (p : Page) : Chk Planned :=
  let conv := convOf v.t p.fmt
  let n := if v.uniform then first.bits v.t else conv.bits v.t
  let bitPos := v.bitPos n i (ea.toNat % p.size)
  let beyond : Bool := match conv with | .block b => decide (p.dataBytes b * 8 < bitPos + n) | _ => false
  if beyond then .trap (elemTrap .protect ea i)
  else if n % 8 = 0 && ea.toNat % (n / 8) ≠ 0 then .trap (elemTrap .align ea i)
  else if !formatOk v conv first p || !v.inGroup n p || (v.uniform && !startOk v.t conv p (v.base.toNat % p.size))
      || p.size * 8 < bitPos + n then .trap (elemTrap (.illegal .format) ea i)
  else
    let place : Place := .glob (leafFrame p.e + bitPos / 8)
    match conv with
    | .block b =>
      (s.scaleOf v p b (bitPos / n) ea i).bind fun q =>
        .ok ⟨⟨i, place, bitPos % 8, p.fmt, some (.glob (q.1.pa q.2.toNat)), p.checked || q.1.checked⟩, some p, ea, some q⟩
    | .stored => .ok ⟨⟨i, place, 0, none, none, p.checked⟩, some p, ea, none⟩
    | _ => .ok ⟨⟨i, place, bitPos % 8, p.fmt, none, p.checked⟩, some p, ea, none⟩

/-- Check element i and find its place (R140): address kind, translation, alignment, format. -/
def State.planElem (s : State) (v : VecAccess) (first : PageConv) (i : Nat) : Chk Planned :=
  let ea := v.ea i (first.bits v.t)
  if isMesh ea then
    match s.meshTarget s.part s.cl ea with
    | .hold => .hold
    | .trap t => .trap (elemTrap t.cause ea i)
    | .ok (c, off) =>
      let n := if v.uniform then first.bits v.t else (vtyNum v.t).width
      if n % 8 = 0 && ea.toNat % (n / 8) ≠ 0 then .trap (elemTrap .align ea i)
      else if v.uniform && first ≠ .stored then .trap (elemTrap (.illegal .format) ea i)
      else .ok ⟨⟨i, .scr (scrKey c off), 0, none, none, false⟩, none, ea, none⟩
  else if !canonical ea then .trap (elemTrap .notPresent ea i)
  else match s.xlate s.partNo s.ctx.super v.kind ea with
    | .error t => .trap (elemTrap t.cause ea i)
    | .ok p => s.planIn v first i ea p

/-- Check the active elements in order. With none active nothing is checked, a VST to a block-format page included
(assumption 59). -/
def State.planElems (s : State) (v : VecAccess) (first : PageConv) : List Nat → Chk (List Planned)
  | [] => .ok []
  | i :: is => (s.planElem v first i).bind fun e => (s.planElems v first is).bind fun es => .ok (e :: es)

/-- The bytes that a planned element accesses. -/
def ElemPlan.span (t : VTy) (e : ElemPlan) : Nat :=
  match e.fmt with
  | none => (vtyNum t).width / 8
  | some f => bytesOf e.bit (Fmt.bits f)

/-- Bytes of the scale of a planned element's block. -/
def ElemPlan.scaleSpan (e : ElemPlan) : Nat := ((e.fmt.bind Fmt.blk?).map BlkFmt.scaleBytes).getD 0

/-- The global ranges that a planned element accesses, its scale among them: page, physical address, bytes. -/
def Planned.ranges (t : VTy) (e : Planned) : List (Page × Nat × Nat) :=
  (match e.page, e.plan.place with | some p, .glob pa => [(p, pa, e.plan.span t)] | _, _ => [])
    ++ match e.scale with | some (q, a) => [(q, q.pa a.toNat, e.plan.scaleSpan)] | none => []

/-- Check the races of ranges of an element at an address, at their homes. -/
def State.raceRanges (s : State) (ea : Word) (k : AccKind) : List (Page × Nat × Nat) → Chk Unit
  | [] => .ok ()
  | (p, pa, n) :: rest => (s.raceCheck p ea pa n k).bind fun _ => s.raceRanges ea k rest

/-- The races of the elements on CHECKED pages: the lowest-indexed one traps (R140, R218). -/
def State.raceElems (s : State) (v : VecAccess) : List Planned → Chk Unit
  | [] => .ok ()
  | e :: rest => (s.raceRanges e.ea v.kind (e.ranges v.t)).bind fun _ => s.raceElems v rest

/-- Log the ranges of the elements on CHECKED pages. -/
def State.noteElems (s : State) (v : VecAccess) (es : List Planned) : State :=
  (es.map (Planned.ranges v.t)).flatten.foldl (fun s r => s.note r.1 r.2.1 r.2.2 v.kind) s

/-- Note the walks of the elements and of their scales. -/
def State.noteWalks (s : State) (es : List Planned) : State :=
  es.foldl (fun s e => match e.scale with | some q => (s.noteAccess e.ea).noteAccess q.2 | none => s.noteAccess e.ea) s

-- Stream heads (R144-R148)

/-- The next group of a memory stream as a vector access: consecutive elements from where it stands. -/
def StreamSt.access (st : StreamSt) (first : PageConv) (base : Word) : VecAccess :=
  let start := base + word (st.delivered * first.bits st.ty / 8)
  ⟨st.ty, false, true, start, fun i n => start + word (i * n / 8), true⟩

/-- The checks of the next group of a memory stream (R140, R145): its elements, at the level that the context has at the
read (assumption 61). TRAPINFO is the element's index in the stream. -/
def State.checkGroup (s : State) (st : StreamSt) (base : Word) : Chk (List Planned) :=
  let first := s.convAt st.ty base
  let v := st.access first base
  match s.planElems v first (List.range (min 32 (st.bound - st.delivered))) with
  | .ok es => (s.raceElems v es).bind fun _ => .ok es
  | .hold => .hold
  | .trap t => .trap { t with info := t.info + word st.delivered }

/-- The head of a stream register as an instruction reads it. -/
inductive Head where
  | lanes (l : Lanes) (n : Nat)
  /-- The read of the group fails a check: the first instruction that reads it traps (R145). -/
  | trap (t : Trap) (n : Nat)
  /-- The stream has ended and no element is left. -/
  | empty
  | wait

/-- The head of a configured stream of the issuing context. -/
def State.head (s : State) (st : StreamSt) : Head :=
  match st.groups with
  | g :: _ => .lanes g.lanes g.n
  | [] =>
    if st.ended then .empty
    else match st.src with
      | .msg => .wait
      | .mem base =>
        match s.checkGroup st base with
        | .trap t => .trap t (min 32 (st.bound - st.delivered))
        | _ => .wait

/-- The head groups of the stream registers among source registers; an ended stream with no element left reads as
zeros (R148). -/
def State.heads (s : State) : List RegName → Chk (List (VReg × Lanes))
  | [] => .ok []
  | .v r :: rest =>
    match (streamOf? r).bind fun j => s.ctx.streams.get j with
    | none => s.heads rest
    | some st =>
      match s.head st with
      | .wait => .hold
      | .trap t _ => .trap t
      | .lanes l _ => (s.heads rest).bind fun hs => .ok ((r, l) :: hs)
      | .empty => (s.heads rest).bind fun hs => .ok ((r, Vector.replicate 32 0) :: hs)
  | _ :: rest => s.heads rest

end Sys2Proof.Machine
end

