-- ==== Sys2Proof/Machine/Vector.lean ====
section
/-!
DEFINITION. The vector unit (05 R116-R121) and the vector arithmetic instructions (05 R128-R137): what a command
captures at its issue, and what it does at its completion.
-/
namespace Sys2Proof.Machine

/-- A lane is active (Table 3.7), L of the SREP iteration included (R146). -/
def VCmd.lane (q : VCmd) (n : Nat) : Bool := q.mask.getLsbD n && q.lanes.getLsbD n

/-- Element i is active (R120). -/
def VCmd.act (q : VCmd) (t : VTy) (i : Nat) : Bool := q.lane (if t = .f64 then 2 * i else i)

/-- The source register of a command: the captured head group of a stream register, else the register (R146, R148). -/
def VCmd.src (q : VCmd) (c : Ctx) (r : VReg) : Lanes := (Map.get? q.heads r).getD (c.rv r)

/-- The active elements. -/
def VCmd.actives (q : VCmd) (t : VTy) : List Nat := (List.range (elemCount t)).filter (q.act t)

/-- The flags of the active elements (R48). -/
def orElems (l : List Nat) (f : Nat → Nat × Flags) : Flags := l.foldl (fun fl i => fl ||| (f i).2) 0

/-- Write the active elements; inactive ones keep their lanes (R120). -/
def VCmd.put (q : VCmd) (t : VTy) (old : Lanes) (f : Nat → Nat × Flags) : Lanes × Flags :=
  (Vector.ofFn fun j => if q.act t (elemOf t j.val) then lanePart t j.val (f (elemOf t j.val)).1 else old.get j,
    orElems (q.actives t) f)

-- Arithmetic (R129)

/-- VADD, VSUB and VMUL on integers: wrapped or clamped. -/
def intResult (sat sg : Bool) (w : Nat) (i : Int) : Nat :=
  wrapBits w (if sat then (if i < intLo sg w then intLo sg w else if i > intHi sg w then intHi sg w else i) else i)

/-- An addition of elements. -/
def vAddE (t : VTy) (sat : Bool) (rm : RMode) (a b : Nat) : Nat × Flags :=
  match vtyNum t with
  | .int sg w => (intResult sat sg w (readInt sg w a + readInt sg w b), 0)
  | .flt s => fAdd s rm (s.decode a) (s.decode b)
/-- A subtraction of elements. -/
def vSubE (t : VTy) (sat : Bool) (rm : RMode) (a b : Nat) : Nat × Flags :=
  match vtyNum t with
  | .int sg w => (intResult sat sg w (readInt sg w a - readInt sg w b), 0)
  | .flt s => fSub s rm (s.decode a) (s.decode b)
/-- A multiplication of elements. -/
def vMulE (t : VTy) (sat : Bool) (rm : RMode) (a b : Nat) : Nat × Flags :=
  match vtyNum t with
  | .int sg w => (intResult sat sg w (readInt sg w a * readInt sg w b), 0)
  | .flt s => fMul s rm (s.decode a) (s.decode b)
/-- A fused multiply-add of elements. -/
def vFmaE (t : VTy) (rm : RMode) (a b c : Nat) : Nat × Flags :=
  match vtyNum t with
  | .int _ _ => (0, 0)
  | .flt s => fFma s rm (s.decode a) (s.decode b) (s.decode c)
/-- The lesser or the greater of two elements. -/
def vMinMaxE (t : VTy) (isMax : Bool) (a b : Nat) : Nat × Flags :=
  match vtyNum t with
  | .int sg w => (if decide (readInt sg w a ≤ readInt sg w b) != isMax then a else b, 0)
  | .flt s => fMinMax s isMax a b

/-- A comparison of elements (R130). -/
def vCmpE (c : VcmpCond) (t : VTy) (a b : Nat) : Bool × Flags :=
  match vtyNum t with
  | .int sg w =>
    let x := readInt sg w a
    let y := readInt sg w b
    (match c with
      | .eq => x = y | .ne => x ≠ y | .lt => x < y | .le => x ≤ y | .gt => y < x | .ge => y ≤ x | .un => false, 0)
  | .flt s =>
    let x := s.decode a
    let y := s.decode b
    match c with
    | .eq => fCompare .eq x y
    | .ne => let r := fCompare .eq x y; (!r.1, r.2)
    | .lt => fCompare .lt x y
    | .le => fCompare .le x y
    | .gt => fCompare .lt y x
    | .ge => fCompare .le y x
    | .un => fCompare .un x y

/-- VCMP's mask (R130). -/
def VCmd.cmpMask (q : VCmd) (t : VTy) (f : Nat → Bool × Flags) : Word :=
  word ((q.actives t).foldl
    (fun m i => m + (if (f i).1 then (if t = .f64 then 3 * 2 ^ (2 * i) else 2 ^ i) else 0)) 0)

/-- A shift of an element (R131). -/
def vShiftE (t : VTy) (right : Bool) (a n : Nat) : Nat × Flags :=
  match vtyNum t with
  | .int sg w =>
    let k := n % w
    (if right then wrapBits w (readInt sg w a / (2 ^ k : Nat)) else a * 2 ^ k % 2 ^ w, 0)
  | .flt _ => (a, 0)

/-- The shift amount of element i. -/
def VCmd.shift (q : VCmd) (c : Ctx) (t : VTy) (s : VshSrc) (i : Nat) : Nat :=
  match s with
  | .reg r => elemBits t (q.src c r) i
  | .imm v => v.toNat

-- Conversions (R132, R133)

/-- The type whose elements a side of VCVT counts. -/
def laneTy : LaneFmt → VTy
  | .ty t => t
  | .fp8e4m3 | .fp8e5m2 | .fp6e2m3 | .fp6e3m2 | .fp4e2m1 => .f32

/-- VCVT: the lane of the 32-bit side that element i of the conversion uses. -/
def cvtLane (dst src : LaneFmt) (half : Bool) (i : Nat) : Nat :=
  if dst.isF64 != src.isF64 then 16 * half.toNat + i else i

/-- VCVT (R132). -/
def VCmd.convert (q : VCmd) (dst src : LaneFmt) (half : Bool) (old a : Lanes) : Lanes × Flags :=
  let wide := dst.isF64 || src.isF64
  let n := if wide then 16 else 32
  let act := fun i => q.lane (if wide then 2 * i else i)
  let f := fun i =>
    Sys2Proof.Machine.convert q.rm (laneNum src) (laneNum dst)
      (if src.isF64 then elemBits .f64 a i else laneAt a (cvtLane dst src half i) % 2 ^ (laneNum src).width)
  let fl := orElems ((List.range n).filter act) f
  if dst.isF64 then
    (Vector.ofFn fun j => if act (j.val / 2) then lanePart .f64 j.val (f (j.val / 2)).1 else old.get j, fl)
  else
    (Vector.ofFn fun j =>
      let i := j.val - cvtLane dst src half 0
      if cvtLane dst src half 0 ≤ j.val ∧ i < n ∧ act i = true then BitVec.ofNat 32 (fillLane (laneNum dst) (f i).1)
      else old.get j, fl)

/-- A packed block in lanes (R133). -/
def blockLanes (packed : Nat) : Lanes := Vector.ofFn fun j => BitVec.ofNat 32 (packed / 2 ^ (32 * j.val))

/-- The lanes as one number. -/
def lanesNat (l : Lanes) : Nat := l.toList.foldr (fun x n => x.toNat + 2 ^ 32 * n) 0

/-- VQNT (R133): the packed block, its scale, its flags. -/
def VCmd.quantise (q : VCmd) (t : BlkFmt) (a : Lanes) : Lanes × Nat × Flags :=
  let r := blkQuant t q.rm ((List.range 32).map fun i => specFp32.decode (if q.lane i then laneAt a i else 0))
  (blockLanes (packElems t.bits r.1), r.2.1, r.2.2)

/-- An element of a block, converted to FP32 (R133). -/
def blockElem (t : BlkFmt) (rm : RMode) (scale packed i : Nat) : Nat × Flags :=
  specFp32.encode rm (blkDecode t scale (bits packed (t.bits * i) t.bits))

/-- VDQ (R133). -/
def VCmd.dequantise (q : VCmd) (t : BlkFmt) (old a : Lanes) : Lanes × Flags :=
  let scale := q.op1.toNat % 2 ^ 32
  let r := q.put .f32 old (blockElem t q.rm scale (lanesNat a))
  (r.1, r.2 ||| if q.actives .f32 = [] then 0 else blkScaleFlag t scale)

-- Reductions and scans (R134, R135)

/-- VRED's result with its flags; integers as their exact 64-bit value. -/
def VCmd.reduce (q : VCmd) (op : VredOp) (t : VTy) (a : Lanes) : Word × Flags :=
  let es := (q.actives t).map (elemBits t a)
  match vtyNum t with
  | .int sg w =>
    let ext := fun (b : Nat) => BitVec.ofInt 64 (readInt sg w b)
    match op with
    | .sum => (BitVec.ofInt 64 (es.foldl (fun n b => n + readInt sg w b) 0), 0)
    | .min => (BitVec.ofInt 64 (es.foldl (fun n b => min n (readInt sg w b)) (intHi sg w)), 0)
    | .max => (BitVec.ofInt 64 (es.foldl (fun n b => max n (readInt sg w b)) (intLo sg w)), 0)
    | .and => (ext (es.foldl Nat.land (2 ^ w - 1)), 0)
    | .or => (ext (es.foldl Nat.lor 0), 0)
    | .xor => (ext (es.foldl Nat.xor 0), 0)
  | .flt s =>
    -- The numbers among the elements decide; only NaNs give the default NaN, and a signalling one sets NV (R123).
    let fold := fun (isMax : Bool) =>
      let fl := sigFlag (es.map s.decode)
      match es.filter fun b => !(s.decode b).isNan with
      | e :: ns => (ns.foldl (fun r b => (fMinMax s isMax r b).1) e, fl)
      | [] => (if es = [] then s.sign isMax + s.infBits else s.nanBits, fl)
    let r : Nat × Flags :=
      match op with
      | .min => fold false
      | .max => fold true
      | _ => pairSum s q.rm ((List.range (elemCount t)).map fun i => if q.act t i then some (elemBits t a i) else none)
    (word r.1, r.2)

/-- The running sums of the elements of a list (R135): for each, the sum before it and the sum with it. -/
def runningSums (add : Nat → Nat → Nat × Flags) : Option Nat → List Nat → List (Option Nat × Nat × Flags)
  | _, [] => []
  | none, e :: es => (none, e, 0) :: runningSums add (some e) es
  | some p, e :: es => let r := add p e; (some p, r.1, r.2) :: runningSums add (some r.1) es

/-- VSCAN (R135): each active element after the first is added, also the last of an exclusive scan. -/
def VCmd.scan (q : VCmd) (excl : Bool) (t : VTy) (old a : Lanes) : Lanes × Flags :=
  let idx := q.actives t
  let rs := runningSums (vAddE t false q.rm) none (idx.map (elemBits t a))
  let f := fun i =>
    match rs[idx.idxOf i]? with
    | some r => (if excl then r.1.getD 0 else r.2.1, 0)
    | none => (0, 0)
  ((q.put t old f).1, rs.foldl (fun fl r => fl ||| r.2.2) 0)

-- What a command does at its completion

/-- The effect of an arithmetic command on its context, and the flags it raises. -/
def VCmd.effect (q : VCmd) (c : Ctx) : Ctx × Flags :=
  let el := fun (t : VTy) (r : VReg) (i : Nat) => elemBits t (q.src c r) i
  let put := fun (t : VTy) (d : VReg) (f : Nat → Nat × Flags) => let r := q.put t (c.rv d) f; (c.wv d r.1, r.2)
  let lanes := fun (d : VReg) (f : Nat → Nat) =>
    (c.wv d (Vector.ofFn fun j => if q.lane j.val then BitVec.ofNat 32 (f j.val) else (c.rv d).get j), (0 : Flags))
  match q.instr with
  | .vadd t sat _ d a b _ => put t d fun i => vAddE t sat q.rm (el t a i) (el t b i)
  | .vsub t sat _ d a b _ => put t d fun i => vSubE t sat q.rm (el t a i) (el t b i)
  | .vmul t sat _ d a b _ => put t d fun i => vMulE t sat q.rm (el t a i) (el t b i)
  | .vfma t _ d a b c' _ => put t d fun i => vFmaE t q.rm (el t a i) (el t b i) (el t c' i)
  | .vmin t d a b _ => put t d fun i => vMinMaxE t false (el t a i) (el t b i)
  | .vmax t d a b _ => put t d fun i => vMinMaxE t true (el t a i) (el t b i)
  | .vcmp cond t d a b _ =>
    let f := fun i => vCmpE cond t (el t a i) (el t b i)
    (c.wx d (q.cmpMask t f), (q.actives t).foldl (fun fl i => fl ||| (f i).2) 0)
  | .vsel _ d a b _ =>
    (c.wv d (Vector.ofFn fun j => if q.lane j.val then (q.src c a).get j else (q.src c b).get j), 0)
  | .vand _ d a b _ => lanes d fun j => Nat.land (laneAt (q.src c a) j) (laneAt (q.src c b) j)
  | .vor _ d a b _ => lanes d fun j => Nat.lor (laneAt (q.src c a) j) (laneAt (q.src c b) j)
  | .vxor _ d a b _ => lanes d fun j => Nat.xor (laneAt (q.src c a) j) (laneAt (q.src c b) j)
  | .vshl t d a s _ => put t d fun i => vShiftE t false (el t a i) (q.shift c t s i)
  | .vshr t d a s _ => put t d fun i => vShiftE t true (el t a i) (q.shift c t s i)
  | .vcvt dst src half _ d a _ => let r := q.convert dst src half (c.rv d) (q.src c a); (c.wv d r.1, r.2)
  | .vqnt t _ d a x _ => let r := q.quantise t (q.src c a); ((c.wv d r.1).wx x (word r.2.1), r.2.2)
  | .vdq t _ d a _ _ => let r := q.dequantise t (c.rv d) (q.src c a); (c.wv d r.1, r.2)
  | .vred op t _ d a _ =>
    let r := q.reduce op t (q.src c a)
    (if t.isF then c.wf (fReg d) r.1 else c.wx d r.1, r.2)
  | .vscan excl t _ d a _ => let r := q.scan excl t (c.rv d) (q.src c a); (c.wv d r.1, r.2)
  | .vsf fn _ d a _ => put .f32 d fun i => specialFn fn q.rm (el .f32 a i)
  | .vperm _ d a b _ => lanes d fun j => laneAt (q.src c a) (laneAt (q.src c b) j % 32)
  | .vbcast _ src d _ =>
    lanes d fun _ =>
      match src with
      | .x _ | .f _ => q.op1.toNat
      | .lane r n => laneAt (q.src c r) n.val
      | .imm v => v.toNat
  | .vins _ d _ n =>
    (if q.lane n.val then c.wv d ((c.rv d).set n.val (q.op1.setWidth 32)) else c, 0)
  | .vext t d a n =>
    let v := laneAt (q.src c a) n.val
    (c.wx d (if t = .i32 then BitVec.ofInt 64 (readInt true 32 v) else word v), 0)
  | _ => (c, 0)

-- Issue

/-- The queue holds 16 commands (R116). -/
def vqSize : Nat := 16

/-- A mask operand: x0 means all lanes (R13). -/
def State.maskOf (s : State) (m : XReg) : Word := if m = 0 then BitVec.allOnes 64 else s.rx m

/-- L of the SREP iteration that the context is in. -/
def Ctx.loopLanes (c : Ctx) : BitVec 32 :=
  match c.loop with
  | some l => if c.inBody then l.lanes else BitVec.allOnes 32
  | none => BitVec.allOnes 32

/-- Put a command into the core's queue. -/
def State.enqueue (s : State) (i : Instr) (m : XReg) (op1 op2 : Word) (rnd : Rnd) (heads : List (VReg × Lanes))
    (plan : List ElemPlan) : State :=
  let k := s.core
  s.setCore s.cur.core { k with
    vq := k.vq ++ [⟨k.vseq, s.cur.idx, i, s.maskOf m, op1, op2, s.mode rnd, s.ctx.loopLanes, heads, plan, s.mem.stores⟩]
    vseq := k.vseq + 1 }

/-- Issue an arithmetic command (R116, R117). -/
def State.vec (s : State) (i : Instr) (m : XReg) (rnd : Rnd) (op1 : Word := 0) : Out :=
  s.run i fun s =>
    if vqSize ≤ s.core.vq.length then .wait s
    else (s.heads (sources i)).res s fun hs => .done (s.enqueue i m op1 0 rnd hs [])

/-- VADD (R129). -/
def execVadd (t : VTy) (sat : Bool) (rnd : Rnd) (d a b : VReg) (m : XReg) (s : State) : Out :=
  s.vec (.vadd t sat rnd d a b m) m rnd
/-- VSUB. -/
def execVsub (t : VTy) (sat : Bool) (rnd : Rnd) (d a b : VReg) (m : XReg) (s : State) : Out :=
  s.vec (.vsub t sat rnd d a b m) m rnd
/-- VMUL. -/
def execVmul (t : VTy) (sat : Bool) (rnd : Rnd) (d a b : VReg) (m : XReg) (s : State) : Out :=
  s.vec (.vmul t sat rnd d a b m) m rnd
/-- VFMA. -/
def execVfma (t : VTy) (rnd : Rnd) (d a b c : VReg) (m : XReg) (s : State) : Out := s.vec (.vfma t rnd d a b c m) m rnd
/-- VMIN. -/
def execVmin (t : VTy) (d a b : VReg) (m : XReg) (s : State) : Out := s.vec (.vmin t d a b m) m .ctx
/-- VMAX. -/
def execVmax (t : VTy) (d a b : VReg) (m : XReg) (s : State) : Out := s.vec (.vmax t d a b m) m .ctx
/-- VCMP (R130). -/
def execVcmp (cond : VcmpCond) (t : VTy) (d : XReg) (a b : VReg) (m : XReg) (s : State) : Out :=
  s.vec (.vcmp cond t d a b m) m .ctx
/-- VSEL (R131). -/
def execVsel (t : VTy) (d a b : VReg) (m : XReg) (s : State) : Out := s.vec (.vsel t d a b m) m .ctx
/-- VAND. -/
def execVand (t : VTy) (d a b : VReg) (m : XReg) (s : State) : Out := s.vec (.vand t d a b m) m .ctx
/-- VOR. -/
def execVor (t : VTy) (d a b : VReg) (m : XReg) (s : State) : Out := s.vec (.vor t d a b m) m .ctx
/-- VXOR. -/
def execVxor (t : VTy) (d a b : VReg) (m : XReg) (s : State) : Out := s.vec (.vxor t d a b m) m .ctx
/-- VSHL (R131). -/
def execVshl (t : VTy) (d a : VReg) (src : VshSrc) (m : XReg) (s : State) : Out := s.vec (.vshl t d a src m) m .ctx
/-- VSHR (R131). -/
def execVshr (t : VTy) (d a : VReg) (src : VshSrc) (m : XReg) (s : State) : Out := s.vec (.vshr t d a src m) m .ctx
/-- VCVT (R132). -/
def execVcvt (dst src : LaneFmt) (half : Bool) (rnd : Rnd) (d a : VReg) (m : XReg) (s : State) : Out :=
  s.vec (.vcvt dst src half rnd d a m) m rnd
/-- VQNT (R133). -/
def execVqnt (t : BlkFmt) (rnd : Rnd) (d a : VReg) (c m : XReg) (s : State) : Out := s.vec (.vqnt t rnd d a c m) m rnd
/-- VDQ (R133): the scale is read at issue. -/
def execVdq (t : BlkFmt) (rnd : Rnd) (d a : VReg) (c m : XReg) (s : State) : Out :=
  s.vec (.vdq t rnd d a c m) m rnd (s.rx c)
/-- VRED (R134). -/
def execVred (op : VredOp) (t : VTy) (rnd : Rnd) (d : Fin 64) (a : VReg) (m : XReg) (s : State) : Out :=
  s.vec (.vred op t rnd d a m) m rnd
/-- VSCAN (R135). -/
def execVscan (excl : Bool) (t : VTy) (rnd : Rnd) (d a : VReg) (m : XReg) (s : State) : Out :=
  s.vec (.vscan excl t rnd d a m) m rnd
/-- VSF (R136). -/
def execVsf (fn : VsfFn) (rnd : Rnd) (d a : VReg) (m : XReg) (s : State) : Out := s.vec (.vsf fn rnd d a m) m rnd
/-- VPERM (R137). -/
def execVperm (t : VTy) (d a b : VReg) (m : XReg) (s : State) : Out := s.vec (.vperm t d a b m) m .ctx
/-- VBCAST (R137): an x or f source is read at issue. -/
def execVbcast (t : VTy) (src : BcastSrc) (d : VReg) (m : XReg) (s : State) : Out :=
  s.vec (.vbcast t src d m) m .ctx
    (match src with | .x r => s.rx r | .f r => s.rf r | .lane _ _ | .imm _ => 0)
/-- VINS (R137): x[A] is read at issue. -/
def execVins (t : VTy) (d : VReg) (a : XReg) (n : Fin 32) (s : State) : Out := s.vec (.vins t d a n) 0 .ctx (s.rx a)
/-- VEXT (R137). -/
def execVext (t : VTy) (d : XReg) (a : VReg) (n : Fin 32) (s : State) : Out := s.vec (.vext t d a n) 0 .ctx

end Sys2Proof.Machine
end

