-- ==== Sys2Proof/Machine/VecMem.lean ====
section
/-!
DEFINITION. Vector memory (05 R138-R141): what a planned access does at its completion; the completion of vector commands
(R116), VFENCE (R142) and VSTAT (R143).
-/
namespace Sys2Proof.Machine

-- Performing a planned access (R141)

/-- A plain read of n bytes at a place, byte by byte where it crosses a line; `home` says that it is performed at the
home. -/
def State.readPlace (s : State) (c : ClusterId) (home : Bool) : Place → Nat → State × List Byte
  | _, 0 => (s, [])
  | .scr k, n => (s, cellsRead s.mem.sram k n)
  | .glob pa, n + 1 =>
    if home then s.readHome pa (n + 1)
    else if pa % 128 + (n + 1) ≤ 128 then s.readVia c pa (n + 1)
    else
      let (s, b) := s.readVia c pa 1
      let (s, bs) := s.readPlace c home (.glob (pa + 1)) n
      (s, b ++ bs)

/-- A plain write at a place. -/
def State.writePlace (s : State) (c : ClusterId) (pl : Place) (bs : List Byte) : State :=
  match pl with
  | .scr k => { s with mem := { s.mem with sram := cellsWrite s.mem.sram k bs } }
  | .glob pa => s.writeHome c pa bs

/-- An exact value as an element of a type (Table 2.9). -/
def encodeElem (t : VTy) (rm : RMode) (v : FVal) : Nat × Flags :=
  match vtyNum t with
  | .flt s => s.encode rm v
  | .int sg w => let r := toIntRange rm (intLo sg w) (intHi sg w) v; (wrapBits w r.1, r.2)

/-- An element as an exact value. -/
def elemVal (t : VTy) (b : Nat) : FVal :=
  match vtyNum t with
  | .flt s => s.decode b
  | .int sg w => FVal.ofInt (readInt sg w b)

/-- Bytes of an element of a load at a place: as they are, or as a store found them that was performed since number
`since`, for the elements of one instruction are performed in any order, each at its own time (R141, 9 R219, 14 R299). -/
def State.readSince (s : State) (c : ClusterId) (home : Bool) (since : Nat) (pl : Place) (n : Nat) : State × List Byte :=
  let (t, now) := s.readPlace c home pl n
  match pl with
  | .scr _ => (t, now)
  | .glob pa =>
    if home || 8 < pa % 8 + n || ((s.getCl c).wayOf (lineOf pa)).isSome then (t, now)
    else
      let old := (s.mem.oldValues (pa / 8 * 8) since).map fun g => (g.drop (pa % 8)).take n
      let cs := (now :: old).eraseDups
      let (i, t) := t.pick cs.length
      (t, cs.getD i now)

/-- Load a planned element: its bits in the element type, and its flags. -/
def State.loadElem (s : State) (c : ClusterId) (t : VTy) (rm : RMode) (since : Nat) (e : ElemPlan) :
    State × Nat × Flags :=
  let (s, bs) := s.readSince c e.home since e.place (e.span t)
  match e.fmt with
  | none => (s, leNat bs, 0)
  | some f =>
    let b := bits (leNat bs) e.bit (Fmt.bits f)
    match Fmt.blk? f, e.scale with
    | some k, some sp =>
      let (s, sb) := s.readPlace c e.home sp k.scaleBytes
      let r := encodeElem t rm (blkDecode k (leNat sb) b)
      (s, r.1, r.2 ||| blkScaleFlag k (leNat sb))
    | _, _ =>
      match fmtNum f with
      | some n => let r := convert rm n (vtyNum t) b; (s, r.1, r.2)
      | none => (s, 0, 0)

/-- Load the planned elements, in element order: element numbers with their bits, and the flags. -/
def State.loadElems (s : State) (c : ClusterId) (t : VTy) (rm : RMode) (since : Nat) :
    List ElemPlan → State × List (Nat × Nat) × Flags
  | [] => (s, [], 0)
  | e :: es =>
    let (s, b, fl) := s.loadElem c t rm since e
    let (s, bs, fs) := s.loadElems c t rm since es
    (s, (e.e, b) :: bs, fl ||| fs)

/-- Store a planned element that is no block element; a sub-byte element leaves its neighbours' bits. -/
def State.storeElem (s : State) (c : ClusterId) (t : VTy) (rm : RMode) (e : ElemPlan) (b : Nat) : State × Flags :=
  match e.fmt with
  | none => (s.writePlace c e.place (leBytes (e.span t) b), 0)
  | some f =>
    match fmtNum f with
    | none => (s, 0)
    | some n =>
      let r := convert rm (vtyNum t) n b
      let w := Fmt.bits f
      if w % 8 = 0 then (s.writePlace c e.place (leBytes (w / 8) r.1), r.2)
      else
        match e.place with
        | .scr _ => (s, 0)
        | .glob pa =>
          let old := leNat (s.mem.peek pa (e.span t))
          let new := old - bits old e.bit w * 2 ^ e.bit + r.1 % 2 ^ w * 2 ^ e.bit
          (s.writePlace c e.place (leBytes (e.span t) new), r.2)

/-- Store planned elements in increasing element order (R141). -/
def State.storeElems (s : State) (c : ClusterId) (t : VTy) (rm : RMode) (src : Lanes) : List ElemPlan → State × Flags
  | [] => (s, 0)
  | e :: es =>
    let (s, fl) := s.storeElem c t rm e (elemBits t src e.e)
    let (s, fs) := s.storeElems c t rm src es
    (s, fl ||| fs)

/-- Quantise and store a whole block: elements and scale together (R139). -/
def State.storeBlock (s : State) (c : ClusterId) (t : VTy) (rm : RMode) (src : Lanes) (k : BlkFmt) (e : ElemPlan) :
    State × Flags :=
  let r := blkQuant k rm ((List.range 32).map fun i => elemVal t (elemBits t src i))
  let s := s.writePlace c e.place (leBytes k.dataBytes (packElems k.bits r.1))
  (match e.scale with | some sp => s.writePlace c sp (leBytes k.scaleBytes r.2.1) | none => s, r.2.2)

/-- Perform a planned store. -/
def State.storePlan (s : State) (c : ClusterId) (t : VTy) (rm : RMode) (src : Lanes) (plan : List ElemPlan) :
    State × Flags :=
  match plan with
  | [] => (s, 0)
  | e :: _ =>
    match e.fmt.bind Fmt.blk? with
    | some k => s.storeBlock c t rm src k e
    | none => s.storeElems c t rm src plan

/-- Write loaded elements into a v register (R120). -/
def putElems (t : VTy) (old : Lanes) (es : List (Nat × Nat)) : Lanes :=
  Vector.ofFn fun j =>
    match Map.get? es (elemOf t j.val) with
    | some b => lanePart t j.val b
    | none => old.get j

/-- What a vector memory command does at its completion, for its context. -/
def State.vecMemEffect (s : State) (c : CtxId) (q : VCmd) : State × Flags :=
  let load := fun (t : VTy) (d : VReg) =>
    let (s, es, fl) := s.loadElems c.core.cl t q.rm q.since q.plan
    (s.setCtx c ((s.getCtx c).wv d (putElems t ((s.getCtx c).rv d) es)), fl)
  let store := fun (t : VTy) (r : VReg) => s.storePlan c.core.cl t q.rm (q.src (s.getCtx c) r) q.plan
  match q.instr with
  | .vld t _ d _ _ _ _ => load t d
  | .vlds t _ d _ _ _ _ _ => load t d
  | .vgath t _ d _ _ _ _ _ _ => load t d
  | .vst t _ r _ _ _ => store t r
  | .vsts t _ r _ _ _ _ => store t r
  | .vscat t _ r _ _ _ _ _ => store t r
  | _ => (s, 0)

/-- A vector command performs its work. -/
def State.performVec (s : State) (c : CtxId) (q : VCmd) : State :=
  if isVectorMem q.instr then
    let (s, fl) := s.vecMemEffect c q
    s.raiseAt c fl
  else
    let (k, fl) := q.effect (s.getCtx c)
    (s.setCtx c k).raiseAt c fl

/-- The window of a command that has completed. -/
def Ctx.commandDone (c : Ctx) (seq : Nat) : Ctx :=
  let ws := c.windows.map fun w => { w with cmd := if w.cmd = some seq then none else w.cmd }
  { c with windows := ws.filter fun w => decide (w.left ≠ 0) || w.cmd.isSome }

/-- A command of a context has completed: its further commands' accesses come after it (R141). -/
def State.bumpSince (s : State) (c : CtxId) : State :=
  let k := s.getCore c.core
  s.setCore c.core { k with vq := k.vq.map fun p => if p.ctx = c.idx then { p with since := s.mem.stores } else p }

/-- The oldest queued command of a context completes (R116, R48). -/
def execVectorCommandComplete (c : CtxId) (s : State) : Out :=
  match s.queued c with
  | [] => disabled "VECTOR_COMMAND_COMPLETE"
  | q :: _ =>
    let k := s.getCore c.core
    let s := s.setCore c.core { k with vq := k.vq.filter fun p => !(decide (p.seq = q.seq)) }
    let s := (s.performVec c q).bumpSince c
    .next (s.setCtx c ((s.getCtx c).commandDone q.seq))

-- Issue of a vector memory instruction

/-- The command of a vector memory instruction as it would stand in the queue. -/
def State.command (s : State) (i : Instr) (m : XReg) (rnd : Rnd) (heads : List (VReg × Lanes)) (plan : List ElemPlan) :
    VCmd :=
  ⟨s.core.vseq, s.cur.idx, i, s.maskOf m, 0, 0, s.mode rnd, s.ctx.loopLanes, heads, plan, s.mem.stores⟩

/-- A window without pending results: of a vector load (R71). -/
def State.openWindow (s : State) (i : Instr) (la : Nat) (cmd : Option Nat) : State :=
  { s with ctx := { s.ctx with windows := s.ctx.windows ++ [⟨s.ctx.pc, la + 1, dests i, [], cmd⟩] } }

/-- Issue a vector memory instruction (R140): the checks, then the queue; on a CHECKED page the access is performed
before the instruction leaves issue. -/
def State.vecMem (s : State) (i : Instr) (m : XReg) (rnd : Rnd) (t : VTy) (store uniform : Bool) (la : Option LaCount)
    (base : Word) (ea : List (VReg × Lanes) → Nat → Nat → Word) (idx : Option VReg) : Out :=
  s.run i fun s =>
    if vqSize ≤ s.core.vq.length then .wait s
    else if (match idx with | some r => (s.queued s.cur).any fun q => (dests q.instr).contains (.v r) | none => false)
    then .wait s
    else (s.heads (sources i)).res s fun hs =>
      let q := s.command i m rnd hs []
      let v : VecAccess := ⟨t, store, uniform, base, ea hs, (q.actives t).length = 32⟩
      let first := if uniform then s.convAt t base else convOf t none
      (s.planElems v first (q.actives t)).res s fun es =>
        let plan := es.map Planned.plan
        let s1 := s.noteWalks es
        let open' := fun (s : State) (cmd : Option Nat) =>
          match la with
          | none => s
          | some n => if n = 0 ∧ cmd = none then s else s.openWindow i n.val cmd
        if plan.any ElemPlan.home then
          if s.queued s.cur ≠ [] then .wait s
          else (s.raceElems v es).res s fun _ =>
            .done (open' ((s1.noteElems v es).performVec s.cur { q with plan := plan }) none)
        else .done (open' (s1.enqueue i m 0 0 rnd hs plan) (some s.core.vseq))

/-- The index lanes of a gather or scatter. -/
def State.indexLane (s : State) (hs : List (VReg × Lanes)) (b : VReg) (t : VTy) (i : Nat) : Word :=
  sext32 (BitVec.ofNat 32 (laneAt ((Map.get? hs b).getD (s.ctx.rv b)) (if t = .f64 then 2 * i else i)))

/-- VLD (Table 5.4): consecutive elements. -/
def execVld (t : VTy) (rnd : Rnd) (d : VReg) (a : XReg) (off : BitVec 32) (m : XReg) (la : LaCount) (s : State) : Out :=
  let base := s.rx a + sext32 off
  s.vecMem (.vld t rnd d a off m la) m rnd t false true (some la) base (fun _ i n => base + word (i * n / 8)) none
/-- VST. -/
def execVst (t : VTy) (rnd : Rnd) (src : VReg) (a : XReg) (off : BitVec 32) (m : XReg) (s : State) : Out :=
  let base := s.rx a + sext32 off
  s.vecMem (.vst t rnd src a off m) m rnd t true true none base (fun _ i n => base + word (i * n / 8)) none
/-- VLDS: a stride in bytes. -/
def execVlds (t : VTy) (rnd : Rnd) (d : VReg) (a b : XReg) (off : BitVec 32) (m : XReg) (la : LaCount) (s : State) :
    Out :=
  let base := s.rx a + sext32 off
  s.vecMem (.vlds t rnd d a b off m la) m rnd t false false (some la) base (fun _ i _ => base + word i * s.rx b) none
/-- VSTS. -/
def execVsts (t : VTy) (rnd : Rnd) (src : VReg) (a b : XReg) (off : BitVec 32) (m : XReg) (s : State) : Out :=
  let base := s.rx a + sext32 off
  s.vecMem (.vsts t rnd src a b off m) m rnd t true false none base (fun _ i _ => base + word i * s.rx b) none
/-- VGATH: indices from a v register. -/
def execVgath (t : VTy) (rnd : Rnd) (d : VReg) (a : XReg) (b : VReg) (scale : Fin 4) (off : BitVec 32) (m : XReg)
    (la : LaCount) (s : State) : Out :=
  let base := s.rx a + sext32 off
  s.vecMem (.vgath t rnd d a b scale off m la) m rnd t false false (some la) base
    (fun hs i _ => base + (s.indexLane hs b t i <<< scale.val)) (some b)
/-- VSCAT: overlapping elements in increasing order. -/
def execVscat (t : VTy) (rnd : Rnd) (src : VReg) (a : XReg) (b : VReg) (scale : Fin 4) (off : BitVec 32) (m : XReg)
    (s : State) : Out :=
  let base := s.rx a + sext32 off
  s.vecMem (.vscat t rnd src a b scale off m) m rnd t true false none base
    (fun hs i _ => base + (s.indexLane hs b t i <<< scale.val)) (some b)

/-- VFENCE (R142): every earlier vector command of the context has completed. -/
def execVfence (s : State) : Out := s.run .vfence fun s => if s.queued s.cur = [] then .done s else .wait s

/-- A field of VSTAT: bit j for stream register j. -/
def streamBits (f : Fin 8 → Bool) : Nat := (List.finRange 8).foldl (fun n j => n + (f j).toNat * 2 ^ j.val) 0

/-- VSTAT's value (Table 5.6). -/
def Ctx.vstat (c : Ctx) : Word :=
  let st := fun (f : StreamSt → Bool) (j : Fin 8) => match c.streams.get j with | some x => f x | none => false
  word (streamBits (st fun _ => true) + streamBits (st fun x => x.ended) * 2 ^ 8
    + streamBits (st fun x => x.groups ≠ []) * 2 ^ 16 + c.ovr.toNat * 2 ^ 24)

/-- VSTAT (R143). -/
def execVstat (d : XReg) (s : State) : Out := s.run (.vstat d) fun s => .done (s.wx d s.ctx.vstat)

end Sys2Proof.Machine
end

