-- ==== Sys2Proof/Machine/Stream.lean ====
section
/-!
DEFINITION. Streams (05 R144-R149): SCFG, SSTOP, the reads of memory streams, and SREP.
-/
namespace Sys2Proof.Machine

/-- Replace a stream register of a context. -/
def Ctx.setStream (c : Ctx) (j : StreamIx) (st : Option StreamSt) : Ctx := { c with streams := c.streams.set j.val st }

/-- The stream-table entries of a core that a context has attached to a register are detached (R149). -/
def CoreSt.detach (k : CoreSt) (idx : Nat) (j : StreamIx) : CoreSt :=
  { k with table := k.table.map fun e =>
      e.map fun e => { e with attached := e.attached && !(decide (e.ctx = idx) && decide (e.reg = j)) } }

/-- SSTOP of a configured register (R149): its groups go, every lane is zero, and it is ordinary again. -/
def State.stopStream (s : State) (j : StreamIx) : State :=
  match s.ctx.streams.get j with
  | none => s
  | some _ =>
    let s := s.setCore s.cur.core (s.core.detach s.cur.idx j)
    { s with ctx := (s.ctx.setStream j none).wv (vOfStream j) (Vector.replicate 32 0) }

/-- Configure a stream register afresh (R145). -/
def State.startStream (s : State) (j : StreamIx) (st : StreamSt) : State :=
  let s := s.stopStream j
  { s with ctx := { s.ctx.setStream j (some st) with ovr := s.ctx.ovr &&& ~~~(1#8 <<< j.val) } }

/-- SCFG, memory form. A bound of 0 has ended at once. -/
def execScfgMem (t : VTy) (d : StreamIx) (a b : XReg) (s : State) : Out :=
  s.run (.scfgMem t d a b) fun s =>
    if s.queued s.cur ≠ [] then .wait s
    else
      let n := bits (s.rx b).toNat 0 32
      .done (s.startStream d ⟨.mem (s.rx a), t, n, 0, [], [], n = 0, s.ctx.fpmode⟩)

/-- SCFG, message form. -/
def execScfgMsg (t : VTy) (d : StreamIx) (b : XReg) (s : State) : Out :=
  s.run (.scfgMsg t d b) fun s =>
    if s.queued s.cur ≠ [] then .wait s
    else .done (s.startStream d ⟨.msg, t, bits (s.rx b).toNat 0 32, 0, [], [], false, s.ctx.fpmode⟩)

/-- SSTOP (R149). -/
def execSstop (d : StreamIx) (s : State) : Out :=
  s.run (.sstop d) fun s => if s.queued s.cur ≠ [] then .wait s else .done (s.stopStream d)

/-- The groups that a memory stream reads ahead (R145). -/
def readAhead : Nat := 4

/-- A memory stream reads its next group (R145): plain loads of its context, all of one step (assumption 49). -/
def execMemoryStreamRead (c : CtxId) (j : StreamIx) (s : State) : Out :=
  let t := s.switchTo c
  match t.ctx.streams.get j with
  | none => disabled "MEMORY_STREAM_READ"
  | some st =>
    match st.src with
    | .msg => disabled "MEMORY_STREAM_READ"
    | .mem base =>
      if st.ended || readAhead ≤ st.groups.length || !s.goesOn c then disabled "MEMORY_STREAM_READ"
      else match t.checkGroup st base with
        | .hold => disabled "MEMORY_STREAM_READ"
        | .trap _ => disabled "MEMORY_STREAM_READ"
        | .ok es =>
          let v := st.access (t.convAt st.ty base) base
          let (t, vs, fl) := ((t.noteWalks es).noteElems v es).loadElems c.core.cl st.ty st.rm s.mem.stores (es.map Planned.plan)
          let n := es.length
          let st := { st with
            groups := st.groups ++ [⟨putElems st.ty (Vector.replicate 32 0) vs, n⟩]
            delivered := st.delivered + n
            ended := st.bound ≤ st.delivered + n }
          .next ((({ t with ctx := t.ctx.setStream j (some st) }).raise fl).switchTo s.cur)

-- SREP (R146, R147)

/-- Pass over n instructions from an address on, PAD32 words not counted: the instructions still to be passed over and
the address reached, and the trap of the fetch that stopped it there. The first argument bounds the words visited
(assumption 13). -/
def State.passOver (s : State) : Nat → Nat → Word → State × (Nat × Word) × Option Trap
  | 0, n, a => (s, (n, a), none)
  | k + 1, n, a =>
    if n = 0 then (s, (0, a), none)
    else match s.fetchBytes a with
      | (s, .error t) => (s, (n, a), some t)
      | (s, .ok bs) =>
        let w := leNat (bs.take 4)
        s.passOver k (if w % 4 = 0 then n else n - 1) (a + word (lenBytes w))

/-- Words that one attempt visits in looking for the end of a body. -/
def passWords : Nat := 4096

/-- What the streams of a mask say at the head of a loop. -/
inductive LoopHead where
  | wait
  | finish
  | lanes (l : BitVec 32)
  deriving DecidableEq, Repr

/-- The mask of the first n lanes. -/
def firstLanes (n : Nat) : BitVec 32 := BitVec.ofNat 32 (2 ^ n - 1)

/-- The streams of the mask. -/
def maskStreams (m : BitVec 8) : List StreamIx := (List.finRange 8).filter fun j => m.getLsbD j.val

/-- Some configured stream of the list has neither a head group nor an end. -/
def State.streamsWait (s : State) (js : List StreamIx) : Bool :=
  js.any fun j => match (s.ctx.streams.get j).map s.head with | some .wait => true | _ => false

/-- The AND of the valid lanes of the heads; none when a register is not configured, or has ended with no element. -/
def State.headLanes (s : State) : List StreamIx → Option (BitVec 32)
  | [] => some (BitVec.allOnes 32)
  | j :: js =>
    match (s.ctx.streams.get j).map s.head with
    | some (.lanes _ n) => (s.headLanes js).map fun l => l &&& firstLanes n
    | some (.trap _ n) => (s.headLanes js).map fun l => l &&& firstLanes n
    | _ => none

/-- The decision at the head of the loop. -/
def State.loopHead (s : State) (m : BitVec 8) : LoopHead :=
  if m = 0 then .finish
  else if s.streamsWait (maskStreams m) then .wait
  else match s.headLanes (maskStreams m) with
    | none => .finish
    | some l => .lanes l

/-- The end of a body that is not known yet is looked for: the loop, and the trap of the fetch that stands in the way. -/
def State.findEnd (s : State) (l : LoopSt) : State × LoopSt × Option Trap :=
  let (s, (n, a), t) := s.passOver passWords l.toPass l.stop
  (s, { l with toPass := n, stop := a }, t)

/-- A queued vector command of the context writes an x register (R117). -/
def State.xPending (s : State) (d : XReg) : Bool :=
  (s.queued s.cur).any fun q => RegName.real (.x d) && (dests q.instr).contains (.x d)

/-- What the head of a loop leads to: the state and the address at which the context goes on; none while it waits: for a
stream, for a queued command that writes x[D] (R117), for the end of the body. -/
def State.leaveHead (s : State) (l : LoopSt) : Option (State × Word) :=
  match s.loopHead l.mask with
  | .wait => none
  | .finish =>
    if s.xPending l.dst || l.toPass ≠ 0 then none
    else
      let s := s.wx l.dst (word l.count)
      some ({ s with ctx := { s.ctx with loop := none } }, l.stop)
  | .lanes v => some ({ s with ctx := { s.ctx with loop := some { l with head := false, lanes := v } } }, l.body)

/-- The trap that keeps a loop from ending: the fetch of a body whose end is not known. -/
def State.headTrap (s : State) (l : LoopSt) (t : Option Trap) : Option Trap :=
  match s.loopHead l.mask with | .finish => t | _ => none

/-- An SREP that has issued stands at its head: it goes on, or waits there. -/
def State.loopStep (s : State) (l : LoopSt) : Res :=
  match s.leaveHead l with
  | some (s, pc) => .jump s pc
  | none => .jump { s with ctx := { s.ctx with loop := some l } } l.srep

/-- The context is at the head of its loop. -/
def Ctx.atHead (c : Ctx) : Option LoopSt := c.loop.filter fun l => l.head && c.pc = l.srep

/-- A further iteration of an SREP begins, or the SREP ends, where the context is at the head of its loop. That is no
issue (R146): no window counts it, and the core issues whatever the context comes to. False while the head waits. Where
the known part of a body ends, more of it becomes known; a fetch that traps is then the body instruction's (R147). -/
def State.loopTurn (s : State) : State × Except Trap Bool :=
  match s.ctx.loop with
  | none => (s, .ok true)
  | some l =>
    if s.ctx.atFrontier then
      let (s, l, _) := s.findEnd l
      ({ s with ctx := { s.ctx with loop := some l } }, .ok true)
    else if !(l.head && s.ctx.pc = l.srep) then (s, .ok true)
    else
      let (s, l, t) := s.findEnd l
      match s.headTrap l t, s.leaveHead l with
      | some t, _ => (s, .error t)
      | none, some (s, pc) => ({ s with ctx := { s.ctx with pc := pc } }, .ok true)
      | none, none => ({ s with ctx := { s.ctx with loop := some l } }, .ok false)

/-- SREP. One whose loop is at its head has issued before. -/
def execSrep (d : XReg) (n : Fin 65) (mask : BitVec 8) (s : State) : Out :=
  s.run (.srep d n mask) fun s =>
    match s.ctx.loop with
    | some _ =>
      match s.loopTurn with
      | (_, .error t) => .trap t
      | (s, .ok true) => .gone s
      | (s, .ok false) => .wait s
    | none =>
      let body := s.ctx.pc + word (Instr.srep d n mask).len
      let (s, l, t) := s.findEnd ⟨s.ctx.pc, body, body, n.val, n.val, mask, d, 0, 0, true⟩
      match s.headTrap l t with
      | some t => .trap t
      | none => s.loopStep l

end Sys2Proof.Machine
end

