-- ==== Sys2Proof/Machine/Message.lean ====
section
/-!
DEFINITION. Messages and streams between cores (07 R179-R186): endpoints, mailboxes and send buffers, MSEND, MRECV, the
chunks of MSENDS, the stream table, MBIND and MUNBIND.
-/
namespace Sys2Proof.Machine

-- Endpoints (R179)

/-- An endpoint: core, context, priority and tag. -/
structure Endpoint where
  core : CoreId
  ctx : Nat
  hi : Bool
  tag : Nat
  deriving DecidableEq, Repr

/-- MSG at an endpoint, with its detail (Table 18.1). -/
def msgTrap (ep : Word) (info : Nat) : Trap := ⟨.msg, ep, word info⟩

/-- The cluster of a mesh-space address that lies in the grid and in the issuing context's partition (R113, R156). -/
def State.meshOwner (s : State) (ea : Word) : Option ClusterId :=
  if bits ea.toNat 22 19 ≠ 0 then none
  else (meshCluster s.pkg.grade s.cl ea).bind fun c =>
    if s.part.isSome && (s.getCl c).part = s.part then some c else none

/-- The checks of an endpoint that every send makes. -/
def State.endpoint (s : State) (ep : Word) : Chk Endpoint :=
  let off := meshOff ep
  if !isMesh ep then .trap (msgTrap ep 1)
  else match s.meshOwner ep with
    | none => .trap (msgTrap ep 2)
    | some c =>
      if 7 < bits off 0 4 then .trap (msgTrap ep 3)
      else if 10 < bits off 4 4 then .trap (msgTrap ep 4)
      else if bits off 17 5 ≠ 0 then .trap (msgTrap ep 5)
      else .ok ⟨⟨c, bits off 0 4⟩, bits off 4 4, bit off 8, bits off 9 8⟩

/-- The endpoint of a message: its tag is 0. -/
def State.msgEndpoint (s : State) (ep : Word) : Chk Endpoint :=
  (s.endpoint ep).bind fun e => (need (e.tag = 0) (msgTrap ep 6)).bind fun _ => .ok e

/-- The endpoint of a stream: its context and priority are 0. -/
def State.streamEndpoint (s : State) (ep : Word) : Chk Endpoint :=
  (s.endpoint ep).bind fun e => (need (e.ctx = 0 && !e.hi) (msgTrap ep 6)).bind fun _ => .ok e

/-- A payload of min(n, 256) bytes, read as plain loads (R182). -/
def State.payload (s : State) (ea : Word) (n : Word) : Chk (State × List Byte) :=
  let len := min n.toNat 256
  if len = 0 then .ok (s, []) else s.loadRecord ea len 8

/-- The partition of a cluster is RUNNING: deliveries to its cores are held otherwise (18 R341). -/
def State.clRuns (s : State) (c : ClusterId) : Bool := match (s.getCl c).part with | some p => s.running p | none => false

-- Mailboxes (R180, R181)

/-- Messages of a mailbox. -/
def mailboxSize : Nat := 32
/-- Entries of a send buffer. -/
def sendBufSize : Nat := 4

/-- A mailbox of a core. -/
def CoreSt.mailbox (k : CoreSt) (hi : Bool) : List Message := if hi then k.hi else k.lo
/-- Replace a mailbox. -/
def CoreSt.setMailbox (k : CoreSt) (hi : Bool) (ms : List Message) : CoreSt :=
  if hi then { k with hi := ms } else { k with lo := ms }

/-- A mailbox has room. -/
def State.mailRoom (s : State) (k : CoreId) (hi : Bool) : Bool := ((s.getCore k).mailbox hi).length < mailboxSize

/-- A message enters a mailbox. -/
def State.mailIn (s : State) (k : CoreId) (hi : Bool) (m : Message) : State :=
  s.setCore k ((s.getCore k).setMailbox hi ((s.getCore k).mailbox hi ++ [m]))

/-- The header of a plain message from a context (Table 7.5). -/
def plainHeader (c : CtxId) (len : Nat) : Word :=
  word (coreIdBits c % 2 ^ 16 * 2 ^ 16 + bits (coreIdBits c) 18 3 * 2 ^ 11 + len)

/-- What a context has sent to a mailbox may arrive: nothing that it sent there before is still in its core's send buffer
or held by a conversation (R180). `order` is the order of the send. -/
def State.mayGo (s : State) (c : CtxId) (dst : CoreId) (hi : Bool) (order : Nat) : Bool :=
  !((s.getCore c.core).sendBuf.any fun q =>
      decide (q.sender = c.idx) && decide (q.dst = dst) && q.hi == hi && decide (q.order < order))
    && !(s.pkg.convs.any fun v => v.2.held.any fun h =>
      decide (h.sender = c) && decide (h.dst = dst) && h.hi == hi && decide (h.order < order))

/-- An entry of a core's send buffer may go. -/
def State.entryMayGo (s : State) (k : CoreId) (e : SendEntry) : Bool := s.mayGo ⟨k, e.sender⟩ e.dst e.hi e.order

/-- The n-th entry of a core's send buffer goes to its mailbox, or is marked for a retry. -/
def State.trySend (s : State) (k : CoreId) (n : Nat) (e : SendEntry) : State :=
  let c := s.getCore k
  if s.mailRoom e.dst e.hi then
    (s.setCore k { c with sendBuf := c.sendBuf.eraseIdx n }).mailIn e.dst e.hi e.msg
  else s.setCore k { c with sendBuf := c.sendBuf.set n { e with retry := true } }

/-- MSEND (R182): it takes an entry of the send buffer, and is a release. -/
def execMsend (a b c : XReg) (s : State) : Out :=
  s.run (.msend a b c) fun s =>
    if s.vecMemBusy || sendBufSize ≤ s.core.sendBuf.length then .wait s
    else (s.payload (s.rx b) (s.rx c)).res s fun p =>
      (s.msgEndpoint (s.rx a)).res s fun e =>
        let m : Message := ⟨e.ctx, plainHeader s.cur p.2.length, p.2, some s.cl⟩
        let s := p.1
        let k := s.core
        let s := { s with arrivals := s.arrivals + 1 }
        .done (s.setCore s.cur.core { k with
          sendBuf := k.sendBuf ++ [⟨e.core, e.hi, m, s.cur.idx, false, p.1.arrivals⟩] }).endRegion

/-- A message arrives at its mailbox (R180). -/
def execMailboxDelivery (k : CoreId) (n : Nat) (s : State) : Out :=
  match (s.getCore k).sendBuf[n]? with
  | none => disabled "MAILBOX_DELIVERY"
  | some e =>
    if e.retry || !s.entryMayGo k e || !s.clRuns e.dst.cl then disabled "MAILBOX_DELIVERY"
    else .next (s.trySend k n e)

/-- A message that found its mailbox full is delivered (R180). -/
def execSendBufferRetry (k : CoreId) (n : Nat) (s : State) : Out :=
  match (s.getCore k).sendBuf[n]? with
  | none => disabled "SEND_BUFFER_RETRY"
  | some e =>
    if !e.retry || !s.entryMayGo k e || !s.mailRoom e.dst e.hi || !s.clRuns e.dst.cl then
      disabled "SEND_BUFFER_RETRY"
    else .next (s.trySend k n e)

/-- The checks of MRECV's 256 bytes as a store destination, races apart (R183). -/
def State.checkBuffer (s : State) : List (Nat × Nat) → Chk Unit
  | [] => .ok ()
  | (a, _) :: rest => (s.locate .store (word a)).bind fun _ => s.checkBuffer rest

/-- The oldest message for a context in a mailbox, with its position. -/
def oldestFor (ms : List Message) (idx : Nat) : Option (Nat × Message) :=
  (ms.findIdx? fun m => m.ctx = idx).bind fun i => ms[i]?.map fun m => (i, m)

/-- The message that MRECV takes: from the high mailbox, or else from the normal one. -/
def State.nextMessage (s : State) : Option (Bool × Nat × Message) :=
  match oldestFor s.core.hi s.cur.idx with
  | some (i, m) => some (true, i, m)
  | none => (oldestFor s.core.lo s.cur.idx).map fun r => (false, r.1, r.2)

/-- The scope at which a received message is acquired (R168). -/
def msgScope (own : ClusterId) (m : Message) : Scope := match m.src with | some c => pairScope own c | none => .pkg

/-- MRECV (R183). -/
def execMrecv (d a : XReg) (la : LaCount) (s : State) : Out :=
  s.run (.mrecv d a la) fun s =>
    if s.vecMemBusy then .wait s
    else if !isMesh (s.rx a) && !canonical (s.rx a) then .trap ⟨.notPresent, s.rx a, 0⟩
    else if !aligned (s.rx a) 8 then .trap ⟨.align, s.rx a, 0⟩
    else (s.checkBuffer (pieces (s.rx a) 256)).res s fun _ =>
      match s.nextMessage with
      | none => .wait s
      | some (hi, i, m) =>
        (s.checkRange .store (s.rx a) m.payload.length 8).res s fun ts =>
          let s := s.setCore s.cur.core (s.core.setMailbox hi ((s.core.mailbox hi).eraseIdx i))
          let s := ((s.acquire (msgScope s.cl m)).storeRange ts m.payload).endRegion
          .done (s.longResult (.mrecv d a la) la [.x d (m.hdr + word (hi.toNat * 2 ^ 9))])

-- Streams (R184-R186)

/-- Bytes of a chunk. -/
def chunkBytes : Nat := 64
/-- Chunks that a bank in FIFO mode holds (R193, R194). -/
def fifoChunks : Nat := 4096

/-- The chunks of a core that its cluster's FIFO banks hold: of those of one sender for one tag, the last is still with
its sender. -/
def CoreSt.heldChunks (k : CoreSt) : Nat :=
  let cs := k.inbox.filter fun c => c.eos.isNone
  cs.length - (cs.map fun c => (c.sender, c.tag)).eraseDups.length

/-- The chunks that the FIFO banks of a cluster hold. -/
def State.heldIn (s : State) (c : ClusterId) : Nat :=
  ((List.range 8).map fun n => (s.getCore ⟨c, n⟩).heldChunks).foldl (· + ·) 0

/-- The chunks that the banks 0-14 of a cluster in FIFO mode can hold, one bank apart (R196). -/
def Cluster.fifoRoom (k : Cluster) (but : Option (Fin 16)) : Nat :=
  fifoChunks * ((List.finRange 16).filter fun b =>
    decide (b ≠ 15) && decide (k.modes.get b = .fifo) && decide (some b ≠ but) &&
      !k.changing.any fun x => x.bank = b).length

/-- A chunk of a sender for a tag leaves its sender: none of the same stream is on its way, or a FIFO bank has room. -/
def State.chunkRoom (s : State) (k : CoreId) (tag : Nat) (sender : Word) : Bool :=
  !((s.getCore k).inbox.any fun c => c.sender = sender && c.tag.toNat = tag) ||
    s.heldIn k.cl < (s.getCl k.cl).fifoRoom none

/-- A chunk, and the end-of-stream word, reach the receiving core. -/
def State.sendChunk (s : State) (k : CoreId) (c : Chunk) : State :=
  s.setCore k { s.getCore k with inbox := (s.getCore k).inbox ++ [c] }

/-- Cut a range at 64 KiB, the smallest page: the pieces whose translations a stream checks at its start. -/
def cutPages : Nat → Nat → Nat → List (Nat × Nat)
  | 0, _, _ => []
  | k + 1, a, n => if n = 0 then [] else
      let l := min n (2 ^ 16 - a % 2 ^ 16)
      (a, l) :: cutPages k (a + l) (n - l)

/-- A place some bytes further on. -/
def Place.advance : Place → Nat → Place
  | .glob pa, n => .glob (pa + n)
  | .scr k, n => .scr (k + n)

/-- A checked piece of a range, to be read later. -/
def heldPiece (t : Word × Target × Nat) : HeldPiece :=
  ⟨t.2.1.place, t.2.2, match t.2.1 with | .glob p _ => p.checked | .mesh .. => false⟩

/-- The first n bytes of held pieces, and what follows them. -/
def splitHeld : Nat → List HeldPiece → List HeldPiece × List HeldPiece
  | _, [] => ([], [])
  | n, h :: hs =>
    if n = 0 then ([], h :: hs)
    else if h.len ≤ n then
      let r := splitHeld (n - h.len) hs
      (h :: r.1, r.2)
    else ([{ h with len := n }], { h with place := h.place.advance n, len := h.len - n } :: hs)

/-- An instruction that reads a range part by part has made every check of the range at its issue: its accesses are
logged, and what it still reads is held (R25, assumption 53). -/
def State.holdRange (s : State) (ts : List (Word × Target × Nat)) : State :=
  let s := ts.foldl (fun s t =>
    match t.2.1 with
    | .glob p pa => (s.noteAccess t.1).note p pa t.2.2 .load
    | .mesh .. => s) s
  { s with ctx := { s.ctx with plan := ts.map heldPiece } }

/-- Held pieces of mesh space from an address on pass the checks of their banks as they are now: an access to a bank in
transition is held, and one that finds another mode raises PROTECT (8 R196, assumption 70). -/
def State.checkHeld (s : State) : Word → List HeldPiece → Chk Unit
  | _, [] => .ok ()
  | a, h :: hs =>
    (match h.place with | .scr _ => (s.locate .load a).bind fun _ => .ok () | .glob _ => .ok ()).bind fun _ =>
      s.checkHeld (a + word h.len) hs

/-- Read held pieces from an address on: where the address now translates, or where it did at the issue. -/
def State.readHeld (s : State) : Word → List HeldPiece → State × List Byte
  | _, [] => (s, [])
  | a, h :: hs =>
    let (place, home) :=
      match s.locate .load a with
      | .ok (.glob p pa) => (Place.glob pa, p.checked)
      | .ok (.mesh c off) => (.scr (scrKey c off), false)
      | _ => (h.place, h.checked)
    let (s, b) := (s.noteAccess a).readPlace s.cl home place h.len
    let (s, bs) := s.readHeld (a + word h.len) hs
    (s, b ++ bs)

/-- The next n bytes of what is held, which start at an address. -/
def State.takeHeld (s : State) (a : Word) (n : Nat) : Chk (State × List Byte) :=
  let (now, later) := splitHeld n s.ctx.plan
  (s.checkHeld a now).bind fun _ =>
    let (s, bs) := s.readHeld a now
    .ok ({ s with ctx := { s.ctx with plan := later } }, bs)

/-- The checks of a range that is read part by part: the address kind, alignment, every byte as a load. The first two are
made of a range of no bytes too (assumption 71). -/
def State.holdLoads (s : State) (ea : Word) (n : Nat) : Chk State :=
  if !isMesh ea && !canonical ea then .trap ⟨.notPresent, ea, 0⟩
  else if !aligned ea 8 then .trap ⟨.align, ea, 0⟩
  else (s.checkPieces .load (cutPages (n / 2 ^ 16 + 2) ea.toNat n)).bind fun ts => .ok (s.holdRange ts)

/-- MSENDS sends its next chunk, and after the last one the end-of-stream word. -/
def State.streamChunk (s : State) (i : Instr) (e : Endpoint) (ea : Word) (n : Nat) : Res :=
  let id := word (coreIdBits s.cur)
  let pos := chunkBytes * s.ctx.pos
  if !s.chunkRoom e.core e.tag id then .wait s
  else (s.takeHeld (ea + word pos) (min chunkBytes (n - pos))).res s fun v =>
    let tag := BitVec.ofNat 8 e.tag
    let s := if pos < n then v.1.sendChunk e.core ⟨tag, id, v.2, none⟩ else v.1
    if n ≤ pos + chunkBytes then
      .done (s.sendChunk e.core ⟨tag, id, [], some (BitVec.ofNat 32 n)⟩).endRegion
    else .wait { s.started i with ctx := { (s.started i).ctx with pos := s.ctx.pos + 1 } }

/-- MSENDS (R184): every check at its issue, then chunk by chunk; its position is saved with the context. -/
def execMsends (a b c : XReg) (s : State) : Out :=
  s.run (.msends a b c) fun s =>
    let n := bits (s.rx c).toNat 0 32
    if s.vecMemBusy then .wait s
    else (if s.ctx.pos = 0 && s.ctx.plan.isEmpty then s.holdLoads (s.rx b) n else .ok s).res s fun t =>
      (s.streamEndpoint (s.rx a)).res s fun e => t.streamChunk (.msends a b c) e (s.rx b) n

-- The receiving core (R186)

/-- Bytes of an element of a stream. -/
def StreamSt.esz (st : StreamSt) : Nat := (vtyNum st.ty).width / 8

/-- Chunks of a message stream that its register has not wholly consumed. -/
def StreamSt.unconsumed (st : StreamSt) : Nat :=
  ((st.groups.map Group.n).foldl (· + ·) 0 * st.esz + st.rest.length + 63) / chunkBytes

/-- The elements of bytes, as a group of a stream: lanes that get none read zero. -/
def StreamSt.group (st : StreamSt) (bs : List Byte) : Group :=
  let n := bs.length / st.esz
  ⟨putElems st.ty (Vector.replicate 32 0)
    ((List.range n).map fun i => (i, recNat bs (i * st.esz) st.esz)), n⟩

/-- Elements that a message stream still accepts; none without a bound. -/
def StreamSt.toGo (st : StreamSt) : Option Nat := if st.bound = 0 then none else some (st.bound - st.delivered)

/-- Form groups from the bytes of a message stream, as many as the first argument allows: a full group, or the last one
before the bound. -/
def StreamSt.fill (st : StreamSt) : Nat → StreamSt
  | 0 => st
  | k + 1 =>
    let want := match st.toGo with | some r => min r 32 | none => 32
    if want = 0 || st.rest.length < want * st.esz then st
    else
      ({ st with
        groups := st.groups ++ [st.group (st.rest.take (want * st.esz))]
        rest := st.rest.drop (want * st.esz)
        delivered := st.delivered + want
        ended := st.bound ≠ 0 && st.bound ≤ st.delivered + want } : StreamSt).fill k

/-- A chunk's bytes reach the register: the stream, and whether data beyond the bound was discarded (R145). -/
def StreamSt.accept (st : StreamSt) (bs : List Byte) : StreamSt × Bool :=
  let st := ({ st with rest := st.rest ++ bs } : StreamSt).fill 4
  if st.ended && !st.rest.isEmpty then ({ st with rest := [] }, true) else (st, false)

/-- The end-of-stream word ends the register: the elements that remain are its last group. Bytes short of an element are
dropped (assumption 49). -/
def StreamSt.finish (st : StreamSt) : StreamSt :=
  let n := st.rest.length / st.esz
  { st with
    groups := if n = 0 then st.groups else st.groups ++ [st.group (st.rest.take (n * st.esz))]
    delivered := st.delivered + n
    rest := []
    ended := true }

/-- A register begins a further stream: delivered count, END and OVER are reset (R186). -/
def Ctx.nextStream (c : Ctx) (j : StreamIx) (st : StreamSt) : Ctx :=
  { c.setStream j (some { st with delivered := 0, rest := [], ended := false }) with
    ovr := c.ovr &&& ~~~(1#8 <<< j.val) }

/-- The entry of a tag. -/
def CoreSt.entryOf (k : CoreSt) (tag : BitVec 8) : Option (Fin 16 × TableEntry) := k.entries.find? fun e => e.2.tag = tag

/-- The message stream that an entry feeds. -/
def State.fed (s : State) (k : CoreId) (e : TableEntry) : Option StreamSt :=
  if e.attached then
    ((s.getCtx ⟨k, e.ctx⟩).streams.get e.reg).bind fun st => if st.src = .msg then some st else none
  else none

/-- A chunk, or an end-of-stream word, can be taken by its entry now. -/
def State.takes (s : State) (k : CoreId) (c : Chunk) : Option (Fin 16 × TableEntry × StreamSt) :=
  ((s.getCore k).entryOf c.tag).bind fun e =>
    (s.fed k e.2).bind fun st =>
      match e.2.busy with
      | some w =>
        if w = c.sender && (c.eos.isSome || decide (st.unconsumed < 16)) then some (e.1, e.2, st) else none
      | none => if e.2.pending.isNone && st.groups.isEmpty then some (e.1, e.2, st) else none

/-- The first arrival of a core that can be taken, of chunks or of end-of-stream words: its position. Those of one
sender for one tag keep their order. -/
def State.nextArrival (s : State) (k : CoreId) (eos : Bool) : Option (Nat × Chunk × Fin 16 × TableEntry × StreamSt) :=
  let box := if s.clRuns k.cl then (s.getCore k).inbox else []
  (List.range box.length).findSome? fun n =>
    box[n]?.bind fun c =>
      if c.eos.isSome == eos && !(box.take n).any fun q => q.sender = c.sender && q.tag = c.tag then
        (s.takes k c).map fun r => (n, c, r)
      else none

/-- An arrival is taken: it leaves the inbox, and a new stream begins at its register, whose delivered count, END and OVER
are reset only now (assumption 71). -/
def State.beginArrival (s : State) (k : CoreId) (n : Nat) (e : TableEntry) (st : StreamSt) : State :=
  let q := s.getCore k
  let s := s.setCore k { q with inbox := q.inbox.eraseIdx n }
  if e.busy.isSome then s else s.setCtx ⟨k, e.ctx⟩ ((s.getCtx ⟨k, e.ctx⟩).nextStream e.reg st)

/-- The stream of a register, after beginArrival. -/
def State.streamAt (s : State) (k : CoreId) (e : TableEntry) (st : StreamSt) : StreamSt :=
  ((s.getCtx ⟨k, e.ctx⟩).streams.get e.reg).getD st

/-- Replace an entry of a core's stream table. -/
def State.setEntry (s : State) (k : CoreId) (ix : Fin 16) (e : Option TableEntry) : State :=
  s.setCore k { s.getCore k with table := (s.getCore k).table.set ix.val e }

/-- A chunk arrives at its register (R186). -/
def execStreamChunkArrival (k : CoreId) (s : State) : Out :=
  match s.nextArrival k false with
  | none => disabled "STREAM_CHUNK_ARRIVAL"
  | some (n, c, ix, e, st) =>
    let s := (s.beginArrival k n e st).setEntry k ix (some { e with busy := some c.sender })
    let (st, ovr) := (s.streamAt k e st).accept c.bytes
    let x := (s.getCtx ⟨k, e.ctx⟩).setStream e.reg (some st)
    .next (s.setCtx ⟨k, e.ctx⟩ (if ovr then { x with ovr := x.ovr ||| (1#8 <<< e.reg.val) } else x))

/-- The end-of-stream word arrives: the register ends, and a handler start is requested (R166, R186). -/
def execEndOfStream (k : CoreId) (s : State) : Out :=
  match s.nextArrival k true with
  | none => disabled "END_OF_STREAM"
  | some (n, c, ix, e, st) =>
    let s := s.beginArrival k n e st
    let st := (s.streamAt k e st).finish
    let s := s.setCtx ⟨k, e.ctx⟩ ((s.getCtx ⟨k, e.ctx⟩).setStream e.reg (some st))
    let q := s.getCore k
    let x1 := (c.eos.getD 0).setWidth 64 + (c.sender <<< 32)
    let s := s.setEntry k ix
      (some { e with busy := none, pending := some (x1, clOfBits c.sender.toNat), order := q.orders })
    .next ((s.setCore k { s.getCore k with orders := q.orders + 1 }).grantSlots k)

-- MBIND, MUNBIND (R185)

/-- The result of MBIND, and the entry it fills. -/
def State.bindEntry (s : State) (tag : BitVec 8) (j : StreamIx) : Except Int (Fin 16) :=
  let k := s.core
  match (List.finRange 16).find? fun n => (k.table.get n).isNone with
  | none => .error (-1)
  | some n =>
    if (k.entryOf tag).isSome then .error (-2)
    else
      let msg := match s.ctx.streams.get j with | some st => decide (st.src = .msg) | none => false
      let attached := k.entries.any fun e => e.2.ctx = s.cur.idx && e.2.reg = j && e.2.attached
      if !msg || attached then .error (-3) else .ok n

/-- MBIND. -/
def execMbind (d : XReg) (b : StreamIx) (a : XReg) (hi : Bool) (imm : BitVec 48) (s : State) : Out :=
  s.run (.mbind d b a hi imm) fun s =>
    let tag := (s.rx a).setWidth 8
    match s.bindEntry tag b with
    | .error e => .done (s.wx d (BitVec.ofInt 64 e))
    | .ok n =>
      let e : TableEntry :=
        ⟨tag, s.cur.idx, b, s.ctx.pc + imm.signExtend 64, hi, true, none, none, 0⟩
      .done ((s.setEntry s.cur.core n (some e)).wx d (word n.val))

/-- The entries of a context that satisfy a condition are released, with their pending starts. -/
def State.unbind (s : State) (c : CtxId) (f : TableEntry → Bool) : State :=
  let k := s.getCore c.core
  s.setCore c.core { k with table := k.table.map fun e => e.bind fun e => if e.ctx = c.idx && f e then none else some e }

/-- MUNBIND. -/
def execMunbind (a : XReg) (s : State) : Out :=
  s.run (.munbind a) fun s => .done (s.unbind s.cur fun e => e.tag = (s.rx a).setWidth 8)

end Sys2Proof.Machine
end

