-- ==== Sys2Proof/Machine/Cache.lean ====
section
/-!
DEFINITION. Bank modes and cached copies (08 R193-R196, R210; 09 R230-R232): BANKCFG and the end of a mode change, CINV,
DISC, the fills of load misses, page walks.
-/
namespace Sys2Proof.Machine

-- BANKCFG (R196, R230)

/-- The code of a mode (R230). -/
def modeCode : BankMode → Nat | .cache => 0 | .scratch => 1 | .fifo => 2

/-- The scratchpad bytes of a bank of a cluster: first and one past the last. -/
def bankRange (c : ClusterId) (b : Fin 16) : Nat × Nat := (scrKey c (b.val * 2 ^ 18), scrKey c (b.val * 2 ^ 18) + 2 ^ 18)

/-- A bank of a cluster is zeroed, and every word of it is empty. -/
def State.zeroBank (s : State) (c : ClusterId) (b : Fin 16) : State :=
  let (lo, hi) := bankRange c b
  { s with mem := { s.mem with
      sram := s.mem.sram.filter fun q => !(decide (lo ≤ q.1) && decide (q.1 < hi))
      full := s.mem.full.filter fun w => !(decide (lo ≤ 8 * w) && decide (8 * w < hi)) } }

/-- Steps 1 and 2 of R196: nothing new enters the bank, and what it holds leaves. -/
def State.startChange (s : State) (c : ClusterId) (b : Fin 16) (mode : BankMode) : State :=
  let (lo, hi) := bankRange c b
  let k := s.getCl c
  let s := s.setCl c { k with
    changing := k.changing ++ [⟨b, mode⟩]
    ways := k.ways.filter fun w => w.bank ≠ b.val
    feWaits := k.feWaits.filter fun q => q.answer.isSome || !(decide (lo ≤ 8 * q.word) && decide (8 * q.word < hi)) }
  { s with mem := s.mem.recallAll fun p => p.cl = c && p.bank = b.val }

/-- BANKCFG. -/
def execBankcfg (mode : BankMode) (d a : XReg) (s : State) : Out :=
  s.run (.bankcfg mode d a) fun s =>
    let k := s.getCl s.cl
    if bankStarted ≤ s.ctx.pos then
      if k.changing.isEmpty then .done (s.wx d (word (s.ctx.pos - bankStarted))) else .wait s
    else if 15 < (s.rx a).toNat then .done (s.wx d (BitVec.allOnes 64))
    else if !k.changing.isEmpty then .wait s
    else
      let b := Fin.ofNat 16 (s.rx a).toNat
      let prev := modeCode (k.modes.get b)
      if b = 15 ∨ k.modes.get b = mode then .done (s.wx d (word prev))
      else
        let s := s.startChange s.cl b mode
        let s := s.started (.bankcfg mode d a)
        .wait { s with ctx := { s.ctx with pos := bankStarted + prev } }

/-- A bank finishes its mode change, once the accesses to it that were issued before are performed: one that leaves FIFO
once it holds no chunk (R196, assumption 70). -/
def execBankZeroingDone (cl : ClusterId) (bank : Fin 16) (s : State) : Out :=
  let k := s.getCl cl
  match k.changing.find? fun x => x.bank = bank with
  | none => disabled "BANK_ZEROING_DONE"
  | some x =>
    if k.modes.get bank = .fifo ∧ k.fifoRoom (some bank) < s.heldIn cl then disabled "BANK_ZEROING_DONE"
    else if s.awaits (.scr (bankRange cl bank).1) (2 ^ 18) then disabled "BANK_ZEROING_DONE"
    else
      let s := s.setCl cl { k with
        modes := k.modes.set bank.val x.mode
        changing := k.changing.filter fun y => y.bank ≠ bank }
      .next (s.zeroBank cl bank)

-- CINV (R231)

/-- The copies of a line in a cluster go. -/
def State.dropLine (s : State) (c : ClusterId) (line : Nat) : State :=
  s.setCl c { s.getCl c with ways := (s.getCl c).ways.filter fun w => w.line ≠ line }

/-- CINV: nothing happens for an address that does not translate; permissions are not asked (assumption 64). -/
def State.cinv (s : State) (ea : Word) : State :=
  if !canonical ea then s
  else match s.walk s.partNo ea.toNat with
    | .fault .. => s
    | .page p _ => if leafTier p.e = 2 then s else (s.noteAccess ea).dropLine s.cl (lineOf (p.pa ea.toNat))

/-- CINV. -/
def execCinv (m : MemOp) (s : State) : Out := s.run (.cinv m) fun s => .done (s.cinv (memEa m s.ctx))

/-- CINV.all. -/
def execCinvAll (s : State) : Out := s.run .cinvAll fun s => .done (s.dropWays s.cl)

-- DISC (R232)

/-- The L2 copy of a line is dropped without write-back: it then holds one of the contents that memory below may hold,
or what L2 held if that had been written back. -/
def State.dropL2 (s : State) (line : Nat) : State :=
  let now := cellsRead s.mem.home (128 * line) 128
  let old := Map.getD s.mem.dirty line []
  let (n, s) := s.pick (old.length + 1)
  let bs := old.getD n now
  let m := (s.mem.shootDown (128 * line) bs).put (128 * line) bs
  { s with mem := { m with
      l2 := m.l2.filter (· ≠ line)
      dirty := Map.del m.dirty line } }

/-- DISC. -/
def execDisc (m : MemOp) (s : State) : Out :=
  s.run (.disc m) fun s =>
    let ea := memEa m s.ctx
    if s.vecMemBusy then .wait s
    else if isMesh ea then .trap ⟨.protect, ea, 0⟩
    else if !canonical ea then .trap ⟨.notPresent, ea, 0⟩
    else (Chk.of (s.xlate s.partNo s.ctx.super .store ea)).res s fun p =>
      let line := lineOf (p.pa ea.toNat)
      (s.raceCheck p ea (128 * line) 128 .store).res s fun _ =>
        let s := s.noteAccess ea
        let s := { s with mem := s.mem.recall line }
        .done (((s.dropL2 line).dropLine s.cl line).note p (128 * line) 128 .store)

-- Fills and walks (R195, R210)

/-- The oldest requested line of a cluster arrives, with the home's bytes of that moment: it is allocated in a bank that
is in CACHE mode, and only delivered otherwise. The request itself went through the home's slice when it was made. -/
def execCacheFill (cl : ClusterId) (bank : Fin 16) (s : State) : Out :=
  match (s.getCl cl).fills with
  | [] => disabled "CACHE_FILL"
  | line :: rest =>
    let s := s.setCl cl { s.getCl cl with fills := rest }
    if !(s.getCl cl).cacheBanks.contains bank || ((s.getCl cl).wayOf line).isSome then .next s
    else
      let s := s.evict cl line bank
      let m := s.mem.recall line
      let bs := cellsRead m.home (128 * line) 128
      let k := s.getCl cl
      .next (State.setCl { s with mem := m } cl { k with ways := k.ways ++ [⟨line, bank.val, bs⟩] })

/-- A page walk in progress completes: its page is in the TLBs of every cluster whose miss has joined it, and of their
dies. A fault has trapped in each of these accesses (R210). -/
def execPageWalk (part : Nat) (va : BitVec 64) (s : State) : Out :=
  match s.mem.walks.find? fun w => w.part = part && w.path = (s.walk part va.toNat).path with
  | none => disabled "PAGE_WALK"
  | some w => .next { s with mem := s.mem.endWalk w }

end Sys2Proof.Machine
end

