-- ==== Sys2Proof/Machine/Conv.lean ====
section
/-!
DEFINITION. Conversations (07 R187-R192): weaves, the conversation table, CVOPEN, CVJOIN, CVSEND, CVCHOOSE, CVDELEG,
CVLEAVE, CVSTAT, and the delivery of messages that the table holds.
-/
namespace Sys2Proof.Machine

-- Weaves (R187)

/-- A weave from its header, transitions apart; none when the header is invalid. The number says how many follow. -/
def weaveHeader (h : List Byte) : Option (Weave × Nat) :=
  let ns := recNat h 2 1
  let nr := recNat h 3 1
  let nk := recNat h 4 1
  let nt := recNat h 6 2
  let choice := recNat h 8 4
  if recNat h 0 2 = 1 ∧ 1 ≤ ns ∧ ns ≤ 64 ∧ 1 ≤ nr ∧ nr ≤ 8 ∧ 1 ≤ nk ∧ nk ≤ 32 ∧ 1 ≤ nt ∧ nt ≤ 4096
      ∧ recZero h 5 1 = true ∧ recZero h 12 52 = true ∧ choice / 2 ^ nk = 0 then
    some (⟨ns, nr, nk, choice, []⟩, nt)
  else none

/-- A transition from its word; none when it is invalid in the weave. -/
def weaveTrans (w : Weave) (v : Nat) : Option Trans :=
  let t : Trans := ⟨bits v 0 6, bits v 6 3, bits v 9 5, bits v 14 6, bits v 20 3⟩
  if v / 2 ^ 23 = 0 ∧ t.state < w.nstates ∧ t.next < w.nstates ∧ t.srole < w.nroles ∧ t.rrole < w.nroles
      ∧ t.kind < w.nkinds then some t else none

/-- The transition of a state, role and kind. -/
def findTrans (ts : List Trans) (state role kind : Nat) : Option Trans :=
  ts.find? fun t => t.state = state && t.srole = role && t.kind = kind

/-- The transitions of a weave, in order; none when one is invalid, or two share state, role and kind. -/
def weaveBody (w : Weave) : List Byte → Nat → List Trans → Option Weave
  | _, 0, ts => some { w with trans := ts }
  | bs, n + 1, ts =>
    (weaveTrans w (recNat bs 0 4)).bind fun t =>
      if (findTrans ts t.state t.srole t.kind).isSome then none else weaveBody w (bs.drop 4) n (ts ++ [t])

/-- A state is final: no transition leaves it. -/
def Weave.final (w : Weave) (state : Nat) : Bool := !w.trans.any fun t => t.state = state

/-- Kind k is a CHOICE. -/
def Weave.isChoice (w : Weave) (k : Nat) : Bool := bit w.choice k

-- The table (R188)

/-- A conversation that exists for a partition. -/
def State.conv? (s : State) (p : Option Nat) (id : Nat) : Option Conv :=
  (Map.get? s.pkg.convs id).bind fun c => if some c.part = p && !c.gone then some c else none

/-- Replace a conversation. -/
def State.setConv (s : State) (id : Nat) (c : Conv) : State :=
  { s with pkg := { s.pkg with convs := Map.put s.pkg.convs id c } }

/-- Conversations that a partition holds. -/
def State.convCount (s : State) (p : Nat) : Nat :=
  (s.pkg.convs.filter fun c => c.2.part = p && !c.2.gone).length

/-- Conversation ids. -/
def convIds : Nat := 65536

/-- The first id from a number on that is free; the first argument bounds the search. -/
def freeConv (used : List Nat) : Nat → Nat → Nat
  | 0, n => n
  | k + 1, n => if used.contains n then freeConv used k ((n + 1) % convIds) else n

/-- A new conversation of a partition, in state 0, at an id of the table's choice (assumption 5); none when the
partition's allotment is exhausted. -/
def State.openConv (s : State) (p : Nat) (w : Weave) : Option (State × Nat) :=
  let used := Map.keys s.pkg.convs
  let allot := match s.part? p with | some v => v.cfg.convs | none => 0
  if allot ≤ s.convCount p || convIds ≤ used.length then none
  else
    let (n, s) := s.pick convIds
    let id := freeConv used used.length n
    some (s.setConv id ⟨p, w, 0, 0, Vector.replicate 8 none, [], [], false⟩, id)

/-- A CONV trap (R188): subcode, and conversation id. -/
def convTrap (c : Cause) (id : Nat) : Trap := ⟨c, 0, word id⟩

/-- The endpoint of the issuing context. -/
def State.myRole (s : State) (hi : Bool) : RoleMap := ⟨s.cur, hi⟩

/-- The endpoint that a role's recorded delegation names. -/
def Conv.pendingOf (c : Conv) (role : Nat) : Option RoleMap := Map.get? c.delegs role
/-- The endpoint that a role maps to. -/
def Conv.mapOf (c : Conv) (role : Nat) : Option RoleMap := (c.roles[role]?).join
/-- A role is bound: mapped, or pending-mapped (R192). -/
def Conv.bound (c : Conv) (role : Nat) : Bool := (c.mapOf role).isSome || (c.pendingOf role).isSome
/-- Map a role. -/
def Conv.setRole (c : Conv) (role : Nat) (e : Option RoleMap) : Conv :=
  { c with roles := Vector.ofFn fun i => if i.val = role then e else c.roles.get i }
/-- Apply the recorded delegations (R191). -/
def Conv.applyDelegs (c : Conv) : Conv :=
  { c with
    roles := Vector.ofFn fun i => match c.pendingOf i.val with | some e => some e | none => c.roles.get i
    delegs := [] }
/-- An endpoint's context is one. -/
def isCtx (c : CtxId) : Option RoleMap → Bool
  | some e => e.ctx = c
  | none => false

-- cv registers (R188)

/-- A cv register. -/
def cvWord (hi : Bool) (role id : Nat) : Word := word (2 ^ 63 + hi.toNat * 2 ^ 19 + role * 2 ^ 16 + id)
/-- VALID. -/
def cvValid (v : Word) : Bool := v.getLsbD 63
/-- ROLE. -/
def cvRole (v : Word) : Nat := bits v.toNat 16 3
/-- CONV. -/
def cvConv (v : Word) : Nat := bits v.toNat 0 16
/-- Read a cv register of the issuing context. -/
def State.cv (s : State) (r : CvReg) : Word := s.ctx.cv.get r
/-- Write a cv register. -/
def State.setCv (s : State) (r : CvReg) (v : Word) : State := { s with ctx := { s.ctx with cv := s.ctx.cv.set r.val v } }

-- CVOPEN, CVJOIN (R189)

/-- The weave at an address: its alignment first, then the checks of a load; the state after the reads, and the weave if it
is valid. The transitions of an invalid header are not read (assumption 63). -/
def State.readWeave (s : State) (ea : Word) : Chk (State × Option Weave) :=
  (need (aligned ea 64) ⟨.align, ea, 0⟩).bind fun _ =>
  (s.loadRecord ea 64 64).bind fun h =>
    match weaveHeader h.2 with
    | none => .ok (h.1, none)
    | some (w, n) =>
      (h.1.loadRecord (ea + 64) (4 * n) 4).bind fun b => .ok (b.1, weaveBody w b.2 n [])

/-- CVOPEN. -/
def execCvopen (d a : XReg) (s : State) : Out :=
  s.run (.cvopen d a) fun s =>
    if s.vecMemBusy then .wait s
    else (s.readWeave (s.rx a)).res s fun r =>
      match r.2 with
      | none => .done (r.1.wx d (BitVec.ofInt 64 (-2)))
      | some w =>
        match r.1.openConv s.partNo w with
        | none => .done (r.1.wx d (BitVec.ofInt 64 (-1)))
        | some (s', id) => .done (s'.wx d (word id))

/-- A role is joined by an endpoint (R189): it is unbound, or mapped or pending-mapped to the same context. -/
def Conv.join (c : Conv) (role : Nat) (e : RoleMap) : Option Conv :=
  let mapped := isCtx e.ctx (c.mapOf role)
  let pending := isCtx e.ctx (c.pendingOf role)
  if !c.bound role then some (c.setRole role (some e))
  else if !mapped && !pending then none
  else
    let c := if mapped then c.setRole role (some e) else c
    some (if pending then { c with delegs := Map.put c.delegs role e } else c)

/-- CVJOIN. -/
def execCvjoin (d : CvReg) (a b : XReg) (hi : Bool) (s : State) : Out :=
  s.run (.cvjoin d a b hi) fun s =>
    let id := (s.rx a).toNat
    let role := (s.rx b).toNat
    match s.conv? s.part id with
    | none => .trap (convTrap .noConv id)
    | some c =>
      if c.weave.nroles ≤ role then .trap (convTrap .noRole id)
      else match c.join role (s.myRole hi) with
        | none => .trap (convTrap .bound id)
        | some c => .done ((s.setConv id c).setCv d (cvWord hi role id))

-- Deliveries (R190)

/-- The table delivers a message of the issuing context to an endpoint, or holds it: messages to one endpoint keep their
order, and those of one context to one mailbox do (R180, R190). What is held goes to the mailbox that PRIO selects now,
whatever a later CVJOIN asks for (assumption 52). -/
def State.deliverConv (s : State) (id : Nat) (e : RoleMap) (m : Message) : State :=
  match Map.get? s.pkg.convs id with
  | none => s
  | some c =>
    let k := e.ctx.core
    if s.mailRoom k e.hi && !(c.held.any fun h => h.dst = k && h.msg.ctx = e.ctx.idx)
        && s.mayGo s.cur k e.hi s.arrivals then s.mailIn k e.hi m
    else
      State.setConv { s with arrivals := s.arrivals + 1 } id
        { c with held := c.held ++ [⟨k, e.hi, m, s.cur, s.arrivals⟩] }

/-- The n-th message that the table holds is delivered (R190); an entry kept only for these goes with the last. -/
def execConvHeldDelivery (conv n : Nat) (s : State) : Out :=
  match Map.get? s.pkg.convs conv with
  | none => disabled "CONV_HELD_DELIVERY"
  | some c =>
    match c.held[n]? with
    | none => disabled "CONV_HELD_DELIVERY"
    | some h =>
      if !s.mailRoom h.dst h.hi || !s.clRuns h.dst.cl || !s.mayGo h.sender h.dst h.hi h.order ||
          (c.held.take n).any fun q => q.dst = h.dst && q.msg.ctx = h.msg.ctx then
        disabled "CONV_HELD_DELIVERY"
      else
        let s := s.mailIn h.dst h.hi h.msg
        let c := { c with held := c.held.eraseIdx n }
        .next (if c.gone && c.held.isEmpty then { s with pkg := { s.pkg with convs := Map.del s.pkg.convs conv } }
          else s.setConv conv c)

/-- The header of a conversation message (Table 7.5). -/
def convHeader (seq : BitVec 32) (role kind id len : Nat) : Word :=
  word (seq.toNat % 2 ^ 24 * 2 ^ 40 + role * 2 ^ 37 + kind * 2 ^ 32 + id * 2 ^ 16 + 2 ^ 10 + len)

/-- The conversation of a cv register, VALID checked: TRAPINFO is 0 where it is not VALID, even if a CVDELEG has left CONV
in it (assumption 52). -/
def State.convOfCv (s : State) (r : CvReg) : Chk (Nat × Conv) :=
  if !cvValid (s.cv r) then .trap (convTrap .notBound 0)
  else match s.conv? s.part (cvConv (s.cv r)) with
    | none => .trap (convTrap .noConv (cvConv (s.cv r)))
    | some c => .ok (cvConv (s.cv r), c)

/-- TRAPINFO of TURN (R190). -/
def turnTrap (c : Conv) (id role : Nat) (kind : Word) : Trap :=
  ⟨.turn, 0, word (c.state + role * 2 ^ 8 + kind.toNat % 2 ^ 5 * 2 ^ 16 + id * 2 ^ 32)⟩

/-- The checks of the table step of CVSEND and CVCHOOSE, delegations applied: the conversation as it stands then, the
transition, and the receiver. -/
def State.turn (s : State) (r : CvReg) (kind : Word) (choose : Bool) : Chk (Nat × Conv × Trans × RoleMap) :=
  (s.convOfCv r).bind fun (id, c) =>
    let c := c.applyDelegs
    let role := cvRole (s.cv r)
    if !isCtx s.cur (c.mapOf role) then .trap (convTrap .notBound id)
    else match findTrans c.weave.trans c.state role kind.toNat with
      | none => .trap (turnTrap c id role kind)
      | some t =>
        if c.weave.isChoice t.kind != choose then .trap (turnTrap c id role kind)
        else match c.mapOf t.rrole with
          | none => .trap (convTrap .unbound id)
          | some e => .ok (id, c, t, e)

/-- The table step: the state advances, the message is delivered, and a choice is notified to the other roles. -/
def State.advanceConv (s : State) (id : Nat) (c : Conv) (t : Trans) (e : RoleMap) (choose : Bool) (payload : List Byte) :
    State :=
  let seq := c.seq + 1
  let s := s.setConv id { c with state := t.next, seq := seq }
  let msg := fun (e : RoleMap) (bs : List Byte) =>
    (⟨e.ctx.idx, convHeader seq t.srole t.kind id bs.length, bs, none⟩ : Message)
  let s := s.deliverConv id e (msg e payload)
  if choose then
    (List.range 8).foldl (fun s role =>
      match c.mapOf role with
      | some q => if role = t.rrole || role = t.srole then s else s.deliverConv id q (msg q [])
      | none => s) s
  else s

/-- CVSEND and CVCHOOSE: the payload is read, then the table step; a release at pkg. -/
def State.cvSend (s : State) (d : CvReg) (c a b : XReg) (choose : Bool) : Res :=
  if s.vecMemBusy then .wait s
  else (s.payload (s.rx a) (s.rx b)).res s fun p =>
    (s.turn d (s.rx c) choose).res s fun (id, cv, t, e) =>
      .done (p.1.advanceConv id cv t e choose p.2).endRegion

/-- CVSEND. -/
def execCvsend (d : CvReg) (c a b : XReg) (s : State) : Out :=
  s.run (.cvsend d c a b) fun s => s.cvSend d c a b false

/-- CVCHOOSE. -/
def execCvchoose (d : CvReg) (c a b : XReg) (s : State) : Out :=
  s.run (.cvchoose d c a b) fun s => s.cvSend d c a b true

/-- CVDELEG (R191): the endpoint is checked, then the cv register. Until the new holder's CVJOIN the endpoint's PRIO bit
is the binding's (assumption 52). -/
def execCvdeleg (a : CvReg) (b : XReg) (s : State) : Out :=
  s.run (.cvdeleg a b) fun s =>
    (s.msgEndpoint (s.rx b)).res s fun e =>
      (s.convOfCv a).res s fun (id, c) =>
        let role := cvRole (s.cv a)
        if isCtx s.cur (c.mapOf role) || isCtx s.cur (c.pendingOf role) then
          let s := s.setConv id { c with delegs := Map.put c.delegs role ⟨⟨e.core, e.ctx⟩, e.hi⟩ }
          .done (s.setCv a (s.cv a &&& ~~~(1#64 <<< 63)))
        else .trap (convTrap .notBound id)

/-- A context leaves a role (R192). The holder that a delegation is pending for unbinds the role; one that is only mapped
leaves a delegation pending. Of a context that is neither, no role leaves (assumption 52). -/
def Conv.leave (c : Conv) (role : Nat) (x : CtxId) : Option Conv :=
  if isCtx x (c.pendingOf role) then some { c.setRole role none with delegs := Map.del c.delegs role }
  else if isCtx x (c.mapOf role) then some (c.setRole role none)
  else none

/-- No role is bound. -/
def Conv.empty (c : Conv) : Bool := (List.range 8).all fun r => !c.bound r

/-- A conversation without a bound role is deleted, once what it holds is delivered. -/
def State.settleConv (s : State) (id : Nat) (c : Conv) : State :=
  if c.empty then
    if c.held.isEmpty then { s with pkg := { s.pkg with convs := Map.del s.pkg.convs id } }
    else s.setConv id { c with gone := true }
  else s.setConv id c

/-- CVLEAVE. A VALID register whose conversation is no more is cleared (assumption 52). -/
def execCvleave (a : CvReg) (s : State) : Out :=
  s.run (.cvleave a) fun s =>
    if !cvValid (s.cv a) then .trap (convTrap .notBound 0)
    else
      let id := cvConv (s.cv a)
      match s.conv? s.part id with
      | none => .done (s.setCv a 0)
      | some c =>
        let s := match c.leave (cvRole (s.cv a)) s.cur with | some c => s.settleConv id c | none => s
        .done (s.setCv a 0)

/-- CVSTAT's value (Table 7.8). -/
def State.cvStat (s : State) (r : CvReg) : Word :=
  if !cvValid (s.cv r) then 0
  else match s.conv? s.part (cvConv (s.cv r)) with
    | none => 0
    | some c =>
      let bound := (List.range 8).foldl (fun n j => n + (c.bound j).toNat * 2 ^ j) 0
      word (2 ^ 63 + cvConv (s.cv r) * 2 ^ 40 + c.seq.toNat % 2 ^ 24 * 2 ^ 16 + bound * 2 ^ 8
        + (c.weave.final c.state).toNat * 2 ^ 7 + c.state)

/-- CVSTAT. -/
def execCvstat (d : XReg) (a : CvReg) (s : State) : Out := s.run (.cvstat d a) fun s => .done (s.wx d (s.cvStat a))

end Sys2Proof.Machine
end

