-- ==== Sys2Proof/Machine/Counter.lean ====
section
/-!
DEFINITION. Counters and queue pairs (11 R250-R254, 15 R306, R324, R325): counters and the entries they fire, the sides
of an entry, QPPOST, QPCANCEL, the reads and the writes of a fired entry.
-/
namespace Sys2Proof.Machine

-- Ownership (R306)

/-- A number lies in a range: first and count. -/
def inRange (r : Nat × Nat) (n : Nat) : Bool := r.1 ≤ n && n < r.1 + r.2

/-- A range of a partition's configuration. -/
def State.rangeOf (s : State) (p : Nat) (f : PartCfg → Nat × Nat) : Nat × Nat :=
  match s.part? p with | some v => f v.cfg | none => (0, 0)

/-- The partition owns a counter. -/
def State.ownsCtr (s : State) (p n : Nat) : Bool := n < 65536 && inRange (s.rangeOf p PartCfg.ctrs) n
/-- The partition owns a queue pair. -/
def State.ownsQp (s : State) (p n : Nat) : Bool := n < 4096 && inRange (s.rangeOf p PartCfg.qps) n
/-- The partition owns a parameter node. -/
def State.ownsNode (s : State) (p n : Nat) : Bool :=
  n < 8 && (match s.part? p with | some v => v.cfg.nodes.getLsbD n | none => false)

/-- A number that the partition does not own (R306). -/
def notOwned (n : Nat) : Trap := ⟨.notPresent, 0, word n⟩

-- Counters (R250, R253)

/-- A counter. -/
def State.ctr (s : State) (n : Nat) : Word := Map.getD s.pkg.ctrs n 0

/-- The entries of a queue pair. -/
def State.qpList (s : State) (q : Nat) : List QpEntry := Map.getD s.pkg.qps q []
/-- Replace them. -/
def State.setQpList (s : State) (q : Nat) (l : List QpEntry) : State :=
  { s with pkg := { s.pkg with qps := Map.put s.pkg.qps q l } }

/-- Armed entries of a partition fire: it is not halted by a dump or a fault (R253). -/
def State.mayFire (s : State) (p : Nat) : Bool :=
  match s.part? p with
  | some v => !(v.state = .dumping || v.state = .dumped || v.state = .faulted)
  | none => false

/-- An entry fires on a counter that holds a value. -/
def QpEntry.reached (e : QpEntry) (n : Nat) (v : Word) : Bool :=
  match e.trig with | some t => decide (t.1 = n) && decide (t.2 ≤ v.toNat) | none => false

/-- An entry that fires at a cycle. -/
def QpEntry.fire (e : QpEntry) (cycle : Nat) : QpFired := ⟨e, none, [], cycle⟩

/-- Every armed entry that a counter has reached fires, and leaves its list (R253). -/
def State.fireAll (s : State) (n : Nat) : State :=
  let fires := fun (e : QpEntry) => e.reached n (s.ctr n) && s.mayFire e.part
  { s with pkg := { s.pkg with
      fired := s.pkg.fired ++ (s.pkg.qps.map fun q => (q.2.filter fires).map fun e => e.fire s.cycle).flatten
      qps := s.pkg.qps.map fun q => (q.1, q.2.filter fun e => !fires e) } }

/-- A counter is written. -/
def State.setCtr (s : State) (n : Nat) (v : Word) : State :=
  ({ s with pkg := { s.pkg with ctrs := Map.put s.pkg.ctrs n v } }).fireAll n

/-- A counter gains a value. -/
def State.addCtr (s : State) (n : Nat) (v : Word) : State := s.setCtr n (s.ctr n + v)

/-- A counter, if one is named, gains 1. -/
def State.bumpCtr (s : State) : Option Nat → State
  | some n => s.addCtr n 1
  | none => s

/-- CTRSET (R324): a release of scope sys. -/
def execCtrset (a b : XReg) (s : State) : Out :=
  s.run (.ctrset a b) fun s =>
    let n := (s.rx a).toNat
    if s.vecMemBusy then .wait s
    else if !s.ownsCtr s.partNo n then .trap (notOwned n)
    else .done (s.setCtr n (s.rx b)).endRegion

/-- CTRADD (R324): a release of scope sys. -/
def execCtradd (d a b : XReg) (s : State) : Out :=
  s.run (.ctradd d a b) fun s =>
    let n := (s.rx a).toNat
    if s.vecMemBusy then .wait s
    else if !s.ownsCtr s.partNo n then .trap (notOwned n)
    else .done ((s.addCtr n (s.rx b)).wx d (s.ctr n)).endRegion

/-- CTRWAIT (R324): an acquire of scope sys once the threshold is reached. -/
def execCtrwait (d a b : XReg) (s : State) : Out :=
  s.run (.ctrwait d a b) fun s =>
    let n := (s.rx a).toNat
    if !s.ownsCtr s.partNo n then .trap (notOwned n)
    else if (s.ctr n).toNat < (s.rx b).toNat then .wait s
    else .done ((s.acquire .sys).wx d (s.ctr n)).endRegion

-- Sides of an entry (R251)

/-- A piece of a side: a place, and its length. -/
abbrev SidePiece := Place × Nat

/-- PINNED (Table 8.5). -/
def Page.pinned (p : Page) : Bool := p.has 6

/-- A piece of a side of a partition's entry: mesh space passes R113 and R156, as seen from a cluster; a page is present
and PINNED. Only a firing entry meets a compressed page: QPPOST accesses nothing (R254, R325). The addresses that a firing
uses are absolute: one that QPPOST could not resolve lies in no cluster (R251, R325). The address alone says which space
a side is in, whatever DKIND is, and no R, W or SUP bit is asked (assumption 74). -/
def State.sidePiece (s : State) (p : Nat) (own : ClusterId) (firing : Bool) (a : Word) : Chk Place :=
  if isMesh a then
    if firing && a.getLsbD 55 then .trap ⟨.notPresent, a, 0⟩
    else (s.meshTarget (some p) own a).bind fun t => .ok (.scr (scrKey t.1 t.2))
  else if !canonical a then .trap ⟨.notPresent, a, 0⟩
  else match s.walk p a.toNat with
    | .fault l m _ => .trap (xlateTrap .notPresent a l m)
    | .page g _ =>
      if !g.pinned then .trap (xlateTrap .notPinned a g.level false)
      else if firing && leafTier g.e = 2 then .trap (xlateTrap .compressed a g.level false)
      else .ok (.glob (g.pa a.toNat))

/-- The pieces of a side, cut at 64 KiB. -/
def State.sidePieces (s : State) (p : Nat) (own : ClusterId) (firing : Bool) : List (Nat × Nat) → Chk (List SidePiece)
  | [] => .ok []
  | (a, n) :: rest =>
    (s.sidePiece p own firing (word a)).bind fun pl =>
      (s.sidePieces p own firing rest).bind fun ps => .ok ((pl, n) :: ps)

/-- Cut a range at 64 KiB, the smallest page; the first argument bounds the pieces. -/
def cut64 : Nat → Nat → Nat → List (Nat × Nat)
  | 0, _, _ => []
  | k + 1, a, n => if n = 0 then [] else
      let l := min n (2 ^ 16 - a % 2 ^ 16)
      (a, l) :: cut64 k (a + l) (n - l)

/-- The cluster that a base-die unit's addresses are seen from; they are absolute. -/
def baseCl : ClusterId := ⟨0, 0, 0⟩

/-- A side of n bytes of a firing entry, its address absolute. -/
def State.side (s : State) (p : Nat) (a : Word) (n : Nat) : Chk (List SidePiece) :=
  s.sidePieces p baseCl true (cut64 (n / 2 ^ 16 + 2) a.toNat n)

/-- The walks of a range are noted, for a cluster, or for a unit without a TLB. -/
def State.noteRange (s : State) (who : Option ClusterId) (p : Nat) (a : Word) (n : Nat) : State :=
  (cut64 (n / 2 ^ 16 + 2) a.toNat n).foldl (fun s q =>
    if canonical (word q.1) then { s with mem := s.mem.noteWalk who p q.1 (s.walk p q.1) } else s) s

/-- The physical ranges of n bytes of a partition's addresses that lie in CHECKED pages. -/
def State.checkedRanges (s : State) (p : Nat) (a : Word) (n : Nat) : List (Nat × Nat) :=
  (cut64 (n / 2 ^ 16 + 2) a.toNat n).filterMap fun q =>
    (s.pageAt p q.1).bind fun g => if g.checked then some (g.pa q.1, q.2) else none

/-- An agent's plain access of a range would race (9 R218). -/
def State.rangeRaces (s : State) (ag : Agent) (p : Nat) (a : Word) (n : Nat) (write : Bool) : Bool :=
  (s.checkedRanges p a n).any fun q => !(s.mem.racing ag q.1 q.2 write false).isEmpty

/-- An agent's plain access of a range on CHECKED pages is logged. -/
def State.noteChecked (s : State) (ag : Agent) (p : Nat) (a : Word) (n : Nat) (write : Bool) : State :=
  { s with mem := (s.checkedRanges p a n).foldl (fun m q => m.log ⟨ag, 0, q.1, q.2, write, false⟩) s.mem }

/-- What an agent has accessed no longer races: its region has ended. -/
def State.endAgent (s : State) (ag : Agent) : State :=
  { s with mem := { s.mem with accesses := s.mem.accesses.filter fun a => !a.agent.same ag } }

/-- Read the pieces of a side at their homes. -/
def State.readSide (s : State) : List SidePiece → State × List Byte
  | [] => (s, [])
  | (.scr k, n) :: rest =>
    let (s', bs) := s.readSide rest
    (s', cellsRead s.mem.sram k n ++ bs)
  | (.glob pa, n) :: rest =>
    let (s, b) := s.readHome pa n
    let (s, bs) := s.readSide rest
    (s, b ++ bs)

/-- Write the pieces of a side at their homes. -/
def State.writeSide (s : State) : List SidePiece → List Byte → State
  | [], _ => s
  | (.scr k, n) :: rest, bs =>
    ({ s with mem := { s.mem with sram := cellsWrite s.mem.sram k (bs.take n) } }).writeSide rest (bs.drop n)
  | (.glob pa, n) :: rest, bs => (s.writePhys pa (bs.take n)).writeSide rest (bs.drop n)

/-- The absolute form of a mesh-space address, resolved against a cluster (R251). Bits 40:22 stay; an address outside the
grid has no such form. -/
def State.absolute (s : State) (c : ClusterId) (a : Word) : Word :=
  if isMesh a && a.getLsbD 55 then
    match meshCluster s.pkg.grade c a with
    | some t => meshAbs t (meshOff a) + word (bits a.toNat 22 19 * 2 ^ 22)
    | none => a
  else a

-- Entries (Table 11.8)

/-- Bits of a source element; none for a code that is no format. -/
def elemWidth (reduce : Bool) (dkind fmt : Nat) : Option Nat :=
  if !reduce then some 8
  else match Fmt.ofCode? fmt with
    | some .exa => some (if dkind = 3 then 512 else 32)
    | some f => some (Fmt.bits f)
    | none => none

/-- Bytes of a source element of a format that R252 admits. -/
def elemSize (reduce : Bool) (dkind fmt : Nat) : Nat := (elemWidth reduce dkind fmt).getD 8 / 8

/-- FMT and REDOP are ones that WRITE_REDUCE admits (R252). A parameter node only adds: its entries take REDOP 0
(assumption 74). -/
def reduceOk (dkind fmt redop : Nat) : Bool :=
  if dkind = 3 then (fmt = 0x0A || fmt = 0x30) && redop = 0
  else match Fmt.ofCode? fmt with
    | some .int32 | some .int64 => redop ≤ 7
    | some .fp32 | some .bf16 => redop = 0 || redop = 4 || redop = 5
    | some .exa => redop = 0
    | _ => false

/-- An entry from its record. -/
def entryOf (r : List Byte) (qp pos seq part : Nat) (addr : Word) : QpEntry where
  qp := qp
  pos := pos
  seq := seq
  part := part
  addr := addr
  src := recWord r 0
  dst := recWord r 8
  len := recNat r 16 4
  trig := if bit (recNat r 39 1) 0 then some (recNat r 20 2, recNat r 24 8) else none
  lctr := if bit (recNat r 39 1) 1 then some (recNat r 22 2) else none
  rctr := if bit (recNat r 39 1) 2 then some (recNat r 32 2) else none
  module := recNat r 34 2
  reduce := bits (recNat r 36 1) 0 4 = 1
  dkind := bits (recNat r 36 1) 4 4
  redop := recNat r 37 1
  fmt := bits (recNat r 38 1) 0 6
  step := recNat r 40 4
  block := recNat r 44 2
  contrib := recNat r 46 1
  node := recNat r 47 1
  wq := none

/-- The lowest byte of a list that is not zero, with an offset; none when all are. -/
def firstNonzero : Nat → List Byte → Option Nat
  | _, [] => none
  | o, b :: bs => if b = 0 then firstNonzero (o + 1) bs else some o

/-- The first condition that holds of a list of conditions, each with the byte that it names. -/
def firstBad : List (Bool × Nat) → Option Nat
  | [] => none
  | (b, o) :: rest => if b then some o else firstBad rest

/-- Check 1 of QPPOST (R325): the offending byte of the record. It asks for NODE and MODULE zero of DKIND 0 and 1 alone
(assumption 74). -/
def entryBad (r : List Byte) : Option Nat :=
  let op := bits (recNat r 36 1) 0 4
  let dk := bits (recNat r 36 1) 4 4
  let fmt := bits (recNat r 38 1) 0 6
  let redop := recNat r 37 1
  let len := recNat r 16 4
  let ew := elemWidth (op = 1) dk fmt
  match firstNonzero 38 [BitVec.ofNat 8 (recNat r 38 1 / 64), BitVec.ofNat 8 (recNat r 39 1 / 8)] with
  | some o => some o
  | none =>
    match firstNonzero 48 ((r.drop 48).take 16) with
    | some o => some o
    | none => firstBad [
        (1 < op, 36), (3 < dk, 36),
        (len = 0 || (match ew with | some n => len * 8 % n ≠ 0 | none => false), 16),
        (op = 1 && !reduceOk dk fmt redop, 36),
        (dk = 3 && (recNat r 8 8 ≠ 0 || (fmt ≠ 0x0A && fmt ≠ 0x30)), 36),
        (dk ≤ 1 && (recNat r 34 2 ≠ 0 || !recZero r 40 8), 36),
        (op = 0 && (redop ≠ 0 || fmt ≠ 0), 36),
        (op = 0 && dk = 3, 36)]

/-- ILLEGAL FORMAT at a byte of a record (R237, R325). -/
def formatTrap (i : Instr) (base : Word) (o : Nat) : Trap := ⟨.illegal .format, base + word o, instrBits i⟩

/-- Bytes that an entry writes. -/
def QpEntry.dlen (e : QpEntry) : Nat := if e.reduce && e.fmt = 0x30 then e.len / 4 * 64 else e.len

/-- The destination lies in this module's memory. -/
def QpEntry.localSide (e : QpEntry) : Bool := e.dkind ≤ 1

/-- Check 2 of QPPOST: the number that the partition does not own. -/
def State.entryForeign (s : State) (p : Nat) (e : QpEntry) : Option Nat :=
  match e.trig.bind fun t => if s.ownsCtr p t.1 then none else some t.1 with
  | some n => some n
  | none =>
    match e.lctr.bind fun n => if s.ownsCtr p n then none else some n with
    | some n => some n
    | none => if e.dkind = 3 && e.module = 0xFFFF && !s.ownsNode p e.node then some e.node else none

/-- Check 3 of QPPOST: the local sides, as the record gives them, seen from the posting cluster. -/
def State.entrySides (s : State) (e : QpEntry) : Chk Unit :=
  let side := fun (a : Word) (n : Nat) => s.sidePieces e.part s.cl false (cut64 (n / 2 ^ 16 + 2) a.toNat n)
  (side e.src e.len).bind fun _ => if e.localSide then (side e.dst e.dlen).bind fun _ => .ok () else .ok ()

/-- The first free position of a send list of 256. -/
def freePos (l : List QpEntry) : Option Nat := (List.range 256).find? fun n => !l.any fun e => e.pos = n

/-- The handle of an entry (R325). -/
def QpEntry.handle (e : QpEntry) : Word := word (e.pos + e.seq % 2 ^ 56 * 2 ^ 8)

/-- An entry is posted: it fires at once without a trigger, or when its counter holds the threshold already (R253). -/
def State.post (s : State) (e : QpEntry) : State :=
  let s := { s with pkg := { s.pkg with qpSeq := Map.put s.pkg.qpSeq e.qp (e.seq + 1) } }
  let now := match e.trig with | none => true | some t => decide (t.2 ≤ (s.ctr t.1).toNat)
  if now then { s with pkg := { s.pkg with fired := s.pkg.fired ++ [e.fire s.cycle] } }
  else s.setQpList e.qp (s.qpList e.qp ++ [e])

/-- QPPOST (R325): a release of scope sys toward the firing. -/
def execQppost (d a b : XReg) (s : State) : Out :=
  s.run (.qppost d a b) fun s =>
    let q := (s.rx a).toNat
    let at' := s.rx b
    if s.vecMemBusy then .wait s
    else if !s.ownsQp s.partNo q then .trap (notOwned q)
    else (s.loadRecord at' 64 64).res s fun r =>
      match entryBad r.2 with
      | some o => .trap (formatTrap (.qppost d a b) at' o)
      | none =>
        let e := entryOf r.2 q 0 (Map.getD s.pkg.qpSeq q 0) s.partNo at'
        match s.entryForeign s.partNo e with
        | some n => .trap (notOwned n)
        | none =>
          (s.entrySides e).res s fun _ =>
            match freePos (s.qpList q) with
            | none => .done (r.1.wx d (BitVec.allOnes 64)).endRegion
            | some n =>
              let e := { e with pos := n, src := s.absolute s.cl e.src, dst := s.absolute s.cl e.dst }
              .done ((r.1.post e).wx d e.handle).endRegion

/-- QPCANCEL (R325). -/
def execQpcancel (d a b : XReg) (s : State) : Out :=
  s.run (.qpcancel d a b) fun s =>
    let q := (s.rx a).toNat
    if !s.ownsQp s.partNo q then .trap (notOwned q)
    else if (s.qpList q).any fun e => e.handle = s.rx b then
      .done ((s.setQpList q ((s.qpList q).filter fun e => e.handle ≠ s.rx b)).wx d 1)
    else .done (s.wx d 0)

-- Fired entries (R252, R254)

/-- Drop the n-th fired entry. -/
def State.dropFired (s : State) (n : Nat) : State := { s with pkg := { s.pkg with fired := s.pkg.fired.eraseIdx n } }

/-- Queue-pair engines (R251). -/
def qpEngines : Nat := 16

/-- The engine that serves an entry: of the base die's choice (assumption 5). -/
def QpEntry.engine (e : QpEntry) : Nat :=
  Config.qpEngine (match e.wq with | some q => 4096 + q.1 | none => e.qp) % qpEngines

/-- An entry as an agent of races (Table 9.1, assumption 54). -/
def QpEntry.agent (e : QpEntry) : Agent :=
  .job 6 e.engine (match e.wq with | some q => 2 ^ 128 + q.1 * 2 ^ 64 + q.2 | none => e.qp * 2 ^ 64 + e.seq)

/-- The record of an entry that failed (R254, Table 18.5). -/
def State.qpFault (s : State) (e : QpEntry) : State :=
  s.logFault e.part { kind := .qpair, wher := e.engine, addr := e.addr.toNat,
                      detail := leBytes 2 e.qp ++ List.replicate 6 0 ++ wordBytes e.handle }

/-- The completion record of a COPY entry of a work queue (R365). -/
def State.entryRecord (s : State) (e : QpEntry) (status : Word) : State :=
  match e.wq with
  | some (q, n) => s.pushRecord q status (word n)
  | none => s

/-- The status word of a COPY entry that has been performed (20 R365). -/
def copyDone : Word := 1
/-- The status word of a COPY entry whose pages were no longer present: ADDRESS. -/
def copyFailed : Word := rejectWord 0x22 0

/-- The n-th fired entry fails: nothing is written, neither counter changes (R254). -/
def State.failEntry (s : State) (n : Nat) (e : QpEntry) : State :=
  let s := s.dropFired n
  match e.wq with
  | some _ => s.entryRecord e copyFailed
  | none => s.qpFault e

/-- An entry with a mesh-space side waits while its partition is not RUNNING (18 R341). -/
def State.entryHeld (s : State) (e : QpEntry) : Bool :=
  (isMesh e.src || ((e.localSide || (e.dkind = 2 && e.module = 0xFFFF)) && isMesh e.dst)) && !s.running e.part

/-- The counter and the node of the destination belong to the partition (R251). -/
def State.entryOwned (s : State) (e : QpEntry) : Bool :=
  (match e.rctr with | some n => s.ownsCtr e.part n | none => true) && (e.dkind ≠ 3 || s.ownsNode e.part e.node)

/-- The destination check at this module: the pieces written. -/
def State.destination (s : State) (e : QpEntry) : Chk (List SidePiece) :=
  if !s.entryOwned e then .trap ⟨.notPresent, e.dst, 0⟩
  else if e.dkind = 3 then .ok [] else s.side e.part e.dst e.dlen

/-- A peer of the peer table: an index beyond it names an absent one (20 R360). -/
def State.peer? (s : State) (n : Nat) : Option (List Byte) := s.pkg.peers[n]?

/-- A partition sends something to a peer. -/
def State.sendPeer (s : State) (part peer : Nat) (m : PeerMsg) : State :=
  { s with pkg := { s.pkg with outbox := s.pkg.outbox ++ [m], sent := s.pkg.sent ++ [(part, peer, s.cycle)] } }

/-- The entry writes in this module. -/
def QpEntry.here (e : QpEntry) : Bool := e.dkind ≤ 1 || e.module = 0xFFFF

/-- A fired entry has places of this module to write to. -/
def QpEntry.writesHere (e : QpEntry) : Bool := e.here && e.dkind ≠ 3

/-- A source read of a fired entry races on a CHECKED page (9 R218, assumption 54). -/
def State.entryRaces (s : State) (e : QpEntry) : Bool := s.rangeRaces e.agent e.part e.src e.len false

/-- A write of a fired entry in this module races, as it is performed. -/
def State.writeRaces (s : State) (e : QpEntry) : Bool :=
  e.writesHere && s.rangeRaces e.agent e.part e.dst e.dlen true

/-- The source reads of a fired entry on CHECKED pages are logged: its region is open until it is done. -/
def State.noteEntry (s : State) (e : QpEntry) : State := s.noteChecked e.agent e.part e.src e.len false

/-- The source of the n-th fired entry is read, its destination checked, and LCTR gains 1. An entry for a peer leaves
with its data: whether its destination check passes there is the peer's (assumption 5). -/
def State.readEntry (s : State) (n : Nat) (f : QpFired) (src dst : List SidePiece) : State :=
  let e := f.entry
  let (s, bs) := (s.noteRange none e.part e.src e.len).readSide src
  if e.here then
    (({ s with pkg := { s.pkg with
      fired := s.pkg.fired.set n { f with data := some bs, dest := dst } } }).noteEntry e).bumpCtr e.lctr
  else match s.peer? e.module with
    | none => s.failEntry n e
    | some _ =>
      let s := s.sendPeer e.part e.module (.write e.module e bs)
      let (ok, s) := s.flip
      if ok then (s.dropFired n).bumpCtr e.lctr else s.failEntry n e

/-- An entry of the same queue pair that fired in the same cycle, and was posted before this one, has not started
(R253). -/
def State.startsLater (s : State) (f : QpFired) : Bool :=
  f.entry.wq.isNone && s.pkg.fired.any fun g =>
    g.entry.wq.isNone && g.entry.qp = f.entry.qp && g.cycle = f.cycle && g.entry.seq < f.entry.seq && g.data.isNone
      && !s.entryHeld g.entry

/-- The checks of a fired entry: its source, and its destination where it writes in this module. -/
def State.entryChecks (s : State) (e : QpEntry) : Chk (List SidePiece × List SidePiece) :=
  (s.side e.part e.src e.len).bind fun src =>
    if e.here then (s.destination e).bind fun dst => .ok (src, dst) else .ok (src, [])

/-- QP_SOURCE_READS_DONE: `unit` is the position of the fired entry. -/
def execQpSourceReadsDone (s : State) : Out :=
  match s.pkg.fired[s.unit]? with
  | none => disabled "QP_SOURCE_READS_DONE"
  | some f =>
    if f.data.isSome || !s.mayFire f.entry.part || s.entryHeld f.entry || s.startsLater f then
      disabled "QP_SOURCE_READS_DONE"
    else match s.entryChecks f.entry with
      | .hold => disabled "QP_SOURCE_READS_DONE"
      | .trap _ => .next (s.failEntry s.unit f.entry)
      | .ok (src, dst) =>
        .next (if s.entryRaces f.entry then s.failEntry s.unit f.entry else s.readEntry s.unit f src dst)

/-- One element of a WRITE_REDUCE (R252): FP32 and BF16 round under RNE and raise no flag. -/
def reduceElem (fmt redop old src : Nat) : Nat :=
  match Fmt.ofCode? fmt with
  | some .exa => ((Exa.ofBits old).addF32 src).toBits
  | some .int32 => amoCode redop 32 old src
  | some .int64 => amoCode redop 64 old src
  | some .fp32 => flt specFp32 old src
  | some .bf16 => flt specBf16 old src
  | _ => old
where
  /-- An integer combination by AMO numbering. -/
  amoCode (op w a b : Nat) : Nat :=
    match op with
    | 0 => redValue .add w a b | 1 => redValue .and w a b | 2 => redValue .or w a b | 3 => redValue .xor w a b
    | 4 => redValue .min w a b | 5 => redValue .max w a b | 6 => redValue .minz w a b | _ => redValue .maxz w a b
  /-- Add, minimum or maximum. -/
  flt (f : FSpec) (a b : Nat) : Nat :=
    match redop with
    | 0 => (fAdd f .rne (f.decode a) (f.decode b)).1
    | 4 => (fMinMax f false a b).1
    | _ => (fMinMax f true a b).1

/-- Bytes o .. o + n - 1 of a side. -/
def subSide : List SidePiece → Nat → Nat → List SidePiece
  | [], _, _ => []
  | (pl, k) :: rest, o, n =>
    if n = 0 then []
    else if k ≤ o then subSide rest (o - k) n
    else
      let l := min n (k - o)
      ((match pl with | .glob a => .glob (a + o) | .scr a => .scr (a + o)), l) :: subSide rest 0 (n - l)

/-- Combine source elements into a destination, element by element, each atomically at its home. -/
def State.reduceSide (s : State) (e : QpEntry) (dst : List SidePiece) (es ds : Nat) : Nat → Nat → List Byte → State
  | 0, _, _ => s
  | k + 1, i, bs =>
    let at' := subSide dst (i * ds) ds
    let (s, old) := s.readSide at'
    let s := s.writeSide at' (leBytes ds (reduceElem e.fmt e.redop (leNat old) (leNat (bs.take es))))
    s.reduceSide e dst es ds k (i + 1) (bs.drop es)

/-- The elements of a contribution. -/
def contribElems (es : Nat) : Nat → List Byte → List Nat
  | 0, _ => []
  | k + 1, bs => leNat (bs.take es) :: contribElems es k (bs.drop es)

/-- A contribution arrives at the sequencer of a node (13 R290). -/
def State.contribute (s : State) (node : Nat) (c : Contribution) : State :=
  { s with pkg := { s.pkg with nodes := Vector.ofFn fun i =>
      let v := s.pkg.nodes.get i
      if i.val = node then { v with inbox := v.inbox ++ [c] } else v } }

/-- The data of an entry is written at its checked destination. -/
def State.writeEntry (s : State) (e : QpEntry) (dst : List SidePiece) (bs : List Byte) : State :=
  let s := if e.dkind = 3 then s else s.noteRange none e.part e.dst e.dlen
  if !e.reduce then s.writeSide dst bs
  else
    let es := elemSize true e.dkind e.fmt
    if e.dkind = 3 then
      s.contribute e.node ⟨e.step, e.block, e.contrib, e.fmt = 0x30, contribElems es (bs.length / es) bs, e.rctr⟩
    else s.reduceSide e dst es (if e.fmt = 0x30 then 64 else es) (bs.length / es) 0 bs

/-- The counter that gains 1 when the write has been performed; a contribution is performed later (21 R376). -/
def QpEntry.doneCtr (e : QpEntry) : Option Nat := if e.dkind = 3 then none else e.rctr

/-- The n-th fired entry's data is written, and RCTR gains 1. A write that races is not performed: the entry fails
(assumption 54). -/
def State.finishEntry (s : State) (n : Nat) (e : QpEntry) (dst : List SidePiece) (bs : List Byte) : State :=
  if s.writeRaces e then (s.failEntry n e).endAgent e.agent
  else
    let t := s.dropFired n
    let w := t.writeEntry e dst bs
    (((if e.wq.isSome then t.asHost w else w).endAgent e.agent).bumpCtr e.doneCtr).entryRecord e copyDone

-- Entries of peers (R251, 20 R369)

/-- An entry of a peer that has arrived with its data: the check of its destination in the partition of the poster's
number, the write, RCTR. One that fails the check writes nothing and adds to no counter here; its record is the poster's
module's (R254, assumption 42). -/
def State.arriveEntry (s : State) (k : Nat) (e : QpEntry) (bs : List Byte) (name : String) : Out :=
  let t := { s with pkg := { s.pkg with incoming := s.pkg.incoming.eraseIdx k } }
  if e.dkind ≠ 3 && isMesh e.dst && !s.running e.part && (s.part? e.part).isSome then disabled name
  else match s.destination e with
    | .hold => disabled name
    | .trap _ => .next t
    | .ok dst =>
      if e.dkind ≠ 3 && s.rangeRaces (.job 6 e.engine (2 ^ 200)) e.part e.dst e.dlen true then .next t
      else .next ((t.writeEntry e dst bs).bumpCtr e.doneCtr)

/-- WRITE and WRITE_REDUCE: `unit` is the position of the fired entry, or, past the last of these, that of an entry that
has come from a peer. A bank of mesh space that has changed its mode since the source was read is found as it is now: the
entry then fails (8 R196, assumption 22). -/
def State.entryWrite (s : State) (reduce : Bool) (name : String) : Out :=
  match s.pkg.fired[s.unit]? with
  | some ⟨e, some bs, dst, _⟩ =>
    if e.reduce != reduce || !s.mayFire e.part || s.entryHeld e then disabled name
    else if e.writesHere && isMesh e.dst then
      match s.destination e with
      | .hold => disabled name
      | .trap _ => .next ((s.failEntry s.unit e).endAgent e.agent)
      | .ok dst => .next (s.finishEntry s.unit e dst bs)
    else .next (s.finishEntry s.unit e dst bs)
  | some _ => disabled name
  | none =>
    match s.pkg.incoming[s.unit - s.pkg.fired.length]? with
    | some (.write _ e bs) =>
      if e.reduce != reduce then disabled name else s.arriveEntry (s.unit - s.pkg.fired.length) e bs name
    | _ => disabled name

/-- WRITE. -/
def execWrite (s : State) : Out := s.entryWrite false "WRITE"

/-- WRITE_REDUCE. -/
def execWriteReduce (s : State) : Out := s.entryWrite true "WRITE_REDUCE"

end Sys2Proof.Machine
end

