-- ==== Sys2Proof/Machine/Jobs.lean ====
section
/-!
DEFINITION. Job cards and the job queue of a cluster (11 R235-R243, 15 R307-R309): the card and its checks, submission,
the accesses of a job, its completion, JWAIT, JPOLL. JCANCEL stands with the matrix engine (Matrix.lean).
-/
namespace Sys2Proof.Machine

-- The card (Table 11.1)

/-- The mode of a card's RND field (Table 2.7). -/
def cardMode? : Nat → Option RMode
  | 0 | 1 => some .rne | 2 => some .rtz | 3 => some .rup | 4 => some .rdn | 5 => some .rmm | _ => none

/-- Footprint entry i of a card. -/
def cardFp (r : List Byte) (i : Nat) : Footprint :=
  ⟨recWord r (16 + 16 * i), recNat r (24 + 16 * i) 4, bits (recNat r (28 + 16 * i) 4) 0 6⟩

/-- RC. -/
def cardRc (r : List Byte) : Nat := bits (recNat r 4 1) 0 4
/-- WC. -/
def cardWc (r : List Byte) : Nat := bits (recNat r 4 1) 4 4
/-- BARV. -/
def cardBarv (r : List Byte) : Bool := bit (recNat r 6 1) 0
/-- CTRV. -/
def cardCtrv (r : List Byte) : Bool := bit (recNat r 6 1) 1
/-- BAR. -/
def cardBar (r : List Byte) : BSlot := Fin.ofNat 8 (bits (recNat r 5 1) 5 3)

/-- The card at an address; `bar` is the address in its barrier slot. -/
def cardOf (ad : Word) (r : List Byte) (bar : Word) : Card where
  addr := ad
  engine := recNat r 0 1
  op := recNat r 1 1
  detach := bit (recNat r 2 1) 0
  eflags := recNat r 2 2 / 2
  reads := (List.range (cardRc r)).map (cardFp r)
  writes := (List.range (cardWc r)).map fun i => cardFp r (cardRc r + i)
  rm := (cardMode? (bits (recNat r 5 1) 0 4)).getD .rne
  dl := bit (recNat r 5 1) 4
  bar := if cardBarv r then some bar else none
  ctr := if cardCtrv r then some (recNat r 8 2) else none
  params := r.drop 112

/-- Byte k of a card is a parameter byte that its engine leaves reserved or wants zero (Tables 11.6, 12.2, R247, 14 R296,
R302). -/
def paramReserved (engine k : Nat) : Bool :=
  match engine with
  | 1 => (decide (178 ≤ k) && decide (k < 184)) || decide (192 ≤ k)
  | 2 => decide (k = 131)
  | 3 => decide (114 ≤ k)
  | 4 => decide (116 ≤ k)
  | _ => decide (112 ≤ k)

/-- The bits of byte k of a card that must be zero; `used` entries are used, `fl` are the bits of byte 2 that the engine
defines. -/
def cardReserved (engine used fl k : Nat) : Nat :=
  if k = 2 then 0xFE - fl
  else if k = 3 then 0xFF
  else if k = 6 then 0xFC
  else if k = 7 then 0xFF
  else if 10 ≤ k ∧ k < 16 then 0xFF
  else if 16 ≤ k ∧ k < 112 then
    if (k - 16) / 16 < used then (if (k - 16) % 16 = 12 then 0xC0 else if 12 < (k - 16) % 16 then 0xFF else 0)
    else 0xFF
  else if paramReserved engine k then 0xFF
  else 0

/-- The reserved bits that are set, byte by byte. -/
def cardReservedSet (r : List Byte) (engine used fl : Nat) : List Byte :=
  (List.range 256).map fun k => BitVec.ofNat 8 (Nat.land (recNat r k 1) (cardReserved engine used fl k))

/-- A footprint has LEN 0, or wraps. -/
def fpBad (f : Footprint) : Bool := f.len = 0 || 2 ^ 64 < f.base.toNat + f.len

/-- A mesh-space footprint leaves its bank. -/
def fpSpans (f : Footprint) : Bool :=
  isMesh f.base && f.base.toNat / 2 ^ 18 ≠ (f.base.toNat + f.len - 1) / 2 ^ 18

/-- Check 3 of Table 11.3: the offending byte of the card. -/
def State.cardBad (s : State) (r : List Byte) (engine ops fl : Nat) : Option Nat :=
  let used := min 6 (cardRc r + cardWc r)
  let fps := (List.range used).map fun i => (cardFp r i, 24 + 16 * i)
  match firstBad [(recNat r 0 1 ≠ engine, 0), (ops ≤ recNat r 1 1, 1)] with
  | some o => some o
  | none =>
    match firstNonzero 0 (cardReservedSet r engine used fl) with
    | some o => some o
    | none =>
      let first : List (Bool × Nat) :=
        [(decide (6 < cardRc r + cardWc r), 4), ((cardMode? (bits (recNat r 5 1) 0 4)).isNone, 5),
          (bit (recNat r 5 1) 4 && !s.ctx.super, 5)]
      firstBad (first ++ fps.map (fun f => (fpBad f.1, f.2)) ++ fps.map (fun f => (fpSpans f.1, f.2))
        ++ [(cardCtrv r && !s.ownsCtr s.partNo (recNat r 8 2), 6),
          (cardBarv r && !isMesh (s.slotAddr (cardBar r)), 6)])

/-- The footprints of a card, reads first, each with whether it is a write. -/
def Card.fps (c : Card) : List (Footprint × Bool) := (c.reads.map fun f => (f, false)) ++ c.writes.map fun f => (f, true)

/-- A test of every page from an address to `stop`, given the walk of each; the first argument bounds the pages. -/
def State.checkPages (s : State) (test : Word → Walk → Chk Unit) : Nat → Nat → Nat → Chk Unit
  | 0, _, _ => .ok ()
  | k + 1, a, stop =>
    if stop ≤ a then .ok ()
    else if !canonical (word a) then .trap ⟨.notPresent, word a, 0⟩
    else
      let w := s.walk s.partNo a
      (test (word a) w).bind fun _ =>
        match w with
        | .fault .. => .ok ()
        | .page p _ => s.checkPages test k (p.va + p.size) stop

/-- A page is present, and not compressed; `valid` asks only for a valid entry (14 R302). -/
def pagePresent (valid : Bool) (a : Word) : Walk → Chk Unit
  | .fault l m _ => .trap (xlateTrap .notPresent a l m)
  | .page p _ => need (valid || leafTier p.e ≠ 2) (xlateTrap .compressed a p.level false)

/-- A page gives the permission that a footprint entry needs. -/
def pagePermits (super write : Bool) (a : Word) : Walk → Chk Unit
  | .fault .. => .ok ()
  | .page p _ => need (p.permits super (if write then .store else .load)) (xlateTrap .protect a p.level false)

/-- One of the conditions of check 4, of every page of a global footprint. -/
def State.checkGlobal (s : State) (test : Bool → Word → Walk → Chk Unit) : List (Footprint × Bool) → Chk Unit
  | [] => .ok ()
  | f :: fs =>
    (if isMesh f.1.base then .ok ()
      else s.checkPages (test f.2) (f.1.len / 2 ^ 16 + 3) f.1.base.toNat (f.1.base.toNat + f.1.len)).bind fun _ =>
        s.checkGlobal test fs

/-- The last condition of check 4: the mesh-space entries. -/
def State.checkMesh (s : State) : List (Footprint × Bool) → Chk Unit
  | [] => .ok ()
  | f :: fs =>
    (if isMesh f.1.base then (s.meshTarget s.part s.cl f.1.base).bind fun _ => .ok () else .ok ()).bind fun _ =>
      s.checkMesh fs

/-- Check 4 of Table 11.3, its conditions in the order that the row lists them (R237): every page present and not
compressed, then the permissions, then mesh space. -/
def State.checkFootprints (s : State) (valid : Bool) (fs : List (Footprint × Bool)) : Chk Unit :=
  (s.checkGlobal (fun _ => pagePresent valid) fs).bind fun _ =>
    (if valid then .ok () else s.checkGlobal (pagePermits s.ctx.super) fs).bind fun _ => s.checkMesh fs

/-- The format of a footprint: ATTR FMT, or the page's (R244, R258). -/
def State.fpFmt (s : State) (p : Nat) (f : Footprint) : Nat :=
  if f.fmt ≠ 0 then f.fmt
  else if !canonical f.base then 0
  else match s.walk p f.base.toNat with | .page g _ => bits g.e 16 6 | .fault .. => 0

-- The queue (R238, R239)

/-- Slots of a job queue. -/
def jobSlots : Nat := 32

/-- A job in its slot. -/
def State.job? (s : State) (r : JobRef) : Option JobSt := Map.get? (s.getCl r.cl).jobs r.slot
/-- Replace it. -/
def State.setJob (s : State) (r : JobRef) (j : JobSt) : State :=
  s.setCl r.cl { s.getCl r.cl with jobs := Map.put (s.getCl r.cl).jobs r.slot j }
/-- Free its slot. -/
def State.freeJob (s : State) (r : JobRef) : State :=
  s.setCl r.cl { s.getCl r.cl with jobs := Map.del (s.getCl r.cl).jobs r.slot }

/-- Two footprints overlap, as written. -/
def fpOverlap (a b : Footprint) : Bool :=
  a.base.toNat < b.base.toNat + b.len && b.base.toNat < a.base.toNat + a.len

/-- A write of either card overlaps a footprint of the other (R239). -/
def Card.conflicts (a b : Card) : Bool :=
  a.fps.any fun f => b.fps.any fun g => (f.2 || g.2) && fpOverlap f.1 g.1

/-- The job has not completed. -/
def JobSt.pending (j : JobSt) : Bool := j.phase ≠ .done

/-- The job id (R238). -/
def JobSt.id (j : JobSt) (slot : Nat) : Word := word (slot + j.seq % 2 ^ 59 * 2 ^ 5)

/-- A job becomes ready: it arrives at its engine (R240). -/
def State.makeReady (s : State) (r : JobRef) (j : JobSt) : State :=
  { s.setJob r { j with phase := .ready, arrival := s.arrivals } with arrivals := s.arrivals + 1 }

/-- The core whose submission entered most recently in any cycle before this one (R238). -/
def Cluster.lastEntry (k : Cluster) (cycle : Nat) : Option Nat := if k.subCycle = cycle then k.subBefore else k.subCore

/-- A core's place in the round robin of a cycle, which starts after the core that entered last, and at core 0 where none
has (assumption 66). -/
def entryTurn (last : Option Nat) (core : Nat) : Nat := (core + 10 - match last with | some c => c + 1 | none => 0) % 10

/-- A core's submission may enter in this cycle: no core whose turn comes after its own has entered before it. -/
def Cluster.mayEnter (k : Cluster) (cycle core : Nat) : Bool :=
  k.subCycle ≠ cycle || match k.subCore with
    | some c => entryTurn (k.lastEntry cycle) c ≤ entryTurn (k.lastEntry cycle) core
    | none => true

/-- A core's submission has entered. -/
def Cluster.entered (k : Cluster) (cycle core : Nat) : Cluster :=
  { k with subCycle := cycle, subCore := some core, subBefore := k.lastEntry cycle }

/-- A job enters the queue of the issuing cluster in a slot. -/
def State.enterJob (s : State) (slot : Nat) (c : Card) : State × JobSt :=
  let k := s.getCl s.cl
  let preds := (k.jobs.filter fun q => q.2.pending && q.2.card.conflicts c).map Prod.fst
  let j : JobSt := {
    seq := k.jobSeq, card := c, part := s.partNo, super := s.ctx.super, preds := preds, phase := .queued,
    arrival := 0, progress := 0, detail := 0, skipped := 0, flags := 0, code := 0, entry := 0, shape := none, home := 0,
    fence := s.mem.stores }
  let s := s.setCl s.cl (({ k with jobSeq := k.jobSeq + 1 } : Cluster).entered s.cycle s.cur.core.core)
  (if preds.isEmpty then s.makeReady ⟨s.cl, slot⟩ j else s.setJob ⟨s.cl, slot⟩ j, j)

/-- The lowest-numbered free slot of the issuing cluster. -/
def State.freeSlot (s : State) : Option Nat :=
  (List.range jobSlots).find? fun n => (Map.get? (s.getCl s.cl).jobs n).isNone

/-- A *JOB instruction (R307): the checks of its engine's card, then a slot; a release of scope sys. `check5` gives the
offending byte of a card that fails the engine's rules. One whose turn in the round robin has passed in this cycle enters
in the next (R238). -/
def State.submit (s : State) (i : Instr) (d a : XReg) (la : LaCount) (engine ops fl : Nat) (valid : Bool)
    (check5 : State → List Byte → Card → Option Nat) : Res :=
  let ad := s.rx a
  if s.vecMemBusy then .wait s
  else if !aligned ad 256 then .trap ⟨.align, ad, 0⟩
  else (s.loadRecord ad 256 256).res s fun r =>
    match s.cardBad r.2 engine ops fl with
    | some o => .trap (formatTrap i ad o)
    | none =>
      let c := cardOf ad r.2 (s.absolute s.cl (s.slotAddr (cardBar r.2)))
      (s.checkFootprints valid c.fps).res s fun _ =>
        match check5 s r.2 c with
        | some o => .trap (formatTrap i ad o)
        | none =>
          match s.freeSlot with
          | none => .wait s
          | some n =>
            if !(s.getCl s.cl).mayEnter s.cycle s.cur.core.core then .wait s
            else
              let (s, j) := r.1.enterJob n c
              .done (s.endRegion.longResult i la [.x d (j.id n)])

-- Accesses of a job (R220, R241)

/-- What an access of a job meets. -/
inductive JRes (α : Type) where
  | ok (a : α)
  /-- The job ends with a status and an ENTRY. -/
  | fail (code entry : Nat)
  | hold

/-- Go on with a further access. -/
def JRes.bind {α β : Type} (r : JRes α) (f : α → JRes β) : JRes β :=
  match r with
  | .ok a => f a
  | .fail c e => .fail c e
  | .hold => .hold

/-- Status codes (Table 11.5). -/
def jDone : Nat := 1
def jCancelled : Nat := 2
def jFootprint : Nat := 3
def jRace : Nat := 4
def jXlate : Nat := 5
def jBoundary : Nat := 6
def jNotCompute : Nat := 7
def jBroken : Nat := 8

/-- A footprint holds n bytes from an address on. -/
def Footprint.holds (f : Footprint) (a n : Nat) : Bool := f.base.toNat ≤ a && a + n ≤ f.base.toNat + f.len

/-- ENTRY of an access that failed: the first entry that holds it, or 0xFF. -/
def Card.entryAt (c : Card) (a n : Nat) : Nat := (c.fps.findIdx? fun f => f.1.holds a n).getD 0xFF

/-- The entry that an access uses: a write needs a write entry; `ok` may narrow the choice (R220). -/
def Card.entryFor (c : Card) (write : Bool) (ok : Nat → Footprint → Bool) (a n : Nat) : Option Nat :=
  (List.range c.fps.length).find? fun i =>
    match c.fps[i]? with
    | some f => (f.2 || !write) && ok i f.1 && f.1.holds a n
    | none => false

/-- The agent of a job in race detection (Table 9.1): copy unit, matrix engine, routing engine, in-DRAM engine, migration
engine. -/
def jobAgent (g : Grade) (r : JobRef) (j : JobSt) : Agent :=
  let id := clLinear g r.cl * jobSlots + r.slot
  match j.card.engine with
  | 3 => .job 3 (r.cl.die * 2 ^ 18 + r.slot) id
  | 4 => .job 4 j.home id
  | 5 => .job 5 j.home id
  | k => .job k (clusterBits r.cl + r.slot) id

/-- A piece of an access of a job: its place, its length, and whether its page is CHECKED. -/
structure JPiece where
  place : Place
  n : Nat
  checked : Bool
  deriving DecidableEq, Repr

/-- One piece of an access of a job, inside entry e. -/
def State.jobPiece (s : State) (ag : Agent) (c : ClusterId) (j : JobSt) (write : Bool) (e : Nat) (a : Word) (n : Nat) :
    JRes JPiece :=
  if isMesh a then
    match s.meshTarget (some j.part) c a with
    | .ok t => .ok ⟨.scr (scrKey t.1 t.2), n, false⟩
    | .trap _ => .fail jXlate e
    | .hold => .hold
  else if !canonical a then .fail jXlate e
  else match s.xlate j.part j.super (if write then .store else .load) a with
    | .error _ => .fail jXlate e
    | .ok p =>
      let pa := p.pa a.toNat
      if p.checked && !(s.mem.racing ag pa n write false).isEmpty then .fail jRace e
      else .ok ⟨.glob pa, n, p.checked⟩

/-- The pieces of an access of a job. -/
def State.jobPieces (s : State) (ag : Agent) (c : ClusterId) (j : JobSt) (write : Bool) (e : Nat) :
    List (Nat × Nat) → JRes (List JPiece)
  | [] => .ok []
  | (a, n) :: rest =>
    (s.jobPiece ag c j write e (word a) n).bind fun p =>
      (s.jobPieces ag c j write e rest).bind fun ps => .ok (p :: ps)

/-- The check of an access of a job: its footprint, its pages, its races. -/
def State.jobCheck (s : State) (r : JobRef) (j : JobSt) (write : Bool) (ok : Nat → Footprint → Bool) (a : Word) (n : Nat) :
    JRes (List JPiece) :=
  match j.card.entryFor write ok a.toNat n with
  | none => .fail jFootprint (j.card.entryAt a.toNat n)
  | some e => s.jobPieces (jobAgent s.pkg.grade r j) r.cl j write e (cut64 (n / 2 ^ 16 + 2) a.toNat n)

/-- Log the pieces of an access on CHECKED pages: a job's region is open until it completes. -/
def State.notePieces (s : State) (ag : Agent) (write : Bool) (ps : List JPiece) : State :=
  ps.foldl (fun s p =>
    match p.place with
    | .glob pa => if p.checked then { s with mem := s.mem.log ⟨ag, 0, pa, p.n, write, false⟩ } else s
    | .scr _ => s) s

/-- The cluster whose TLB a job's engine uses: the copy unit and the matrix engine are the cluster's (8 R210). -/
def tlbOf (r : JobRef) (j : JobSt) : Option ClusterId := if j.card.engine ≤ 2 then some r.cl else none

/-- What an action of a job has asked of the memory below, past the first n requests, is of the deadline class where its
card has DL (8 R204). -/
def State.tagBelow (s : State) (n : Nat) (j : JobSt) : State :=
  if j.card.dl then
    let bs := s.mem.below.take n ++ (s.mem.below.drop n).map fun b => ({ b with dl := true } : Below)
    { s with mem := { s.mem with below := bs } }
  else s

/-- A checked read of a job, at the homes. -/
def State.jobRead (s : State) (r : JobRef) (j : JobSt) (a : Word) (ps : List JPiece) : State × List Byte :=
  let n := (ps.map JPiece.n).foldl (· + ·) 0
  let (t, bs) := (s.noteRange (tlbOf r j) j.part a n).readSide (ps.map fun p => (p.place, p.n))
  ((t.notePieces (jobAgent s.pkg.grade r j) false ps).tagBelow s.mem.below.length j, bs)

/-- Write checked pieces: the copies of the job's own cluster follow its copy unit and matrix engine (R195). -/
def State.writePieces (s : State) (c : ClusterId) (own : Bool) : List JPiece → List Byte → State
  | [], _ => s
  | p :: ps, bs =>
    let s :=
      match p.place with
      | .scr k => { s with mem := { s.mem with sram := cellsWrite s.mem.sram k (bs.take p.n) } }
      | .glob pa => if own then s.writeHome c pa (bs.take p.n) else s.writePhys pa (bs.take p.n)
    s.writePieces c own ps (bs.drop p.n)

/-- A checked write of a job. -/
def State.jobWrite (s : State) (r : JobRef) (j : JobSt) (a : Word) (ps : List JPiece) (bs : List Byte) : State :=
  let t := (s.noteRange (tlbOf r j) j.part a bs.length).writePieces r.cl (j.card.engine ≤ 2) ps bs
  (t.notePieces (jobAgent s.pkg.grade r j) true ps).tagBelow s.mem.below.length j

-- Starting and ending (R240, R241)

/-- A job of an engine that takes its partition's jobs is ready to start: it is the first ready one of its cluster in
submission order, and the cluster runs none of that engine. -/
def State.mayStart (s : State) (r : JobRef) (j : JobSt) : Bool :=
  j.phase = .ready && s.running j.part &&
    !(s.getCl r.cl).jobs.any fun q =>
      q.2.card.engine = j.card.engine && (q.2.phase = .running || q.2.phase = .ending
        || (q.2.phase = .ready && q.2.seq < j.seq))

/-- Reserved FMT codes among the footprints of a card (2 R33), each with its byte. -/
def cardFmts (r : List Byte) (n : Nat) : List (Bool × Nat) :=
  (List.range n).map fun i =>
    let f := recNat r (28 + 16 * i) 1 % 64
    (decide (f ≠ 0 ∧ (Fmt.ofCode? f).isNone), 28 + 16 * i)

/-- The jobs of every cluster. -/
def State.allJobs (s : State) : List (JobRef × JobSt) :=
  (s.clusters.map fun k => k.2.jobs.map fun q => ((⟨k.1, q.1⟩ : JobRef), q.2)).flatten

/-- A job of an engine that serves several clusters in order of arrival is the next to start: among the jobs that the
engine has received, those of partitions that are not RUNNING hold no place (R240). -/
def State.sharedNext (s : State) (group : JobRef → JobSt → Bool) (j : JobSt) : Bool :=
  j.phase = .ready && s.running j.part &&
    !s.allJobs.any fun q =>
      group q.1 q.2 && s.running q.2.part
        && (q.2.phase = .running || (q.2.phase = .ready && q.2.arrival < j.arrival))

/-- All accesses of a job are done: R241 is still to be performed. -/
def State.endJob (s : State) (r : JobRef) (j : JobSt) (code entry : Nat) : State :=
  s.setJob r { j with phase := .ending, code := code, entry := entry }

/-- The barrier of a job, if its address is one; an access to a bank in transition is held (8 R196). A job whose address is
none is as unbound (assumption 62). -/
def State.jobBarrier (s : State) (r : JobRef) (j : JobSt) : JRes (Option (ClusterId × Nat)) :=
  match j.card.bar with
  | none => .ok none
  | some a =>
    if !aligned a 32 then .ok none
    else match s.meshTarget (some j.part) r.cl a with
      | .ok t => .ok (some t)
      | .trap _ => .ok none
      | .hold => .hold

/-- The barrier that the completion of a job breaks: that of a job which ends in error (R178, R246, R309). -/
def State.brokenBarrier (s : State) (r : JobRef) (j : JobSt) : JRes (Option (ClusterId × Nat)) :=
  if j.code = jDone ∨ j.code = jBroken then .ok none else s.jobBarrier r j

/-- The flags of a completed job reach CLFLAGS: those of the matrix engine and of the copy unit (2 R49). -/
def State.raiseJob (s : State) (r : JobRef) (j : JobSt) : State :=
  if j.card.engine ≤ 2 then s.raiseCluster r.cl j.flags else s

/-- The completed job is no longer a predecessor; the jobs that waited only for it become ready. -/
def State.releaseSuccessors (s : State) (r : JobRef) : State :=
  ((s.getCl r.cl).jobs.map Prod.fst).foldl (fun s n =>
    match s.job? ⟨r.cl, n⟩ with
    | none => s
    | some j =>
      if j.preds.contains r.slot then
        let j := { j with preds := j.preds.filter (· ≠ r.slot) }
        if j.preds.isEmpty && j.phase = .queued then s.makeReady ⟨r.cl, n⟩ j else s.setJob ⟨r.cl, n⟩ j
      else s) s

/-- The completion of a job (R241): its region ends, and the barrier that it breaks, if any, breaks. -/
def State.completeJob (s : State) (r : JobRef) (j : JobSt) (bar : Option (ClusterId × Nat)) : State :=
  let s := (s.endAgent (jobAgent s.pkg.grade r j)).setJob r { j with phase := .done }
  let s := s.raiseJob r j
  let s := match bar with | some (c, off) => s.failBarrier c off | none => s
  let s := s.bumpCtr j.card.ctr
  (if j.card.detach then s.freeJob r else s).releaseSuccessors r

/-- JOB_COMPLETE (R241): before its partition is saved, or after the restore (18 R340). -/
def execJobComplete (r : JobRef) (s : State) : Out :=
  match s.job? r with
  | none => disabled "JOB_COMPLETE"
  | some j =>
    if j.phase ≠ .ending || !s.beforeSave j.part then disabled "JOB_COMPLETE"
    else match s.brokenBarrier r j with
      | .ok bar => .next (s.completeJob r j bar)
      | _ => disabled "JOB_COMPLETE"

/-- A step of a running job ends in a failure: the job ends (R241). -/
def JRes.out {α : Type} (x : JRes α) (s : State) (r : JobRef) (j : JobSt) (name : String) (f : α → State) : Out :=
  match x with
  | .ok a => .next (f a)
  | .fail c e => .next (s.endJob r j c e)
  | .hold => disabled name

-- JWAIT, JPOLL (R308)

/-- The status word of a job (Table 11.4). -/
def JobSt.word (j : JobSt) : Word :=
  let d := if j.card.engine = 5 then j.detail % 2 ^ 16 + j.skipped % 2 ^ 16 * 2 ^ 16 else j.detail % 2 ^ 32
  Machine.word (d * 2 ^ 32 + j.entry * 2 ^ 24 + j.card.engine * 2 ^ 16 + j.flags.toNat * 2 ^ 8 + j.code)

/-- The job that a job id of the issuing cluster names. -/
def State.jobOfId (s : State) (id : Word) : Option (JobRef × JobSt) :=
  let slot := bits id.toNat 0 5
  (s.job? ⟨s.cl, slot⟩).bind fun j => if j.seq % 2 ^ 59 = bits id.toNat 5 59 then some (⟨s.cl, slot⟩, j) else none

/-- NOJOB. -/
def noJob : Word := 0xFF

/-- A final status is reported: the slot is free, the report is an acquire and ends the region. -/
def State.report (s : State) (r : JobRef) (j : JobSt) (d : XReg) : State :=
  (((s.freeJob r).acquire .sys).wx d j.word).endRegion

/-- JWAIT. -/
def execJwait (d a : XReg) (s : State) : Out :=
  s.run (.jwait d a) fun s =>
    match s.jobOfId (s.rx a) with
    | none => .done (s.wx d noJob)
    | some (r, j) =>
      if j.card.detach then .done (s.wx d noJob)
      else if j.pending then .wait s
      else .done (s.report r j d)

/-- JPOLL. -/
def execJpoll (d a : XReg) (s : State) : Out :=
  s.run (.jpoll d a) fun s =>
    match s.jobOfId (s.rx a) with
    | none => .done (s.wx d noJob)
    | some (r, j) =>
      if j.card.detach then .done (s.wx d noJob)
      else if j.pending then .done (s.wx d (word (j.card.engine * 2 ^ 16)))
      else .done (s.report r j d)

end Sys2Proof.Machine
end

