-- ==== Sys2Proof/Machine/Copy.lean ====
section
/-!
DEFINITION. The copy unit (11 R244-R246): the rules of its cards, CPJOB, the start of a job, and the delivery of its
chunks. A job proceeds in units: one element, or one block where the destination has a block format.
-/
namespace Sys2Proof.Machine

-- The card (Table 11.6)

/-- A signed doubleword of a record. -/
def recInt (r : List Byte) (a : Nat) : Int := readInt true 64 (recNat r a 8)

/-- Bits of an element of a side: of its format, or of the raw size. -/
def sideBits (fmt esize : Nat) : Nat :=
  match Fmt.ofCode? fmt with | some f => Fmt.bits f | none => 8 * 2 ^ esize

/-- The block format of a format code. -/
def blkOfCode (fmt : Nat) : Option BlkFmt := (Fmt.ofCode? fmt).bind Fmt.blk?

/-- What a copy job does, from its card and the formats of its pages. -/
structure CopyPlan where
  op : Nat
  n : List Nat
  s : List Int
  t : List Int
  /-- First bytes of source, destination and index list. -/
  sb : Nat
  db : Nat
  ib : Nat
  /-- Format codes, 0 raw, and the bits of an element. -/
  fs : Nat
  fd : Nat
  ws : Nat
  wd : Nat
  /-- Both sides had a format of their own. -/
  both : Bool
  /-- FILL. -/
  fill : Nat
  /-- Number of read entries. -/
  rc : Nat
  deriving DecidableEq, Repr

/-- The plan of a card with parameter bytes `ps`. -/
def State.copyPlan (s : State) (p : Nat) (c : Card) : CopyPlan :=
  let ps := c.params
  let src := c.reads.headD ⟨0, 0, 0⟩
  let dst := c.writes.headD ⟨0, 0, 0⟩
  let fd := s.fpFmt p dst
  let fs := if c.op = 3 then (if fd = 0 then 0 else 0x0A) else s.fpFmt p src
  let es := recNat ps 65 1
  let es := if 3 < es then 0 else es
  { op := c.op
    n := (List.range 4).map fun i => recNat ps (4 * i) 4
    s := (List.range 3).map fun i => recInt ps (16 + 8 * i)
    t := (List.range 3).map fun i => recInt ps (40 + 8 * i)
    sb := src.base.toNat
    db := dst.base.toNat
    ib := (c.reads.getD 1 ⟨0, 0, 0⟩).base.toNat
    fs := if fs = 0 then fd else fs
    fd := if fd = 0 then fs else fd
    ws := sideBits (if fs = 0 then fd else fs) es
    wd := sideBits (if fd = 0 then fs else fd) es
    both := fs ≠ 0 && fd ≠ 0
    fill := recNat ps 72 8
    rc := c.reads.length }

/-- The number of elements. -/
def CopyPlan.total (p : CopyPlan) : Nat := p.n.foldl (· * ·) 1

/-- The elements are converted. -/
def CopyPlan.conv (p : CopyPlan) : Bool := p.both && p.fs ≠ p.fd

-- Addresses of elements, in bits

/-- Displacement of element i over the dimensions above the innermost, in bits. -/
def strideBits (n : List Nat) (t : List Int) (i : Nat) : Int :=
  let n0 := n.getD 0 1
  let n1 := n.getD 1 1
  let n2 := n.getD 2 1
  8 * ((i / n0 % n1 : Nat) * t.getD 0 0 + (i / n0 / n1 % n2 : Nat) * t.getD 1 0 + (i / n0 / n1 / n2 : Nat) * t.getD 2 0)

/-- A bit address modulo 2^67. -/
def bitAddr (i : Int) : Nat := (i % (2 ^ 67 : Nat)).toNat

/-- Element i of a strided side. -/
def stridedAt (base w : Nat) (n : List Nat) (t : List Int) (i : Nat) : Nat :=
  bitAddr (8 * base + (i % n.getD 0 1 * w : Nat) + strideBits n t i)

-- Destinations in a block format (R245)

/-- Column geometry (Table 8.5). -/
def Page.column (p : Page) : Bool := p.has 25

/-- One dimension of a destination that has more than one element: what an index counts in elements of the job, the count,
and the stride in bits. -/
structure CopyDim where
  weight : Nat
  n : Nat
  stride : Int
  deriving DecidableEq, Repr

/-- Insert a dimension by the size of its stride. -/
def insertDim (d : CopyDim) : List CopyDim → List CopyDim
  | [] => [d]
  | x :: xs => if d.stride.natAbs ≤ x.stride.natAbs then d :: x :: xs else x :: insertDim d xs

/-- The dimensions of a destination, shortest stride first. -/
def CopyPlan.dims (p : CopyPlan) : List CopyDim :=
  let n := fun i => p.n.getD i 1
  let t := fun i => 8 * p.t.getD i 0
  let all : List CopyDim :=
    [⟨1, n 0, p.wd⟩, ⟨n 0, n 1, t 0⟩, ⟨n 0 * n 1, n 2, t 1⟩, ⟨n 0 * n 1 * n 2, n 3, t 2⟩]
  (all.filter fun d => d.n ≠ 1).foldr insertDim []

/-- The element of a job that is written k-th in that order: the dimension of the shortest stride runs first, each upwards
in memory. -/
def elemInOrder : List CopyDim → Nat → Nat
  | [], _ => 0
  | d :: ds, k => d.weight * (if d.stride < 0 then d.n - 1 - k % d.n else k % d.n) + elemInOrder ds (k / d.n)

/-- The elements that lie end to end from the first one on. -/
def runLength (wd : Nat) : List CopyDim → Nat → Nat
  | [], run => run
  | d :: ds, run => if d.stride.natAbs = run * wd then runLength wd ds (run * d.n) else run

/-- A page that a job writes whole: the page, and how many elements precede its own in the order of `elemInOrder`. -/
structure WholePage where
  page : Page
  first : Nat
  deriving DecidableEq, Repr

/-- Elements of a block-format page. -/
def Page.elems (g : Page) (b : BlkFmt) : Nat := 8 * g.dataBytes b / b.bits

/-- The pages of a format that `n` elements from an address on fill; none unless they fill whole pages. -/
def State.filledPages (s : State) (part : Nat) (b : BlkFmt) : Nat → Nat → Nat → Nat → Option (List WholePage)
  | 0, _, _, _ => none
  | k + 1, a, n, first =>
    match s.pageAt part a with
    | none => none
    | some g =>
      if g.va ≠ a || g.fmt.bind Fmt.blk? ≠ some b then none
      else if n = g.elems b then some [⟨g, first⟩]
      else if g.elems b < n && g.has 26 then
        (s.filledPages part b k (a + g.size) (n - g.elems b) (first + g.elems b)).map (⟨g, first⟩ :: ·)
      else none

/-- The pages of every run of a destination. -/
def State.filledRuns (s : State) (part : Nat) (p : CopyPlan) (b : BlkFmt) (run : Nat) : List Nat → Option (List WholePage)
  | [] => some []
  | o :: os =>
    let at' := stridedAt p.db p.wd p.n p.t (elemInOrder p.dims (o * run))
    (if at' % 8 = 0 then s.filledPages part b (run * p.wd / 2 ^ 19 + 2) (at' / 8) run (o * run) else none).bind fun l =>
      (s.filledRuns part p b run os).map (l ++ ·)

/-- The page at an address is in column geometry (R208). -/
def State.columnAt (s : State) (part a : Nat) : Bool := ((s.pageAt part a).map Page.column).getD false

/-- A page of a footprint is in column geometry. -/
def State.anyColumn (s : State) (part : Nat) (f : Footprint) : Bool :=
  (cut64 (f.len / 2 ^ 16 + 2) f.base.toNat f.len).any fun q => s.columnAt part q.1

/-- Every page of a footprint is in column geometry. -/
def State.allColumn (s : State) (part : Nat) (f : Footprint) : Bool :=
  (cut64 (f.len / 2 ^ 16 + 2) f.base.toNat f.len).all fun q => s.columnAt part q.1

/-- The pages that a job writes whole, where its destination is in a block format and has a page in column geometry
(R208, R245); none otherwise. -/
def State.columnPages (s : State) (part : Nat) (p : CopyPlan) (f : Footprint) : List WholePage :=
  match blkOfCode p.fd with
  | none => []
  | some b =>
    if p.op = 2 || !s.anyColumn part f then []
    else
      let run := runLength p.wd p.dims 1
      (s.filledRuns part p b run (List.range (p.total / run))).getD []

/-- Block starts of an innermost run meet those of each page that the run enters: blocks of 24 bytes do not divide a
page. -/
def State.runInBlocks (s : State) (part : Nat) (b : BlkFmt) (a n : Nat) : Bool :=
  (cut64 (n / 2 ^ 16 + 2) a n).all fun q =>
    match s.pageAt part q.1 with
    | some g => (max a g.va - min a g.va) % b.dataBytes = 0
    | none => true

/-- Every innermost run of a destination consists of blocks of its pages. -/
def State.allInBlocks (s : State) (part : Nat) (p : CopyPlan) (b : BlkFmt) : Bool :=
  let n := p.n.getD 0 1
  (List.range (p.total / n)).all fun r =>
    s.runInBlocks part b (stridedAt p.db p.wd p.n p.t (r * n) / 8) (n * p.wd / 8)

/-- The rules of a destination in a block format (R245): the offending byte of the card. -/
def State.blockDstBad (s : State) (part : Nat) (p : CopyPlan) (f : Footprint) : Option Nat :=
  match blkOfCode p.fd with
  | none => none
  | some b =>
    let w := 16 + 16 * p.rc
    let off := match s.pageAt part p.db with | some g => p.db - g.va | none => p.db
    if s.anyColumn part f then
      firstBad [(p.op = 2 || off ≠ 0 && p.t.all (0 ≤ ·), w), ((s.columnPages part p f).isEmpty, 112)]
    else if b.dataBytes = 24 then
      firstBad [(p.op = 2 || p.n.getD 0 1 % 32 ≠ 0, 112), (off % 24 ≠ 0, w), (!s.allInBlocks part p b, 152)]
    else
      firstBad [
        (p.op = 2 || p.n.getD 0 1 % 32 ≠ 0, 112),
        (off % b.dataBytes ≠ 0, w),
        (1 < p.n.getD 1 1 && p.t.getD 0 0 % b.dataBytes ≠ 0, 152),
        (1 < p.n.getD 2 1 && p.t.getD 1 0 % b.dataBytes ≠ 0, 160),
        (1 < p.n.getD 3 1 && p.t.getD 2 0 % b.dataBytes ≠ 0, 168)]

/-- Check 5 of Table 11.3 for the copy unit (R244, R245). A block-format side in mesh space is refused where the other side
has a format too (assumption 65), and so are footprint entries beyond the roles; the format of an index list is not asked
(assumption 69). -/
def State.copyBad (s : State) (r : List Byte) (c : Card) : Option Nat :=
  let p := s.copyPlan s.partNo c
  let dims := recNat r 176 1
  let es := recNat r 177 1
  let dst := c.writes.headD ⟨0, 0, 0⟩
  let w := 16 + 16 * c.reads.length
  let raw := c.op ≠ 3 && s.fpFmt s.partNo (c.reads.headD dst) = 0
  let counts := match c.op with | 0 => (1, 1) | 1 | 2 => (2, 1) | _ => (0, 1)
  let ns := (List.range 4).map fun i =>
    (decide (p.n.getD i 0 = 0 ∨ (dims ≤ i ∧ p.n.getD i 0 ≠ 1)), 112 + 4 * i)
  let clash := (c.reads.take 1).map fun f => (fpOverlap f dst, 16)
  let scaled := fun (f : Footprint) (k : Nat) => p.both && (blkOfCode k).isSome && isMesh f.base
  match firstBad ([(decide ((c.reads.length, c.writes.length) ≠ counts), 4)] ++ cardFmts r c.fps.length
      ++ [(decide (dims = 0 ∨ 4 < dims ∨ ((c.op = 1 ∨ c.op = 2) ∧ dims ≠ 1)), 176)] ++ ns) with
  | some o => some o
  | none =>
    match firstBad ([(decide (3 < es) || (es ≠ 0 && !(raw && p.fs = 0) && !(c.op = 3 && p.fd = 0)), 177)] ++ clash ++ [
        (c.op = 3 && p.fd = 0x30, w + 12),
        (p.both && c.op ≠ 3 && p.fs = 0x30 && p.fd ≠ 0x30, 28),
        (p.both && c.op ≠ 3 && p.fd = 0x30 && p.fs ≠ 0x30, w + 12),
        (scaled (c.reads.headD dst) p.fs && c.op ≠ 3, 28), (scaled dst p.fd, w + 12)]) with
    | some o => some o
    | none => s.blockDstBad s.partNo p dst

/-- CPJOB (15 R307). -/
def execCpjob (d a : XReg) (la : LaCount) (s : State) : Out :=
  s.run (.cpjob d a la) fun s =>
    s.submit (.cpjob d a la) d a la 1 4 0 false fun s r c => s.copyBad r c

-- Elements of a table

/-- Element k of a table, k signed. -/
def tableAt (base w : Nat) (k : Int) : Nat := bitAddr (8 * base + k * w)

-- Elements

/-- Read w bits at a bit address, inside entry e. -/
def State.getBits (s : State) (r : JobRef) (j : JobSt) (e at' w : Nat) : JRes (State × Nat) :=
  let a := word (at' / 8)
  (s.jobCheck r j false (fun i _ => i = e) a ((at' % 8 + w + 7) / 8)).bind fun ps =>
    let (s, bs) := s.jobRead r j a ps
    .ok (s, leNat bs / 2 ^ (at' % 8) % 2 ^ w)

/-- Replace bits lo .. lo + w - 1 of a number. -/
def setBits (old lo w v : Nat) : Nat := old % 2 ^ lo + v % 2 ^ w * 2 ^ lo + old / 2 ^ (lo + w) * 2 ^ (lo + w)

/-- Write w bits at a bit address, inside entry e. -/
def State.putBits (s : State) (r : JobRef) (j : JobSt) (e at' w v : Nat) : JRes State :=
  let a := word (at' / 8)
  let n := (at' % 8 + w + 7) / 8
  (s.jobCheck r j true (fun i _ => i = e) a n).bind fun ps =>
    if at' % 8 = 0 ∧ w % 8 = 0 then .ok (s.jobWrite r j a ps (leBytes n v))
    else
      let (t, old) := s.readSide (ps.map fun p => (p.place, p.n))
      .ok ((t.jobWrite r j a ps (leBytes n (setBits (leNat old) (at' % 8) w v))).tagBelow s.mem.below.length j)

/-- How a series of accesses ends. -/
inductive ChunkEnd where
  | done | hold
  | fail (code entry : Nat)
  deriving DecidableEq, Repr

/-- One write of a series: the entry, the bit address, the width, the value; `add` adds it to what is there. -/
structure JWrite where
  entry : Nat
  at' : Nat
  w : Nat
  v : Nat
  add : Bool := false
  deriving DecidableEq, Repr

/-- Perform one write. -/
def State.putOne (s : State) (r : JobRef) (j : JobSt) (w : JWrite) : JRes State :=
  if w.add then
    (s.getBits r j w.entry w.at' w.w).bind fun v => v.1.putBits r j w.entry w.at' w.w ((v.2 + w.v) % 2 ^ w.w)
  else s.putBits r j w.entry w.at' w.w w.v

/-- Perform writes in order: one that fails ends the series after those before it. -/
def State.putAll (s : State) (r : JobRef) (j : JobSt) : List JWrite → State × ChunkEnd
  | [] => (s, .done)
  | w :: ws =>
    match s.putOne r j w with
    | .ok s => s.putAll r j ws
    | .fail c e => (s, .fail c e)
    | .hold => (s, .hold)

/-- Index i of the index list. -/
def State.copyIndex (s : State) (r : JobRef) (j : JobSt) (p : CopyPlan) (i : Nat) : JRes (State × Int) :=
  (s.getBits r j 1 (8 * (p.ib + 4 * i)) 32).bind fun v => .ok (v.1, readInt true 32 v.2)

/-- The bit address of source element i. -/
def State.srcAt (s : State) (r : JobRef) (j : JobSt) (p : CopyPlan) (i : Nat) : JRes (State × Nat) :=
  if p.op = 1 then (s.copyIndex r j p i).bind fun v => .ok (v.1, tableAt p.sb p.ws v.2)
  else .ok (s, stridedAt p.sb p.ws p.n p.s i)

/-- The bit address of destination element i. -/
def State.dstAt (s : State) (r : JobRef) (j : JobSt) (p : CopyPlan) (i : Nat) : JRes (State × Nat) :=
  if p.op = 2 then (s.copyIndex r j p i).bind fun v => .ok (v.1, tableAt p.db p.wd v.2)
  else .ok (s, stridedAt p.db p.wd p.n p.t i)

/-- The address of the scale of the block that holds a bit address, for a page's geometry (R208); none beyond the data
or outside the page. -/
def State.scaleAt (s : State) (part : Nat) (b : BlkFmt) (at' : Nat) : Option Nat :=
  (s.pageAt part (at' / 8)).bind fun g =>
    let o := at' - 8 * g.va
    let k := g.blockOf (o / b.bits)
    if 8 * g.dataBytes b < o + b.bits then none
    else if g.has 26 then some (g.va + g.size + k * b.scaleBytes)
    else if g.size < g.dataBytes b + (k + 1) * b.scaleBytes then none
    else some (g.va + g.dataBytes b + k * b.scaleBytes)

/-- The pieces of a scale: an access of its page, in some footprint of the job (R220). -/
def State.scalePieces (s : State) (r : JobRef) (j : JobSt) (write : Bool) (e : Nat) (b : BlkFmt) (at' : Nat) :
    JRes (Nat × List JPiece) :=
  match s.scaleAt j.part b at' with
  | none => .fail jXlate e
  | some a => (s.jobCheck r j write (fun _ _ => true) (word a) b.scaleBytes).bind fun ps => .ok (a, ps)

/-- An element at a bit address lies within the data of its page: asked of pages in a block format (R208). -/
def State.inData (s : State) (part at' w e : Nat) : JRes Unit :=
  match s.pageAt part (at' / 8) with
  | none => .ok ()
  | some g =>
    match g.fmt.bind Fmt.blk? with
    | none => .ok ()
    | some b => if 8 * g.dataBytes b < at' - 8 * g.va + w then .fail jXlate e else .ok ()

/-- A source element: its bits, and the address and value of its scale where the copy needs it. -/
structure CopyElem where
  code : Nat
  scaleAt : Nat
  scale : Nat
  deriving DecidableEq, Repr

/-- Read source element i. -/
def State.readElem (s : State) (r : JobRef) (j : JobSt) (p : CopyPlan) (i : Nat) : JRes (State × CopyElem) :=
  if p.op = 3 then .ok (s, ⟨p.fill % 2 ^ p.ws, 0, 0⟩)
  else
    (s.srcAt r j p i).bind fun at' =>
      (at'.1.getBits r j 0 at'.2 p.ws).bind fun v =>
        match blkOfCode p.fs with
        | none => .ok (v.1, ⟨v.2, 0, 0⟩)
        | some b =>
          if !p.both then (s.inData j.part at'.2 p.ws 0).bind fun _ => .ok (v.1, ⟨v.2, 0, 0⟩)
          else
            (v.1.scalePieces r j false 0 b at'.2).bind fun q =>
              let (s, bs) := v.1.jobRead r j (word q.1) q.2
              .ok (s, ⟨v.2, q.1, leNat bs⟩)

/-- The number format of a code; raw codes are integers. -/
def numOfCode (fmt : Nat) : Option NumTy := (Fmt.ofCode? fmt).bind fmtNum

/-- The value of an element, and the flag that its scale raises (R40). -/
def elemValue (fmt : Nat) (e : CopyElem) : FVal × Flags :=
  match blkOfCode fmt with
  | some b => (blkDecode b e.scale e.code, blkScaleFlag b e.scale)
  | none =>
    match numOfCode fmt with
    | some (.flt f) => (f.decode e.code, 0)
    | some (.int sg w) => (FVal.ofInt (readInt sg w e.code), 0)
    | none => (.fin false 0 0, 0)

/-- A value in a number format (R50). -/
def encodeValue (rm : RMode) (t : NumTy) (v : FVal) : Nat × Flags :=
  match t with
  | .flt f => f.encode rm v
  | .int sg w => let r := toIntRange rm (intLo sg w) (intHi sg w) v; (wrapBits w r.1, r.2)

/-- An element in the destination's format, which is no block format (R50). -/
def convertElem (rm : RMode) (p : CopyPlan) (e : CopyElem) : Nat × Flags :=
  if !p.conv then (e.code, 0)
  else
    match numOfCode p.fs, numOfCode p.fd with
    | some a, some b => convert rm a b e.code
    | none, some b =>
      let v := elemValue p.fs e
      let c := encodeValue rm b v.1
      (c.1, c.2 ||| v.2)
    | _, none => (e.code, 0)

/-- Read elements, in order. -/
def State.readElems (s : State) (r : JobRef) (j : JobSt) (p : CopyPlan) : List Nat → JRes (State × List CopyElem)
  | [] => .ok (s, [])
  | i :: is =>
    (s.readElem r j p i).bind fun v =>
      (v.1.readElems r j p is).bind fun w => .ok (w.1, v.2 :: w.2)

/-- The elements of a block lie within the data of their pages. -/
def State.blockInData (s : State) (j : JobSt) (p : CopyPlan) : List Nat → JRes Unit
  | [] => .ok ()
  | i :: is => (s.inData j.part (stridedAt p.db p.wd p.n p.t i) p.wd p.rc).bind fun _ => s.blockInData j p is

/-- The scale of a block of the destination, where the job writes one. -/
def State.blockScale (s : State) (r : JobRef) (j : JobSt) (p : CopyPlan) (b : BlkFmt) (i : Nat) (scale : Option Nat) :
    JRes (Option (Nat × List JPiece × Nat)) :=
  match scale with
  | none => .ok none
  | some sc => (s.scalePieces r j true p.rc b (stridedAt p.db p.wd p.n p.t i)).bind fun q => .ok (some (q.1, q.2, sc))

/-- Write the elements of a block at their destinations. -/
def State.writeElems (s : State) (r : JobRef) (j : JobSt) (p : CopyPlan) : List (Nat × Nat) → JRes State
  | [] => .ok s
  | (i, v) :: rest =>
    (s.putBits r j p.rc (stridedAt p.db p.wd p.n p.t i) p.wd v).bind fun s => s.writeElems r j p rest

/-- One element. -/
def State.copyElem (s : State) (r : JobRef) (j : JobSt) (p : CopyPlan) (i : Nat) : JRes (State × Flags) :=
  (s.readElem r j p i).bind fun e =>
    let c := convertElem j.card.rm p e.2
    (e.1.dstAt r j p i).bind fun d =>
      (d.1.putBits r j p.rc d.2 p.wd c.1).bind fun s => .ok (s, c.2)

/-- The codes, the scale and the flags of a block of the destination; no scale where raw codes move. Elements that come
from one block of the same format move with its scale. -/
def blockCodes (rm : RMode) (p : CopyPlan) (b : BlkFmt) (es : List CopyElem) : List Nat × Option Nat × Flags :=
  let first := es.headD ⟨0, 0, 0⟩
  if !p.both then (es.map CopyElem.code, none, 0)
  else if p.fs = p.fd && es.all fun e => e.scaleAt = first.scaleAt then (es.map CopyElem.code, some first.scale, 0)
  else
    let vs := es.map (elemValue p.fs)
    let q := blkQuant b rm (vs.map Prod.fst)
    (q.1, some q.2.1, vs.foldl (fun f v => f ||| v.2) q.2.2)

/-- One block of the destination: the elements that lie in it, and its scale, checked before anything is written. -/
def State.copyBlock (s : State) (r : JobRef) (j : JobSt) (p : CopyPlan) (b : BlkFmt) (is : List Nat) :
    JRes (State × Flags) :=
  if is.isEmpty then .ok (s, 0)
  else (s.readElems r j p is).bind fun es =>
    let c := blockCodes j.card.rm p b es.2
    (es.1.blockInData j p is).bind fun _ =>
      (es.1.blockScale r j p b (is.headD 0) c.2.1).bind fun q =>
        (es.1.writeElems r j p (is.zip c.1)).bind fun s =>
          .ok (match q with
            | none => s
            | some (a, ps, sc) => s.jobWrite r j (word a) ps (leBytes b.scaleBytes sc), c.2.2)

-- Units and chunks (R246)

/-- The blocks of a page that is written whole (R208). -/
def WholePage.blocks (w : WholePage) (b : BlkFmt) : Nat :=
  let rows := (w.page.elems b + w.page.rowLen - 1) / w.page.rowLen
  if w.page.column then (rows + 31) / 32 * w.page.rowLen else w.page.elems b / 32

/-- The elements of block u of a page that is written whole, as the job counts them. -/
def WholePage.block (w : WholePage) (p : CopyPlan) (b : BlkFmt) (u : Nat) : List Nat :=
  let l := w.page.rowLen
  let ks := (List.range 32).map fun q => if w.page.column then (32 * (u / l) + q) * l + u % l else 32 * u + q
  (ks.filter (· < w.page.elems b)).map fun k => elemInOrder p.dims (w.first + k)

/-- The elements of block u of the pages that are written whole. -/
def wholeBlock (p : CopyPlan) (b : BlkFmt) : List WholePage → Nat → List Nat
  | [], _ => []
  | w :: ws, u => if u < w.blocks b then w.block p b u else wholeBlock p b ws (u - w.blocks b)

/-- The elements of unit u: element u, or the elements of block u of the destination. -/
def unitElems (p : CopyPlan) (ws : List WholePage) (u : Nat) : List Nat :=
  match blkOfCode p.fd with
  | none => [u]
  | some b => if ws.isEmpty then (List.range 32).map (32 * u + ·) else wholeBlock p b ws u

/-- The number of units. -/
def unitCount (p : CopyPlan) (ws : List WholePage) : Nat :=
  match blkOfCode p.fd with
  | none => p.total
  | some b => if ws.isEmpty then p.total / 32 else (ws.map fun w => w.blocks b).foldl (· + ·) 0

/-- The most units of a chunk of 512 bytes. -/
def chunkUnits (p : CopyPlan) : Nat :=
  match blkOfCode p.fd with
  | some b => 512 / b.dataBytes
  | none => if p.wd = 6 then 680 else 4096 / p.wd

/-- One unit. -/
def State.copyUnit (s : State) (r : JobRef) (j : JobSt) (p : CopyPlan) (ws : List WholePage) (u : Nat) :
    JRes (State × Flags) :=
  match blkOfCode p.fd with
  | none => s.copyElem r j p u
  | some b => s.copyBlock r j p b (unitElems p ws u)

/-- Units from u on: a unit that fails ends the chunk after those before it. -/
def State.copyUnits (s : State) (r : JobRef) (j : JobSt) (p : CopyPlan) (ws : List WholePage) :
    Nat → Nat → Flags → State × Flags × ChunkEnd
  | 0, _, fl => (s, fl, .done)
  | k + 1, u, fl =>
    match s.copyUnit r j p ws u with
    | .ok v => v.1.copyUnits r j p ws k (u + 1) (fl ||| v.2)
    | .fail c e => (s, fl, .fail c e)
    | .hold => (s, fl, .hold)

/-- The bits of n units from unit u on, rounded up to whole bytes. -/
def chunkBits (p : CopyPlan) (ws : List WholePage) (u n : Nat) : Nat :=
  ((List.range n).map fun k => (unitElems p ws (u + k)).length).foldl (· + ·) 0 * p.wd + 7

/-- COPY_CHUNK_DELIVERY (R246): the next chunk of a running job of the copy unit is performed, and subtracts its bytes
from a bound barrier. -/
def execCopyChunkDelivery (r : JobRef) (s : State) : Out :=
  match s.job? r with
  | none => disabled "COPY_CHUNK_DELIVERY"
  | some j =>
    if j.card.engine ≠ 1 || j.phase ≠ .running || !s.running j.part then disabled "COPY_CHUNK_DELIVERY"
    else
      let p := s.copyPlan j.part j.card
      let ws := s.columnPages j.part p (j.card.writes.headD ⟨0, 0, 0⟩)
      let n := min (chunkUnits p) (unitCount p ws - j.progress)
      match s.jobBarrier r j with
      | .ok bar =>
        let broken := match bar with | some b => j.detail = 0 && (s.barrier b.1 b.2).broken | none => false
        if broken then .next (s.endJob r j jBroken 0)
        else
          match s.copyUnits r j p ws n j.progress j.flags with
          | (_, _, .hold) => disabled "COPY_CHUNK_DELIVERY"
          | (s, fl, .fail c e) => .next (s.endJob r { j with flags := fl } c e)
          | (s, fl, .done) =>
            let bytes := chunkBits p ws j.progress n / 8
            let j := { j with progress := j.progress + n, detail := j.detail + bytes, flags := fl }
            let s := if j.progress < unitCount p ws then s.setJob r j else s.endJob r j jDone 0
            .next (match bar with | some b => s.deliverBarrier b.1 b.2 bytes | none => s)
      | _ => disabled "COPY_CHUNK_DELIVERY"

/-- A job of the copy unit starts. -/
def State.startCopy (s : State) (r : JobRef) (op : Nat) (name : String) : Out :=
  match s.job? r with
  | none => disabled name
  | some j =>
    if j.card.engine = 1 && j.card.op = op && s.mayStart r j then .next (s.setJob r { j with phase := .running })
    else disabled name

/-- COPY: an op 0 job starts (R240, R244). -/
def execCopy (r : JobRef) (s : State) : Out := s.startCopy r 0 "COPY"
/-- GATHER. -/
def execGather (r : JobRef) (s : State) : Out := s.startCopy r 1 "GATHER"
/-- SCATTER. -/
def execScatter (r : JobRef) (s : State) : Out := s.startCopy r 2 "SCATTER"
/-- FILL. -/
def execFill (r : JobRef) (s : State) : Out := s.startCopy r 3 "FILL"

end Sys2Proof.Machine
end

