-- ==== Sys2Proof/Machine/Enum.lean ====
section
/-!
DEFINITION. The enumeration table (20 R357, R358, Table 20.3), its copies in partitions, and the changes of its live
fields that the package itself makes: die links (R354, R355) and ports (R359).
-/
namespace Sys2Proof.Machine

/-- The dies of a die link (Table 20.1). -/
def linkDies : List (Nat × Nat) := [(0, 1), (1, 2), (2, 3), (4, 5), (5, 6), (6, 7), (0, 4), (1, 5), (2, 6), (3, 7)]

/-- Two compute dies share a link that is in service. -/
def linked (links : BitVec 10) (i j : Nat) : Bool :=
  (List.range 10).any fun l =>
    links.getLsbD l && (linkDies[l]? = some (i, j) || linkDies[l]? = some (j, i))

/-- The latency class of die i to die j; 8 is the base die (R355, R358). -/
def latencyClass (links : BitVec 10) (i j : Nat) : Nat :=
  if i = j then 1 else if i = 8 ∨ j = 8 then 2 else if linked links i j then 2 else 3

/-- LATENCY. -/
def latencyBytes (links : BitVec 10) : List Byte :=
  (List.range 81).map fun k => BitVec.ofNat 8 (latencyClass links (k / 9) (k % 9))

/-- The live physical positions of a map of bits, in order. -/
def livePositions (m : List Byte) : List Nat :=
  (List.range (8 * m.length)).filter fun p => bit (m.getD (p / 8) 0).toNat (p % 8)

/-- LOG2PHYS of a die. -/
def log2phys (g : Grade) (m : List Byte) : List Byte :=
  (List.range 80).map fun j =>
    if j < g.gx * g.gy then BitVec.ofNat 8 ((livePositions m).getD j 0xFF) else 0xFF

/-- GRADE. -/
def Grade.code : Grade → Nat | .fq576 => 0 | .fq512 => 1 | .fq448 => 2

/-- The enumeration table (Table 20.3). -/
def Pkg.enumTable (k : Pkg) : List Byte :=
  let g := k.grade
  leBytes 4 1 ++ leBytes 1 g.code ++ leBytes 1 0xFF ++ leBytes 1 g.gx ++ leBytes 1 g.gy
    ++ leBytes 2 (8 * (g.gx * g.gy)) ++ leBytes 2 (8 * g.slices) ++ leBytes 2 (g.npc + 64)
    ++ leBytes 2 k.links.toNat ++ leBytes 2 k.liveStacks.toNat ++ leBytes 2 k.ports.toNat ++ leBytes 4 k.channels.toNat
    ++ leBytes 8 g.nearSize ++ (k.clmap.take 128) ++ (k.l2map.take 128)
    ++ ((List.range 8).map fun d => log2phys g ((k.clmap.drop (16 * d)).take 16)).flatten
    ++ latencyBytes k.links ++ List.replicate 15 0
    ++ (k.idkey.take 32) ++ (k.serial.take 16) ++ List.replicate 32 0
    ++ (k.owner.key.take 32) ++ leBytes 8 k.owner.nonce ++ leBytes 8 k.owner.seq ++ List.replicate 0x380 0

/-- Rewrite a field of the table in every partition's copy (R357). -/
def State.rewriteField (s : State) (off n : Nat) : State :=
  let bs := (s.pkg.enumTable.drop off).take n
  s.parts.foldl (fun s p => s.writePhys (p.2.cfg.enumcopy + off) bs) s

/-- Rewrite fields in an order. -/
def State.rewriteFields (s : State) (fs : List (Nat × Nat)) : State := fs.foldl (fun s f => s.rewriteField f.1 f.2) s

/-- The live fields: offsets and sizes. -/
def fLatency : Nat × Nat := (0x3A0, 81)
def fLinks : Nat × Nat := (0x00E, 2)
def fPorts : Nat × Nat := (0x012, 2)
def fOwnerKey : Nat × Nat := (0x450, 32)
def fNonce : Nat × Nat := (0x470, 8)
def fOwnSeq : Nat × Nat := (0x478, 8)

/-- DIE_LINK_FAILURE: `unit` is the link. LATENCY is written before LINKS (R358); traffic takes other paths, and no
access fails (R354). -/
def execDieLinkFailure (s : State) : Out :=
  if s.unit < 10 && s.pkg.links.getLsbD s.unit then
    let s := { s with pkg := { s.pkg with links := s.pkg.links &&& ~~~(BitVec.twoPow 10 s.unit) } }
    .next (s.rewriteFields [fLatency, fLinks])
  else disabled "DIE_LINK_FAILURE"

/-- PORT_LINK_CHANGE (R359). -/
def execPortLinkChange (port : Fin 16) (up : Bool) (s : State) : Out :=
  let b := BitVec.twoPow 16 port.val
  if s.pkg.ports.getLsbD port.val = up then disabled "PORT_LINK_CHANGE"
  else
    let s := { s with pkg := { s.pkg with ports := if up then s.pkg.ports ||| b else s.pkg.ports &&& ~~~b } }
    .next (s.rewriteFields [fPorts])

/-- UNRELIABLE_PACKET_DROP (R359): it is counted in telemetry. -/
def execUnreliablePacketDrop (s : State) : Out :=
  .next { s with pkg := { s.pkg with telemetry := { s.pkg.telemetry with dropped := s.pkg.telemetry.dropped + 1 } } }

end Sys2Proof.Machine
end

