-- ==== Sys2Proof/Machine/Homes.lean ====
section
/-!
DEFINITION. Home cores (08 R201-R204, 18 R347): the requests of the home slices and the engines, the order in which they
are served, the memory-side cache, refreshes, the patrol scrub; the sizes of L2 and of the TLBs (08 R201, R210). No
program result depends on them. CLFLAGS updates (02 R49) stand here too.
-/
namespace Sys2Proof.Machine

/-- Home cores of the package. -/
def homeCount (g : Grade) : Nat := g.npc + 64

/-- A home core. -/
def State.homeCore (s : State) (h : Nat) : HomeCore := Map.getD s.pkg.homes h ⟨[], [], 0, []⟩
/-- Replace it. -/
def State.setHomeCore (s : State) (h : Nat) (v : HomeCore) : State :=
  { s with pkg := { s.pkg with homes := Map.put s.pkg.homes h v } }

-- The memory-side cache (R202)

/-- Sets of the memory-side cache: the rows of 8,192 frames. -/
def mscSets : Nat := 2 ^ 23

/-- The set of a capacity-tier line of 128 bytes. -/
def mscSetOf (line : Nat) : Nat := Config.mscSet (line / 2) % mscSets

/-- The row of a set: in the frames after the last addressable one (R199). -/
def setRow (g : Grade) (set : Nat) : RowPlace := frameRow g (g.nearSize / 2 ^ 21 + set / 1024) (set % 1024)

/-- The row that a request for a line from above goes to: of the line's frame, or of its set (R201, R202). -/
def missTarget (g : Grade) (line : Nat) : RowPlace :=
  if 128 * line < capBase then rowOf g (128 * line) else setRow g (mscSetOf line)

/-- The row of a line where its tier holds it. -/
def lineRow (g : Grade) (line : Nat) : RowPlace := rowOf g (128 * line)

/-- Ways of a set. -/
def mscWays : Nat := 7

/-- The ways in use of a set. -/
def Mem.mscOf (m : Mem) (set : Nat) : List MscWay := Map.getD m.msc set []

/-- A set holds a line. -/
def mscHit (ws : List MscWay) (line : Nat) : Bool := ws.any fun w => w.line = line / 2

/-- A line of a set becomes dirty. -/
def mscDirty (ws : List MscWay) (line : Nat) : List MscWay :=
  ws.map fun w => if w.line = line / 2 then { w with dirty := true } else w

-- Requests (R203, R204)

/-- A request arrives at the home core of a row. -/
def State.enterReq (s : State) (k : ReqKind) (line : Nat) (p : RowPlace) (deadline : Option Nat) (dl : Bool) : State :=
  let v := s.homeCore p.core
  s.setHomeCore p.core { v with reqs := v.reqs ++ [⟨k, line, p.bank, p.sub, p.row, deadline, dl, s.cycle⟩] }

/-- The latest-service cycle of a request that reaches a home core: 4,000 cycles on for a job with DL; that of the other
deadline-class agents is not stated (assumption 5). -/
def State.dueCycle (s : State) (dl agent : Bool) : Option Nat × State :=
  if dl then (some (s.cycle + 4000), s)
  else if agent then (some (s.cycle + Config.freeNat s.fresh), { s with fresh := s.fresh + 1 })
  else (none, s)

/-- A home slice's request for memory below reaches its home core. `agent` says that a deadline-class agent that is no
engine of a job has caused it. -/
def State.sendBelow (s : State) (agent : Bool) (b : Below) : State :=
  let (due, s) := s.dueCycle b.dl agent
  s.enterReq (.slice b.kind) b.line (missTarget s.pkg.grade b.line) due b.dl

/-- What the home slices have asked of memory below reaches the home cores. -/
def State.drainBelow (s : State) (agent : Bool) : State :=
  s.mem.below.foldl (fun s b => s.sendBelow agent b) { s with mem := { s.mem with below := [] } }

/-- The requests of in-DRAM jobs that satisfy a condition are withdrawn (14 R301). -/
def State.dropRowReqs (s : State) (f : JobRef → Bool) : State :=
  { s with pkg := { s.pkg with homes := s.pkg.homes.map fun h =>
      (h.1, { h.2 with reqs := h.2.reqs.filter fun r => match r.kind with | .row j => !f j | _ => true }) } }

-- Scheduling (Table 8.3)

/-- Lines of 128 bytes that a request covers. -/
def HomeReq.lines (r : HomeReq) : Nat :=
  match r.kind with
  | .slice _ => 1
  | .fill _ | .evict => 2
  | .row _ => 16
  | .move _ => if 128 * r.line < capBase then 16 else 2

/-- The bank of a request has its row open. -/
def HomeCore.isOpen (v : HomeCore) (r : HomeReq) : Bool := Map.get? v.openRows r.bank = some (r.sub, r.row)

/-- The class of a request at a cycle. A row operation is in class 4, unless its job has DL (14 R300, assumption 55). -/
def HomeReq.cls (r : HomeReq) (cycle : Nat) (isOpen : Bool) : Nat :=
  if (match r.deadline with | some d => decide (d < cycle + 2000) | none => false) then 1
  else match r.kind with
    | .row _ => 4
    | _ => if r.arrived + 8000 < cycle then 2 else if isOpen then 3 else 4

/-- Of two requests, the first precedes: by class, in class 1 by latest-service cycle, then by age, which is the order
of the list. -/
def HomeCore.before (v : HomeCore) (a b : HomeReq) (cycle : Nat) : Bool :=
  let ca := a.cls cycle (v.isOpen a)
  let cb := b.cls cycle (v.isOpen b)
  ca < cb || (ca = cb && (ca ≠ 1 || decide (a.deadline.getD 0 ≤ b.deadline.getD 0)))

/-- Two requests are to a line in common. -/
def HomeReq.meets (a b : HomeReq) : Bool := a.line < b.line + b.lines && b.line < a.line + a.lines

/-- A request may be taken: no earlier one is to the same line. -/
def mayTake (rs : List HomeReq) (i : Nat) : Bool :=
  match rs[i]? with
  | some r => !(rs.take i).any fun q => q.meets r
  | none => false

/-- The position of the request that a home core takes next. -/
def HomeCore.next (v : HomeCore) (cycle : Nat) : Option Nat :=
  (List.range v.reqs.length).foldl (fun best i =>
    if !mayTake v.reqs i then best
    else match best with
      | none => some i
      | some b =>
        match v.reqs[b]?, v.reqs[i]? with
        | some x, some y => if v.before x y cycle then some b else some i
        | _, _ => best) none

/-- The row of an in-DRAM job whose partition is not RUNNING holds no place at its home core (14 R301). -/
def State.holdsPlace (s : State) (r : HomeReq) : Bool :=
  match r.kind with
  | .row j =>
    match Map.get? (s.getCl j.cl).jobs j.slot with
    | some q => s.running q.part
    | none => false
  | _ => true

/-- The request that a home core takes next. -/
def State.nextReq (s : State) (h : Nat) : Option (Nat × HomeReq) :=
  let v := s.homeCore h
  let rs := (v.reqs.mapIdx fun i r => (i, r)).filter fun q => s.holdsPlace q.2
  (({ v with reqs := rs.map Prod.snd } : HomeCore).next s.cycle).bind fun i => rs[i]?

/-- A home core takes its n-th request: the row is open in its bank. A deadline-class request whose latest-service cycle
has passed is counted in telemetry (R204). -/
def State.takeReq (s : State) (h n : Nat) (r : HomeReq) : State :=
  let v := s.homeCore h
  let t := s.pkg.telemetry
  let late := match r.deadline with | some d => decide (d < s.cycle) | none => false
  let t := if late then { t with late := Map.put t.late h (Map.getD t.late h 0 + 1) } else t
  ({ s with pkg := { s.pkg with telemetry := t } }).setHomeCore h
    { v with reqs := v.reqs.eraseIdx n, openRows := Map.put v.openRows r.bank (r.sub, r.row) }

/-- A home core looks a set up: its tag cache holds the set's tags (R202). -/
def State.noteTags (s : State) (h set : Nat) : State :=
  let v := s.homeCore h
  if v.tags.contains set then s
  else if v.tags.length < Config.tagSets then s.setHomeCore h { v with tags := v.tags ++ [set] }
  else
    let (n, s) := s.pick v.tags.length
    s.setHomeCore h { v with tags := v.tags.set n set }

/-- A home core passes a request on to another, which it reaches with a latest-service cycle of its own. -/
def State.forward (s : State) (r : HomeReq) (k : ReqKind) (line : Nat) : State :=
  let (due, s) := s.dueCycle r.dl r.deadline.isSome
  s.enterReq k line (lineRow s.pkg.grade line) due r.dl

/-- A request for a capacity-tier line at the home core of its set: one that misses goes on to the subchannel's core,
which fetches the line (R202). -/
def State.lookUp (s : State) (h : Nat) (r : HomeReq) (dirty : Bool) : State :=
  let set := mscSetOf r.line
  let s := s.noteTags h set
  let ws := s.mem.mscOf set
  if mscHit ws r.line then
    if dirty then { s with mem := { s.mem with msc := Map.put s.mem.msc set (mscDirty ws r.line) } } else s
  else s.forward r (.fill dirty) (r.line / 2 * 2)

/-- A line that a subchannel's core has fetched is allocated in its set. A full set loses a way (assumption 5), which is
written back to the capacity tier where it is dirty. -/
def State.allocMsc (s : State) (r : HomeReq) (dirty : Bool) : State :=
  let set := mscSetOf r.line
  let ws := s.mem.mscOf set
  let new : MscWay := ⟨r.line / 2, dirty⟩
  let put := fun (s : State) (ws : List MscWay) => ({ s with mem := { s.mem with msc := Map.put s.mem.msc set ws } } : State)
  if mscHit ws r.line then (if dirty then put s (mscDirty ws r.line) else s)
  else if ws.length < mscWays then put s (ws ++ [new])
  else
    let (n, s) := s.pick ws.length
    let s := put s (ws.set n new)
    match ws[n]? with
    | some w => if w.dirty then s.forward r .evict (2 * w.line) else s
    | none => s

/-- What a request changes, once its home core has taken it. -/
def State.served (s : State) (h : Nat) (r : HomeReq) : State :=
  if 128 * r.line < capBase then s
  else match r.kind with
    | .slice k => s.lookUp h r (decide (k ≠ .fetch))
    | .move write => s.lookUp h r write
    | .fill dirty => s.allocMsc r dirty
    | .evict | .row _ => s

/-- HOME_CORE_SCHEDULE: `unit` is the home core. The row of an in-DRAM job is taken by DRAM_ROW. -/
def execHomeCoreSchedule (s : State) : Out :=
  match s.nextReq s.unit with
  | none => disabled "HOME_CORE_SCHEDULE"
  | some (n, r) =>
    match r.kind with
    | .row _ => disabled "HOME_CORE_SCHEDULE"
    | _ => .next ((s.takeReq s.unit n r).served s.unit r)

/-- DUE_REFRESH: `unit` is the home core. A class 1 request may postpone it, within the limit of the interface; when it
is performed, every bank's open row is closed. -/
def execDueRefresh (s : State) : Out :=
  if homeCount s.pkg.grade ≤ s.unit then disabled "DUE_REFRESH"
  else
    let v := s.homeCore s.unit
    let urgent := v.reqs.any fun r => r.cls s.cycle (v.isOpen r) = 1
    let (b, t) := if urgent && v.postponed < Config.postponeLimit then s.flip else (false, s)
    .next (t.setHomeCore s.unit (
      if b then { v with postponed := v.postponed + 1 } else { v with openRows := [], postponed := 0 }))

/-- PATROL_SCRUB: `unit` is the home core. Lines are read and corrected: what they hold does not change (18 R347). -/
def execPatrolScrub (s : State) : Out :=
  if homeCount s.pkg.grade ≤ s.unit then disabled "PATROL_SCRUB"
  else .next (s.setHomeCore s.unit { s.homeCore s.unit with openRows := [] })

-- L2 (R201)

/-- Lines that a slice holds: 1 MiB (Table 0.3). -/
def sliceLines : Nat := 8192

/-- The slices that hold more lines than they can. -/
def State.fullSlices (s : State) : List Nat :=
  let hs := s.mem.l2.map (s.mem.sliceOf s.pkg.grade)
  if s.mem.l2.length ≤ sliceLines then [] else hs.eraseDups.filter fun h => sliceLines < hs.count h

/-- A line leaves L2: a dirty one is written back to its home core. -/
def Mem.evict (m : Mem) (line : Nat) : Mem :=
  { m with
    l2 := m.l2.filter (· ≠ line)
    dirty := m.dirty.filter fun d => d.1 ≠ line
    below := if (Map.get? m.dirty line).isSome then m.below ++ [⟨line, .writeBack, false⟩] else m.below }

/-- A slice makes room: lines leave it, the choice being its own (assumption 5), until it holds no more than it can. -/
def State.trimSlice : Nat → State → Nat → State
  | 0, s, _ => s
  | k + 1, s, h =>
    let ls := s.mem.l2.filter fun l => s.mem.sliceOf s.pkg.grade l = h
    if ls.length ≤ sliceLines then s
    else
      let (n, s) := s.pick ls.length
      State.trimSlice k { s with mem := s.mem.evict (ls.getD n 0) } h

/-- Every slice makes room. -/
def State.trimL2 (s : State) : State := s.fullSlices.foldl (State.trimSlice s.mem.l2.length) s

-- TLBs (R210)

/-- Entries of a cluster's TLB, and of a die's. -/
def clusterTlb : Nat := 256
def dieTlb : Nat := 8192

/-- A TLB loses entries, the choice being its own (assumption 5), until it holds no more than it can. -/
def State.trimTlb : Nat → Nat → List TlbEntry → State → List TlbEntry × State
  | 0, _, l, s => (l, s)
  | k + 1, cap, l, s =>
    if l.length ≤ cap then (l, s)
    else
      let (n, s) := s.pick l.length
      State.trimTlb k cap (l.eraseIdx n) s

/-- Every TLB keeps to its size. -/
def State.trimTlbs (s : State) : State :=
  let s := s.mem.ctlb.foldl (fun (s : State) p =>
    if p.2.length ≤ clusterTlb then s
    else
      let (l, t) := State.trimTlb p.2.length clusterTlb p.2 s
      { t with mem := { t.mem with ctlb := Map.put t.mem.ctlb p.1 l } }) s
  s.mem.dtlb.foldl (fun (s : State) p =>
    if p.2.length ≤ dieTlb then s
    else
      let (l, t) := State.trimTlb p.2.length dieTlb p.2 s
      { t with mem := { t.mem with dtlb := Map.put t.mem.dtlb p.1 l } }) s

/-- CLFLAGS_UPDATE: `unit` is the cluster's number. The flags on their way arrive (02 R49). -/
def execClflagsUpdate (s : State) : Out :=
  let c := clOfLinear s.pkg.grade s.unit
  if (s.getCl c).clPend.isEmpty then disabled "CLFLAGS_UPDATE" else .next (s.clflagsArrive c)

end Sys2Proof.Machine
end

