-- ==== Sys2Proof/Machine/Dram.lean ====
section
/-!
DEFINITION. The in-DRAM engines (14 R295-R301): the rules of their cards, DRJOB, the start of a job, one row.
-/
namespace Sys2Proof.Machine

-- The card (R296)

/-- Bytes of a row. -/
def rowBytes : Nat := 2048

/-- Sources of an operation (Table 14.1). -/
def dramSources : Nat → Nat
  | 0 | 3 => 1 | 1 | 2 => 0 | 4 | 5 | 6 => 2 | _ => 3

/-- ROWS. -/
def Card.rows (c : Card) : Nat := recNat c.params 0 4

/-- Check 5 of Table 11.3 for an in-DRAM job. -/
def dramBad (c : Card) : Option Nat :=
  let d := c.writes.headD ⟨0, 0, 0⟩
  let fps := c.fps.mapIdx fun i f => (f.1, 16 + 16 * i)
  match firstBad [(decide (c.writes.length ≠ 1 ∨ c.reads.length ≠ dramSources c.op), 4),
      (decide (c.rows = 0 ∨ 1024 < c.rows), 112)] with
  | some o => some o
  | none =>
    firstBad (fps.map (fun f => (decide (f.1.base.toNat % rowBytes ≠ 0), f.2))
      ++ fps.map (fun f => (decide (f.1.len ≠ c.rows * rowBytes), f.2 + 8))
      ++ fps.map (fun f => (isMesh f.1.base, f.2))
      ++ fps.map (fun f => (decide (f.1.fmt ≠ 0), f.2 + 12))
      ++ [(c.reads.any fun f => fpOverlap f d, 16 + 16 * c.reads.length)])

/-- DRJOB (15 R307). -/
def execDrjob (d a : XReg) (la : LaCount) (s : State) : Out :=
  s.run (.drjob d a la) fun s =>
    s.submit (.drjob d a la) d a la 4 8 0 false fun _ _ c => dramBad c

-- The engine

/-- The first byte of write 0. -/
def Card.dest (c : Card) : Nat := (c.writes.headD ⟨0, 0, 0⟩).base.toNat

/-- The home core that executes a job: that of its destination (R295). -/
def State.dramHome (s : State) (j : JobSt) : Nat :=
  match s.pageAt j.part j.card.dest with
  | some p => homeCoreOf s.pkg.grade (p.pa j.card.dest)
  | none => 0

/-- The jobs that a home core receives. -/
def State.dramGroup (s : State) (home : Nat) (_ : JobRef) (j : JobSt) : Bool :=
  j.card.engine = 4 && s.dramHome j = home

/-- COMPUTE (Table 8.5). -/
def Page.compute (p : Page) : Bool := p.has 8

/-- The rejection of a job at its start (R297): the status of the first entry that fails. -/
def State.dramReject (s : State) (part : Nat) : List (Footprint × Bool) → Nat → Option (Nat × Nat)
  | [], _ => none
  | (f, _) :: rest, i =>
    match s.pageAt part f.base.toNat with
    | none => some (jXlate, i)
    | some p =>
      if !p.compute then some (jNotCompute, i)
      else if p.va + p.size < f.base.toNat + f.len then some (jBoundary, i)
      else s.dramReject part rest (i + 1)

/-- The next row of a job is a request at its home core (R300). -/
def State.requestRow (s : State) (r : JobRef) (j : JobSt) : State :=
  let a := j.card.dest + j.progress * rowBytes
  match s.pageAt j.part a with
  | some p =>
    let (due, s) := s.dueCycle j.card.dl false
    s.enterReq (.row r) (lineOf (p.pa a)) (rowOf s.pkg.grade (p.pa a)) due j.card.dl
  | none => s

/-- The request of a job's row at its home core, if there is one. -/
def State.rowReq (s : State) (r : JobRef) (j : JobSt) : Option (Nat × HomeReq) :=
  ((s.homeCore j.home).reqs.findIdx? fun q => q.kind = ReqKind.row r).bind fun n =>
    (s.homeCore j.home).reqs[n]?.map fun q => (n, q)

/-- The home core of a job takes the job's row next, or does not hold it: its page has lost its translation. -/
def State.rowTurn (s : State) (r : JobRef) (j : JobSt) : Bool :=
  match s.rowReq r j with
  | some (n, _) => (s.nextReq j.home).map Prod.fst = some n
  | none => true

/-- An in-DRAM job starts, or is rejected (R297); one that continues after a pre-emption is past its tests (R301). -/
def State.startDram (s : State) (r : JobRef) (op : Nat) (name : String) : Out :=
  match s.job? r with
  | none => disabled name
  | some j =>
    if j.card.engine ≠ 4 || j.card.op ≠ op || !s.sharedNext (s.dramGroup (s.dramHome j)) j then disabled name
    else
      match if j.progress = 0 then s.dramReject j.part j.card.fps 0 else none with
      | some (c, e) => .next (s.endJob r j c e)
      | none =>
        let j := { j with phase := .running, home := s.dramHome j, fence := s.mem.stores }
        .next ((s.setJob r j).requestRow r j)

/-- RCOPY. -/
def execRcopy (r : JobRef) (s : State) : Out := s.startDram r 0 "RCOPY"
/-- RFILL0. -/
def execRfill0 (r : JobRef) (s : State) : Out := s.startDram r 1 "RFILL0"
/-- RFILL1. -/
def execRfill1 (r : JobRef) (s : State) : Out := s.startDram r 2 "RFILL1"
/-- RNOT. -/
def execRnot (r : JobRef) (s : State) : Out := s.startDram r 3 "RNOT"
/-- RAND. -/
def execRand (r : JobRef) (s : State) : Out := s.startDram r 4 "RAND"
/-- ROR. -/
def execRor (r : JobRef) (s : State) : Out := s.startDram r 5 "ROR"
/-- RXOR. -/
def execRxor (r : JobRef) (s : State) : Out := s.startDram r 6 "RXOR"
/-- RMAJ. -/
def execRmaj (r : JobRef) (s : State) : Out := s.startDram r 7 "RMAJ"

-- One row (R298)

/-- Bitwise majority. -/
def majority (a b c : Byte) : Byte := (a &&& b) ||| (a &&& c) ||| (b &&& c)

/-- The destination row, from the source rows (Table 14.1). -/
def dramRow (op : Nat) (src : List (List Byte)) : List Byte :=
  let x := src.getD 0 []
  let y := src.getD 1 []
  let z := src.getD 2 []
  match op with
  | 0 => x
  | 1 => List.replicate rowBytes 0
  | 2 => List.replicate rowBytes 0xFF
  | 3 => x.map (~~~ ·)
  | 4 => List.zipWith (· &&& ·) x y
  | 5 => List.zipWith (· ||| ·) x y
  | 6 => List.zipWith (· ^^^ ·) x y
  | _ => List.zipWith (fun a p => majority a p.1 p.2) x (y.zip z)

/-- Step 1: partials of the lines are merged and dirty L2 lines written back; the L2 copies remain, clean. -/
def Mem.cleanRange (m : Mem) (pa n : Nat) : Mem :=
  let ls := linesOf pa n
  let m := ls.foldl Mem.recall m
  { m with
    dirty := m.dirty.filter fun d => !ls.contains d.1
    below := m.below ++ (m.dirty.keys.filter ls.contains).map fun l => ⟨l, .writeBack, false⟩ }

/-- Step 2: partials and L2 copies of the lines are dropped. -/
def Mem.dropRange (m : Mem) (pa n : Nat) : Mem :=
  let ls := linesOf pa n
  { m with
    partials := m.partials.filter fun p => !ls.contains p.line
    l2 := m.l2.filter fun l => !ls.contains l
    dirty := m.dirty.filter fun d => !ls.contains d.1 }

/-- Step 2: every way of every cluster that holds one of the lines is invalidated. -/
def State.dropAllWays (s : State) (pa n : Nat) : State :=
  let ls := linesOf pa n
  { s with clusters := s.clusters.map fun c =>
      (c.1, { c.2 with ways := c.2.ways.filter fun w => !ls.contains w.line }) }

/-- The granules of n x 8 bytes from an address on, one by one: each as it is in a list of bytes, or one of the other
values that it may have (R299). -/
def State.chooseGranules (s : State) (others : Nat → List (List Byte)) : Nat → Nat → List Byte → State × List Byte
  | 0, _, _ => (s, [])
  | k + 1, pa, bs =>
    let now := bs.take 8
    let cs := (now :: others pa).eraseDups
    let (i, s) := s.pick cs.length
    let (s, rest) := s.chooseGranules others k (pa + 8) (bs.drop 8)
    (s, cs.getD i now ++ rest)

/-- A source row at its homes: each granule as it is, or as a store that races with the row found it (R299). -/
def State.rowBytesAt (s : State) (j : JobSt) : List JPiece → State × List Byte
  | [] => (s, [])
  | p :: ps =>
    match p.place with
    | .scr _ => s.rowBytesAt j ps
    | .glob pa =>
      let old := s.mem
      let s := { s with mem := s.mem.cleanRange pa p.n }
      let (s, b) := s.chooseGranules (fun a => old.oldValues a j.fence) (p.n / 8) pa (cellsRead s.mem.home pa p.n)
      let (s, bs) := s.rowBytesAt j ps
      (s, b ++ bs)

/-- Step 1 of the source rows i on: their contents. What has been read stays read, whatever follows (R299). -/
def State.sourceRows (s : State) (r : JobRef) (j : JobSt) : List Footprint → Nat → State × JRes (List (List Byte))
  | [], _ => (s, .ok [])
  | f :: fs, i =>
    let a := f.base + word (j.progress * rowBytes)
    match s.jobCheck r j false (fun k _ => k = i) a rowBytes with
    | .fail c e => (s, .fail c e)
    | .hold => (s, .hold)
    | .ok ps =>
      let s := (s.noteRange none j.part a rowBytes).notePieces (jobAgent s.pkg.grade r j) false ps
      let (s, bs) := s.rowBytesAt j ps
      let (s, rest) := s.sourceRows r j fs (i + 1)
      (s, rest.bind fun bss => .ok (bs :: bss))

/-- Step 2 for the lines of a row: every copy is dropped. -/
def State.dropRow (s : State) (ps : List JPiece) : State :=
  ps.foldl (fun s p =>
    match p.place with
    | .scr _ => s
    | .glob pa => let s := s.dropAllWays pa p.n; { s with mem := s.mem.dropRange pa p.n }) s

/-- Step 3 of a row: its pieces are written below their homes. -/
def State.writeRow (s : State) : List JPiece → List Byte → State
  | [], _ => s
  | p :: ps, bs =>
    let s := match p.place with
      | .scr _ => s
      | .glob pa => { s with mem := s.mem.putBelow pa (bs.take p.n) }
    s.writeRow ps (bs.drop p.n)

/-- Steps 2 to 4 of the destination row: no other access of its lines comes between them (R298). -/
def State.destRow (s : State) (r : JobRef) (j : JobSt) (bs : List Byte) : JRes State :=
  let a := word (j.card.dest + j.progress * rowBytes)
  (s.jobCheck r j true (fun _ _ => true) a rowBytes).bind fun ps =>
    let s := (s.noteRange none j.part a rowBytes).notePieces (jobAgent s.pkg.grade r j) true ps
    .ok ((s.dropRow ps).writeRow ps bs)

/-- A row is finished: the home core has served it, and is asked for the next. -/
def State.rowDone (s : State) (r : JobRef) (j : JobSt) : State :=
  let s := match s.rowReq r j with | some (n, q) => s.takeReq j.home n q | none => s
  let j := { j with progress := j.progress + 1, detail := j.detail + 1, fence := s.mem.stores }
  if j.progress < j.card.rows then (s.setJob r j).requestRow r j
  else s.endJob r j jDone 0

/-- A row ends its job. -/
def State.rowFails (s : State) (r : JobRef) (j : JobSt) (c e : Nat) : State :=
  (s.dropRowReqs (· = r)).endJob r j c e

/-- A row: the sources are read, and the destination row is made (R298). -/
def State.newRow (s : State) (r : JobRef) (j : JobSt) : State × JRes State :=
  match s.sourceRows r j j.card.reads 0 with
  | (s, .fail c e) => (s, .fail c e)
  | (s, .hold) => (s, .hold)
  | (s, .ok rows) => (s, s.destRow r j (dramRow j.card.op rows))

/-- DRAM_ROW: the next row of a running job, when its home core takes it. Its four steps are one: another access is
performed before the row or after it, as one that is held is (R298, R299). -/
def execDramRow (r : JobRef) (s : State) : Out :=
  match s.job? r with
  | none => disabled "DRAM_ROW"
  | some j =>
    let n := s.mem.below.length
    if j.card.engine ≠ 4 || j.phase ≠ .running || !s.running j.part || !s.rowTurn r j then disabled "DRAM_ROW"
    else
      match s.newRow r j with
      | (_, .hold) => disabled "DRAM_ROW"
      | (t, .fail c e) => .next ((t.rowFails r j c e).tagBelow n j)
      | (_, .ok t) => .next ((t.rowDone r j).tagBelow n j)

end Sys2Proof.Machine
end

