-- ==== Sys2Proof/Machine/Expert.lean ====
section
/-!
DEFINITION. Experts (13 R271-R288, 15 R316-R323, 20 R370): registration, policy, replicas and snapshots, admission,
batches, the seal, creation and draining, steps and the join; operations on names of other modules, and those that other
modules ask for. `unit` of TOKEN_DELIVERY is the position of the delivery, of WINDOW_BOUNDARY the name.
-/
namespace Sys2Proof.Machine

-- Status codes (Table 13.1)

/-- The result of an expert operation that fails. -/
def negCode (n : Nat) : Word := word (2 ^ 64 - n)

def xNoAdmit : Word := negCode 1
def xSealed : Word := negCode 2
def xStale : Word := negCode 3
def xRetired : Word := negCode 5
def xBusy : Word := negCode 6
def xExists : Word := negCode 7
def xNoSpace : Word := negCode 8
def xBadRec : Word := negCode 9
def xNoStep : Word := negCode 10
def xNoSeal : Word := negCode 11
def xHandle : Word := negCode 12

-- The expert and its replicas

/-- An expert. -/
def State.expert? (s : State) (name : Nat) : Option Expert := Map.get? s.pkg.experts name
/-- Replace it. -/
def State.setExpert (s : State) (name : Nat) (e : Expert) : State :=
  { s with pkg := { s.pkg with experts := Map.put s.pkg.experts name e } }

/-- A replica. -/
def Expert.rep (e : Expert) (i : Fin 16) : Replica := e.reps.get i
/-- Replace it. -/
def Expert.setRep (e : Expert) (i : Fin 16) (r : Replica) : Expert := { e with reps := e.reps.set i.val r }
/-- The replicas in a state. -/
def Expert.inState (e : Expert) (st : RepState) : List (Fin 16) := (List.finRange 16).filter fun i => (e.rep i).state = st
/-- The number of LIVE replicas. -/
def Expert.liveCount (e : Expert) : Nat := (e.inState .live).length
/-- The replicas that are CREATING, LIVE or DRAINING. -/
def Expert.active (e : Expert) : List (Fin 16) :=
  (List.finRange 16).filter fun i => (e.rep i).state = .creating || (e.rep i).state = .live || (e.rep i).state = .draining
/-- A set of replicas as a mask. -/
def repMask (rs : List (Fin 16)) : BitVec 16 := rs.foldl (fun m i => m ||| BitVec.twoPow 16 i.val) 0
/-- The die of a replica. -/
def Expert.dieOf (e : Expert) (i : Fin 16) : Nat := (e.groups.getD (e.rep i).group (⟨0, 0, 0⟩, 0)).1.die

/-- The number of the current step of a partition (R285). -/
def State.stepOf (s : State) (p : Nat) : Nat := match s.part? p with | some v => v.stepno | none => 0

/-- The clusters of a group: consecutive in logical order (R273). -/
def groupClusters (g : Grade) (first : ClusterId) (size : Nat) : List ClusterId :=
  (List.range size).map fun k => clOfLinear g (clLinear g first + k)

/-- The clusters of group k of an expert. -/
def State.groupOf (s : State) (e : Expert) (k : Nat) : List ClusterId :=
  groupClusters s.pkg.grade (e.groups.getD k (⟨0, 0, 0⟩, 0)).1 e.gsize

/-- The control context of core 0 of a cluster. -/
def leafCtx (c : ClusterId) : CtxId := ⟨⟨c, 0⟩, 0⟩

/-- A group is free: it serves no replica, and the control context of core 0 of each of its clusters is free (R282). -/
def State.groupFree (s : State) (cs : List ClusterId) : Bool :=
  cs.all (fun c => !(s.getCtx (leafCtx c)).live) &&
    !s.pkg.experts.any fun q => q.2.active.any fun i => (s.groupOf q.2 (q.2.rep i).group).any cs.contains

/-- Start a leaf in a control context (01 R30). -/
def State.startLeaf (s : State) (c : CtxId) (l : Leaf) (pc x1 : Word) : State :=
  let n := s.nextLeaf
  (({ s with leaves := Map.put s.leaves n l, nextLeaf := n + 1 } : State).resetVec c.core).setCtx c
    (({ Ctx.init with pc := pc, live := true, leaf := some n, loaded := s.mem.stores } : Ctx).wx 1 x1)

/-- Start the leaves of a replica (R275). -/
def State.startReplica (s : State) (name : Nat) (e : Expert) (i : Fin 16) : State :=
  ((s.groupOf e (e.rep i).group).mapIdx fun k c => (k, c)).foldl (fun s kc =>
    let c := leafCtx kc.2
    let s := s.startLeaf c ⟨e.rdeadline, 0, Vector.replicate 8 0, Vector.replicate 8 0, e.part, c, none⟩ e.entry e.arg
    s.setCtx c ((s.getCtx c).wx 3 (word (name + i.val * 2 ^ 24 + kc.1 * 2 ^ 32)))) s

/-- A context belongs to the group of a replica that is being created: it is given (R282, R283). -/
def State.creatingCtx (s : State) (c : CtxId) : Bool :=
  s.pkg.experts.any fun q => (q.2.inState .creating).any fun i => ((s.groupOf q.2 (q.2.rep i).group).map leafCtx).contains c

/-- A new snapshot version goes to the selector of every die (R278). -/
def State.publish (s : State) (name : Nat) (e : Expert) : State :=
  let e := { e with snap := e.snap + 1 }
  let s := s.setExpert name e
  let sent : List Snapshot := (List.range 8).map fun d => ⟨d, name, e.snap, repMask (e.inState .live)⟩
  { s with pkg := { s.pkg with inFlight := s.pkg.inFlight ++ sent } }

/-- The first snapshot of a name: the selector of every die holds it when XREG returns (16 R329, assumption 28). -/
def State.publishFirst (s : State) (name : Nat) (e : Expert) : State :=
  let e := { e with snap := e.snap + 1 }
  let s := s.setExpert name e
  let other := fun (x : Snapshot) => decide (x.name ≠ name)
  let held : List Snapshot := (List.range 8).map fun d => ⟨d, name, e.snap, repMask (e.inState .live)⟩
  { s with pkg := { s.pkg with
      selectors := s.pkg.selectors.filter other ++ held
      inFlight := s.pkg.inFlight.filter other } }

/-- A replica becomes RETIRED when it is DRAINING, JOINED, has FWD = BWD and an empty queue (R284). -/
def Expert.settle (e : Expert) (i : Fin 16) : Expert :=
  let r := e.rep i
  if r.state = .draining && r.joined && r.fwd = r.bwd && r.queue.isEmpty then e.setRep i { r with state := .retired }
  else e

/-- A LIVE replica is marked DRAINING (R284). -/
def State.drain (s : State) (name : Nat) (e : Expert) (i : Fin 16) : State :=
  s.publish name ((e.setRep i { e.rep i with state := .draining }).settle i)

-- Registration (R273, R274)

/-- A page of canonical weights or of a copy: PINNED, near tier, in one of the two formats. -/
def weightPage (f : Fmt) (g : Page) : Bool := g.pinned && leafTier g.e = 0 && g.fmt = some f

/-- An area lies in weight pages of a format. -/
def State.weightArea (s : State) (p : Nat) (f : Fmt) (a n : Nat) : Bool := s.areaAll p (weightPage f) a n

/-- The first cluster of group k of a record. -/
def recGroup (r : List Byte) (k : Nat) : ClusterId :=
  let w := recNat r (64 + 16 * k) 4
  ⟨bits w 0 4, bits w 4 5, bits w 9 5⟩

/-- The fields of a registration record are in their ranges, and its reserved bytes zero. -/
def xregFields (r : List Byte) : Bool :=
  recNat r 3 1 = 0 && 1 ≤ recNat r 4 1 && recNat r 4 1 ≤ 64 && 1 ≤ recNat r 5 1 && recNat r 5 1 ≤ 16
    && recNat r 6 1 ≤ 7 && recNat r 7 1 = 0 && (recNat r 8 2 ≤ 4095 || recNat r 8 2 = 0xFFFF)
    && recNat r 10 2 ≤ 1023 && 1 ≤ recNat r 12 2 && recNat r 10 2 + recNat r 12 2 ≤ 1024 && recZero r 14 2 && recNat r 24 8 % 128 = 0
    && canonical (recWord r 32) && recNat r 32 8 % 4 = 0 && 1 ≤ recNat r 48 8 && recZero r 56 8 && recZero r 320 192
    && (List.range 16).all fun k => recNat r (64 + 16 * k) 4 < 2 ^ 14 && recZero r (68 + 16 * k) 4

/-- A group of a record lies on its die and in the partition. -/
def State.xregGroup (s : State) (p : Nat) (r : List Byte) (k : Nat) : Bool :=
  let c := recGroup r k
  let g := s.pkg.grade
  inGrid g c
    && clIndex g c + recNat r 4 1 ≤ g.gx * g.gy
    && (groupClusters g c (recNat r 4 1)).all (fun c => (s.getCl c).part = some p)

/-- The canonical buffers and every copy lie in weight pages of a format. -/
def State.xregWeights (s : State) (p : Nat) (r : List Byte) (f : Fmt) : Bool :=
  let n := recNat r 24 8
  s.weightArea p f (recNat r 16 8) (2 * n)
    && (List.range (recNat r 5 1)).all fun k => s.weightArea p f (recNat r (72 + 16 * k) 8) n

/-- No cluster is in two groups. -/
def State.xregApart (s : State) (r : List Byte) : Bool :=
  let cs := ((List.range (recNat r 5 1)).map fun k =>
    groupClusters s.pkg.grade (recGroup r k) (recNat r 4 1)).flatten
  cs.eraseDups.length = cs.length

/-- A registration record passes its checks. -/
def State.xregOk (s : State) (p : Nat) (r : List Byte) : Bool :=
  xregFields r && (List.range (recNat r 5 1)).all (fun k => s.xregGroup p r k) && s.xregApart r
    && (s.xregWeights p r .bf16 || s.xregWeights p r .dxb8)

/-- The policy defaults (Table 13.3). -/
def Policy.default : Policy := ⟨2 ^ 20, 2 ^ 32 - 1, 0, 1, 2 ^ 32 - 1, 2 ^ 32 - 1⟩

/-- The expert of a record: replica 0 LIVE on group 0. -/
def expertOf (p step : Nat) (r : List Byte) : Expert where
  part := p
  gsize := recNat r 4 1
  node := recNat r 6 1
  module := recNat r 8 2
  block0 := recNat r 10 2
  nblk := recNat r 12 2
  weights := recWord r 16
  wbytes := recNat r 24 8
  entry := recWord r 32
  arg := recWord r 40
  rdeadline := recWord r 48
  groups := (List.range (recNat r 5 1)).map fun k => (recGroup r k, recWord r (72 + 16 * k))
  policy := Policy.default
  nextPolicy := Policy.default
  reps := (Vector.replicate 16 Replica.init).set 0 { Replica.init with state := .live }
  snap := 0
  ectr := Policy.default.ce
  dctr := Vector.replicate 8 Policy.default.cd
  count := 0
  windowLeft := none
  low := false
  sealed := false
  join := if step = 0 then 0 else 1
  handles := []
  nextHandle := 0

/-- The peer whose Orrery holds a name: the name falls in a remote range (R370); index 0xFFFF is this module (R360). -/
def State.namePeer (s : State) (name : Nat) : Option Nat :=
  (s.pkg.names.find? fun n => n.1 ≤ name && name < n.1 + n.2.1 && n.2.2 ≠ 0xFFFF).map fun n => n.2.2

/-- XREG by a partition: the result. -/
def State.register (s : State) (p : Nat) (r : List Byte) : State × Word :=
  let name := recNat r 0 3
  let mine := (s.pkg.experts.filter fun q => q.2.part = p).length
  let allot := match s.part? p with | some v => v.cfg.xnames | none => 0
  if !s.xregOk p r then (s, xBadRec)
  else if (s.expert? name).isSome || (s.namePeer name).isSome then (s, xExists)
  else if 262144 ≤ s.pkg.experts.length || allot ≤ mine then (s, xNoSpace)
  else
    let e := expertOf p (s.stepOf p) r
    if !s.groupFree (s.groupOf e 0) then (s, xBusy)
    else ((s.publishFirst name e).startReplica name e 0, 0)

/-- XREG. -/
def execXreg (d a : XReg) (s : State) : Out :=
  s.run (.xreg d a) fun s =>
    if s.vecMemBusy then .wait s
    else (s.loadRecord (s.rx a) 512 64).res s fun r =>
      let v := r.1.register s.partNo r.2
      .done (v.1.wx d v.2)

-- Names (R271, R316, R370)

/-- EXPERT for a name. -/
def expertTrap (name : Nat) : Trap := ⟨.expert, 0, word name⟩

/-- The name in an operand. -/
def nameOf (w : Word) : Nat := bits w.toNat 0 24
/-- The replica in an identity word. -/
def identRep (w : Word) : Fin 16 := Fin.ofNat 16 (bits w.toNat 24 4)

/-- Where the name of an operand is held. -/
inductive Held where
  | here (e : Expert)
  | peer (n : Nat)

/-- The name falls in a remote range, and is performed at its peer (R370), or is registered here to the issuing partition.
The peer's module may not hold it, and an absent peer does not: then the same result follows as here (R316,
assumption 29). -/
def State.held (s : State) (name : Nat) : Chk Held :=
  match s.namePeer name, s.expert? name with
  | some n, _ =>
    if (s.peer? n).isSome && Config.peerHolds n name s.fresh then .ok (.peer n) else .trap (expertTrap name)
  | none, some e => if e.part = s.partNo then .ok (.here e) else .trap (expertTrap name)
  | none, none => .trap (expertTrap name)

/-- A free result among those that an operation may return (assumption 5). -/
def State.freeResult (s : State) (rs : List Word) : State × Word :=
  let (k, s) := s.pick rs.length
  (s, rs.getD k 0)

/-- The results that name a replica. -/
def repResults : List Word := (List.range 16).map word

/-- An operation that a peer's Orrery performs. -/
def State.askPeer (s : State) (peer opc sub name : Nat) (b : Word) (bytes : List Byte) : State :=
  s.sendPeer s.partNo peer (.expertOp ⟨peer, 0, opc, sub, s.partNo, name, b, coreIdBits s.cur, bytes⟩)

-- Policy (R276)

/-- A policy record keeps its limits. -/
def policyOk (r : List Byte) (ngroups : Nat) : Bool :=
  1024 ≤ recNat r 0 8 && recNat r 0 8 ≤ 2 ^ 40 && 1 ≤ recNat r 8 4 && recNat r 12 4 < recNat r 8 4
    && 1 ≤ recNat r 16 1 && recNat r 16 1 ≤ 16 && recNat r 16 1 ≤ ngroups && recZero r 17 7 && 1 ≤ recNat r 24 4
    && 1 ≤ recNat r 28 4 && recZero r 32 32

/-- XPOL at the Orrery. -/
def Expert.setPolicy (e : Expert) (r : List Byte) : Expert × Word :=
  if policyOk r e.groups.length then
    ({ e with nextPolicy := ⟨recNat r 0 8, recNat r 8 4, recNat r 12 4, recNat r 16 1, recNat r 24 4, recNat r 28 4⟩ }, 0)
  else (e, xBadRec)

/-- XPOL. -/
def execXpol (d a b : XReg) (s : State) : Out :=
  s.run (.xpol d a b) fun s =>
    let name := nameOf (s.rx a)
    if s.vecMemBusy then .wait s
    else (s.loadRecord (s.rx b) 64 64).res s fun r =>
      (s.held name).res s fun h =>
        match h with
        | .here e => let v := e.setPolicy r.2; .done ((r.1.setExpert name v.1).wx d v.2)
        | .peer n =>
          let v := (r.1.askPeer n 0xD1 0 name 0 r.2).freeResult [0, xBadRec]
          .done (v.1.wx d v.2)

-- Permits (R280, R318)

/-- The live handle that 16 bytes identify: of this expert and of its current step. -/
def Expert.handle? (e : Expert) (name step : Nat) (h : List Byte) : Option Handle :=
  if recNat h 0 4 % 2 ^ 24 = name ∧ recNat h 8 4 = step % 2 ^ 32 then
    e.handles.find? fun x => x.id = recNat h 4 4 && x.step = step
  else none

/-- The 16 bytes of a handle. -/
def handleBytes (name : Nat) (h : Handle) (n : Nat) : List Byte :=
  leBytes 4 name ++ leBytes 4 h.id ++ leBytes 4 h.step ++ leBytes 4 n

/-- XRESV at the Orrery: the handle, when permits are reserved. -/
def Expert.reserve (e : Expert) (step n : Nat) : Except Word (Expert × Handle) :=
  if step = 0 then .error xNoStep
  else if e.sealed then .error xSealed
  else if n = 0 ∨ 2 ^ 32 ≤ n ∨ e.ectr < n then .error xNoAdmit
  else
    let h : Handle := ⟨e.nextHandle % 2 ^ 32, step, n⟩
    .ok ({ e with ectr := e.ectr - n, handles := e.handles ++ [h], nextHandle := e.nextHandle + 1 }, h)

/-- XRESV. -/
def execXresv (d a b c : XReg) (s : State) : Out :=
  s.run (.xresv d a b c) fun s =>
    let name := nameOf (s.rx a)
    let n := (s.rx b).toNat
    if s.vecMemBusy then .wait s
    else (s.checkRange .store (s.rx c) 16 16).res s fun ts =>
      (s.held name).res s fun h =>
        match h with
        | .here e =>
          match e.reserve (s.stepOf s.partNo) n with
          | .error v => .done (s.wx d v)
          | .ok (e, h) => .done (((s.setExpert name e).storeRange ts (handleBytes name h n)).wx d (word n))
        | .peer p =>
          let v := (s.askPeer p 0xD2 0 name (s.rx b) []).freeResult
            ((if n = 0 ∨ 2 ^ 32 ≤ n then [] else [word n]) ++ [xNoAdmit, xSealed, xNoStep])
          let s := v.1
          let w := v.2
          if w = word n ∧ n ≠ 0 ∧ n < 2 ^ 32 then
            let (id, s) := s.pick (2 ^ 32)
            let (st, s) := s.pick (2 ^ 32)
            .done ((s.storeRange ts (handleBytes name ⟨id, st, n⟩ n)).wx d w)
          else .done (s.wx d w)

/-- XREL at the Orrery. -/
def Expert.release (e : Expert) (name step : Nat) (h : List Byte) : Expert × Word :=
  match e.handle? name step h with
  | none => (e, xHandle)
  | some x => ({ e with ectr := e.ectr + x.count, handles := e.handles.filter fun y => y.id ≠ x.id }, word x.count)

/-- XREL. -/
def execXrel (d a : XReg) (s : State) : Out :=
  s.run (.xrel d a) fun s =>
    if s.vecMemBusy then .wait s
    else (s.loadRecord (s.rx a) 16 16).res s fun r =>
      let name := recNat r.2 0 4 % 2 ^ 24
      match s.held name with
      | .ok (.here e) =>
        let v := e.release name (s.stepOf s.partNo) r.2
        .done ((r.1.setExpert name v.1).wx d v.2)
      | .ok (.peer p) =>
        let s := r.1.askPeer p 0xD3 0 name 0 r.2
        let (b, s) := s.flip
        let (n, s) := s.pick (2 ^ 32)
        .done (s.wx d (if b then word n else xHandle))
      | _ => .done (r.1.wx d xHandle)

-- Creation (R282, R283)

/-- The spare groups of an expert that are free, in order. -/
def State.spareGroups (s : State) (e : Expert) : List Nat :=
  ((List.range (e.groups.length - 1)).map (· + 1)).filter fun k => s.groupFree (s.groupOf e k)

/-- A creation may start: no replica is CREATING, and fewer than MAXREP are active. -/
def Expert.mayCreate (e : Expert) : Bool := (e.inState .creating).isEmpty && e.active.length < e.policy.maxrep

/-- The index that a creation takes (R283). -/
def Expert.freeIndex (e : Expert) : Option (Fin 16) :=
  (List.finRange 16).find? fun i =>
    ((e.rep i).state = .free || (e.rep i).state = .retired) && !e.join.getLsbD i.val

/-- Start a creation on a group; its control contexts are given from then on. -/
def State.create (s : State) (name : Nat) (e : Expert) (group : Nat) : Option (State × Fin 16) :=
  e.freeIndex.map fun i =>
    let s := s.setExpert name (e.setRep i { Replica.init with state := .creating, group := group })
    ({ s with pkg := { s.pkg with busy := s.pkg.busy ++ (s.groupOf e group).map leafCtx } }, i)

/-- The test at an admission (R282). -/
def State.testCreation (s : State) (name : Nat) (e : Expert) : State :=
  if e.policy.create * e.liveCount < e.count && !e.sealed && e.mayCreate then
    match s.spareGroups e with
    | g :: _ => ((s.create name e g).map Prod.fst).getD s
    | [] => s
  else s

-- Admission (R279)

/-- Replica i comes before replica j: smaller OUT, then lower index. -/
def Expert.before (e : Expert) (i j : Fin 16) : Bool :=
  (e.rep i).out < (e.rep j).out || ((e.rep i).out = (e.rep j).out && i.val < j.val)

/-- Insert a replica in the order of admission. -/
def Expert.insert (e : Expert) (i : Fin 16) : List (Fin 16) → List (Fin 16)
  | [] => [i]
  | j :: js => if e.before i j then i :: j :: js else j :: e.insert i js

/-- The candidates of a selector's snapshot, in the order of admission. -/
def Expert.candidates (e : Expert) (sel : BitVec 16) : List (Fin 16) :=
  ((e.inState .live).filter fun i => sel.getLsbD i.val).foldl (fun l i => e.insert i l) []

/-- Permits that a handle, or the expert counter, still holds. -/
def Expert.permits (e : Expert) (h : Option Handle) : Nat := match h with | some x => x.count | none => e.ectr

/-- Take one permit. -/
def Expert.takePermit (e : Expert) (h : Option Handle) : Expert :=
  match h with
  | some x => { e with handles := e.handles.map fun y => if y.id = x.id then { y with count := y.count - 1 } else y }
  | none => { e with ectr := e.ectr - 1 }

/-- The die counter of a replica. -/
def Expert.dieCtr (e : Expert) (i : Fin 16) : Nat := (e.dctr[e.dieOf i]?).getD 0

/-- Admit a token (R279): the replica's index, or a failure; nothing is taken on a failure. -/
def State.admitToken (s : State) (name step : Nat) (e : Expert) (sel : BitVec 16) (h : Option Handle) (t : Token) :
    State × Word :=
  match (e.candidates sel).find? fun i => 0 < e.permits h && 0 < e.dieCtr i with
  | none => (s, xNoAdmit)
  | some i =>
    let e := e.takePermit h
    let d := e.dieOf i
    let e := { e with dctr := Vector.ofFn fun k => if k.val = d then e.dctr.get k - 1 else e.dctr.get k }
    let e := { e.setRep i { e.rep i with out := (e.rep i).out + 1 } with count := e.count + 1 }
    let s := s.setExpert name e
    let s := { s with pkg := { s.pkg with deliveries := s.pkg.deliveries ++ [(⟨name, i.val, t, step, false⟩ : Delivery)] } }
    (s.testCreation name e, word i.val)

/-- XSEND at the Orrery, the permit coming from the handle of 16 bytes where there is one. -/
def State.sendToken (s : State) (name : Nat) (e : Expert) (sel : BitVec 16) (h : Option (List Byte)) (t : Token) :
    State × Word :=
  let step := s.stepOf e.part
  if step = 0 then (s, xNoStep)
  else if e.sealed then (s, xSealed)
  else match h with
    | none => s.admitToken name step e sel none t
    | some hb => match e.handle? name step hb with
      | none => (s, xHandle)
      | some x => s.admitToken name step e sel (some x) t

/-- The snapshot that a die's selector holds. -/
def State.selector (s : State) (die name : Nat) : BitVec 16 :=
  match s.pkg.selectors.find? fun x => x.die = die && x.name = name with | some x => x.live | none => 0

/-- The token of the issuing context. -/
def State.tokenOf (s : State) (bs : List Byte) : Token := ⟨bs, coreIdBits s.cur, 0xFFFF⟩

/-- Check a token and a handle, where one is named, and read them. -/
def State.loadToken (s : State) (b c : XReg) (len : BitVec 8) : Chk (State × List Byte × Option (List Byte)) :=
  (s.payload (s.rx b) (word len.toNat)).bind fun p =>
    if c = 0 then .ok (p.1, p.2, none)
    else (p.1.loadRecord (s.rx c) 16 16).bind fun h => .ok (h.1, p.2, some h.2)

/-- XSEND (R319). -/
def execXsend (d a b c : XReg) (len : BitVec 8) (s : State) : Out :=
  s.run (.xsend d a b c len) fun s =>
    let name := nameOf (s.rx a)
    if len = 0 || 248 < len.toNat then .trap (illegal (.xsend d a b c len) .reserved)
    else if s.vecMemBusy then .wait s
    else (s.loadToken b c len).res s fun p =>
      (s.held name).res s fun h =>
        match h with
        | .here e =>
          let v := p.1.sendToken name e (s.selector s.cl.die name) p.2.2 (s.tokenOf p.2.1)
          .done (v.1.wx d v.2).endRegion
        | .peer n =>
          let v := (p.1.askPeer n 0xD4 (p.2.2.isSome.toNat) name 0 (p.2.1 ++ p.2.2.getD [])).freeResult
            (repResults ++ [xNoAdmit, xSealed, xNoStep] ++ if p.2.2.isSome then [xHandle] else [])
          .done (v.1.wx d v.2).endRegion

/-- XSENDR at the Orrery (R287). -/
def State.sendBack (s : State) (name : Nat) (e : Expert) (i : Fin 16) (t : Token) : State × Word :=
  let st := (e.rep i).state
  if (st = .live || st = .draining) && e.join.getLsbD i.val then
    ({ s with pkg := { s.pkg with
        deliveries := s.pkg.deliveries ++ [(⟨name, i.val, t, s.stepOf e.part, true⟩ : Delivery)] } }, 0)
  else (s, xRetired)

/-- XSENDR (R319). -/
def execXsendr (d a b c : XReg) (len : BitVec 8) (s : State) : Out :=
  s.run (.xsendr d a b c len) fun s =>
    let name := nameOf (s.rx a)
    if len = 0 || 248 < len.toNat then .trap (illegal (.xsendr d a b c len) .reserved)
    else if s.vecMemBusy then .wait s
    else (s.payload (s.rx b) (word len.toNat)).res s fun p =>
      (s.held name).res s fun h =>
        match h with
        | .here e =>
          let v := p.1.sendBack name e (Fin.ofNat 16 (bits (s.rx c).toNat 0 4)) (s.tokenOf p.2)
          .done (v.1.wx d v.2).endRegion
        | .peer n =>
          let v := (p.1.askPeer n 0xD5 0 name (s.rx c) p.2).freeResult [0, xRetired]
          .done (v.1.wx d v.2).endRegion

-- Deliveries (R281, R287)

/-- The return word of a late token, and the token. -/
def latePayload (d : Delivery) : List Byte :=
  leBytes 8 (d.name + 4 * 2 ^ 24 + d.step % 2 ^ 32 * 2 ^ 32) ++ d.token.bytes

/-- The context that COREID bits name. -/
def ctxOfBits (n : Nat) : CtxId := ⟨⟨clOfBits n, bits n 4 4⟩, bits n 0 4⟩

/-- The n-th delivery has ended. -/
def State.dropDelivery (s : State) (n : Nat) : State :=
  { s with pkg := { s.pkg with deliveries := s.pkg.deliveries.eraseIdx n } }

/-- A late token enters its sender's normal mailbox; it waits while there is no room (R281). `t` is the state without it.
-/
def State.lateMail (s t : State) (sender : Nat) (bs : List Byte) : Out :=
  let c := ctxOfBits sender
  if s.mailRoom c.core false && s.clRuns c.core.cl then
    let m : Message := ⟨c.idx, word (0xFFFF * 2 ^ 16 + bs.length), bs, none⟩
    .next (t.mailIn c.core false m)
  else disabled "TOKEN_DELIVERY"

/-- A late token returns to its sender, which may be a context of a peer (20 R370). -/
def State.returnLate (s : State) (n part : Nat) (d : Delivery) : Out :=
  let bs := latePayload d
  if d.token.module ≠ 0xFFFF then
    .next ((s.dropDelivery n).sendPeer part d.token.module (.late d.token.module d.token.sender bs))
  else s.lateMail (s.dropDelivery n) d.token.sender bs

/-- A late token that a peer's module returns arrives (20 R370). -/
def State.lateFromPeer (s : State) (k : Nat) : Out :=
  match s.pkg.incoming[k]? with
  | some (.late _ sender bs) =>
    s.lateMail { s with pkg := { s.pkg with incoming := s.pkg.incoming.eraseIdx k } } sender bs
  | _ => disabled "TOKEN_DELIVERY"

/-- TOKEN_DELIVERY: `unit` is the position of the delivery, or, past the last of these, that of a token that has come back
from a peer. -/
def execTokenDelivery (s : State) : Out :=
  match s.pkg.deliveries[s.unit]? with
  | none => s.lateFromPeer (s.unit - s.pkg.deliveries.length)
  | some d =>
    match s.expert? d.name with
    | none => .next (s.dropDelivery s.unit)
    | some e =>
      let i : Fin 16 := Fin.ofNat 16 d.rep
      let r := e.rep i
      if !s.running e.part then disabled "TOKEN_DELIVERY"
      else if d.backward then
        let e := (e.setRep i { r with bwd := r.bwd + 1, bqueue := r.bqueue ++ [d.token] }).settle i
        .next ((s.dropDelivery s.unit).setExpert d.name e)
      else if e.sealed || d.step ≠ s.stepOf e.part then s.returnLate s.unit e.part d
      else .next ((s.dropDelivery s.unit).setExpert d.name (e.setRep i { r with queue := r.queue ++ [d.token] }))

-- Batches (R281, R320)

/-- The checks of a buffer as a store destination, races apart, page by page. -/
def State.bufferCheck (s : State) : Nat → Nat → Nat → Chk Unit
  | 0, _, _ => .ok ()
  | k + 1, a, n =>
    if n = 0 then .ok ()
    else (s.locate .store (word a)).bind fun _ =>
      let l := min n (2 ^ 16 - a % 2 ^ 16)
      s.bufferCheck k (a + l) (n - l)

/-- The bytes of a token record that are written (Table 15.6). -/
def tokenRecord (t : Token) : List Byte := leBytes 8 (t.bytes.length + t.sender * 2 ^ 8 + t.module * 2 ^ 32) ++ t.bytes

/-- Check the records of a batch as stores. -/
def State.checkBatch (s : State) : Nat → List Token → Chk (List (List (Word × Target × Nat) × List Byte))
  | _, [] => .ok []
  | a, t :: ts =>
    let bs := tokenRecord t
    (s.checkRange .store (word a) bs.length 256).bind fun p =>
      (s.checkBatch (a + 256) ts).bind fun ps => .ok ((p, bs) :: ps)

/-- Take a batch: the tokens are written to the buffer, and leave their queue. -/
def State.takeBatch (s : State) (d : XReg) (name : Nat) (e : Expert) (i : Fin 16) (r : Replica) (ts : List Token)
    (buf : Word) : Res :=
  (s.checkBatch buf.toNat ts).res s fun ps =>
    if ts.isEmpty then .done (s.wx d 0)
    else
      let s := s.setExpert name ((e.setRep i r).settle i)
      let s := ps.foldl (fun s p => s.storeRange p.1 p.2) (s.acquire .sys)
      .done (s.wx d (word ts.length)).endRegion

/-- The replica of a leaf that issues XBATCH: LIVE or DRAINING, with the issuing cluster in its group. -/
def State.ownReplica (s : State) (e : Expert) (i : Fin 16) : Bool :=
  ((e.rep i).state = .live || (e.rep i).state = .draining) && (s.groupOf e (e.rep i).group).contains s.cl

/-- XBATCH.fwd and XBATCH.bwd, after their buffer. -/
def State.batch (s : State) (d a b c : XReg) (f : Nat → Expert → Fin 16 → Res) : Res :=
  let name := nameOf (s.rx a)
  let i := identRep (s.rx a)
  let n := (s.rx c).toNat
  if s.vecMemBusy then .wait s
  else if n ≠ 0 && !aligned (s.rx b) 256 then .trap ⟨.align, s.rx b, 0⟩
  else (s.bufferCheck (n * 256 / 2 ^ 16 + 2) (s.rx b).toNat (n * 256)).res s fun _ =>
    (s.held name).res s fun h =>
      match h with
      | .peer _ => .done (s.wx d xRetired)
      | .here e => if s.ownReplica e i then f name e i else .done (s.wx d xRetired)

/-- XBATCH.fwd. -/
def execXbatchFwd (d a b c : XReg) (s : State) : Out :=
  s.run (.xbatchFwd d a b c) fun s =>
    s.batch d a b c fun name e i =>
      let r := e.rep i
      let step := s.stepOf e.part
      if step = 0 then .done (s.wx d xNoStep)
      else if r.version ≠ some step then .done (s.wx d xStale)
      else
        let n := min (s.rx c).toNat r.queue.length
        let ts := r.queue.take n
        s.takeBatch d name e i { r with queue := r.queue.drop n, out := r.out - n, fwd := r.fwd + n } ts (s.rx b)

/-- XBATCH.bwd. -/
def execXbatchBwd (d a b c : XReg) (s : State) : Out :=
  s.run (.xbatchBwd d a b c) fun s =>
    s.batch d a b c fun name e i =>
      let r := e.rep i
      let n := min (s.rx c).toNat r.bqueue.length
      s.takeBatch d name e i { r with bqueue := r.bqueue.drop n } (r.bqueue.take n) (s.rx b)

/-- Copy n bytes of a partition's addresses for a cluster, where both sides translate. -/
def State.copyRange (s : State) (c : ClusterId) (p : Nat) (src dst : Word) (n : Nat) : State :=
  match s.side p src n, s.side p dst n with
  | .ok x, .ok y =>
    let (s, bs) := (s.noteRange (some c) p src n).readSide x
    (s.noteRange (some c) p dst n).writeSide y bs
  | _, _ => s

/-- The address of the scale of the block that holds a byte of a page, where the page has a block format and the byte is
data (08 R208). -/
def State.scaleOfByte (s : State) (p : Nat) (a : Word) : Option (Word × Nat) :=
  (s.pageAt p a.toNat).bind fun g => (g.fmt.bind Fmt.blk?).bind fun b =>
    let o := (a.toNat - g.va) * 8
    let k := g.blockOf (o / b.bits)
    if 8 * g.dataBytes b < o + 8 then none
    else some (word (g.va + (if g.has 26 then g.size else g.dataBytes b) + k * b.scaleBytes), b.scaleBytes)

/-- The scales of the bytes of a range are copied with them: the ranges of n bytes from offset k on, each with its source,
its destination and its length. -/
def State.scaleRanges (s : State) (p : Nat) (src dst : Word) : Nat → Nat → List (Word × Word × Nat)
  | 0, _ => []
  | n + 1, k =>
    (match s.scaleOfByte p (src + word k), s.scaleOfByte p (dst + word k) with
    | some x, some y => [(x.1, y.1, x.2)]
    | _, _ => []) ++ s.scaleRanges p src dst n (k + 1)

/-- The agent of a weight copy: the copy unit of the group's first cluster, or an in-DRAM engine in its place (R283,
assumption 60). -/
def copyAgent (c : ClusterId) : Agent := .job 1 (clusterBits c) (2 ^ 200 + clusterBits c)

/-- An access of a weight copy races on a CHECKED page (9 R218). -/
def State.copyRaces (s : State) (c : ClusterId) (p : Nat) (rs : List (Word × Word × Nat)) : Bool :=
  !s.mem.accesses.isEmpty && rs.any fun r =>
    s.rangeRaces (copyAgent c) p r.1 r.2.2 false || s.rangeRaces (copyAgent c) p r.2.1 r.2.2 true

/-- Copy canonical buffer STEPNO mod 2 into a group's copy, with the scales of its blocks (R283, R320). A copy that races
ends without an effect (assumption 60). -/
def State.copyWeights (s : State) (e : Expert) (group : Nat) : State :=
  let src := e.weights + word (s.stepOf e.part % 2 * e.wbytes)
  let g := e.groups.getD group (⟨0, 0, 0⟩, 0)
  let rs := (src, g.2, e.wbytes) :: s.scaleRanges e.part src g.2 e.wbytes 0
  if s.copyRaces g.1 e.part rs then s else rs.foldl (fun s r => s.copyRange g.1 e.part r.1 r.2.1 r.2.2) s

/-- The weights of a replica that is being created are copied (R283): when it is published, or when its partition halts
(18 R340). -/
def State.copyReplica (s : State) (name : Nat) (i : Fin 16) : State :=
  match s.expert? name with
  | none => s
  | some e =>
    let r := e.rep i
    if r.state = .creating && !r.copied then
      (s.copyWeights e r.group).setExpert name (e.setRep i { r with copied := true, version := some (s.stepOf e.part) })
    else s

/-- XBATCH.reload: it starts the replica's reload, or waits for it. -/
def execXbatchReload (d a : XReg) (s : State) : Out :=
  s.run (.xbatchReload d a) fun s =>
    let name := nameOf (s.rx a)
    let i := identRep (s.rx a)
    (s.held name).res s fun h =>
      match h with
      | .peer _ => .done (s.wx d xRetired)
      | .here e =>
        let r := e.rep i
        if !s.ownReplica e i then .done (s.wx d xRetired)
        else if r.version = some (s.stepOf e.part) then .done (s.wx d 0)
        else if r.reloading then .wait s
        else .wait ((s.setExpert name (e.setRep i { r with reloading := true })).started (.xbatchReload d a))

/-- The partition is not halted by a dump or a fault. -/
def State.alive (s : State) (p : Nat) : Bool := s.mayFire p

/-- WEIGHT_RELOAD_DONE (R320). -/
def execWeightReloadDone (name : Nat) (i : Fin 16) (s : State) : Out :=
  match s.expert? name with
  | none => disabled "WEIGHT_RELOAD_DONE"
  | some e =>
    let r := e.rep i
    if !r.reloading || !s.alive e.part then disabled "WEIGHT_RELOAD_DONE"
    else
      .next ((s.copyWeights e r.group).setExpert name
        (e.setRep i { r with reloading := false, version := some (s.stepOf e.part) }))

/-- REPLICA_PUBLISH (R283): the weights are copied, the leaves start, and the replica is LIVE. -/
def execReplicaPublish (name : Nat) (i : Fin 16) (s : State) : Out :=
  match s.expert? name with
  | none => disabled "REPLICA_PUBLISH"
  | some e =>
    let r := e.rep i
    if r.state ≠ .creating || !s.running e.part then disabled "REPLICA_PUBLISH"
    else
      let s := s.copyReplica name i
      let e := e.setRep i { r with state := .live, copied := true, version := some (s.stepOf e.part) }
      let e := if e.sealed then e else { e with join := e.join ||| BitVec.twoPow 16 i.val }
      .next ((s.publish name e).startReplica name e i)

/-- SNAPSHOT_ARRIVAL (R278): the oldest snapshot of a name on its way to a die arrives. -/
def execSnapshotArrival (die name : Nat) (s : State) : Out :=
  let mine := fun (x : Snapshot) => decide (x.die = die) && decide (x.name = name)
  match s.pkg.inFlight.find? mine with
  | none => disabled "SNAPSHOT_ARRIVAL"
  | some x =>
    .next { s with pkg := { s.pkg with
      inFlight := s.pkg.inFlight.erase x
      selectors := (s.pkg.selectors.filter fun y => !mine y) ++ [x] } }

-- Seal and join (R281, R286, R288, R321)

/-- The join mask replaces the mask of blocks of a node; a block whose bitmap equals it is complete. -/
def Node.setMasks (v : Node) (first count : Nat) (m : BitVec 16) : Node :=
  let hit := fun b => first ≤ b && b < first + count
  let full := (List.range v.sts.length).filter fun b =>
    hit b && match v.sts[b]? with | some t => !t.complete && m ≠ 0 && t.bitmap = m.toNat | none => false
  { v with
    sts := v.sts.mapIdx fun b t =>
      if hit b then { t with mask := m.toNat, complete := t.complete || full.contains b } else t
    order := v.order ++ full }

/-- Change a node. -/
def State.setNode (s : State) (n : Nat) (v : Node) : State :=
  { s with pkg := { s.pkg with nodes := Vector.ofFn fun i => if i.val = n then v else s.pkg.nodes.get i } }
/-- A node. -/
def State.node (s : State) (n : Nat) : Node := (s.pkg.nodes[n]?).getD Node.init

/-- XSEAL at the Orrery. -/
def State.sealStep (s : State) (name : Nat) (e : Expert) : State × Word :=
  if s.stepOf e.part = 0 then (s, xNoStep)
  else if e.sealed then (s, 0)
  else
    let freed := ((e.inState .creating).map fun i => (s.groupOf e (e.rep i).group).map leafCtx).flatten
    let reps := e.reps.map fun r => if r.state = .creating then Replica.init else r
    let s := s.setExpert name { e with sealed := true, reps := reps, handles := [] }
    let s := { s with pkg := { s.pkg with busy := s.pkg.busy.filter fun c => !freed.contains c } }
    if e.module = 0xFFFF then
      (if s.ownsNode e.part e.node then s.setNode e.node ((s.node e.node).setMasks e.block0 e.nblk e.join) else s, 0)
    else if (s.peer? e.module).isSome then
      (s.sendPeer e.part e.module (.joinMask e.module e.node e.part e.block0 e.nblk e.join), 0)
    else (s, 0)

/-- XSEAL. -/
def execXseal (d a : XReg) (s : State) : Out :=
  s.run (.xseal d a) fun s =>
    let name := nameOf (s.rx a)
    (s.held name).res s fun h =>
      match h with
      | .here e => let v := s.sealStep name e; .done (v.1.wx d v.2)
      | .peer n =>
        let v := (s.askPeer n 0xD7 0 name 0 []).freeResult [0, xNoStep]
        .done (v.1.wx d v.2)

/-- The length of a block of the owner in elements: of a node of this module, or of a peer's (assumption 29). A block that
the partition's node does not have has none. -/
def State.blockLen (s : State) (e : Expert) (b : Nat) : Nat :=
  if e.module ≠ 0xFFFF then Config.peerBlock e.module e.node b (s.stepOf e.part) + 1
  else if s.ownsNode e.part e.node then (((s.node e.node).blocks[b]?).map BlockDesc.len).getD 0 else 0

/-- The lengths of the segments of a partial (R321). -/
def State.segments (s : State) (e : Expert) : List Nat := (List.range e.nblk).map fun k => s.blockLen e (e.block0 + k)

/-- The lengths of the segments of a partial for a name that a peer holds (assumption 29). -/
def State.remoteSegments (s : State) (peer name : Nat) : List Nat :=
  match Config.peerSegments peer name (s.stepOf s.partNo) with | [] => [1] | l => l

/-- Bytes of segments. -/
def segmentBytes (ls : List Nat) : Nat := 64 * ls.foldl (· + ·) 0

/-- Send segment k of a partial to the owner as a contribution; nothing reaches an absent peer (assumption 29). -/
def State.sendSegment (s : State) (e : Expert) (i : Fin 16) (k : Nat) (bs : List Byte) : State :=
  let n := bs.length / 64
  let c : Contribution := ⟨s.stepOf e.part % 2 ^ 32, e.block0 + k, i.val, true, contribElems 64 n bs, none⟩
  if e.module ≠ 0xFFFF then
    if (s.peer? e.module).isSome then s.sendPeer e.part e.module (.contribution e.module e.node e.part c) else s
  else if s.ownsNode e.part e.node then s.contribute e.node c
  else s

/-- The next segment of a join is read, as its issue has checked it, and sent; the last one ends it. `pos` counts the
segments from 1 on. -/
def State.joinSegment (s : State) (i : Instr) (d : XReg) (x : Word) (ls : List Nat)
    (send : State → Nat → List Byte → State) (finish : State → State) : Res :=
  let k := s.ctx.pos - 1
  (s.takeHeld (x + word (segmentBytes (ls.take k))) (64 * ls.getD k 0)).res s fun v =>
  let s := send v.1 k v.2
  if k + 1 < ls.length then .wait { s.started i with ctx := { (s.started i).ctx with pos := k + 2 } }
  else .done ((finish s).wx d 0).endRegion

/-- A segment of a join on a peer's name goes to the peer's Orrery, with its number. -/
def State.askJoin (s : State) (peer name : Nat) (i : Fin 16) (k : Nat) (bs : List Byte) : State :=
  s.askPeer peer 0xD8 1 name (word (i.val + k * 2 ^ 8)) bs

/-- XJOIN: every check at its issue, then segment by segment (R321, assumption 53). -/
def execXjoin (d a b : XReg) (s : State) : Out :=
  s.run (.xjoin d a b) fun s =>
    let name := nameOf (s.rx a)
    let i := identRep (s.rx a)
    let x := s.rx b
    let settled := fun (s : State) => match s.expert? name with | some e => s.setExpert name (e.settle i) | none => s
    if s.vecMemBusy then .wait s
    else if s.ctx.pos ≠ 0 then
      match s.namePeer name, s.expert? name with
      | some peer, _ =>
        s.joinSegment (.xjoin d a b) d x (s.remoteSegments peer name) (fun s k bs => s.askJoin peer name i k bs) id
      | none, some e => s.joinSegment (.xjoin d a b) d x (s.segments e) (fun s k bs => s.sendSegment e i k bs) settled
      | none, none => .done (s.wx d xRetired).endRegion
    else if !aligned x 64 then .trap ⟨.align, x, 0⟩
    else (s.held name).res s fun h =>
      match h with
      | .peer n =>
        let v := (s.askPeer n 0xD8 0 name (word i.val) []).freeResult [0, xNoSeal, xRetired]
        if v.2 ≠ 0 then .done (v.1.wx d v.2).endRegion
        else
          let ls := s.remoteSegments n name
          (v.1.holdLoads x (segmentBytes ls)).res s fun t =>
            { t with ctx := { t.ctx with pos := 1 } }.joinSegment (.xjoin d a b) d x ls
              (fun s k bs => s.askJoin n name i k bs) id
      | .here e =>
        if !e.sealed then .done (s.wx d xNoSeal).endRegion
        else if !e.join.getLsbD i.val || (e.rep i).joined then .done (s.wx d xRetired).endRegion
        else
          let ls := s.segments e
          (s.holdLoads x (segmentBytes ls)).res s fun t =>
            let t := t.setExpert name ((e.setRep i { e.rep i with joined := true }).settle i)
            { t with ctx := { t.ctx with pos := 1 } }.joinSegment (.xjoin d a b) d x ls
              (fun s k bs => s.sendSegment e i k bs) settled

-- Steps and windows (R282, R284, R285)

/-- WINDOW, CREATE, RETIRE and MAXREP of the latest record take effect. -/
def Expert.newWindow (e : Expert) : Expert :=
  let p := { e.nextPolicy with ce := e.policy.ce, cd := e.policy.cd }
  { e with policy := p, count := 0, windowLeft := some p.window }

/-- The effect of XSTEP on an expert. -/
def Expert.step (e : Expert) : Expert :=
  let e := { e with policy := { e.policy with ce := e.nextPolicy.ce, cd := e.nextPolicy.cd } }
  { e.newWindow with
    low := false
    sealed := false
    ectr := e.policy.ce
    dctr := Vector.replicate 8 e.policy.cd
    reps := e.reps.map fun r => { r with out := 0, fwd := 0, bwd := 0, joined := false, queue := [] }
    join := repMask (e.inState .live) }

/-- A replica of the join set has not joined. -/
def Expert.unjoined (e : Expert) : Bool := (List.finRange 16).any fun i => e.join.getLsbD i.val && !(e.rep i).joined

/-- XSTEP. -/
def execXstep (d a : XReg) (s : State) : Out :=
  s.run (.xstep d a) fun s =>
    let p := s.partNo
    let n := (s.rx a).toNat
    match s.part? p with
    | none => .done (s.wx d xBusy)
    | some v =>
      let ok := n = v.stepno + 1 || (v.discarded && n = v.stepno)
      if !ok || s.pkg.experts.any fun q => q.2.part = p && q.2.unjoined then .done (s.wx d xBusy)
      else
        let s := s.setPart p { v with stepno := n, discarded := false }
        let es := s.pkg.experts.map fun q => (q.1, if q.2.part = p then q.2.step else q.2)
        .done ({ s with pkg := { s.pkg with experts := es } }.wx d 0)

/-- WINDOW_BOUNDARY (R282, R284). -/
def execWindowBoundary (s : State) : Out :=
  match s.expert? s.unit with
  | none => disabled "WINDOW_BOUNDARY"
  | some e =>
    if e.windowLeft ≠ some 0 || !s.counts e.part then disabled "WINDOW_BOUNDARY"
    else
      let low := decide (e.count < e.policy.retire * e.liveCount)
      let e' := { e.newWindow with low := low }
      match (e.inState .live).getLast? with
      | some i => .next (if low && e.low && 1 < e.liveCount then s.drain s.unit e' i else s.setExpert s.unit e')
      | none => .next (s.setExpert s.unit e')

-- XSTAT, XSPAWN, XRETIRE (R322, R323)

/-- The code of a replica's state (Table 15.8). -/
def RepState.code : RepState → Nat
  | .free | .retired => 0 | .creating => 1 | .live => 2 | .draining => 3

/-- A saturating field. -/
def satField (n w : Nat) : Nat := min n (2 ^ w - 1)

/-- The word that XSTAT reads, for a die (Tables 15.7-15.9). -/
def Expert.stat (e : Expert) (sel : XstatSel) (i : Fin 16) (die : Nat) : Word :=
  let r := e.rep i
  match sel with
  | .expert =>
    word (e.snap % 2 ^ 32 * 2 ^ 32
      + (List.finRange 16).foldl (fun n k => n + (e.rep k).state.code * 4 ^ k.val) 0)
  | .replica =>
    let ver := match r.version with | some v => v % 2 ^ 32 | none => 2 ^ 32 - 1
    word (ver * 2 ^ 32 + r.group * 2 ^ 20 + r.joined.toNat * 2 ^ 19 + (e.join.getLsbD i.val).toNat * 2 ^ 18
      + r.state.code * 2 ^ 16 + satField r.out 16)
  | .counts => word (satField r.fwd 32 * 2 ^ 32 + satField r.bwd 32)
  | .permits => word (satField e.ectr 32 * 2 ^ 32 + satField ((e.dctr[die]?).getD 0) 32)
  | .window => word (e.sealed.toNat * 2 ^ 63 + e.count % 2 ^ 63)

/-- XSTAT. -/
def execXstat (sel : XstatSel) (d a b : XReg) (s : State) : Out :=
  s.run (.xstat sel d a b) fun s =>
    let name := nameOf (s.rx a)
    (s.held name).res s fun h =>
      match h with
      | .here e => .done (s.wx d (e.stat sel (Fin.ofNat 16 (bits (s.rx b).toNat 0 4)) s.cl.die))
      | .peer n =>
        let (w, s) := (s.askPeer n 0xDA sel.code name (s.rx b) []).pick (2 ^ 64)
        .done (s.wx d (word w))

/-- XSPAWN at the Orrery. -/
def State.spawn (s : State) (name : Nat) (e : Expert) (b : Word) : State × Word :=
  let free := s.spareGroups e
  let g := if b = 0 then free.head? else if free.contains b.toNat then some b.toNat else none
  if e.sealed then (s, xSealed)
  else if s.stepOf e.part = 0 || !e.mayCreate then (s, xBusy)
  else match g.bind fun g => s.create name e g with
    | some (s, i) => (s, word i.val)
    | none => (s, xBusy)

/-- XSPAWN. -/
def execXspawn (d a b : XReg) (s : State) : Out :=
  s.run (.xspawn d a b) fun s =>
    let name := nameOf (s.rx a)
    (s.held name).res s fun h =>
      match h with
      | .here e => let v := s.spawn name e (s.rx b); .done (v.1.wx d v.2)
      | .peer n =>
        let v := (s.askPeer n 0xDB 0 name (s.rx b) []).freeResult (repResults ++ [xBusy, xSealed])
        .done (v.1.wx d v.2)

/-- XRETIRE at the Orrery. -/
def State.retireRep (s : State) (name : Nat) (e : Expert) (i : Fin 16) : State × Word :=
  if (e.rep i).state ≠ .live then (s, xRetired)
  else if e.liveCount = 1 then (s, xBusy)
  else (s.drain name e i, 0)

/-- XRETIRE. -/
def execXretire (d a b : XReg) (s : State) : Out :=
  s.run (.xretire d a b) fun s =>
    let name := nameOf (s.rx a)
    (s.held name).res s fun h =>
      match h with
      | .here e => let v := s.retireRep name e (Fin.ofNat 16 (bits (s.rx b).toNat 0 4)); .done (v.1.wx d v.2)
      | .peer n =>
        let v := (s.askPeer n 0xDC 0 name (s.rx b) []).freeResult [0, xBusy, xRetired]
        .done (v.1.wx d v.2)

-- Operations that a peer asks for (R316, R370)

/-- An operation of a peer on an expert of this module: its result, and bytes that go back with it. The die permit is
taken at the replica's die, and no selector narrows the candidates. -/
def State.peerOp (s : State) (o : RemoteOp) (e : Expert) : State × Word × List Byte :=
  let i : Fin 16 := Fin.ofNat 16 (bits o.b.toNat 0 4)
  let plain := fun (v : State × Word) => (v.1, v.2, ([] : List Byte))
  let tok := fun (bs : List Byte) => (⟨bs, o.sender, o.peer⟩ : Token)
  match o.opc with
  | 0xD1 => let v := e.setPolicy o.bytes; (s.setExpert o.name v.1, v.2, [])
  | 0xD2 => match e.reserve (s.stepOf e.part) o.b.toNat with
    | .error w => (s, w, [])
    | .ok (e, h) => (s.setExpert o.name e, o.b, handleBytes o.name h o.b.toNat)
  | 0xD3 => let v := e.release o.name (s.stepOf e.part) o.bytes; (s.setExpert o.name v.1, v.2, [])
  | 0xD4 =>
    let n := o.bytes.length - (if o.sub = 1 then 16 else 0)
    plain (s.sendToken o.name e (BitVec.allOnes 16) (if o.sub = 1 then some (o.bytes.drop n) else none)
      (tok (o.bytes.take n)))
  | 0xD5 => plain (s.sendBack o.name e i (tok o.bytes))
  | 0xD7 => plain (s.sealStep o.name e)
  | 0xD8 =>
    if o.sub = 1 then
      (if e.sealed && e.join.getLsbD i.val then s.sendSegment e i (o.b.toNat / 2 ^ 8) o.bytes else s, 0, [])
    else if !e.sealed then (s, xNoSeal, [])
    else if !e.join.getLsbD i.val || (e.rep i).joined then (s, xRetired, [])
    else (s.setExpert o.name ((e.setRep i { e.rep i with joined := true }).settle i), 0, [])
  | 0xDA =>
    (s, e.stat ((XstatSel.ofCode? o.sub).getD .window) i (bits o.sender 18 4), [])
  | 0xDB => plain (s.spawn o.name e o.b)
  | 0xDC => plain (s.retireRep o.name e i)
  | _ => (s, xRetired, [])

/-- REMOTE_EXPERT_OP. What it answers comes from the partition that registered the name (18 R348). -/
def execRemoteExpertOp (o : RemoteOp) (s : State) : Out :=
  if s.inReset then disabled "REMOTE_EXPERT_OP" else
  match s.expert? o.name with
  | none => .next { s with pkg := { s.pkg with outbox := s.pkg.outbox ++ [.answer o.peer o.tag none []] } }
  | some e => let v := s.peerOp o e; .next (v.1.sendPeer e.part o.peer (.answer o.peer o.tag (some v.2.1) v.2.2))

end Sys2Proof.Machine
end

