-- ==== Sys2Proof/Machine/Launch.lean ====
section
/-!
DEFINITION. Launches (06 R157-R163, 20 R356): the checks of a launch record, placement, the completion tree, and the
free counts that compute dies report.
-/
namespace Sys2Proof.Machine

-- The record (Table 6.1)

/-- The level descriptors of a record: COUNT, DOMAIN, SCOPE. -/
def launchLevels (r : List Byte) : List (Nat × Nat × Nat) :=
  (List.range (recNat r 25 1)).map fun i => (recNat r (64 + 8 * i) 4, recNat r (68 + 8 * i) 1, recNat r (69 + 8 * i) 1)

/-- The scope of a domain's unit, as Table 3.1 codes it. -/
def domainScope : Nat → Nat
  | 0 => 5 | 1 => 4 | 2 | 3 => 3 | 4 => 2 | _ => 1

/-- The parent domains of the levels: PACKAGE for level 0. -/
def parents (ls : List (Nat × Nat × Nat)) : List Nat := (1 :: ls.map fun l => l.2.1).take ls.length

/-- A reserved byte or an undeclared descriptor is not zero. Bits 7:4 of PART count as reserved (assumption 50). -/
def launchReserved (r : List Byte) : Bool :=
  let n := min 8 (recNat r 25 1)
  !(recNat r 24 1 < 16 && recZero r 26 38 && recZero r (64 + 8 * n) (512 - 64 - 8 * n)
    && (List.range n).all fun i => recZero r (70 + 8 * i) 2)

/-- A level's DOMAIN code is out of order. -/
def orderBad (i parent dom : Nat) : Bool :=
  (i ≠ 0 && dom = 0) || (!(i = 0 && dom = 0) && dom < parent)

/-- Checks 2 to 10 of Table 6.3: the first code that applies. A SCOPE byte above 7 is no scope either (assumption 50). -/
def launchBad (p : Nat) (r : List Byte) : Option Nat :=
  let n := recNat r 25 1
  let ls := launchLevels r
  let entry := recWord r 0
  firstBad [
    (launchReserved r, 0x02), (n = 0 || 8 < n, 0x03), (ls.any fun l => l.1 = 0 || 65536 < l.1, 0x04),
    (ls.any fun l => 5 < l.2.1, 0x05),
    ((ls.zip (parents ls)).mapIdx (fun i q => orderBad i q.2 q.1.2.1) |>.any id, 0x06),
    ((ls.zip (parents ls)).any fun q => 5 < q.1.2.2 || q.1.2.2 < domainScope q.2, 0x07),
    (!canonical entry || entry.toNat % 4 ≠ 0, 0x08), (recNat r 16 8 = 0, 0x09), (recNat r 24 1 % 16 ≠ p, 0x0A)]

/-- The record at an address, or none by check 1. -/
def State.launchRecord (s : State) (p : Nat) (a : Word) : Option (State × List Byte) :=
  if aligned a 64 && canonical a && s.areaAll p (fun g => leafTier g.e = 0) a.toNat 512 then
    (cut64 2 a.toNat 512).foldl (fun acc q =>
      acc.bind fun t => (s.pageAt p q.1).map fun g =>
        let r := t.1.readHome (g.pa q.1) q.2
        (r.1, t.2 ++ r.2)) (some (s, []))
  else none

-- Placement (R158, R160)

/-- The unit of a domain that holds a core, by its number in logical order (Table 6.2). -/
def unitOf (g : Grade) (dom : Nat) (k : CoreId) : Nat :=
  match dom with
  | 0 | 1 => 0
  | 2 => k.cl.die
  | 3 => k.cl.die * 4 + clIndex g k.cl / g.quadrant
  | 4 => clLinear g k.cl
  | _ => clLinear g k.cl * 8 + k.core

/-- Leaves with their indexes, outermost first. -/
abbrev Placed := List (List Nat × CoreId)

/-- The lowest unit, not among the used ones, with at least n free cores. -/
def lowestUnit (g : Grade) (dom n : Nat) (used : List Nat) (u : List CoreId) : Option Nat :=
  ((u.map (unitOf g dom)).eraseDups.filter fun q =>
    !used.contains q && decide (n ≤ (u.filter fun k => unitOf g dom k = q).length)).head?

/-- The instances j .. of one level: `below` places the levels under it in a set of cores. -/
def placeLevel (g : Grade) (same : Bool) (dom need : Nat) (below : List CoreId → List Nat → Option Placed)
    (path : List Nat) : Nat → Nat → List CoreId → List Nat → Option Placed
  | 0, _, _, _ => some []
  | c + 1, j, u, used =>
    if same then
      if u.length < need then none
      else (below (u.take need) (path ++ [j])).bind fun a =>
        (placeLevel g same dom need below path c (j + 1) (u.drop need) used).map fun rest => a ++ rest
    else match lowestUnit g dom need used u with
      | none => none
      | some q =>
        (below (u.filter fun k => unitOf g dom k = q) (path ++ [j])).bind fun a =>
          (placeLevel g same dom need below path c (j + 1) u (q :: used)).map fun rest => a ++ rest

/-- Place the levels, COUNT and DOMAIN each, in the free cores of a set in logical order. -/
def place (g : Grade) : List (Nat × Nat) → Nat → List CoreId → List Nat → Option Placed
  | [], _, u, path => u.head?.map fun k => [(path, k)]
  | (c, d) :: rest, parent, u, path =>
    let d := if d = 0 then 1 else d
    let need := (rest.map Prod.fst).foldl (· * ·) 1
    placeLevel g (d = parent) d need (place g rest d) path c 0 u []

/-- The compute cores of a partition in logical order. -/
def State.partCores (s : State) (p : Nat) : List CoreId :=
  ((s.partClusters p).map fun c => (List.range 8).map fun n => (⟨c, n⟩ : CoreId)).flatten

/-- Its free cores, as the distributor counts them (R356). -/
def State.freeCores (s : State) (p : Nat) : List CoreId :=
  if s.pkg.poweredDown then []
  else (s.partCores p).filter fun k => !(s.getCtx ⟨k, 0⟩).live && !s.pkg.busy.contains ⟨k, 0⟩

/-- COUNT and DOMAIN of a record's levels. -/
def placeLevels (r : List Byte) : List (Nat × Nat) := (launchLevels r).map fun l => (l.1, l.2.1)

/-- Start a placed leaf (R30, R162). -/
def State.startPlaced (s : State) (p launch : Nat) (addr : Word) (r : List Byte) (path : List Nat) (k : CoreId) : State :=
  let c : CtxId := ⟨k, 0⟩
  let counts := (launchLevels r).map Prod.fst
  s.startLeaf c {
    deadline := recWord r 16
    launchptr := addr
    levelix := Vector.ofFn fun i => word (path.getD i.val 0)
    levelcnt := Vector.ofFn fun i => word (counts.getD i.val 0)
    part := p
    home := c
    launch := some launch } (recWord r 0) (recWord r 8)

/-- The nodes of a completion tree under a path: one for each instance of each level but the last, and the root
(R163). -/
def treeNodes : List Nat → List Nat → List TreeNode
  | [], _ => []
  | [c], path => [⟨path, c, 0⟩]
  | c :: c' :: rest, path =>
    ⟨path, c, 0⟩ :: ((List.range c).map fun j => treeNodes (c' :: rest) (path ++ [j])).flatten

/-- A launch is placed. -/
def State.placeLaunch (s : State) (p q n : Nat) (addr : Word) (r : List Byte) (pl : Placed) : State :=
  let l := s.nextLaunch
  let counts := (launchLevels r).map Prod.fst
  let s := { s with
    nextLaunch := l + 1
    launches := Map.put s.launches l ⟨q, n, p, counts, treeNodes counts []⟩
    pkg := { s.pkg with busy := s.pkg.busy ++ pl.map fun x => ⟨x.2, 0⟩ } }
  pl.foldl (fun s x => s.startPlaced p l addr r x.1 x.2) s

/-- Place a partition's waiting launches, oldest first, as far as they fit (R161); the bound is their number. -/
def State.placeWaiting (s : State) (p : Nat) : Nat → State
  | 0 => s
  | k + 1 =>
    match s.part? p with
    | none => s
    | some v =>
      match v.waiting with
      | [] => s
      | (q, n, addr, r) :: rest =>
        if v.state ≠ .running then s
        else match place s.pkg.grade (placeLevels r) 1 (s.freeCores p) [] with
          | none => s
          | some pl => ((s.setPart p { v with waiting := rest }).placeLaunch p q n addr r pl).placeWaiting p k

/-- Retry the waiting launches of a partition. -/
def State.retryLaunches (s : State) (p : Nat) : State :=
  match s.part? p with | some v => s.placeWaiting p v.waiting.length | none => s

/-- A LAUNCH entry (R159): the status word that rejects it, or the launch joins the waiting list of its partition and
is placed if its turn has come and it fits. -/
def State.submitLaunch (s : State) (p q n : Nat) (addr : Word) : State :=
  match s.launchRecord p addr with
  | none => s.pushRecord q (rejectWord 0x01 0) (word n)
  | some (s, r) =>
    match launchBad p r with
    | some code => s.pushRecord q (rejectWord code 0) (word n)
    | none =>
      if (place s.pkg.grade (placeLevels r) 1 (s.partCores p) []).isNone then
        s.pushRecord q (rejectWord 0x0B 0) (word n)
      else match s.part? p with
        | none => s
        | some v =>
          let first := v.waiting.isEmpty
          let s := s.setPart p { v with waiting := v.waiting ++ [(q, n, addr, r)] }
          if first then s.retryLaunches p else s

-- Completion (R163)

/-- The words of two children combined. -/
def combineWords (a b : Word) : Word :=
  word ((bits a.toNat 0 32 + bits b.toNat 0 32) % 2 ^ 32
    + Nat.lor (bits a.toNat 32 16) (bits b.toNat 32 16) * 2 ^ 32
    + max (bits a.toNat 48 8) (bits b.toNat 48 8) * 2 ^ 48)

/-- A node takes a child's word. -/
def TreeNode.take (t : TreeNode) (w : Word) : TreeNode :=
  { t with missing := t.missing - 1, word := combineWords t.word w }

/-- A word arrives at the node of a path. -/
def Launch.arrive (l : Launch) (path : List Nat) (w : Word) : Launch :=
  { l with tree := l.tree.map fun t => if t.path = path then t.take w else t }

/-- A leaf sends its status word to the node of its parent instance. -/
def State.sendStatus (s : State) (l : Leaf) (w : Word) : State :=
  match l.launch with
  | none => s
  | some n =>
    match Map.get? s.launches n with
    | none => s
    | some x =>
      let path := (l.levelix.toList.map BitVec.toNat).take (x.counts.length - 1)
      { s with launches := Map.put s.launches n (x.arrive path w) }

/-- COMPLETION_NODE_FORWARD: a node that holds every child's word forwards; the root posts. -/
def execCompletionNodeForward (launch : Nat) (path : List Nat) (s : State) : Out :=
  match Map.get? s.launches launch with
  | none => disabled "COMPLETION_NODE_FORWARD"
  | some l =>
    match l.tree.find? fun t => decide (t.path = path) && decide (t.missing = 0) with
    | none => disabled "COMPLETION_NODE_FORWARD"
    | some t =>
      if path = [] then
        .next ({ s with launches := Map.del s.launches launch }.pushRecord l.queue t.word (word l.entry))
      else
        let l := { l with tree := l.tree.filter fun u => u.path ≠ path }
        .next { s with launches := Map.put s.launches launch (l.arrive path.dropLast t.word) }

-- Free counts (R356)

/-- FREE_COUNT_REPORT: `unit` is the compute die. The distributor learns of the control contexts freed on it, and
retries the launches that wait (R161); those of a replica that is being created are given (13 R283). -/
def execFreeCountReport (s : State) : Out :=
  if s.unit < 8 then
    let busy := s.pkg.busy.filter fun c => decide (c.core.cl.die ≠ s.unit) || (s.getCtx c).live || s.creatingCtx c
    let s := { s with pkg := { s.pkg with busy := busy } }
    .next ((s.parts.map Prod.fst).foldl State.retryLaunches s)
  else disabled "FREE_COUNT_REPORT"

end Sys2Proof.Machine
end

