-- ==== Sys2Proof/Machine/Matrix.lean ====
section
/-!
DEFINITION. The matrix engine (12 R255-R270, 15 R309-R314): the rules of its cards, MXJOB, the start of a job on the
two control cores, JTAKE, JDONE, the loads, the K-step, the stores, semaphores, PROG; and JCANCEL, which may stop it.
-/
namespace Sys2Proof.Machine

-- Formats (Table 12.1)

/-- MMA accepts the format. -/
def mmaFmt (f : Fmt) : Bool :=
  match f with
  | .fp4e2m1 | .mxfp4 | .dxb4 | .fp6e2m3 | .fp6e3m2 | .mxfp6e2m3 | .mxfp6e3m2 | .int8 | .uint8 | .fp8e4m3 | .fp8e5m2
  | .mxfp8e4m3 | .mxfp8e5m2 | .mxint8 | .dxb8 | .fp16 | .bf16 => true
  | _ => false

/-- A format code names one of them. -/
def mmaCode (c : Nat) : Bool := match Fmt.ofCode? c with | some f => mmaFmt f | none => false

/-- AFMT, BFMT and OFMT of a card. -/
def Card.afmt (c : Card) : Nat := recNat c.params 16 1
def Card.bfmt (c : Card) : Nat := recNat c.params 17 1
def Card.ofmt (c : Card) : Nat := recNat c.params 18 1
/-- The entry addresses of a card. -/
def Card.stagerEntry (c : Card) : Word := recWord c.params 0
def Card.issuerEntry (c : Card) : Word := recWord c.params 8

/-- INT8 or UINT8. -/
def isInt8 (c : Nat) : Bool := c = 1 || c = 2

/-- Check 5 of Table 11.3 for a matrix job (R257, R258): the offending byte of the card. -/
def State.matrixBad (s : State) (r : List Byte) (c : Card) : Option Nat :=
  let af := c.afmt
  let bf := c.bfmt
  let ab := (blkOfCode af).isSome
  let bb := (blkOfCode bf).isSome
  let entryBad := fun (w : Word) => !canonical w || w.toNat % 4 ≠ 0
  let dim := fun (o : Nat) => let n := recNat r o 4; (decide (n = 0 ∨ 2 ^ 31 ≤ n), o)
  let rds := c.reads.mapIdx fun i f => (f, s.fpFmt s.partNo f, 28 + 16 * i)
  let wrs := c.writes.mapIdx fun i f => (s.fpFmt s.partNo f, 28 + 16 * (c.reads.length + i))
  firstBad ([(decide (c.reads.isEmpty ∨ 5 < c.reads.length ∨ c.writes.isEmpty ∨ 5 < c.writes.length), 4)]
    ++ cardFmts r c.fps.length
    ++ [(entryBad c.stagerEntry, 112), (entryBad c.issuerEntry, 120), (!mmaCode af, 128), (!mmaCode bf, 129),
      (decide (c.ofmt < 8 ∨ 10 < c.ofmt), 130), dim 132, dim 136, dim 140,
      (ab != bb || (ab && recNat r 140 4 % 32 ≠ 0) || isInt8 af != isInt8 bf, 128)]
    ++ rds.map (fun f => (decide (f.2.1 ≠ 0 ∧ f.2.1 ≠ af ∧ f.2.1 ≠ bf) || (f.2.1 = 0 && (ab || bb)), f.2.2))
    ++ rds.map (fun f =>
        (decide (f.2.1 = bf ∧ f.2.1 ≠ af) && bb && !s.allColumn s.partNo f.1, f.2.2))
    ++ wrs.map fun f => (decide (f.1 ≠ 0 ∧ f.1 ≠ c.ofmt), f.2))

/-- MXJOB (15 R307). -/
def execMxjob (d a : XReg) (la : LaCount) (s : State) : Out :=
  s.run (.mxjob d a la) fun s =>
    s.submit (.mxjob d a la) d a la 2 1 0 false fun s r c => s.matrixBad r c

-- The engine of a cluster

/-- The engine. -/
def State.mx (s : State) (c : ClusterId) : MatrixSt := (s.getCl c).mx
/-- Replace it. -/
def State.setMx (s : State) (c : ClusterId) (m : MatrixSt) : State := s.setCl c { s.getCl c with mx := m }

/-- The control cores' contexts. -/
def stagerCtx (c : ClusterId) : CtxId := ⟨⟨c, 8⟩, 0⟩
def issuerCtx (c : ClusterId) : CtxId := ⟨⟨c, 9⟩, 0⟩

/-- The half of the issuing core. -/
def State.half (s : State) : CtrlHalf := if s.cur.core.core = 8 then (s.mx s.cl).stager else (s.mx s.cl).issuer
/-- Replace it. -/
def State.setHalf (s : State) (h : CtrlHalf) : State :=
  let m := s.mx s.cl
  s.setMx s.cl (if s.cur.core.core = 8 then { m with stager := h } else { m with issuer := h })
/-- The half of the other core. -/
def State.otherHalf (s : State) : CtrlHalf := if s.cur.core.core = 8 then (s.mx s.cl).issuer else (s.mx s.cl).stager

/-- The held job of the issuing cluster. -/
def State.heldJob (s : State) : Option (JobRef × JobSt) :=
  (s.mx s.cl).held.bind fun n => (s.job? ⟨s.cl, n⟩).map fun j => (⟨s.cl, n⟩, j)

/-- A context is no more: it issues no further, and what it has accessed no longer races. -/
def State.dropCtx (s : State) (c : CtxId) : State :=
  let s := s.setCtx c { s.getCtx c with live := false, waiting := false, windows := [], wake := none }
  let k := s.getCore c.core
  let s := s.setCore c.core { k with vq := k.vq.filter fun q => q.ctx ≠ c.idx }
  { s with mem := { s.mem with accesses := s.mem.accesses.filter fun a => a.agent ≠ .ctx c } }

/-- The engine takes a job: both cores hold it (R259, R260). -/
def State.holdJob (s : State) (r : JobRef) (j : JobSt) : State :=
  let s := s.setJob r { j with phase := .running }
  let m := s.mx r.cl
  s.setMx r.cl { m with
    row := 0, kstep := 0, sem := Vector.replicate 8 0, held := some r.slot
    stager := { m.stager with holds := true }, issuer := { m.issuer with holds := true } }

/-- Start a control core's program (R259). -/
def State.startControl (s : State) (c : CtxId) (pc card id : Word) : State :=
  (s.resetVec c.core).setCtx c ((({ Ctx.init with pc := pc, live := true, loaded := s.mem.stores } : Ctx).wx 1 card).wx 2 id)

/-- MATRIX_JOB_START (R259): `unit` is the cluster's number. -/
def execMatrixJobStart (s : State) : Out :=
  let c := clOfLinear s.pkg.grade s.unit
  let m := s.mx c
  if m.stager.running || m.issuer.running then disabled "MATRIX_JOB_START"
  else match (s.getCl c).jobs.find? fun q => q.2.card.engine = 2 && s.mayStart ⟨c, q.1⟩ q.2 with
    | none => disabled "MATRIX_JOB_START"
    | some (n, j) =>
      let s := s.setMx c { m with
        stager := ⟨true, j.card.stagerEntry, false, false, none⟩
        issuer := ⟨true, j.card.issuerEntry, false, false, none⟩ }
      let s := s.holdJob ⟨c, n⟩ j
      let s := s.startControl (stagerCtx c) j.card.stagerEntry j.card.addr (j.id n)
      .next (s.startControl (issuerCtx c) j.card.issuerEntry j.card.addr (j.id n))

/-- Pending MSTA stores are performed: every access of a job is before it ends (R241). -/
def State.performStores (s : State) (c : ClusterId) (l : List (Place × List Byte)) : State :=
  l.foldl (fun s p => s.writePieces c true [⟨p.1, p.2.length, false⟩] p.2) s

/-- The held job of a cluster ends without JDONE (R261): both control cores are discarded. DETAIL is what an issuer's
JDONE has left there (Table 11.4), and 0 where JCANCEL ends the job (Table 15.2, assumption 24). -/
def State.endMatrix (s : State) (r : JobRef) (j : JobSt) (code entry : Nat) : State :=
  let n := s.mem.below.length
  let s := s.endJob r (if code = jCancelled then { j with detail := 0 } else j) code entry
  let m := s.mx r.cl
  let s := s.setMx r.cl { m with
    sem := Vector.replicate 8 0, held := none, stores := []
    stager := ⟨false, 0, false, false, none⟩, issuer := ⟨false, 0, false, false, none⟩ }
  let s := s.performStores r.cl m.stores
  ((s.dropCtx (stagerCtx r.cl)).dropCtx (issuerCtx r.cl)).tagBelow n j

-- Instructions on a held job (R310)

/-- A matrix instruction of a control core: without a held job it raises ILLEGAL FORMAT. -/
def State.onJob (s : State) (i : Instr) (f : JobRef → JobSt → Res) : Res :=
  match s.heldJob with
  | some (r, j) => if s.half.holds then f r j else .trap (illegal i .format)
  | none => .trap (illegal i .format)

/-- An access of the job fails: the job ends (R261). -/
def JRes.onJob {α : Type} (x : JRes α) (s : State) (r : JobRef) (j : JobSt) (f : α → Res) : Res :=
  match x with
  | .ok a => f a
  | .fail c e => .gone (s.endMatrix r j c e)
  | .hold => .wait s

/-- The footprint may hold elements of an operand format (R311, R312); one whose format its page gave may have lost the
page. -/
def State.operandFp (s : State) (j : JobSt) (fmt : Nat) (f : Footprint) : Bool :=
  let g := s.fpFmt j.part f
  g = fmt || (g = 0 && (blkOfCode fmt).isNone)
    || (f.fmt = 0 && !isMesh f.base && (s.pageAt j.part f.base.toNat).isNone)

/-- Read w bits of an operand at a bit address. -/
def State.operandBits (s : State) (r : JobRef) (j : JobSt) (fmt at' w : Nat) : JRes (State × Nat) :=
  let a := word (at' / 8)
  (s.jobCheck r j false (fun _ f => s.operandFp j fmt f) a ((at' % 8 + w + 7) / 8)).bind fun ps =>
    let (s, bs) := s.jobRead r j a ps
    .ok (s, leNat bs / 2 ^ (at' % 8) % 2 ^ w)

/-- The value of the operand element at a bit address (R264), and the flag that its scale raises (R40). -/
def State.operand (s : State) (r : JobRef) (j : JobSt) (fmt at' : Nat) : JRes (State × FVal × Flags) :=
  let w := sideBits fmt 0
  (s.operandBits r j fmt at' w).bind fun v =>
    match blkOfCode fmt with
    | none => .ok (v.1, elemValue fmt ⟨v.2, 0, 0⟩)
    | some b =>
      let e := j.card.entryAt (at' / 8) 1
      (v.1.scalePieces r j false e b at').bind fun q =>
        let (s, bs) := v.1.jobRead r j (word q.1) q.2
        .ok (s, elemValue fmt ⟨v.2, q.1, leNat bs⟩)

/-- n elements from a bit address on, and their flags. -/
def State.operandRow (s : State) (r : JobRef) (j : JobSt) (fmt : Nat) : Nat → Nat → JRes (State × List FVal × Flags)
  | 0, _ => .ok (s, [], 0)
  | n + 1, at' =>
    (s.operand r j fmt at').bind fun v =>
      (v.1.operandRow r j fmt n (at' + sideBits fmt 0)).bind fun w => .ok (w.1, v.2.1 :: w.2.1, v.2.2 ||| w.2.2)

/-- Rows of n elements from bit addresses on, and their flags. -/
def State.operandRows (s : State) (r : JobRef) (j : JobSt) (fmt n : Nat) :
    List Word → JRes (State × List (List FVal) × Flags)
  | [] => .ok (s, [], 0)
  | a :: as =>
    (s.operandRow r j fmt n (8 * a.toNat)).bind fun v =>
      (v.1.operandRows r j fmt n as).bind fun w => .ok (w.1, v.2.1 :: w.2.1, v.2.2 ||| w.2.2)

/-- The flags of a load's elements go to the job (R47, R264). -/
def State.loadFlags (s : State) (r : JobRef) (j : JobSt) (f : Flags) : State := s.setJob r { j with flags := j.flags ||| f }

/-- What is wrong with the start of a row (R311): a trap; or its page does not translate. -/
inductive RowCheck where
  | ok
  | trap (t : Trap)
  | noPage

/-- The offset of an address in its page, or in its bank. -/
def State.pageOffset (s : State) (part : Nat) (a : Word) : Option Nat :=
  if isMesh a then some (a.toNat % 2 ^ 18) else (s.pageAt part a.toNat).map fun g => a.toNat - g.va

/-- The check of the start of a row in a format that is not block, or of a row of A in a block format (R311). -/
def State.rowCheck (s : State) (i : Instr) (part fmt : Nat) (a : Word) : RowCheck :=
  let w := sideBits fmt 0
  match blkOfCode fmt with
  | some b =>
    if isMesh a then .trap (illegal i .format)
    else match s.pageAt part a.toNat with
      | none => .noPage
      | some g =>
        if g.column || (a.toNat - g.va) % b.dataBytes ≠ 0 then .trap (illegal i .format) else .ok
  | none =>
    if w % 8 = 0 then if aligned a (w / 8) then .ok else .trap ⟨.align, a, 0⟩
    else if w = 6 then match s.pageOffset part a with
      | none => .noPage
      | some o => if o % 3 = 0 then .ok else .trap (illegal i .format)
    else .ok

/-- The checks of rows, in order. -/
def State.rowChecks (s : State) (i : Instr) (part fmt : Nat) : List Word → RowCheck × Word
  | [] => (.ok, 0)
  | a :: as => match s.rowCheck i part fmt a with | .ok => s.rowChecks i part fmt as | r => (r, a)

/-- Go on after a row check. A row whose page does not translate ends the job: with FOOTPRINT where no footprint may hold
its first element (R311, R312). -/
def RowCheck.onJob (x : RowCheck × Word) (s : State) (r : JobRef) (j : JobSt) (fmt : Nat) (f : Unit → Res) : Res :=
  match x.1 with
  | .ok => f ()
  | .trap t => .trap t
  | .noPage =>
    match j.card.entryFor false (fun _ f => s.operandFp j fmt f) x.2.toNat 1 with
    | none => .gone (s.endMatrix r j jFootprint (j.card.entryAt x.2.toNat 1))
    | some e => .gone (s.endMatrix r j jXlate e)

/-- Addresses x + k y. -/
def strideList (x y : Word) (n : Nat) : List Word := (List.range n).map fun k => x + word k * y

/-- A list of values with +0 after it, n long. -/
def padZero (n : Nat) (l : List FVal) : List FVal := (l ++ List.replicate n (FVal.fin false 0 0)).take n

/-- Replace rows of a buffer half of 64 rows. -/
def putRows (old : List (List FVal)) (row0 : Nat) (rows : List (List FVal)) : List (List FVal) :=
  (List.range 64).map fun m =>
    if row0 ≤ m ∧ m < row0 + rows.length then padZero 128 (rows.getD (m - row0) []) else padZero 128 (old.getD m [])

/-- MLDA (R311). -/
def execMlda (h : Bool) (a b : XReg) (row0 : Fin 64) (rows : BitVec 7) (klen : BitVec 8) (la : LaCount) (s : State) :
    Out :=
  let i : Instr := .mlda h a b row0 rows klen la
  s.run i fun s =>
    let n := rows.toNat
    let k := klen.toNat
    s.onJob i fun r j =>
      let fmt := j.card.afmt
      if 64 < row0.val + n || n = 0 || k = 0 || 128 < k then .trap (illegal i .reserved)
      else if (blkOfCode fmt).isSome && k % 32 ≠ 0 then .trap (illegal i .format)
      else
        let as := strideList (s.rx a) (s.rx b) n
        RowCheck.onJob (s.rowChecks i j.part fmt as) s r j fmt fun _ =>
          (s.operandRows r j fmt k as).onJob s r j fun v =>
            let m := v.1.mx s.cl
            let vs := v.2.1
            let m := if h then { m with a1 := putRows m.a1 row0.val vs } else { m with a0 := putRows m.a0 row0.val vs }
            .done (((v.1.setMx s.cl m).loadFlags r j v.2.2).longResult i la [])

/-- The check of a block-format B operand (R312). -/
def State.bankCheck (s : State) (i : Instr) (part : Nat) (b : BlkFmt) (klen : Nat) (x y : Word) : RowCheck :=
  if klen % 32 ≠ 0 || isMesh x then .trap (illegal i .format)
  else match s.pageAt part x.toNat with
    | none => .noPage
    | some g =>
      let o := (x.toNat - g.va) * 8
      let ok := g.column && o % b.bits = 0 && o / b.bits / g.rowLen % 32 = 0 && y.toNat * 8 = g.rowLen * b.bits
      if ok then .ok else .trap (illegal i .format)

/-- MLDB (R312). -/
def execMldb (k : Bool) (a b : XReg) (klen : BitVec 8) (nlen : BitVec 9) (la : LaCount) (s : State) : Out :=
  let i : Instr := .mldb k a b klen nlen la
  s.run i fun s =>
    let kn := klen.toNat
    let nn := nlen.toNat
    s.onJob i fun r j =>
      let fmt := j.card.bfmt
      if kn = 0 || 128 < kn || nn = 0 || 256 < nn then .trap (illegal i .reserved)
      else
        let as := strideList (s.rx a) (s.rx b) kn
        let chk := match blkOfCode fmt with
          | some bl => (s.bankCheck i j.part bl kn (s.rx a) (s.rx b), s.rx a)
          | none => s.rowChecks i j.part fmt as
        RowCheck.onJob chk s r j fmt fun _ =>
          (s.operandRows r j fmt nn as).onJob s r j fun v =>
            let bank := v.2.1.map (padZero 256) ++ List.replicate (128 - kn) (padZero 256 [])
            let m := v.1.mx s.cl
            let m := if k then { m with b1 := bank } else { m with b0 := bank }
            .done (((v.1.setMx s.cl m).loadFlags r j v.2.2).longResult i la [])

-- Accumulators (R268)

/-- An accumulator that nothing has written. -/
def zeroAcc : List Lane := List.replicate 256 0

/-- d + m exceeds 64. -/
def accBad (d : AReg) (m1 : Fin 64) : Bool := 64 < d.val + m1.val + 1

/-- MZERO (R313). -/
def execMzero (d : AReg) (m1 : Fin 64) (s : State) : Out :=
  s.run (.mzero d m1) fun s =>
    s.onJob (.mzero d m1) fun _ _ =>
      if accBad d m1 then .trap (illegal (.mzero d m1) .reserved)
      else
        let m := s.mx s.cl
        .done (s.setMx s.cl { m with acc := m.acc.filter fun q => q.1 < d.val || d.val + m1.val < q.1 })

-- The K-step (R267)

/-- An exact product; 0 times infinity is NaN. A product of integers that is zero has no sign. -/
def exactMul (ints : Bool) (a b : FVal) : FVal :=
  match a, b with
  | .nan x, .nan y => .nan (x || y)
  | .nan x, _ => .nan x
  | _, .nan y => .nan y
  | .inf x, .inf y => .inf (x != y)
  | .inf x, .fin y m _ => if m = 0 then .nan false else .inf (x != y)
  | .fin x m _, .inf y => if m = 0 then .nan false else .inf (x != y)
  | .fin x m e, .fin y n f => if ints && m * n = 0 then .fin false 0 0 else .fin (x != y) (m * n) (e + f)

/-- An exact sum. -/
def exactSum (a b : FVal) : FVal :=
  match a, b with
  | .nan x, .nan y => .nan (x || y)
  | .nan x, _ => .nan x
  | _, .nan y => .nan y
  | .inf x, .inf y => if x = y then .inf x else .nan false
  | .inf x, _ => .inf x
  | _, .inf y => .inf y
  | .fin x m e, .fin y n f =>
    if m = 0 ∧ n = 0 then .fin (x && y) 0 0
    else
      let q := min e f
      let t := scaled x m e q + scaled y n f q
      .fin (t < 0) t.natAbs q

/-- A finite nonzero term. -/
def FVal.nonzero : FVal → Bool
  | .fin _ m _ => m ≠ 0
  | _ => false

/-- The exponent of the leading bit of the largest of finite nonzero terms. -/
def maxLead (ts : List FVal) : Int :=
  (leadExp ts).getD 0

/-- The smallest exponent of finite terms, at most k. -/
def lowExp (k : Int) (ts : List FVal) : Int :=
  ts.foldl (fun m t => match t with | .fin _ _ e => min m e | _ => m) k

/-- The sum of terms in units of 2^base, each truncated below 2^k. -/
def truncSum (k base : Int) (ts : List FVal) : Int :=
  ts.foldl (fun s t =>
    match t with
    | .fin n m e =>
      let m' := if e < k then m / 2 ^ (k - e).toNat * 2 ^ (k - e).toNat else m
      s + scaled n m' e base
    | _ => s) 0

/-- An FP32 result is exactly v * 2^base. -/
def exactly (bits : Nat) (v base : Int) : Bool :=
  match specFp32.decode bits with
  | .fin n m e => let q := min e base; scaled n m e q = scaled (v < 0) v.natAbs base q
  | _ => false

/-- S rounded with an unbounded exponent is below the smallest normal. -/
def tinyUnbounded (rm : RMode) (neg : Bool) (m : Nat) (e : Int) : Bool :=
  let q := e + bitLen m - 24
  let r := (roundQ rm neg m e false q).1
  q + bitLen r - 1 < -126

/-- The rounded sum of one K-step over its terms. -/
def kstepSum (rm : RMode) (ts : List FVal) : Nat × Flags :=
  let f := specFp32
  let nans := ts.any FVal.isNan
  let pinf := ts.any fun t => t = .inf false
  let ninf := ts.any fun t => t = .inf true
  let fins := ts.filter FVal.nonzero
  if nans || (pinf && ninf) then (f.nanBits, flNV)
  else if pinf then (f.infBits, 0)
  else if ninf then (f.sign true + f.infBits, 0)
  else if fins.isEmpty then
    (if !ts.contains (.fin false 0 0) && !ts.any (fun t => match t with | .fin n _ _ => !n | _ => false) then f.sign true
      else if rm = .rdn then f.sign true else 0, 0)
  else
    let k := maxLead fins - 95
    let base := lowExp k fins
    let exact := truncSum base base fins
    let sum := truncSum k base fins
    let neg := decide (sum < 0)
    let r := if sum = 0 then ((if rm = .rdn then f.sign true else 0), (0 : Flags)) else f.round rm neg sum.natAbs base
    let nx := !exactly r.1 exact base
    let uf := nx && sum ≠ 0 && tinyUnbounded rm neg sum.natAbs base
    (r.1, (r.2 &&& flOF) ||| flagIf nx flNX ||| flagIf uf flUF)

/-- Groups of 32, each summed exactly. -/
def blockSums : Nat → List FVal → List FVal
  | 0, _ => []
  | k + 1, ps =>
    (match ps.take 32 with | [] => FVal.fin false 0 0 | p :: rest => rest.foldl exactSum p) :: blockSums k (ps.drop 32)

/-- One K-step of a lane (R267). -/
def kstep (rm : RMode) (blocks ints : Bool) (a b : List FVal) (acc : Lane) : Lane × Flags :=
  let ps := List.zipWith (exactMul ints) a b
  let ts := if blocks then blockSums 4 ps else ps
  let v := specFp32.decode acc.toNat
  let ts := match v with | .fin _ 0 _ => ts | _ => ts ++ [v]
  let r := kstepSum rm ts
  (BitVec.ofNat 32 r.1, r.2)

/-- Column n of a bank, +0 where nothing is held. -/
def bankColumn (bank : List (List FVal)) (n : Nat) : List FVal :=
  (List.range 128).map fun k => ((bank.getD k []).getD n (.fin false 0 0))

/-- One row of an MMA (R266): the new accumulator, and the flags. -/
def mmaRow (rm : RMode) (blocks ints : Bool) (a : List FVal) (bank : List (List FVal)) (acc : List Lane) :
    List Lane × Flags :=
  let a := padZero 128 a
  let rs := (List.range 256).map fun n => kstep rm blocks ints a (bankColumn bank n) (acc.getD n 0)
  (rs.map Prod.fst, rs.foldl (fun f r => f ||| r.2) 0)

/-- The engine's state after row m of an MMA, and the flags of the row. -/
def MatrixSt.row1 (m : MatrixSt) (c : Card) (d : Nat) (h k : Bool) (row : Nat) : MatrixSt × Flags :=
  let a := (if h then m.a1 else m.a0).getD row []
  let r := mmaRow c.rm (blkOfCode c.afmt).isSome (isInt8 c.afmt) a (if k then m.b1 else m.b0)
    (Map.getD m.acc (d + row) zeroAcc)
  ({ m with acc := Map.put m.acc (d + row) r.1, row := row + 1 }, r.2)

/-- MMA (R266, R313): each attempt computes one row, where a pre-emption may stop it (R270). -/
def execMma (d : AReg) (h k : Bool) (m1 : Fin 64) (la : LaCount) (s : State) : Out :=
  let i : Instr := .mma d h k m1 la
  s.run i fun s =>
    s.onJob i fun r j =>
      let m := s.mx s.cl
      if accBad d m1 then .trap (illegal i .reserved)
      else
        let v := if m1.val < m.row then (m, (0 : Flags)) else m.row1 j.card d.val h k m.row
        let s := s.setJob r { j with flags := j.flags ||| v.2 }
        if m1.val < v.1.row then
          .done ((s.setMx s.cl { v.1 with row := 0, kstep := (m.kstep + 1) % 2 ^ 16 }).longResult i la [])
        else .wait ((s.setMx s.cl v.1).started i)

-- Stores (R313)

/-- Lanes of an accumulator in the output format, and the flags (Table 2.9). -/
def storeLanes (rm : RMode) (fmt : Nat) (ls : List Lane) : List Byte × Flags :=
  match numOfCode fmt with
  | none => ([], 0)
  | some t =>
    let cs := ls.map fun l => convert rm (.flt specFp32) t l.toNat
    ((cs.map fun c => leBytes (t.width / 8) c.1).flatten, cs.foldl (fun f c => f ||| c.2) 0)

/-- The stores of a row: each piece's place and its bytes. -/
def rowStores : List JPiece → List Byte → List (Place × List Byte)
  | [], _ => []
  | p :: ps, bs => (p.place, bs.take p.n) :: rowStores ps (bs.drop p.n)

/-- Rows of an MSTA: each row is one access, checked, and waits to be performed. One on a CHECKED page is performed at once
and logged, so that its check is one at the access (9 R218). The rows before one that fails stay. -/
def State.stageRows (s : State) (r : JobRef) (j : JobSt) (d n : Nat) : List (Nat × Word) → State × JRes Unit
  | [] => (s, .ok ())
  | (i, a) :: rest =>
    let m := s.mx r.cl
    let bs := (storeLanes j.card.rm j.card.ofmt ((Map.getD m.acc (d + i) zeroAcc).take n)).1
    match s.jobCheck r j true (fun _ _ => true) a bs.length with
    | .fail c e => (s, .fail c e)
    | .hold => (s, .hold)
    | .ok ps =>
      if ps.any JPiece.checked then (s.jobWrite r j a ps bs).stageRows r j d n rest
      else
        let s := (s.noteRange (some r.cl) j.part a bs.length).tagBelow s.mem.below.length j
        (s.setMx r.cl { m with stores := m.stores ++ rowStores ps bs }).stageRows r j d n rest

/-- The flags of an MSTA. -/
def MatrixSt.storeFlags (m : MatrixSt) (c : Card) (d n rows : Nat) : Flags :=
  (List.range rows).foldl (fun f i => f ||| (storeLanes c.rm c.ofmt ((Map.getD m.acc (d + i) zeroAcc).take n)).2) 0

/-- MSTA (R313): the issuer does not wait for the stores. -/
def execMsta (d : AReg) (a b : XReg) (m1 : Fin 64) (n : BitVec 9) (s : State) : Out :=
  let i : Instr := .msta d a b m1 n
  s.run i fun s =>
    s.onJob i fun r j =>
      let z := sideBits j.card.ofmt 0 / 8
      let x := s.rx a
      let y := s.rx b
      if accBad d m1 || n.toNat = 0 || 256 < n.toNat then .trap (illegal i .reserved)
      else if !aligned x z then .trap ⟨.align, x, 0⟩
      else if !aligned y z then .trap ⟨.align, x + y, 0⟩
      else
        let rows := (List.range (m1.val + 1)).map fun k => (k, x + word k * y)
        let j' := { j with flags := j.flags ||| (s.mx s.cl).storeFlags j.card d.val n.toNat (m1.val + 1) }
        match s.stageRows r j d.val n.toNat rows with
        | (t, .ok _) => .done (t.setJob r j')
        | (t, .fail c e) => .gone (t.endMatrix r j' c e)
        | (_, .hold) => .wait s

/-- MSTA_STORES_PERFORMED: `unit` is the cluster's number. -/
def execMstaStoresPerformed (s : State) : Out :=
  let c := clOfLinear s.pkg.grade s.unit
  let m := s.mx c
  if m.stores.isEmpty then disabled "MSTA_STORES_PERFORMED"
  else
    let t := (s.setMx c { m with stores := [] }).performStores c m.stores
    .next (match m.held.bind fun n => s.job? ⟨c, n⟩ with | some j => t.tagBelow s.mem.below.length j | none => t)

-- Semaphores (R263)

/-- Set a semaphore of the issuing cluster. -/
def State.setSem (s : State) (n : SemReg) (v : Nat) : State :=
  let m := s.mx s.cl
  s.setMx s.cl { m with sem := m.sem.set n.val v }

/-- The issuing core's MSTA stores are performed. -/
def State.storesDone (s : State) : Bool := s.cur.core.core = 8 || (s.mx s.cl).stores.isEmpty

/-- SEMV. -/
def execSemv (n : SemReg) (s : State) : Out :=
  s.run (.semv n) fun s =>
    let v := (s.mx s.cl).sem.get n
    if !s.storesDone || 255 ≤ v then .wait s else .done (s.setSem n (v + 1))

/-- SEMP. -/
def execSemp (n : SemReg) (s : State) : Out :=
  s.run (.semp n) fun s =>
    let v := (s.mx s.cl).sem.get n
    if v = 0 then .wait s else .done (s.setSem n (v - 1))

-- PROG (R269, R314)

/-- MPROG.rd. -/
def execMprogRd (d : XReg) (s : State) : Out :=
  s.run (.mprogRd d) fun s =>
    s.onJob (.mprogRd d) fun _ _ =>
      let m := s.mx s.cl
      .done (s.wx d (word (m.kstep % 2 ^ 16 + m.row % 2 ^ 8 * 2 ^ 16)))

/-- MPROG.wr. -/
def execMprogWr (a : XReg) (s : State) : Out :=
  s.run (.mprogWr a) fun s =>
    s.onJob (.mprogWr a) fun _ _ =>
      let v := (s.rx a).toNat
      let m := s.mx s.cl
      .done (s.setMx s.cl { m with kstep := bits v 0 16, row := bits v 16 8 })

-- JTAKE, JDONE (R260)

/-- The issuing core's half of its job ends; with both halves the job completes (R260). -/
def State.endHalf (s : State) (v : Word) : State :=
  match s.heldJob with
  | none => s
  | some (r, j) =>
    let j := if s.cur.core.core = 9 then { j with detail := bits v.toNat 0 32 } else j
    let s := s.setHalf { s.half with holds := false }
    if s.otherHalf.holds then s.setJob r j
    else (s.setMx s.cl { s.mx s.cl with held := none }).endJob r j jDone 0

/-- JDONE. -/
def execJdone (a : XReg) (s : State) : Out :=
  s.run (.jdone a) fun s =>
    if !s.half.holds then .done s
    else if !(s.mx s.cl).stores.isEmpty then .wait (s.started (.jdone a))
    else .done (s.endHalf (s.rx a))

/-- The oldest matrix job of a cluster that has not started. -/
def State.nextMatrixJob (s : State) (c : ClusterId) : Option (Nat × JobSt) :=
  ((s.getCl c).jobs.filter fun q => q.2.card.engine = 2 && (q.2.phase = .queued || q.2.phase = .ready)).foldl
    (fun best q => match best with
      | none => some q
      | some b => if q.2.seq < b.2.seq then some q else some b) none

/-- The issuing core waits in JTAKE. -/
def State.waitTake (s : State) (b : Bool) : State := s.setHalf { s.half with atTake := b }

/-- JTAKE. -/
def execJtake (d : XReg) (s : State) : Out :=
  s.run (.jtake d) fun s =>
    match s.half.given with
    | some ad => .done ((s.setHalf { s.half with given := none, atTake := false }).wx d ad)
    | none =>
      if s.half.holds then .done ((s.waitTake false).wx d 0)
      else match s.nextMatrixJob s.cl with
        | none => .done ((s.waitTake false).wx d 0)
        | some (n, j) =>
          if j.phase ≠ .ready then .wait ((s.waitTake true).asks (.jtake d))
          else if j.card.stagerEntry ≠ (s.mx s.cl).stager.entry || j.card.issuerEntry ≠ (s.mx s.cl).issuer.entry then
            .done ((s.waitTake false).wx d 0)
          else if !s.otherHalf.atTake || s.otherHalf.holds then .wait ((s.waitTake true).asks (.jtake d))
          else
            let s := (s.waitTake false).holdJob ⟨s.cl, n⟩ j
            let m := s.mx s.cl
            let s := s.setMx s.cl (
              if s.cur.core.core = 8 then { m with issuer := { m.issuer with given := some j.card.addr, atTake := false } }
              else { m with stager := { m.stager with given := some j.card.addr, atTake := false } })
            .done (s.wx d j.card.addr)

-- JCANCEL (15 R309)

/-- A job ends by JCANCEL: a job of the matrix engine at once, with DETAIL 0, held or with both JDONEs performed; any other
after its current unit, which is a step of the model (Table 15.2). -/
def State.cancelJob (s : State) (r : JobRef) (j : JobSt) : State :=
  if j.card.engine = 2 && j.phase = .running then s.endMatrix r j jCancelled 0
  else (s.endJob r (if j.card.engine = 2 then { j with detail := 0 } else j) jCancelled 0).dropRowReqs (· = r)

/-- JCANCEL. -/
def execJcancel (d a : XReg) (s : State) : Out :=
  s.run (.jcancel d a) fun s =>
    match s.jobOfId (s.rx a) with
    | none => .done (s.wx d (BitVec.allOnes 64))
    | some (r, j) =>
      if j.pending then
        let s' := s.cancelJob r j
        if (s'.getCtx s.cur).live then .done (s'.wx d 1) else .gone s'
      else .done (s.wx d 0)

end Sys2Proof.Machine
end

