-- ==== Sys2Proof/Machine/System.lean ====
section
/-!
DEFINITION. System instructions (03 R56, 04 R92-R99), EXIT apart (Exit.lean), and the system registers (01 R15-R18).
-/
namespace Sys2Proof.Machine

/-- PAD32: PC advances by 4 and nothing else changes (R56). -/
def execPad32 (s : State) : Out := .next { s with ctx := { s.ctx with pc := s.ctx.pc + 4, lastIssue := some s.cycle } }

/-- NOP (R92). -/
def execNop (s : State) : Out := s.run .nop .done

/-- RETT (R28, R95, 5 R147). -/
def execRett (s : State) : Out :=
  s.run .rett fun s =>
    if bits s.ctx.trapcause.toNat 16 2 > s.ctx.super.toNat then .trap ⟨.priv, 0, instrBits .rett⟩
    else
      let r := s.ctx.trapReturn.returnTo s.ctx.trappc
      .jump { s with ctx := r.1 } r.2

/-- FENCE (R93): after the queued vector memory accesses; an acquire of its scope; the fetched blocks go; the region
ends at scope core or wider. -/
def execFence (sc : Scope) (s : State) : Out :=
  s.run (.fence sc) fun s =>
    if s.vecMemBusy then .wait s
    else
      let s := s.acquire sc
      let s := { s with ctx := { s.ctx with fetched := [], fence := s.mem.stores } }
      .done (if sc = .ctx then s else s.endRegion)

/-- TRAP (R96). -/
def execTrap (imm : BitVec 30) (s : State) : Out := s.run (.trap imm) fun _ => .trap ⟨.trap, 0, sext30 imm⟩

/-- BRK (R96). -/
def execBrk (imm : BitVec 30) (s : State) : Out := s.run (.brk imm) fun _ => .trap ⟨.brk, 0, sext30 imm⟩

-- System registers

/-- FPMODE.MODE (Table 1.4). -/
def RMode.code : RMode → Nat
  | .rne => 0 | .rtz => 1 | .rup => 2 | .rdn => 3 | .rmm => 4

/-- The mode of a code; 5-7 are reserved. -/
def rmodeOf? : Nat → Option RMode
  | 0 => some .rne | 1 => some .rtz | 2 => some .rup | 3 => some .rdn | 4 => some .rmm | _ => none

/-- The issuing context's leaf. -/
def State.leaf? (s : State) : Option Leaf := s.ctx.leaf.bind fun n => Map.get? s.leaves n

/-- Replace a value of the issuing context's leaf. -/
def State.setLeaf (s : State) (f : Leaf → Leaf) : State :=
  match s.ctx.leaf, s.leaf? with
  | some n, some l => { s with leaves := Map.put s.leaves n (f l) }
  | _, _ => s

/-- PRIV (Table 1.3). -/
def privWord (c : Ctx) : Word := word (c.super.toNat + c.inh.toNat * 4)

/-- VSTATUS: BUSY and the count of the context's queued vector commands (Table 1.1). -/
def State.vstatus (s : State) : Word :=
  let n := (s.queued s.cur).length
  word ((if n = 0 then 0 else 1) + n * 2 ^ 8)

/-- The value of a system register (Table 1.1). A context without a leaf reads its leaf's registers as 0
(assumption 46). -/
def State.sysRead (s : State) (n : Nat) : Word :=
  let leafVal (f : Leaf → Word) : Word := (s.leaf?.map f).getD 0
  let partVal (f : Part → Word) : Word := ((s.part?  s.partNo).map f).getD 0
  if 0x028 ≤ n ∧ n ≤ 0x02F then leafVal fun l => l.levelix[n - 0x028]?.getD 0
  else if 0x030 ≤ n ∧ n ≤ 0x037 then leafVal fun l => l.levelcnt[n - 0x030]?.getD 0
  else match n with
    | 0x000 => word (coreIdBits s.cur)
    | 0x001 => word s.partNo
    | 0x002 => privWord s.ctx
    | 0x003 => partVal fun p => p.cfg.enumva
    | 0x004 => word s.cycle
    | 0x005 => partVal fun p => word p.stepno
    | 0x010 => word (RMode.code s.ctx.fpmode)
    | 0x011 => s.ctx.fpflags.setWidth 64
    | 0x012 => (s.clflagsRead s.cl).setWidth 64
    | 0x013 => s.vstatus
    | 0x018 => s.ctx.regionid
    | 0x019 => s.ctx.hdone.setWidth 64
    | 0x020 => leafVal Leaf.deadline
    | 0x021 => leafVal Leaf.launchptr
    | 0x040 => s.core.trapvec
    | 0x041 => s.ctx.trappc
    | 0x042 => s.ctx.trapcause
    | 0x043 => s.ctx.trapaddr
    | 0x044 => s.ctx.trapinfo
    | _ => 0

/-- An address register whose bits 1:0 read as zero. -/
def addrBits (v : Word) : Word := word (v.toNat / 4 * 4)

/-- A write to a system register: none when it would place a reserved value; a register that is read-only at the level
keeps its value (R15, R97). A context without a leaf has no DEADLINE to write (assumption 46). -/
def State.sysWrite (s : State) (n : Nat) (v : Word) : Option State :=
  let put (c : Ctx) : Option State := some { s with ctx := c }
  match n with
  | 0x010 => (rmodeOf? (bits v.toNat 0 3)).map fun m => { s with ctx := { s.ctx with fpmode := m } }
  | 0x011 => put { s.ctx with fpflags := v.setWidth 5 }
  | 0x019 => put { s.ctx with hdone := s.ctx.hdone &&& ~~~(v.setWidth 11) }
  | 0x020 => some (if s.ctx.super then s.setLeaf fun l => { l with deadline := v } else s)
  | 0x040 => some (s.setCore s.cur.core { s.core with trapvec := addrBits v })
  | 0x041 => put { s.ctx with trappc := addrBits v }
  | 0x042 => if bits v.toNat 16 2 = 3 then none else put { s.ctx with trapcause := word (bits v.toNat 0 18) }
  | 0x043 => put { s.ctx with trapaddr := v }
  | 0x044 => put { s.ctx with trapinfo := v }
  | _ => some s

/-- SYSRD (R97). -/
def execSysrd (d : XReg) (num : BitVec 30) (s : State) : Out :=
  s.run (.sysrd d num) fun s => .done (s.wx d (s.sysRead num.toNat))

/-- SYSWR (R97). -/
def execSyswr (a : XReg) (num : BitVec 30) (s : State) : Out :=
  s.run (.syswr a num) fun s =>
    match s.sysWrite num.toNat (s.rx a) with
    | some s' => .done s'
    | none => .trap (illegal (.syswr a num) .reserved)

/-- SYSWR to CLFLAGS (R49, R97). -/
def execClflagsWrite (a : XReg) (s : State) : Out := s.run (.clflagsWrite a) fun s => .done (s.clflagsClear s.cl)

-- SLEEP (R99)

/-- The cycles that a SLEEP lasts; 0 when it completes at once. -/
def sleepCycles (v : Word) (imm : BitVec 30) : Nat :=
  let n := (v + sext30 imm).toInt
  if n ≤ 0 then 0 else min n.toNat (2 ^ 32 - 1)

/-- SLEEP: the context waits until its cycles have passed. -/
def execSleep (a : XReg) (imm : BitVec 30) (s : State) : Out :=
  s.run (.sleep a imm) fun s =>
    match s.ctx.wake with
    | some w => if w ≤ s.cycle then .done { s with ctx := { s.ctx with wake := none } } else .wait s
    | none =>
      let n := sleepCycles (s.rx a) imm
      if n = 0 then .done s
      else .wait { s with ctx := { s.ctx with wake := some (s.cycle + n), lastIssue := some s.cycle } }

/-- A SLEEP ends: its cycles have passed, and the context goes on after it. A halt abandons it first (R99, Table 18.6). -/
def execSleepExpiry (c : CtxId) (s : State) : Out :=
  match (s.getCtx c).wake with
  | none => disabled "SLEEP_EXPIRY"
  | some w =>
    if w ≤ s.cycle ∧ s.goesOn c then
      let t := (s.switchTo c).retire (.sleep 0 0) none
      .next (({ t with ctx := { t.ctx with wake := none, lastIssue := (s.getCtx c).lastIssue } }).switchTo s.cur)
    else disabled "SLEEP_EXPIRY"

end Sys2Proof.Machine
end

