-- ==== Sys2Proof/Machine/Exit.lean ====
section
/-!
DEFINITION. EXIT (01 R31, 04 R94, 12 R260): of a helper, of a leaf's control context, and of a matrix control core.
-/
namespace Sys2Proof.Machine

/-- The context ends: its stream-table entries are released, its state is discarded, and the helpers that it started
have no starter any more (R94, R152). -/
def State.endContext (s : State) : State :=
  let c := s.cur
  let s := (s.unbind c fun _ => true).dropCtx c
  let s := (List.range 11).foldl (fun s n =>
    let h : CtxId := ⟨c.core, n⟩
    if (s.getCtx h).starter = some c then s.setCtx h { s.getCtx h with starter := none } else s) s
  { s with ctx := { Ctx.init with lastIssue := some s.cycle } }

/-- A helper of the issuing context's leaf is live. -/
def State.helpersLive (s : State) : Bool :=
  (List.range 10).any fun n =>
    let h := s.getCtx ⟨s.cur.core, n + 1⟩
    h.live && h.leaf.isSome && h.leaf = s.ctx.leaf

/-- The status word of a leaf. -/
def leafStatus (v : Word) : Word := word (1 + bits v.toNat 0 16 * 2 ^ 32)

/-- A helper ends: its HDONE bit goes to its starter, and its slot to who waits for one (R167). -/
def State.exitHelper (s : State) : State :=
  let n := s.cur.idx
  let s :=
    match s.ctx.starter with
    | some c => s.setCtx c { s.getCtx c with hdone := (s.getCtx c).hdone ||| BitVec.twoPow 11 n }
    | none => s
  s.endContext.grantSlots s.cur.core

/-- A control context ends: its leaf sends the status word and is no more. -/
def State.exitControl (s : State) (v : Word) : State :=
  let busy := if s.pkg.busy.contains s.cur then s.pkg.busy else s.pkg.busy ++ [s.cur]
  let s := { s with pkg := { s.pkg with busy := busy } }
  let s :=
    match s.ctx.leaf, s.leaf? with
    | some n, some l => { s.sendStatus l (leafStatus v) with leaves := Map.del s.leaves n }
    | _, _ => s
  s.endContext

/-- A matrix control core goes idle, its half of a held job ended first (R260). -/
def State.exitMatrix (s : State) (v : Word) : State :=
  let s := if s.half.holds then s.endHalf v else s
  (s.setHalf { s.half with running := false, atTake := false, given := none }).endContext

/-- EXIT. -/
def execExit (a : XReg) (s : State) : Out :=
  s.run (.exit a) fun s =>
    if !(s.queued s.cur).isEmpty then .wait s
    else if coreKind s.cur.core ≠ .compute then
      if s.half.holds && !(s.mx s.cl).stores.isEmpty then .wait s else .gone (s.exitMatrix (s.rx a))
    else if s.cur.idx ≠ 0 then .gone s.exitHelper
    else if s.helpersLive then .wait s
    else .gone (s.exitControl (s.rx a))

end Sys2Proof.Machine
end

