-- ==== Sys2Proof/Machine/Integer.lean ====
section
/-!
DEFINITION. Integer register instructions, immediates, constants, bit fields, RANKX and MESHA (04 R100-R107).
-/
namespace Sys2Proof.Machine

/-- An integer instruction of two operands. -/
def State.int2 (s : State) (i : Instr) (d a b : XReg) (f : Word → Word → Word) : Out :=
  s.run i fun s => .done (s.wx d (f (s.rx a) (s.rx b)))

/-- An integer instruction of one operand. -/
def State.int1 (s : State) (i : Instr) (d a : XReg) (f : Word → Word) : Out :=
  s.run i fun s => .done (s.wx d (f (s.rx a)))

/-- 1 or 0. -/
def truth (b : Bool) : Word := if b then 1 else 0

/-- Bits 127:64 of a product of integers. -/
def highHalf (p : Int) : Word := BitVec.ofInt 64 (p / 2 ^ 64)

/-- Signed quotient (R101): truncated toward zero; all ones for a divisor of zero. -/
def quot (a b : Word) : Word := if b = 0 then BitVec.allOnes 64 else BitVec.ofInt 64 (Int.tdiv a.toInt b.toInt)
/-- Unsigned quotient (R101). -/
def quotz (a b : Word) : Word := if b = 0 then BitVec.allOnes 64 else word (a.toNat / b.toNat)
/-- Signed remainder (R101): the sign of the dividend; the dividend for a divisor of zero. -/
def remn (a b : Word) : Word := if b = 0 then a else BitVec.ofInt 64 (Int.tmod a.toInt b.toInt)
/-- Unsigned remainder (R101). -/
def remz (a b : Word) : Word := if b = 0 then a else word (a.toNat % b.toNat)

/-- The shift count of a register operand. -/
def count (b : Word) : Nat := b.toNat % 64

/-- Number of 1 bits among the low n bits. -/
def popcount (a : Word) : Nat → Nat
  | 0 => 0
  | n + 1 => popcount a n + (a.getLsbD n).toNat

/-- Zero bits above the highest 1 bit among the low n bits. -/
def leadZeros (a : Word) : Nat → Nat
  | 0 => 0
  | n + 1 => if a.getLsbD n then 0 else leadZeros a n + 1

/-- Zero bits below the lowest 1 bit, from bit k on, n bits. -/
def trailZeros (a : Word) : Nat → Nat → Nat
  | _, 0 => 0
  | k, n + 1 => if a.getLsbD k then 0 else trailZeros a (k + 1) n + 1

/-- The mask of a field of a width of 1 to 64 (R102). -/
def fieldMask (width1 : Fin 64) : Word := word (2 ^ (width1.val + 1) - 1)

/-- BFX (R102). -/
def bitExtract (a : Word) (pos width1 : Fin 64) : Word := (a >>> pos.val) &&& fieldMask width1
/-- BFI (R102). -/
def bitInsert (a b : Word) (pos width1 : Fin 64) : Word :=
  (b &&& ~~~(fieldMask width1 <<< pos.val)) ||| ((a &&& fieldMask width1) <<< pos.val)

/-- ADD (Table 4.1). -/
def execAdd (d a b : XReg) (s : State) : Out := s.int2 (.add d a b) d a b (· + ·)
/-- SUB. -/
def execSub (d a b : XReg) (s : State) : Out := s.int2 (.sub d a b) d a b (· - ·)
/-- MUL: the low 64 bits. -/
def execMul (d a b : XReg) (s : State) : Out := s.int2 (.mul d a b) d a b (· * ·)
/-- MULH: the high 64 bits, signed. -/
def execMulh (d a b : XReg) (s : State) : Out := s.int2 (.mulh d a b) d a b fun x y => highHalf (x.toInt * y.toInt)
/-- MULHZ: the high 64 bits, unsigned. -/
def execMulhz (d a b : XReg) (s : State) : Out := s.int2 (.mulhz d a b) d a b fun x y => word (x.toNat * y.toNat / 2 ^ 64)
/-- DIV (R101). -/
def execDiv (d a b : XReg) (s : State) : Out := s.int2 (.div d a b) d a b quot
/-- DIVZ (R101). -/
def execDivz (d a b : XReg) (s : State) : Out := s.int2 (.divz d a b) d a b quotz
/-- REM (R101). -/
def execRem (d a b : XReg) (s : State) : Out := s.int2 (.rem d a b) d a b remn
/-- REMZ (R101). -/
def execRemz (d a b : XReg) (s : State) : Out := s.int2 (.remz d a b) d a b remz
/-- AND. -/
def execAnd (d a b : XReg) (s : State) : Out := s.int2 (.and d a b) d a b (· &&& ·)
/-- OR. -/
def execOr (d a b : XReg) (s : State) : Out := s.int2 (.or d a b) d a b (· ||| ·)
/-- XOR. -/
def execXor (d a b : XReg) (s : State) : Out := s.int2 (.xor d a b) d a b (· ^^^ ·)
/-- ANDN: A & ~B. -/
def execAndn (d a b : XReg) (s : State) : Out := s.int2 (.andn d a b) d a b fun x y => x &&& ~~~y
/-- SHL. -/
def execShl (d a b : XReg) (s : State) : Out := s.int2 (.shl d a b) d a b fun x y => x <<< count y
/-- SHR: zeros shifted in. -/
def execShr (d a b : XReg) (s : State) : Out := s.int2 (.shr d a b) d a b fun x y => x >>> count y
/-- SHA: the sign shifted in. -/
def execSha (d a b : XReg) (s : State) : Out := s.int2 (.sha d a b) d a b fun x y => x.sshiftRight (count y)
/-- ROT: rotated right. -/
def execRot (d a b : XReg) (s : State) : Out := s.int2 (.rot d a b) d a b fun x y => x.rotateRight (count y)
/-- SLT: signed. -/
def execSlt (d a b : XReg) (s : State) : Out := s.int2 (.slt d a b) d a b fun x y => truth (x.slt y)
/-- SLTZ: unsigned. -/
def execSltz (d a b : XReg) (s : State) : Out := s.int2 (.sltz d a b) d a b fun x y => truth (x.ult y)
/-- SEQ. -/
def execSeq (d a b : XReg) (s : State) : Out := s.int2 (.seq d a b) d a b fun x y => truth (x = y)
/-- MIN: signed. -/
def execMin (d a b : XReg) (s : State) : Out := s.int2 (.min d a b) d a b fun x y => if y.slt x then y else x
/-- MAX: signed. -/
def execMax (d a b : XReg) (s : State) : Out := s.int2 (.max d a b) d a b fun x y => if x.slt y then y else x
/-- MINZ: unsigned. -/
def execMinz (d a b : XReg) (s : State) : Out := s.int2 (.minz d a b) d a b fun x y => if y.ult x then y else x
/-- MAXZ: unsigned. -/
def execMaxz (d a b : XReg) (s : State) : Out := s.int2 (.maxz d a b) d a b fun x y => if x.ult y then y else x
/-- POPC. -/
def execPopc (d a : XReg) (s : State) : Out := s.int1 (.popc d a) d a fun x => word (popcount x 64)
/-- CLZ. -/
def execClz (d a : XReg) (s : State) : Out := s.int1 (.clz d a) d a fun x => word (leadZeros x 64)
/-- CTZ. -/
def execCtz (d a : XReg) (s : State) : Out := s.int1 (.ctz d a) d a fun x => word (trailZeros x 0 64)
/-- BFX (R102). -/
def execBfx (d a : XReg) (pos width1 : Fin 64) (s : State) : Out :=
  s.int1 (.bfx d a pos width1) d a fun x => bitExtract x pos width1
/-- BFI (R102). -/
def execBfi (d a b : XReg) (pos width1 : Fin 64) (s : State) : Out :=
  s.int2 (.bfi d a b pos width1) d a b fun x y => bitInsert x y pos width1
/-- BREV: bit i to bit 63 - i. -/
def execBrev (d a : XReg) (s : State) : Out := s.int1 (.brev d a) d a BitVec.reverse
/-- SEL: A if C is not zero, else B. -/
def execSel (d a b c : XReg) (s : State) : Out :=
  s.run (.sel d a b c) fun s => .done (s.wx d (if s.rx c ≠ 0 then s.rx a else s.rx b))

/-- The partner's rank (R105), or -1 for an idle rank. -/
def rankPartner (r n k : Int) : Int :=
  if n < 1 ∨ r < 0 ∨ n ≤ r then -1
  else
    let l := Nat.log2 n.toNat
    let p : Int := (2 ^ l : Nat)
    if k = -1 then (if p ≤ r then r - p else if r < n - p then r + p else -1)
    else if 0 ≤ k ∧ k < l then (if p ≤ r then -1 else (Nat.xor r.toNat (2 ^ k.toNat) : Nat))
    else -1

/-- RANKX (R105). -/
def execRankx (d a b c : XReg) (s : State) : Out :=
  s.run (.rankx d a b c) fun s =>
    .done (s.wx d (BitVec.ofInt 64 (rankPartner (s.rx a).toInt (s.rx b).toInt (s.rx c).toInt)))

-- Immediates and constants (R103, R104)

/-- ADDI. -/
def execAddi (d a : XReg) (imm : BitVec 30) (s : State) : Out := s.int1 (.addi d a imm) d a (· + sext30 imm)
/-- ANDI. -/
def execAndi (d a : XReg) (imm : BitVec 30) (s : State) : Out := s.int1 (.andi d a imm) d a (· &&& sext30 imm)
/-- ORI. -/
def execOri (d a : XReg) (imm : BitVec 30) (s : State) : Out := s.int1 (.ori d a imm) d a (· ||| sext30 imm)
/-- XORI. -/
def execXori (d a : XReg) (imm : BitVec 30) (s : State) : Out := s.int1 (.xori d a imm) d a (· ^^^ sext30 imm)
/-- SHLI. -/
def execShli (d a : XReg) (n : Fin 64) (s : State) : Out := s.int1 (.shli d a n) d a (· <<< n.val)
/-- SHRI. -/
def execShri (d a : XReg) (n : Fin 64) (s : State) : Out := s.int1 (.shri d a n) d a (· >>> n.val)
/-- SHAI. -/
def execShai (d a : XReg) (n : Fin 64) (s : State) : Out := s.int1 (.shai d a n) d a fun x => x.sshiftRight n.val
/-- LI. -/
def execLi (d : XReg) (imm : BitVec 30) (s : State) : Out := s.run (.li d imm) fun s => .done (s.wx d (sext30 imm))
/-- ADDPC. -/
def execAddpc (d : XReg) (imm : BitVec 30) (s : State) : Out :=
  s.run (.addpc d imm) fun s => .done (s.wx d (s.ctx.pc + sext30 imm))
/-- LI64 (R104). -/
def execLi64 (d : XReg) (imm : BitVec 64) (s : State) : Out := s.run (.li64 d imm) fun s => .done (s.wx d imm)

-- Mesh addresses (R106, R107)

/-- The null mesh address. -/
def nullMesh : Word := 0xFD00000000000000

/-- The low n bits of an integer. -/
def lowBits (n : Nat) (i : Int) : Nat := (i % (2 ^ n : Nat)).toNat

/-- A mesh-space address from its fields (R106). -/
def meshWord (rel : Bool) (d x y : Int) (off : Nat) : Word :=
  word (0xFE * 2 ^ 56 + rel.toNat * 2 ^ 55 + lowBits 4 d * 2 ^ 51 + lowBits 5 x * 2 ^ 46 + lowBits 5 y * 2 ^ 41 + off)

/-- The position lies in the package's grid. -/
def gridHas (g : Grade) (d x y : Int) : Bool := 0 ≤ d && d ≤ 7 && 0 ≤ x && x < g.gx && 0 ≤ y && y < g.gy

/-- MESHA's result (R107). -/
def meshAddress (g : Grade) (own : ClusterId) (form : MeshaForm) (a b c : Int) (off : Nat) : Word :=
  match form with
  | .abs => if gridHas g a b c then meshWord false a b c off else nullMesh
  | .delta =>
    if -8 ≤ a ∧ a ≤ 7 ∧ -16 ≤ b ∧ b ≤ 15 ∧ -16 ≤ c ∧ c ≤ 15 then meshWord true a b c off else nullMesh
  | .resolve =>
    if gridHas g (own.die + a) (own.x + b) (own.y + c)
    then meshWord false (own.die + a) (own.x + b) (own.y + c) off else nullMesh

/-- MESHA (R107). -/
def execMesha (form : MeshaForm) (d a b c : XReg) (off : BitVec 22) (s : State) : Out :=
  s.run (.mesha form d a b c off) fun s =>
    .done (s.wx d (meshAddress s.pkg.grade s.cl form (s.rx a).toInt (s.rx b).toInt (s.rx c).toInt off.toNat))

end Sys2Proof.Machine
end

