-- ==== Sys2Proof/Machine/Node.lean ====
section
/-!
DEFINITION. Parameter nodes (13 R289-R294, 15 R326, R327): PNRULE, PNSEND, PNSTEP, PNSTAT, the sequencer, the rule core,
the commit and its deadline.
-/
namespace Sys2Proof.Machine

-- The configuration record (Table 13.7)

/-- The pages of an area are PINNED, and satisfy a condition. -/
def State.pinnedArea (s : State) (p : Nat) (ok : Page → Bool) (a n : Nat) : Bool :=
  s.areaAll p (fun g => g.pinned && leafTier g.e ≠ 2 && ok g) a n

/-- A block descriptor. -/
def blockDescOf (r : List Byte) : BlockDesc := ⟨recNat r 0 2, recNat r 2 1, recNat r 4 4, recWord r 8⟩

/-- The block descriptors of a table. -/
def blockDescs : Nat → List Byte → List BlockDesc
  | 0, _ => []
  | k + 1, bs => blockDescOf bs :: blockDescs k (bs.drop 16)

/-- The formats of WDEST pages (R289). -/
def wdestFmt (g : Page) (f : Fmt) : Bool := g.fmt = some f

/-- WDEST of a block is an area that the node can write. -/
def State.wdestOk (s : State) (p : Nat) (b : BlockDesc) : Bool :=
  s.pinnedArea p (fun g => wdestFmt g .bf16) b.wdest.toNat (2 * b.len)
    || (b.len % 32 = 0 && b.wdest.toNat % 32 = 0
      && s.pinnedArea p (fun g => wdestFmt g .dxb8) b.wdest.toNat b.len)

/-- The limits of a block descriptor. -/
def State.blockOk (s : State) (p nelem : Nat) (r : List Byte) : Bool :=
  let b := blockDescOf r
  1 ≤ b.len && b.len ≤ 256 && 1 ≤ b.ncontrib && b.ncontrib ≤ 64 && recZero r 3 1 && b.offset + b.len ≤ nelem
    && s.wdestOk p b

/-- Every descriptor of a table is within its limits. -/
def State.blocksOk (s : State) (p nelem : Nat) : Nat → List Byte → Bool
  | 0, _ => true
  | k + 1, bs => s.blockOk p nelem (bs.take 16) && s.blocksOk p nelem k (bs.drop 16)

/-- A page that the rule may be fetched from: present, executable, readable at USER, PINNED (R289, R291). -/
def rulePage (g : Page) : Bool := leafTier g.e ≠ 2 && g.has 4 && g.has 2 && !g.has 5 && g.pinned

/-- The fields of the record and the areas that it names. -/
def State.nodeRecOk (s : State) (p : Nat) (r : List Byte) : Bool :=
  let nb := recNat r 16 2
  let ctr := recNat r 44 4
  let nelem := recNat r 40 4
  1 ≤ nb && nb ≤ 1024 && recZero r 18 6 && 1 ≤ nelem && nelem ≤ 2 ^ 24 && ctr / 2 ^ 17 = 0
    && (!bit ctr 16 || s.ownsCtr p (ctr % 2 ^ 16)) && recZero r 52 4 && recZero r 56 8
    && (match s.pageAt p (recNat r 0 8) with | some g => rulePage g | none => false)
    && s.pinnedArea p (fun _ => true) (recNat r 8 8) (16 * nb)
    && s.pinnedArea p (fun _ => true) (recNat r 24 8) 256
    && s.pinnedArea p (fun _ => true) (recNat r 32 8) (24 * nelem)

-- The step table

/-- A block of a pending step: no contribution has arrived. -/
def BlockDesc.start (b : BlockDesc) : BlockSt := ⟨0, 2 ^ b.ncontrib - 1, [], false, 0, false, false⟩

/-- The next copies and the step table are discarded; C stays (R289, R293, R348). -/
def Node.discard (d : Node) : Node :=
  { d with
    sts := d.blocks.map BlockDesc.start
    order := []
    rule := none
    written := []
    armed := false
    left := none
    met := false }

/-- A block of the pending step holds a contribution. -/
def Node.holds (d : Node) : Bool := d.sts.any fun b => b.bitmap ≠ 0

/-- Every block has run its rule without error. -/
def Node.allRun (d : Node) : Bool := d.sts.all fun b => b.done && !b.failed

/-- The node after PNRULE. -/
def Node.configure (d : Node) (p : Nat) (r : List Byte) (bs : List BlockDesc) : Node :=
  { d with
      part := some p, loaded := true, rulePart := p, code := recWord r 0, hyper := recWord r 24, store := recWord r 32,
      nelem := recNat r 40 4, ctr := if bit (recNat r 44 4) 16 then some (recNat r 44 2) else none, blocks := bs,
      committed := recNat r 48 8, curB := false, wait := 0, failed := false, dup := 0, steperr := 0, stray := 0,
      flags := 0 : Node }.discard

/-- PNRULE (R289, R326). -/
def execPnrule (d a b : XReg) (s : State) : Out :=
  s.run (.pnrule d a b) fun s =>
    let n := (s.rx a).toNat
    if s.vecMemBusy then .wait s
    else if !s.ownsNode s.partNo n then .trap (notOwned n)
    else (s.loadRecord (s.rx b) 64 64).res s fun r =>
      let node := r.1.node n
      let nb := recNat r.2 16 2
      if node.holds then .done (r.1.wx d xBusy)
      else if !s.nodeRecOk s.partNo r.2 then .done (r.1.wx d xBadRec)
      else match r.1.checkPieces .load (pieces (recWord r.2 8) (16 * nb)) with
        | .ok ts =>
          let t := r.1.loadRange ts
          if !s.blocksOk s.partNo (recNat r.2 40 4) nb t.2 then .done (t.1.wx d xBadRec)
          else .done ((t.1.setNode n (node.configure s.partNo r.2 (blockDescs nb t.2))).wx d 0)
        | _ => .done (r.1.wx d xBadRec)

-- PNSEND, PNSTEP, PNSTAT

/-- The contribution that a tag and its bytes make (R327). -/
def tagContribution (tag : Nat) (es count : Nat) (bs : List Byte) : Contribution :=
  ⟨bits tag 0 32, bits tag 32 10, bits tag 42 6, bit tag 51, contribElems es count bs, none⟩

/-- PNSEND (R327): a release of scope sys. -/
def execPnsend (a b c : XReg) (count : BitVec 9) (s : State) : Out :=
  s.run (.pnsend a b c count) fun s =>
    let tag := (s.rx b).toNat
    let node := bits tag 48 3
    let es := if bit tag 51 then 64 else 4
    let n := count.toNat * es
    let peer := bits (s.rx c).toNat 0 16
    if s.vecMemBusy then .wait s
    else if peer = 0xFFFF && !s.ownsNode s.partNo node then .trap (notOwned node)
    else (s.checkRange .load (s.rx a) n es).res s fun ts =>
      if peer ≠ 0xFFFF && (s.peer? peer).isNone then .trap (msgTrap 0 7)
      else
        let (s, bs) := s.loadRange ts
        let k := tagContribution tag es count.toNat bs
        .done (if peer = 0xFFFF then s.contribute node k
          else s.sendPeer s.partNo peer (.contribution peer node s.partNo k)).endRegion

/-- The node with its armed step, and the moment its rules were done in time. -/
def Node.arm (d : Node) (p deadline : Nat) : Node :=
  { d with
    part := some p
    armed := true
    left := if deadline = 0 then none else some deadline
    met := d.allRun }

/-- PNSTEP (R293). -/
def execPnstep (d a b c : XReg) (s : State) : Out :=
  s.run (.pnstep d a b c) fun s =>
    let n := (s.rx a).toNat
    if !s.ownsNode s.partNo n then .trap (notOwned n)
    else
      let node := s.node n
      if (s.rx b).toNat = node.committed + 1 then
        .done ((s.setNode n (node.arm s.partNo (s.rx c).toNat)).wx d 0)
      else .done (s.wx d xBusy)

/-- STATUS (Table 13.8). -/
def Node.status (d : Node) : Word :=
  word (d.flags.toNat + d.failed.toNat * 2 ^ 18 + (d.sts.filter fun b => b.done).length % 2 ^ 11 * 2 ^ 19
    + d.armed.toNat * 2 ^ 30 + d.loaded.toNat * 2 ^ 31 + d.committed % 2 ^ 32 * 2 ^ 32)

/-- The word that PNSTAT selects (R294). -/
def Node.statWord (d : Node) : PnstatSel → Word
  | .status => d.status
  | .dup => word d.dup
  | .steperr => word d.steperr
  | .stray => word d.stray

/-- PNSTAT (R294). -/
def execPnstat (sel : PnstatSel) (d a : XReg) (s : State) : Out :=
  s.run (.pnstat sel d a) fun s =>
    let n := (s.rx a).toNat
    if !s.ownsNode s.partNo n then .trap (notOwned n) else .done (s.wx d ((s.node n).statWord sel))

-- The sequencer (R290)

/-- Add the elements of a contribution into a block's buffer. -/
def addElems (exa : Bool) : List Nat → List Nat → List Nat
  | [], _ => []
  | e :: es, buf =>
    let old := Exa.ofBits (buf.headD 0)
    (if exa then old.addExa (Exa.ofBits e) else old.addF32 e).toBits :: addElems exa es buf.tail

/-- One contribution at the sequencer. -/
def Node.take (d : Node) (c : Contribution) : Node :=
  if c.step ≠ (d.committed + 1) % 2 ^ 32 then { d with steperr := d.steperr + 1 }
  else match d.blocks[c.block]?, d.sts[c.block]? with
    | some k, some b =>
      if !bit b.mask c.contrib || c.elems.length ≠ k.len then { d with stray := d.stray + 1 }
      else if bit b.bitmap c.contrib then { d with dup := d.dup + 1 }
      else
        let m := b.bitmap + 2 ^ c.contrib
        let full := decide (m = b.mask)
        { d with
          sts := d.sts.set c.block { b with bitmap := m, buf := addElems c.exa c.elems b.buf, complete := full }
          order := if full then d.order ++ [c.block] else d.order }
    | _, _ => { d with stray := d.stray + 1 }

/-- PN_CONTRIBUTION: `unit` is the node. -/
def execPnContribution (s : State) : Out :=
  match (s.node s.unit).inbox with
  | c :: rest => .next ((s.setNode s.unit ({ s.node s.unit with inbox := rest }.take c)).bumpCtr c.rctr)
  | [] => disabled "PN_CONTRIBUTION"

-- The rule core (R291)

/-- Elements per chunk. -/
def chunkLen : Nat := 64

/-- What a chunk may reach: its k elements of the six arrays, HYPER, its gradient and its elements at WDEST. -/
structure Reach where
  k : Nat
  arrays : List Nat
  hyper : Nat
  grad : Nat
  wdest : Nat
  deriving DecidableEq, Repr

/-- Array j of a copy, at an element. -/
def Node.arrayAt (d : Node) (copyB : Bool) (j e : Nat) : Nat :=
  d.store.toNat + (3 * copyB.toNat + j) * 4 * d.nelem + 4 * e

/-- The chunk of a block. -/
def Node.reach (d : Node) (dxb : Bool) (b : BlockDesc) (ch grad : Nat) : Reach where
  k := min chunkLen (b.len - chunkLen * ch)
  arrays := ([d.curB, !d.curB].map fun c => (List.range 3).map fun j => d.arrayAt c j (b.offset + chunkLen * ch)).flatten
  hyper := d.hyper.toNat
  grad := grad
  wdest := b.wdest.toNat + (if dxb then 1 else 2) * chunkLen * ch

/-- An area of n bytes from lo on holds m bytes from a on. -/
def within (lo n a m : Nat) : Bool := lo ≤ a && a + m ≤ lo + n

/-- The next-array element at an address: array 0-2, and its index in the chunk. -/
def Reach.nextElem (r : Reach) (a : Nat) : Option (Nat × Nat) :=
  ((List.range 3).find? fun j => within (r.arrays.getD (3 + j) 0) (4 * r.k) a 4).map fun j =>
    (j, (a - r.arrays.getD (3 + j) 0) / 4)

/-- FP32 elements that the chunk may reach in memory. -/
def Reach.plain (r : Reach) (a : Nat) : Bool :=
  r.arrays.any (fun b => within b (4 * r.k) a 4) || within r.hyper 256 a 4

/-- The agent of a node in race detection (Table 9.1). -/
def nodeAgent (n : Nat) : Agent := .job 7 n n

/-- An access of the rule core: its place, or none on a trap condition; the access is logged. -/
def State.ruleAccess (s : State) (n : Nat) (write : Bool) (a m : Nat) : Option (State × Nat) :=
  if !canonical (word a) then none
  else match s.xlate (s.node n).rulePart false (if write then .store else .load) (word a) with
    | .error _ => none
    | .ok p =>
      let pa := p.pa a
      if p.checked && !(s.mem.racing (nodeAgent n) pa m write false).isEmpty then none
      else
        let mem := s.mem.noteWalk none (s.node n).rulePart a (s.walk (s.node n).rulePart a)
        some ({ s with mem := if p.checked then mem.log ⟨nodeAgent n, 0, pa, m, write, false⟩ else mem }, pa)

/-- Read m bytes, aligned to m. -/
def State.ruleRead (s : State) (n a m : Nat) : Option (State × Nat) :=
  if a % m ≠ 0 then none
  else (s.ruleAccess n false a m).map fun q => let r := q.1.readHome q.2 m; (r.1, leNat r.2)

/-- Write m bytes, aligned to m. -/
def State.ruleWrite (s : State) (n a m v : Nat) : Option State :=
  if a % m ≠ 0 then none else (s.ruleAccess n true a m).map fun q => q.1.writePhys q.2 (leBytes m v)

/-- The conversion that the page of an address makes for FP32 elements. -/
def State.ruleConv (s : State) (n a : Nat) : PageConv :=
  match s.pageAt (s.node n).rulePart a with | some g => convOf .f32 g.fmt | none => .stored

/-- Active lanes of a mask. -/
def lanesOf (m : Word) : List Nat := (List.range chunkLen).filter fun i => m.getLsbD i

/-- The lanes of a v register. -/
def RuleCore.rv (c : RuleCore) (r : VReg) (i : Nat) : Nat := ((Map.getD c.v r.val [])[i]?.getD 0).toNat

/-- Write the active lanes of a v register. -/
def RuleCore.wv (c : RuleCore) (d : VReg) (m : Word) (f : Nat → Nat) : RuleCore :=
  { c with v := Map.put c.v d.val ((List.range chunkLen).map fun i =>
      BitVec.ofNat 32 (if m.getLsbD i then f i else c.rv d i)) }

/-- Read an x register. -/
def RuleCore.rx (c : RuleCore) (r : XReg) : Word := if r = 0 then 0 else c.x.get r
/-- Write an x register. -/
def RuleCore.wx (c : RuleCore) (r : XReg) (v : Word) : RuleCore := if r = 0 then c else { c with x := c.x.set r.val v }

/-- The mask of an instruction: x0 means every lane (Table 3.7). -/
def RuleCore.mask (c : RuleCore) (m : XReg) : Word := if m = 0 then BitVec.allOnes 64 else c.rx m

/-- What an instruction of the rule does; none ends the block with RULE. -/
abbrev RuleRes := Option (State × RuleCore × Flags)

/-- A lane-wise result. -/
def RuleCore.lanes (c : RuleCore) (s : State) (d : VReg) (m : Word) (f : Nat → Nat × Flags) : RuleRes :=
  some (s, c.wv d m fun i => (f i).1, orElems (lanesOf m) f)

/-- Load the lanes of a list one by one, with their values and flags. -/
def State.ruleLoads (s : State) (one : State → Nat → Option (State × Nat × Flags)) :
    List Nat → Option (State × List (Nat × Nat) × Flags)
  | [] => some (s, [], 0)
  | i :: is =>
    (one s i).bind fun q => (q.1.ruleLoads one is).map fun t => (t.1, (i, q.2.1) :: t.2.1, q.2.2 ||| t.2.2)

/-- The scale word of the DXB8 block at an address. -/
def State.ruleScale (s : State) (n a : Nat) : Option (State × Nat) :=
  (s.scaleAt (s.node n).rulePart .dxb8 (8 * a)).bind fun sa => s.ruleRead n sa 4

/-- One lane of VLD.f32 (R139, R291), converted under the mode of its RND (2 R45). -/
def State.ruleLoad (s : State) (n : Nat) (r : Reach) (grad : List Nat) (conv : PageConv) (rm : RMode) (a : Nat) :
    Option (State × Nat × Flags) :=
  if within r.grad (4 * r.k) a 4 then
    if a % 4 = 0 then some (s, grad.getD ((a - r.grad) / 4) 0, 0) else none
  else if s.ruleConv n a ≠ conv then none
  else match conv with
    | .stored => if r.plain a then (s.ruleRead n a 4).map fun q => (q.1, q.2, 0) else none
    | .elem .bf16 =>
      if within r.wdest (2 * r.k) a 2 then
        (s.ruleRead n a 2).map fun q => let v := specFp32.encode rm (specBf16.decode q.2); (q.1, v.1, v.2)
      else none
    | .block .dxb8 =>
      if within r.wdest r.k a 1 then
        (s.ruleRead n a 1).bind fun q => (q.1.ruleScale n a).map fun t =>
          let v := specFp32.encode rm (blkDecode .dxb8 t.2 q.2)
          (t.1, v.1, v.2 ||| blkScaleFlag .dxb8 t.2)
      else none
    | _ => none

/-- Bytes of an FP32 element in memory. -/
def PageConv.step (c : PageConv) : Nat := match c with | .elem _ => 2 | .block _ => 1 | _ => 4

/-- A page over which VST moves nothing: it is in column geometry (R208). -/
def State.ruleColumn (s : State) (n a : Nat) : Bool :=
  match s.pageAt (s.node n).rulePart a with | some g => g.column | none => false

/-- The start of a VLD or VST over a block-format page lies on a block, and a VST's page is in rows geometry (R139,
R208). -/
def State.ruleStart (s : State) (n : Nat) (store : Bool) (conv : PageConv) (a : Nat) : Bool :=
  match conv, s.pageAt (s.node n).rulePart a with
  | .block _, some g => (a - g.va) % 32 = 0 && !(store && g.column)
  | _, _ => true

/-- VLD.f32. -/
def State.ruleVld (s : State) (n : Nat) (r : Reach) (grad : List Nat) (c : RuleCore) (d : VReg) (rm : RMode) (base : Nat)
    (m : Word) :
    RuleRes :=
  let conv := if within r.grad (4 * r.k) base 1 then .stored else s.ruleConv n base
  if !s.ruleStart n false conv base then none
  else
    (s.ruleLoads (fun s i => s.ruleLoad n r grad conv rm ((base + i * conv.step) % 2 ^ 64)) (lanesOf m)).map fun t =>
      (t.1, c.wv d m fun i => (t.2.1.lookup i).getD 0, t.2.2)

/-- Note an element of the next arrays as written (R293). -/
def State.noteNext (s : State) (n off : Nat) (r : Reach) (a : Nat) : State :=
  match r.nextElem a with
  | some (j, e) =>
    let d := s.node n
    s.setNode n { d with written := if d.written.contains (j, off + e) then d.written else d.written ++ [(j, off + e)] }
  | none => s

/-- One lane of VST.f32 where elements move one by one. -/
def State.ruleStore (s : State) (n off : Nat) (r : Reach) (conv : PageConv) (rm : RMode) (a v : Nat) :
    Option (State × Flags) :=
  if s.ruleConv n a ≠ conv then none
  else match conv with
  | .stored => if r.plain a then (s.ruleWrite n a 4 v).map fun s => (s.noteNext n off r a, 0) else none
  | .elem .bf16 =>
    let q := specBf16.encode rm (specFp32.decode v)
    if within r.wdest (2 * r.k) a 2 then (s.ruleWrite n a 2 q.1).map fun s => (s, q.2) else none
  | _ => none

/-- VST.f32 lane by lane. -/
def State.ruleStores (s : State) (one : State → Nat → Option (State × Flags)) : List Nat → Option (State × Flags)
  | [] => some (s, 0)
  | i :: is => (one s i).bind fun q => (q.1.ruleStores one is).map fun t => (t.1, q.2 ||| t.2)

/-- One DXB8 block of 32 lanes at an address: whole, or not at all (R291). -/
def State.ruleBlock (s : State) (n : Nat) (r : Reach) (rm : RMode) (a : Nat) (act : List Nat) (v : Nat → Nat) :
    Option (State × Flags) :=
  if act.isEmpty then some (s, 0)
  else if act.length ≠ 32 || !within r.wdest r.k a 32 || s.ruleConv n a ≠ .block .dxb8 || s.ruleColumn n a then none
  else
    let q := blkQuant .dxb8 rm (act.map fun i => specFp32.decode (v i))
    (s.ruleStores (fun s i => (s.ruleWrite n (a + i) 1 (q.1.getD i 0)).map fun s => (s, 0)) (List.range 32)).bind fun t =>
      (s.scaleAt (s.node n).rulePart .dxb8 (8 * a)).bind fun sa =>
        (t.1.ruleWrite n sa 4 q.2.1).map fun s => (s, q.2.2)

/-- VST.f32. -/
def State.ruleVst (s : State) (n off : Nat) (r : Reach) (c : RuleCore) (src : VReg) (rm : RMode) (base : Nat) (m : Word) :
    RuleRes :=
  let conv := s.ruleConv n base
  let act := lanesOf m
  if !s.ruleStart n true conv base then none
  else
    let done : Option (State × Flags) :=
      match conv with
      | .block .dxb8 =>
        (s.ruleBlock n r rm base (act.filter (· < 32)) (c.rv src)).bind fun t =>
          (t.1.ruleBlock n r rm (base + 32) (act.filter (32 ≤ ·)) (c.rv src)).map fun u => (u.1, t.2 ||| u.2)
      | _ => s.ruleStores (fun s i => s.ruleStore n off r conv rm ((base + i * conv.step) % 2 ^ 64) (c.rv src i)) act
    done.map fun t => (t.1, c, t.2)

/-- The integer and control instructions that a rule shares with the cores: OPC 0x10-0x39, BCC and JAL. -/
def ruleScalar : Instr → Option (State → Out)
  | .add d a b => some (execAdd d a b) | .sub d a b => some (execSub d a b) | .mul d a b => some (execMul d a b)
  | .mulh d a b => some (execMulh d a b) | .mulhz d a b => some (execMulhz d a b) | .div d a b => some (execDiv d a b)
  | .divz d a b => some (execDivz d a b) | .rem d a b => some (execRem d a b) | .remz d a b => some (execRemz d a b)
  | .and d a b => some (execAnd d a b) | .or d a b => some (execOr d a b) | .xor d a b => some (execXor d a b)
  | .andn d a b => some (execAndn d a b) | .shl d a b => some (execShl d a b) | .shr d a b => some (execShr d a b)
  | .sha d a b => some (execSha d a b) | .rot d a b => some (execRot d a b) | .slt d a b => some (execSlt d a b)
  | .sltz d a b => some (execSltz d a b) | .seq d a b => some (execSeq d a b) | .min d a b => some (execMin d a b)
  | .max d a b => some (execMax d a b) | .minz d a b => some (execMinz d a b) | .maxz d a b => some (execMaxz d a b)
  | .popc d a => some (execPopc d a) | .clz d a => some (execClz d a) | .ctz d a => some (execCtz d a)
  | .bfx d a p w => some (execBfx d a p w) | .bfi d a b p w => some (execBfi d a b p w) | .brev d a => some (execBrev d a)
  | .sel d a b c => some (execSel d a b c) | .rankx d a b c => some (execRankx d a b c)
  | .addi d a i => some (execAddi d a i) | .andi d a i => some (execAndi d a i) | .ori d a i => some (execOri d a i)
  | .xori d a i => some (execXori d a i) | .shli d a n => some (execShli d a n) | .shri d a n => some (execShri d a n)
  | .shai d a n => some (execShai d a n) | .li d i => some (execLi d i) | .addpc d i => some (execAddpc d i)
  | .li64 d i => some (execLi64 d i)
  | .bcc k a b o => some (execBcc k a b o) | .jal d i => some (execJal d i)
  | _ => none

/-- A context that stands in for the rule core; it belongs to no core of the grid. -/
def ruleCtx : CtxId := ⟨⟨⟨0, 0, 0⟩, 15⟩, 0⟩

/-- A scalar instruction on the rule core's registers. -/
def RuleCore.scalar (c : RuleCore) (s : State) (f : State → Out) : RuleRes :=
  match f { State.reset with cur := ruleCtx, ctx := { Ctx.init with x := c.x, pc := c.pc }, pkg := s.pkg } with
  | .next t => if t.ctx.inh then none else some (s, { c with x := t.ctx.x, pc := t.ctx.pc }, 0)
  | _ => none

/-- The page that a rule may be fetched from gives the bytes from an address to the end of their block. -/
def State.ruleFetch (s : State) (n : Nat) (pc : Nat) : Option (State × List Byte) :=
  (s.pageAt (s.node n).rulePart pc).bind fun g =>
    if rulePage g then
      let s := { s with mem := s.mem.noteWalk none (s.node n).rulePart pc (s.walk (s.node n).rulePart pc) }
      some (s.readHome (g.pa pc) (32 - pc % 32))
    else none

/-- The rule core's effect of an instruction other than EXIT and PAD32, PC apart where it is not a branch. -/
def RuleCore.effect (c : RuleCore) (s : State) (n off : Nat) (r : Reach) (grad : List Nat) (i : Instr) : RuleRes :=
  let step := fun (q : RuleRes) => q.map fun t => (t.1, { t.2.1 with pc := c.pc + word i.len }, t.2.2)
  match ruleScalar i with
  | some f => c.scalar s f
  | none =>
    match i with
    | .bmask cond a o =>
      some (s, { c with pc := if bmaskTaken64 cond (c.rx a) then branchTarget c.pc o else c.pc + word i.len }, 0)
    | .ld d m sz _ _ _ _ =>
      let a := (c.rx m.base + (c.rx m.index <<< m.scale.val) + m.off.signExtend 64).toNat
      step (if sz = 3 && within r.hyper 256 a 8 then
        (s.ruleRead n a 8).map fun q => (q.1, c.wx d (word q.2), 0) else none)
    | .vadd .f32 sat rnd d a b m =>
      step (c.lanes s d (c.mask m) fun i => vAddE .f32 sat (modeOf rnd .rne) (c.rv a i) (c.rv b i))
    | .vsub .f32 sat rnd d a b m =>
      step (c.lanes s d (c.mask m) fun i => vSubE .f32 sat (modeOf rnd .rne) (c.rv a i) (c.rv b i))
    | .vmul .f32 sat rnd d a b m =>
      step (c.lanes s d (c.mask m) fun i => vMulE .f32 sat (modeOf rnd .rne) (c.rv a i) (c.rv b i))
    | .vfma .f32 rnd d a b e m =>
      step (c.lanes s d (c.mask m) fun i => vFmaE .f32 (modeOf rnd .rne) (c.rv a i) (c.rv b i) (c.rv e i))
    | .vmin .f32 d a b m => step (c.lanes s d (c.mask m) fun i => vMinMaxE .f32 false (c.rv a i) (c.rv b i))
    | .vmax .f32 d a b m => step (c.lanes s d (c.mask m) fun i => vMinMaxE .f32 true (c.rv a i) (c.rv b i))
    | .vcmp cond .f32 d a b m =>
      let f := fun i => vCmpE cond .f32 (c.rv a i) (c.rv b i)
      let act := lanesOf (c.mask m)
      step (some (s, c.wx d (word (act.foldl (fun w i => w + if (f i).1 then 2 ^ i else 0) 0)),
        act.foldl (fun fl i => fl ||| (f i).2) 0))
    | .vsel .f32 d a b m =>
      let k := c.mask m
      step (some (s, c.wv d (BitVec.allOnes 64) fun i => if k.getLsbD i then c.rv a i else c.rv b i, 0))
    | .vbcast .f32 src d m =>
      match src with
      | .x a => step (c.lanes s d (c.mask m) fun _ => ((c.rx a).toNat % 2 ^ 32, 0))
      | .lane a l => step (c.lanes s d (c.mask m) fun _ => (c.rv a l.val, 0))
      | .imm v => step (c.lanes s d (c.mask m) fun _ => (v.toNat, 0))
      | .f _ => none
    | .vsf fn rnd d a m => step (c.lanes s d (c.mask m) fun i => specialFn fn (modeOf rnd .rne) (c.rv a i))
    | .vld .f32 rnd d a o m _ =>
      step (s.ruleVld n r grad c d (modeOf rnd .rne) (c.rx a + sext32 o).toNat (c.mask m))
    | .vst .f32 rnd src a o m => step (s.ruleVst n off r c src (modeOf rnd .rne) (c.rx a + sext32 o).toNat (c.mask m))
    | _ => none
where
  /-- BMASK tests bits 63:0. -/
  bmaskTaken64 (cond : BmaskCond) (v : Word) : Bool :=
    match cond with | .any => v ≠ 0 | .all => v = BitVec.allOnes 64 | .none => v = 0

/-- The lookahead count of the rule's long-latency instructions. -/
def ruleLa : Instr → Nat
  | .ld _ _ _ _ _ _ la | .vld _ _ _ _ _ _ la => la.val
  | _ => 0

/-- The windows after an instruction has issued (R71). -/
def RuleCore.tick (c : RuleCore) (i : Instr) : RuleCore :=
  let ws := (c.windows.map fun w => (w.1 - 1, w.2)).filter fun w => w.1 ≠ 0
  { c with windows := if ruleLa i = 0 then ws else ws ++ [(ruleLa i, dests i)] }

/-- How a run of the rule core ends. -/
inductive RuleEnd where
  | goes (c : RuleCore) | exited | failed
  deriving DecidableEq, Repr

/-- Run the rule core for a number of instructions. -/
def State.runRule (s : State) (n off : Nat) (r : Reach) (grad : List Nat) : Nat → RuleCore → Flags →
    State × RuleEnd × Flags
  | 0, c, fl => (s, .goes c, fl)
  | k + 1, c, fl =>
    match s.ruleFetch n c.pc.toNat with
    | none => (s, .failed, fl)
    | some (s, bs) =>
      match decodeBytes .compute c.pc.toNat bs with
      | .bad _ => (s, .failed, fl)
      | .ok i =>
        if c.windows.any fun w => touches i w.2 then (s, .failed, fl)
        else match i with
          | .pad32 => s.runRule n off r grad k { c with pc := c.pc + 4 } fl
          | .exit _ => (s, .exited, fl)
          | _ =>
            match c.effect s n off r grad i with
            | none => (s, .failed, fl)
            | some (s, c, f) => s.runRule n off r grad k (c.tick i) (fl ||| f)

/-- The gradient of a chunk: its EXA sums as FP32 under RNE (R291). -/
def BlockSt.grad (b : BlockSt) (ch k : Nat) : List (Nat × Flags) :=
  (List.range k).map fun i => (Exa.ofBits (b.buf.getD (chunkLen * ch + i) 0)).toF32 .rne

/-- A lane of a v register at a chunk's entry, from free value k: a zero or a quiet NaN, which arithmetic passes on
without a flag (assumption 57). -/
def entryLane (k : Nat) : Lane :=
  let v := Config.freeNat k
  BitVec.ofNat 32 (v % 2 * 2 ^ 31 + if Config.freeBit k then 0 else 0x7FC00000 + v / 2 % 2 ^ 22)

/-- The registers at a chunk's entry; those that the rule does not name are free (assumptions 5, 57). -/
def Node.entryCore (d : Node) (r : Reach) (block ch fresh : Nat) : RuleCore :=
  let free := fun k => Config.freeNat (fresh + k)
  let x0 : Vector Word 64 := Vector.ofFn fun j => word (free j.val)
  let given : List Nat := [2 ^ r.k - 1, r.grad] ++ r.arrays ++ [r.wdest, r.hyper, d.committed + 1, block, ch]
  let x := Vector.ofFn fun j : Fin 64 =>
    if j.val = 0 then 0 else if j.val ≤ given.length then word (given.getD (j.val - 1) 0) else x0.get j
  { pc := d.code
    x := x
    v := (List.range 32).map fun q => (q, (List.range chunkLen).map fun l => entryLane (fresh + 64 + q * 64 + l))
    grad := word r.grad
    windows := [] }

/-- Free values that the entry of a chunk uses. -/
def entryFree : Nat := 64 + 32 * 64 + 1

/-- The address of the gradient buffer: no canonical address (assumption 5). -/
def gradAddr (free : Nat) : Nat := 2 ^ 63 + 256 * (free % 2 ^ 40)

/-- The block's WDEST is in DXB8. -/
def State.isDxb (s : State) (n : Nat) (b : BlockDesc) : Bool :=
  match s.pageAt (s.node n).rulePart b.wdest.toNat with | some g => wdestFmt g .dxb8 | none => false

/-- The region of the node ends: its accesses no longer race. -/
def State.endNodeRegion (s : State) (n : Nat) : State :=
  { s with mem := { s.mem with accesses := s.mem.accesses.filter fun a => a.agent ≠ nodeAgent n } }

/-- Cycles between the last rule's end and a commit (R348). -/
def commitDelay : Nat := 17000

/-- A block of the node ends with the error RULE. -/
def State.failBlock (s : State) (n block : Nat) (b : BlockSt) : State :=
  let d := s.node n
  (s.setNode n { d with
    sts := d.sts.set block { b with failed := true }, order := d.order.drop 1, rule := none, wait := commitDelay
    }).endNodeRegion n

/-- PN_RULE_CHUNK: the rule core goes on for up to `fuel` instructions, from the entry of the next chunk of the block
whose turn it is, or from where it stands in one. -/
def execPnRuleChunk (node : Fin 8) (fuel : Nat) (s : State) : Out :=
  let n := node.val
  let d := s.node n
  match d.order with
  | [] => disabled "PN_RULE_CHUNK"
  | block :: _ =>
    match d.blocks[block]?, d.sts[block]? with
    | some k, some b =>
      if k.len ≤ chunkLen * b.chunks then disabled "PN_RULE_CHUNK"
      else
        let off := k.offset + chunkLen * b.chunks
        let dxb := s.isDxb n k
        let r0 := d.reach dxb k b.chunks 0
        let g := b.grad b.chunks r0.k
        let entry := d.rule.isNone
        let c : RuleCore := match d.rule with
          | some c => c
          | none => d.entryCore { r0 with grad := gradAddr (Config.freeNat (s.fresh + entryFree - 1)) } block b.chunks s.fresh
        let s := if entry then { s with fresh := s.fresh + entryFree } else s
        let fl : Flags := if entry then g.foldl (fun f q => f ||| q.2) 0 else 0
        let t := s.runRule n off { r0 with grad := c.grad.toNat } (g.map Prod.fst) fuel c fl
        let e := t.1.node n
        let s := t.1.setNode n { e with flags := e.flags ||| t.2.2 }
        let e := s.node n
        match t.2.1 with
        | .goes c => .next (s.setNode n { e with rule := some c })
        | .exited => .next (s.setNode n { e with
            rule := none, sts := e.sts.set block { b with chunks := b.chunks + 1 } })
        | .failed => .next (s.failBlock n block b)
    | _, _ => disabled "PN_RULE_CHUNK"

/-- PN_BLOCK_DONE (R292): every chunk of the block has exited, and its writes are performed. -/
def execPnBlockDone (node : Fin 8) (block : Nat) (s : State) : Out :=
  let n := node.val
  let d := s.node n
  match d.order, d.blocks[block]?, d.sts[block]? with
  | q :: rest, some k, some b =>
    if q = block && decide (k.len ≤ chunkLen * b.chunks) then
      let d := { d with sts := d.sts.set block { b with done := true }, order := rest, wait := commitDelay }
      let d := { d with met := d.met || (d.armed && d.left ≠ some 0 && d.allRun) }
      .next (((s.setNode n d).endNodeRegion n).bumpCtr d.ctr)
    else disabled "PN_BLOCK_DONE"
  | _, _, _ => disabled "PN_BLOCK_DONE"

-- The commit and the deadline (R293)

/-- Copy element e of array j into the next copy, unless a rule has written it. -/
def State.copyCurrent (s : State) (d : Node) (j e : Nat) : State :=
  if d.written.contains (j, e) then s
  else
    let src := d.arrayAt d.curB j e
    let dst := d.arrayAt (!d.curB) j e
    match s.pageAt d.rulePart src, s.pageAt d.rulePart dst with
    | some a, some b =>
      let q := s.readHome (a.pa src) 4
      q.1.writePhys (b.pa dst) q.2
    | _, _ => s

/-- Copy the elements of an array from the first of them on. -/
def State.copyArray (s : State) (d : Node) (j : Nat) : Nat → State
  | 0 => s
  | e + 1 => (s.copyArray d j e).copyCurrent d j e

/-- An access of the commit races on a CHECKED page (9 R218, assumption 60): the node reads an element and writes it. -/
def State.commitRaces (s : State) (n : Nat) (d : Node) : Bool :=
  !s.mem.accesses.isEmpty && (List.range 3).any fun j => (List.range d.nelem).any fun e =>
    !d.written.contains (j, e)
      && (s.rangeRaces (nodeAgent n) d.rulePart (word (d.arrayAt d.curB j e)) 4 false
        || s.rangeRaces (nodeAgent n) d.rulePart (word (d.arrayAt (!d.curB) j e)) 4 true)

/-- The armed step fails: its next copies and its step table are discarded. -/
def State.failStep (s : State) (n : Nat) (d : Node) : State := (s.setNode n { d.discard with failed := true }).endNodeRegion n

/-- PN_COMMIT: `unit` is the node. One whose access races commits nothing: the step has failed. -/
def execPnCommit (s : State) : Out :=
  let n := s.unit
  let d := s.node n
  if d.armed && d.loaded && d.met && d.allRun && d.wait = 0 then
    if s.commitRaces n d then .next (s.failStep n d)
    else
      let s := (List.range 3).foldl (fun s j => s.copyArray d j d.nelem) s
      let d := { d with curB := !d.curB, committed := d.committed + 1, failed := false }
      .next ((s.setNode n d.discard).bumpCtr d.ctr)
  else disabled "PN_COMMIT"

/-- The fault record of a block that is not complete, or whose rule failed or has not run (R293, Table 18.5). -/
def State.pnodeRecord (s : State) (n : Nat) (d : Node) (block : Nat) (b : BlockSt) : State :=
  match d.part with
  | none => s
  | some p =>
    let detail := leBytes 1 n ++ List.replicate 3 0 ++ leBytes 4 (d.committed + 1) ++ leBytes 2 block
      ++ List.replicate 14 0 ++ leBytes 8 (b.mask - Nat.land b.mask b.bitmap)
    s.logFault p { kind := .pnode, wher := n, detail := detail }

/-- The records of the blocks from a number on. -/
def State.pnodeRecords (s : State) (n : Nat) (d : Node) : Nat → List BlockSt → State
  | _, [] => s
  | k, b :: bs =>
    (if b.done && !b.failed then s else s.pnodeRecord n d k b).pnodeRecords n d (k + 1) bs

/-- PN_STEP_DEADLINE: the armed step's deadline has passed first, or a block has ended with RULE. -/
def execPnStepDeadline (s : State) : Out :=
  let n := s.unit
  let d := s.node n
  if d.armed && ((d.left = some 0 && !d.met) || d.sts.any fun b => b.failed) then
    .next ((s.pnodeRecords n d 0 d.sts).failStep n d)
  else disabled "PN_STEP_DEADLINE"

end Sys2Proof.Machine
end

