-- ==== Sys2Proof/Machine/Preempt.lean ====
section
/-!
DEFINITION. Pre-emption, saving, restoring and dumping (18 R339-R346, R350, R351): PREQ and RESUME, the halt of a
partition, its save area (Table 18.7), deadlines and double traps.
-/
namespace Sys2Proof.Machine

-- PREQ and RESUME

/-- A partition may act on another: itself, or one of its controlled set. -/
def State.controls (s : State) (own p : Nat) : Bool :=
  match s.part? own with | some v => v.cfg.ctrlset.getLsbD p | none => false

/-- The state of a partition, if it is configured. -/
def State.partState (s : State) (p : Nat) : Option PartState := (s.part? p).map Part.state

/-- A pre-emption request (R339): the counter gains 1 at SAVED. -/
def State.preempt (s : State) (p : Nat) (ctr : Option Nat) : State :=
  match s.part? p with
  | some v => s.setPart p { v with state := .halting, preqCtr := ctr }
  | none => s

/-- A job of an engine that serves several clusters in order of arrival, not yet at its end. -/
def JobSt.arrives (j : JobSt) : Bool := 3 ≤ j.card.engine && (j.phase = .ready || j.phase = .running)

/-- Give every job of a partition's clusters a new state. -/
def State.mapJobs (s : State) (p : Nat) (f : JobSt → JobSt) : State :=
  { s with clusters := s.clusters.map fun (k : ClusterId × Cluster) =>
    (k.1, if k.2.part = some p then { k.2 with jobs := k.2.jobs.map fun (q : Nat × JobSt) => (q.1, f q.2) } else k.2) }

/-- The jobs that a partition's clusters have sent to such engines arrive there again, in their order (R240). -/
def State.arriveAgain (s : State) (p : Nat) : State :=
  let n := s.arrivals
  { s.mapJobs p fun j => if j.arrives then { j with phase := .ready, arrival := n + j.arrival } else j with
    arrivals := n + n }

/-- A resume request: the counter gains 1 at RUNNING. -/
def State.resume (s : State) (p : Nat) (ctr : Option Nat) : State :=
  match s.part? p with
  | some v => (s.arriveAgain p).setPart p { v with state := .restoring, resumeCtr := ctr }
  | none => s

/-- PREQ's effect (R350). -/
def State.preq (s : State) (d a : XReg) (ctr : Option Nat) : State :=
  let p := (s.rx a).toNat
  if 15 < p || (p ≠ s.partNo && !s.controls s.partNo p) then s.wx d (negCode 1)
  else if s.partState p ≠ some .running then s.wx d (negCode 2)
  else (s.preempt p ctr).wx d 0

/-- RESUME's effect (R351). -/
def State.resumeOp (s : State) (d a : XReg) (ctr : Option Nat) : State :=
  let p := (s.rx a).toNat
  if 15 < p || p = s.partNo || !s.controls s.partNo p then s.wx d (negCode 1)
  else if s.partState p ≠ some .saved then s.wx d (negCode 2)
  else (s.resume p ctr).wx d 0

/-- PREQ (R350). -/
def execPreq (d a : XReg) (s : State) : Out := s.run (.preq d a) fun s => .done (s.preq d a none)

/-- PREQ.CTR (R350). -/
def execPreqCtr (d a b : XReg) (s : State) : Out :=
  s.run (.preqCtr d a b) fun s =>
    let n := (s.rx b).toNat
    if !s.ownsCtr s.partNo n then .trap (notOwned n) else .done (s.preq d a (some n))

/-- RESUME (R351). -/
def execResume (d a : XReg) (s : State) : Out := s.run (.resume d a) fun s => .done (s.resumeOp d a none)

/-- RESUME.CTR (R351). -/
def execResumeCtr (d a b : XReg) (s : State) : Out :=
  s.run (.resumeCtr d a b) fun s =>
    let n := (s.rx b).toNat
    if !s.ownsCtr s.partNo n then .trap (notOwned n) else .done (s.resumeOp d a (some n))

-- The halt (R340)

/-- The known cores of a partition. -/
def State.coresOf (s : State) (p : Nat) : List CoreId := s.cores.keys.filter fun k => s.clIn p k.cl

/-- The engines of a cluster have stopped: the matrix engine's stores are performed, no bank changes, no job is at its
end or inside a row. -/
def Cluster.stopped (k : Cluster) : Bool :=
  k.mx.stores.isEmpty && k.changing.isEmpty && k.jobs.all fun q => q.2.phase ≠ .ending

/-- Every core of a partition can halt, and every engine has stopped. -/
def State.stopped (s : State) (p : Nat) : Bool :=
  !(s.ctxsOf p).any s.finishing
    && (s.coresOf p).all (fun k => (s.getCore k).vq.isEmpty)
    && s.clusters.all fun k => k.2.part ≠ some p || k.2.stopped

/-- A wait that is abandoned at the halt, its instruction to be executed again. One that has performed a part of its work
goes on with the rest (Table 18.6). -/
def Ctx.abandon (c : Ctx) : Ctx :=
  { c with waiting := false, wake := none, asked := none, awaits := [], plan := if c.pos = 0 then [] else c.plan }

/-- What waits in a cluster is abandoned; its requests for lines are too. -/
def Cluster.abandon (k : Cluster) : Cluster :=
  { k with
    feWaits := []
    fills := []
    mx := { k.mx with
      stager := { k.mx.stager with atTake := false }
      issuer := { k.mx.issuer with atTake := false } } }

/-- The weight copies of the replicas that a partition's experts are creating complete (R340): deadline-class requests
(8 R204). -/
def State.copyCreating (s : State) (p : Nat) : State :=
  (s.pkg.experts.filter fun q => q.2.part = p).foldl (fun s q =>
    (q.2.inState .creating).foldl (fun s i => s.copyReplica q.1 i) s) s

/-- The jobs of a partition leave the engines that serve several clusters, and the home cores their rows (R240). -/
def State.leaveEngines (s : State) (p : Nat) : State :=
  (s.mapJobs p fun j => if j.arrives then { j with phase := .ready } else j).dropRowReqs fun r => s.clIn p r.cl

/-- The partition's contexts halt; its partials are merged at their homes (R221, R341). -/
def State.halt (s : State) (p : Nat) : State :=
  let s := ((s.copyCreating p).drainBelow true).leaveEngines p
  let s := (s.ctxsOf p).foldl (fun s c => s.setCtx c (s.getCtx c).abandon) s
  let s := (s.coresOf p).foldl (fun s k => s.setCore k { s.getCore k with startW := [] }) s
  let s := { s with clusters := s.clusters.map fun (k : ClusterId × Cluster) =>
    (k.1, if k.2.part = some p then k.2.abandon else k.2) }
  { s with mem := s.mem.recallAll fun q => s.clIn p q.cl }

/-- HALT_COMPLETE: `unit` is the partition. -/
def execHaltComplete (s : State) : Out :=
  match s.part? s.unit with
  | some v =>
    if v.state = .halting && s.stopped s.unit then
      .next ((s.halt s.unit).setPart s.unit { v with state := .saving, haltCycle := s.cycle })
    else disabled "HALT_COMPLETE"
  | none => disabled "HALT_COMPLETE"

-- The save area (R344, Table 18.7)

/-- Bytes of a region that only RESUME interprets. -/
def layout (at' n : Nat) : List Byte := (List.range n).map fun i => Config.layoutByte (at' + i)

/-- The registers of a context record at fixed offsets: 0x0000-0x1357. -/
def fixedRegs (c : Ctx) (deadline : Word) : List Byte :=
  (c.x.toList.map wordBytes).flatten ++ (c.f.toList.map wordBytes).flatten
    ++ (c.v.toList.map fun l => (l.toList.map fun n => leBytes 4 n.toNat).flatten).flatten
    ++ wordBytes c.pc ++ wordBytes (privWord c) ++ wordBytes (word (RMode.code c.fpmode))
    ++ wordBytes (c.fpflags.setWidth 64) ++ wordBytes c.regionid ++ wordBytes (c.hdone.setWidth 64)
    ++ wordBytes c.trappc ++ wordBytes c.trapcause ++ wordBytes c.trapaddr ++ wordBytes c.trapinfo
    ++ wordBytes deadline

/-- DEADLINE of a context's leaf. -/
def State.deadlineOf (s : State) (c : CtxId) : Word :=
  (((s.getCtx c).leaf.bind (Map.get? s.leaves)).map Leaf.deadline).getD 0

/-- The contexts of a slot with the offsets of their records. -/
def slotCtxs (c : ClusterId) : List (Nat × CtxId) :=
  (List.range 88).map fun n => (0x410000 + n * 0x1400, ⟨⟨c, n / 11⟩, n % 11⟩)

/-- The 4 KiB of full/empty bits of a bank. -/
def State.feBytes (s : State) (c : ClusterId) (b : Nat) : List Byte :=
  (List.range 4096).map fun k =>
    BitVec.ofNat 8 ((List.range 8).foldl
      (fun v j => v + if s.fe (scrKey c (b * 2 ^ 18) / 8 + 8 * k + j) then 2 ^ j else 0) 0)

/-- The accumulators of a cluster: lane n of a_j at 1,024 j + 4 n. -/
def accBytes (m : MatrixSt) : List Byte :=
  ((List.range 64).map fun j => ((Map.getD m.acc j (List.replicate 256 0)).map fun l => leBytes 4 l.toNat).flatten).flatten

/-- The words of a message, for a record of it. -/
def Message.record (m : Message) : List Nat := m.ctx :: m.hdr.toNat :: m.payload.length :: m.payload.map BitVec.toNat

/-- The words of a chunk, for a record of it. -/
def Chunk.record (c : Chunk) : List Nat :=
  [c.tag.toNat, c.sender.toNat, c.eos.isSome.toNat, (c.eos.getD 0).toNat, c.bytes.length] ++ c.bytes.map BitVec.toNat

/-- The words of what a message stream has accepted and its register has not consumed. -/
def StreamSt.record (st : StreamSt) : List Nat :=
  st.groups.length :: st.rest.length ::
    ((st.groups.map fun g => g.n :: g.lanes.toList.map BitVec.toNat).flatten ++ st.rest.map BitVec.toNat)

/-- The stream buffers of a core: those of the registers that its table entries feed (8 R194). -/
def State.bufferRecord (s : State) (k : CoreId) : List Nat :=
  (((s.getCore k).table.toList.filterMap id).map fun e =>
    match if e.attached then (s.getCtx ⟨k, e.ctx⟩).streams.get e.reg else none with
    | some st => e.tag.toNat :: st.record
    | none => [e.tag.toNat]).flatten

/-- What bank 15 of a cluster holds: the mailboxes (7 R180) and the stream buffers (8 R194). -/
def State.mailRecord (s : State) (c : ClusterId) : List Nat :=
  ((List.range 8).map fun n =>
    let k := s.getCore ⟨c, n⟩
    (k.hi.length :: k.lo.length :: ((k.hi ++ k.lo).map Message.record).flatten) ++ s.bufferRecord ⟨c, n⟩).flatten

/-- What the banks 0-14 of a cluster in FIFO mode hold: the chunks held at its cores (8 R194). -/
def State.chunkRecord (s : State) (c : ClusterId) : List Nat :=
  ((List.range 8).map fun n =>
    let cs := (s.getCore ⟨c, n⟩).inbox
    cs.length :: (cs.map Chunk.record).flatten).flatten

/-- The bytes of a record whose layout the spec does not give: a function of what it records (assumption 36). -/
def recorded (content : List Nat) (n : Nat) : List Byte := (List.range n).map (Config.recordByte content)

/-- The bytes of a slot that are written, apart from the fixed registers of its contexts: offsets and bytes. `tag`
names the layout bytes of this slot. -/
def State.slotBytes (s : State) (c : ClusterId) (tag : Nat) : List (Nat × List Byte) :=
  let k := s.getCl c
  let bank : Fin 16 → List (Nat × List Byte) := fun b =>
    let o := b.val * 0x40000
    match k.modes.get b with
    | .cache => []
    | .scratch => [(o, cellsRead s.mem.sram (scrKey c o) 0x40000)]
    | .fifo => [(o, recorded (o :: if b = 15 then s.mailRecord c else s.chunkRecord c) 0x40000)]
  ((List.finRange 16).map bank).flatten
    ++ ((List.range 16).map fun b => (0x400000 + b * 0x1000, s.feBytes c b))
    ++ ((slotCtxs c).map fun q => (q.1 + 0x1358, layout (tag + q.1) 0xA8))
    ++ [(0x47E000, layout (tag + 0x47E000) 0x2000), (0x480000, accBytes k.mx),
      (0x490000, layout (tag + 0x490000) 0x2C000)]

/-- Bytes of a slot, and offset of the first one. -/
def slotStride : Nat := 0x4C0000
def slotBase : Nat := 0x10000

/-- The layout bytes of slot i of a save. -/
def slotTag (tag i : Nat) : Nat := tag * 2 ^ 40 + (i + 1) * slotStride

/-- The clusters of a partition with the addresses of their slots in an area. -/
def State.slots (s : State) (p area : Nat) : List (Nat × Nat × ClusterId) :=
  (s.partClusters p).mapIdx fun i c => (i, area + slotBase + i * slotStride, c)

/-- The header of a save: the state, the CYCLE at the halt and the clusters' ids, in no layout that the spec gives. -/
def State.saveHeader (s : State) (p : Nat) (v : Part) (dump : Bool) : List Byte :=
  recorded (dump.toNat :: v.haltCycle :: (s.partClusters p).map (clLinear s.pkg.grade)) slotBase

/-- Write a header and a partition's clusters to an area (R343). -/
def State.saveTo (s : State) (p area tag : Nat) (header : List Byte) : State :=
  (s.slots p area).foldl (fun t q =>
    let t := (s.slotBytes q.2.2 (slotTag tag q.1)).foldl (fun t w => t.writePhys (q.2.1 + w.1) w.2) t
    (slotCtxs q.2.2).foldl (fun t w =>
      t.writePhys (q.2.1 + w.1) (fixedRegs (s.getCtx w.2) (s.deadlineOf w.2))) t)
    (s.writePhys area header)

/-- SAVE_COMPLETE: `unit` is the partition. PREQ.CTR's counter gains 1, and PREEMPTED is posted. -/
def execSaveComplete (s : State) : Out :=
  match s.part? s.unit with
  | some v =>
    if v.state = .saving then
      let tag := s.fresh
      let s := { s.saveTo s.unit v.cfg.save tag (s.saveHeader s.unit v false) with fresh := tag + 1 }
      let s := s.setPart s.unit { v with state := .saved, saveTag := tag, preqCtr := none }
      .next ((s.bumpCtr v.preqCtr).postEvent s.unit 0x01 0 0)
    else disabled "SAVE_COMPLETE"
  | none => disabled "SAVE_COMPLETE"

/-- An area holds bytes at an offset. -/
def State.holds (s : State) (pa : Nat) (bs : List Byte) : Bool := s.mem.peek pa bs.length = bs

/-- The save area of a partition holds what the save wrote, the fixed registers of its contexts apart. -/
def State.saveIntact (s : State) (p : Nat) (v : Part) : Bool :=
  s.holds v.cfg.save (s.saveHeader p v false)
    && (s.slots p v.cfg.save).all fun q =>
      (s.slotBytes q.2.2 (slotTag v.saveTag q.1)).all fun w => s.holds (q.2.1 + w.1) w.2

/-- A context with the registers of a record; bits that a register does not define read as zero (1 R15, R19). One whose
record gives it another pc is not in the middle of an instruction. A rounding mode that FPMODE reserves leaves the mode
as it is, and of LEVEL the low bit counts (assumption 36). -/
def Ctx.loadFixed (c : Ctx) (r : List Byte) : Ctx :=
  let pc := addrBits (recWord r 0x1300)
  let c := if pc = c.pc then c else { c with doing := none, asked := none, pos := 0, plan := [] }
  { c with
    x := Vector.ofFn fun i => recWord r (8 * i.val)
    f := Vector.ofFn fun i => recWord r (0x200 + 8 * i.val)
    v := Vector.ofFn fun i => Vector.ofFn fun j => BitVec.ofNat 32 (recNat r (0x300 + 128 * i.val + 4 * j.val) 4)
    pc := pc
    super := bit (recNat r 0x1308 8) 0
    inh := bit (recNat r 0x1308 8) 2
    fpmode := (rmodeOf? (recNat r 0x1310 8 % 8)).getD c.fpmode
    fpflags := BitVec.ofNat 5 (recNat r 0x1318 8)
    regionid := recWord r 0x1320
    hdone := BitVec.ofNat 11 (recNat r 0x1328 8) &&& ~~~1
    trappc := addrBits (recWord r 0x1330)
    trapcause := word (recNat r 0x1338 8 % 2 ^ 18)
    trapaddr := recWord r 0x1340
    trapinfo := recWord r 0x1348 }

/-- DEADLINE as its control context's record holds it. -/
def State.loadDeadline (s : State) (c : CtxId) (d : Word) : State :=
  match (s.getCtx c).leaf with
  | some n =>
    match Map.get? s.leaves n with
    | some l => if l.home = c then { s with leaves := Map.put s.leaves n { l with deadline := d } } else s
    | none => s
  | none => s

/-- The slots of a save are read back through their home slices (8 R204, R345): what they hold stands in the state. -/
def State.readSlots (s : State) (p area : Nat) : State :=
  (s.slots p area).foldl (fun t q => { t with mem := t.mem.visitRange q.2.1 slotStride })
    { s with mem := s.mem.visitRange area slotBase }

/-- The registers of every live context are loaded from their records; CACHE banks start invalid (R345). -/
def State.restoreFrom (s : State) (p area : Nat) : State :=
  (s.slots p area).foldl (fun t q =>
    let t := (slotCtxs q.2.2).foldl (fun t w =>
      if (t.getCtx w.2).live then
        let r := s.mem.peek (q.2.1 + w.1) 0x1358
        (t.setCtx w.2 ((t.getCtx w.2).loadFixed r)).loadDeadline w.2 (recWord r 0x1350)
      else t) t
    t.dropWays q.2.2) (s.readSlots p area)

/-- RESTORE_COMPLETE: `unit` is the partition. RESUME.CTR's counter gains 1, and RESUMED is posted. -/
def execRestoreComplete (s : State) : Out :=
  match s.part? s.unit with
  | some v =>
    if v.state = .restoring then
      if s.saveIntact s.unit v then
        let s := (s.restoreFrom s.unit v.cfg.save).setPart s.unit { v with state := .running, resumeCtr := none }
        .next (((s.bumpCtr v.resumeCtr).postEvent s.unit 0x02 0 0).retryLaunches s.unit)
      else .fault .saveAltered
    else disabled "RESTORE_COMPLETE"
  | none => disabled "RESTORE_COMPLETE"

-- Deadlines and double traps (R346)

/-- DEADLINE_EXPIRY: `unit` is the leaf. -/
def execDeadlineExpiry (s : State) : Out :=
  match Map.get? s.leaves s.unit with
  | some l =>
    match s.part? l.part with
    | some v =>
      if l.deadline = 0 && (v.state = .running || v.state = .halting) then
        .next (s.setPart l.part { v with
          state := .dumping
          dumpRec := some (1, coreIdBits l.home, l.launchptr, wordBytes l.launchptr, s.cycle) })
      else disabled "DEADLINE_EXPIRY"
    | none => disabled "DEADLINE_EXPIRY"
  | none => disabled "DEADLINE_EXPIRY"

/-- The launches of a partition that wait, that have been read but not placed, or that run are no more: none posts a
status word (R337, R342). -/
def State.dropLaunches (s : State) (p : Nat) : State :=
  let s := { s with launches := s.launches.filter fun l => l.2.part ≠ p }
  match s.part? p with
  | none => s
  | some v =>
    let s := s.setPart p { v with waiting := [] }
    { s with pkg := { s.pkg with queues := s.pkg.queues.map fun q =>
      if v.cfg.wq0 ≤ q.1 && q.1 < v.cfg.wq0 + v.cfg.nwq then
        (q.1, match q.2.entry with
          | some (n, bs) => if recNat bs 0 1 = 1 then { q.2 with entry := none } else { q.2 with entry := some (n, bs) }
          | none => q.2)
      else q } }

/-- DUMP_COMPLETE: `unit` is the partition. The record is written, and DUMPED is posted. -/
def execDumpComplete (s : State) : Out :=
  match s.part? s.unit with
  | some v =>
    match v.dumpRec with
    | some (cls, wher, addr, detail, detected) =>
      if v.state = .dumping && s.stopped s.unit then
        let tag := s.fresh
        let s := s.halt s.unit
        let v := { v with state := .dumped, haltCycle := s.cycle, dumpRec := none }
        let s := { s.saveTo s.unit v.cfg.dump tag (s.saveHeader s.unit v true) with fresh := tag + 1 }
        let s := (s.setPart s.unit v).logFaultAt s.unit {
          kind := if cls = 1 then .deadline else .doubleTrap, cls := cls, wher := wher, addr := addr.toNat
          detail := detail } detected
        .next ((s.postEvent s.unit 0x03 cls (s.logSeq s.unit)).dropLaunches s.unit)
      else disabled "DUMP_COMPLETE"
    | none => disabled "DUMP_COMPLETE"
  | none => disabled "DUMP_COMPLETE"

end Sys2Proof.Machine
end

