-- ==== Sys2Proof/Machine/Fault.lean ====
section
/-!
DEFINITION. Hardware faults (18 R347-R349), thermal events (20 R374) and module reset (20 R372).
-/
namespace Sys2Proof.Machine

-- The discard (R348)

/-- The agent of an access belongs to a partition: a context, a fired entry, a node, a job. -/
def State.agentIn (s : State) (p : Nat) : Agent → Bool
  | .ctx c => s.clIn p c.core.cl
  | .job 6 l n => s.pkg.fired.any fun f => f.entry.part = p && f.entry.agent = .job 6 l n
  | .job 7 _ n => (s.node n).part = some p
  | .job _ _ id => s.clIn p (clOfLinear s.pkg.grade (id / jobSlots))

/-- A cluster whose work is discarded. -/
def Cluster.discard (k : Cluster) : Cluster :=
  { k with changing := [], fills := [], feWaits := [], jobs := [], mx := MatrixSt.init }

/-- Replicas after a discard: only replica 0 is left, LIVE with version NONE. -/
def Expert.discard (e : Expert) : Expert :=
  { e with
    reps := Vector.ofFn fun i => if i.val = 0 then { Replica.init with state := .live, group := (e.rep 0).group }
      else Replica.init
    join := 0 }

/-- The contexts, cores, clusters and leaves of a partition. -/
def State.discardCores (s : State) (p : Nat) : State :=
  { s with
    ctx := if s.clIn p s.cur.core.cl then Ctx.init else s.ctx
    ctxs := s.ctxs.map fun (q : CtxId × Ctx) => (q.1, if s.clIn p q.1.core.cl then Ctx.init else q.2)
    cores := s.cores.map fun (q : CoreId × CoreSt) =>
      (q.1, if s.clIn p q.1.cl then { CoreSt.init with trapvec := q.2.trapvec } else q.2)
    clusters := s.clusters.map fun (q : ClusterId × Cluster) => (q.1, if q.2.part = some p then q.2.discard else q.2)
    leaves := s.leaves.filter fun l => l.2.part ≠ p }

/-- What the partition's agents have accessed no longer races: their regions have ended. -/
def State.discardRegions (s : State) (p : Nat) : State :=
  { s with mem := { s.mem with accesses := s.mem.accesses.filter fun a => !s.agentIn p a.agent } }

/-- What has come from a peer is for a partition: a write, or a token that comes back to one of its contexts. -/
def State.incomingFor (s : State) (p : Nat) : PeerMsg → Bool
  | .write _ e _ => e.part = p
  | .late _ sender _ => s.clIn p (ctxOfBits sender).core.cl
  | _ => false

/-- The work of a partition at the base die. -/
def State.discardUnits (s : State) (p : Nat) : State :=
  let mine := fun (d : Delivery) => match s.expert? d.name with | some e => decide (e.part = p) | none => false
  { s with pkg := { s.pkg with
      qps := s.pkg.qps.map fun (q : Nat × List QpEntry) => (q.1, q.2.filter fun e => e.part ≠ p)
      fired := s.pkg.fired.filter fun f => f.entry.part ≠ p
      convs := s.pkg.convs.filter fun c => c.2.part ≠ p
      deliveries := s.pkg.deliveries.filter fun d => !mine d
      incoming := s.pkg.incoming.filter fun m => !s.incomingFor p m
      nodes := s.pkg.nodes.map fun d => if d.part = some p then { d.discard with inbox := [] } else d } }

/-- The experts of a partition after a discard. Nothing is published LIVE or marked DRAINING, so no snapshot gets a new
version (13 R278). -/
def State.discardExperts (s : State) (p : Nat) : State :=
  (s.pkg.experts.filter fun q => q.2.part = p).foldl (fun s q => s.setExpert q.1 q.2.discard) s

/-- Everything that a partition is doing is discarded. -/
def State.discardPart (s : State) (p : Nat) : State :=
  let s := (s.discardRegions p).dropRowReqs fun r => s.clIn p r.cl
  let s := (((s.dropLaunches p).discardUnits p).discardExperts p).discardCores p
  match s.part? p with
  | some v => s.setPart p { v with discarded := true }
  | none => s

-- Faults

/-- Cycles before detection whose sends to peers a record names (R348). -/
def faultWindow : Nat := 17000

/-- DETAIL of an HWFAULT record: a bit for each peer that received data, 255 also for higher ones. -/
def State.peerBits (s : State) (p : Nat) : List Byte :=
  let sent := s.pkg.sent.filter fun q => q.1 = p && s.cycle ≤ q.2.2 + faultWindow
  leBytes 32 ((List.range 256).foldl (fun n i => n + if sent.any fun q => min q.2.1 255 = i then 2 ^ i else 0) 0)

/-- A unit of a partition can fail with its work: it is configured, and neither DUMPED nor FAULTED, so that it has work
(Table 18.2). -/
def State.canFault (s : State) (p : Nat) : Bool :=
  match s.partState p with | some .dumped | some .faulted | none => false | _ => true

/-- A partition becomes FAULTED (R348): the record is written, FAULT is posted, its work is discarded. -/
def State.faultPart (s : State) (p cls unit loc addr : Nat) : State :=
  match s.part? p with
  | none => s
  | some v =>
    let s := s.setPart p { v with state := .faulted, preqCtr := none, resumeCtr := none, dumpRec := none }
    let s := s.logFault p
      { kind := .hwFault, cls := cls, unit := unit, wher := loc, addr := addr, detail := s.peerBits p }
    (s.postEvent p 0x04 cls (s.logSeq p)).discardPart p

/-- The configured partitions. -/
def State.partNos (s : State) : List Nat := s.parts.keys

/-- FAULT_DETECTED in a unit that carries the partition's work. -/
def execFaultDetected (p : Fin 16) (unit : BitVec 8) (loc : BitVec 32) (addr : BitVec 64) (s : State) : Out :=
  if s.canFault p.val then .next (s.faultPart p.val 0x04 unit.toNat loc.toNat addr.toNat) else disabled "FAULT_DETECTED"

/-- FAULT_MASKED (R347): a record of KIND CORRECTED, and no other effect. -/
def execFaultMasked (p : Fin 16) (unit : BitVec 8) (loc : BitVec 32) (addr : BitVec 64) (s : State) : Out :=
  match s.part? p.val with
  | none => disabled "FAULT_MASKED"
  | some _ =>
    .next (s.logFault p.val { kind := .corrected, unit := unit.toNat, wher := loc.toNat, addr := addr.toNat })

/-- SHARED_UNIT_FAULT (R349): every partition with a request in the unit. -/
def execSharedUnitFault (parts : BitVec 16) (unit : BitVec 8) (loc : BitVec 32) (addr : BitVec 64) (s : State) : Out :=
  match s.partNos.filter fun p => parts.getLsbD p && s.canFault p with
  | [] => disabled "SHARED_UNIT_FAULT"
  | ps => .next (ps.foldl (fun s p => s.faultPart p 0x05 unit.toNat loc.toNat addr.toNat) s)

-- Module reset (20 R372)

/-- The image that boots: of the two slots, the higher version that verifies. -/
def bootSlot (is : List Image) : Option Nat :=
  ((List.range 2).filter fun i => match is[i]? with | some m => Config.imageVerifies m.bytes | none => false).foldl
    (fun best i => match best with
      | none => some i
      | some b => if ((is[b]?.map Image.version).getD 0) < ((is[i]?.map Image.version).getD 0) then some i else some b)
    none

/-- The module after a reset that boots a slot, or none: identity, fused maps, flash and the contents of DRAM stay; the
links and ports are as they are. Without an image the module stays in reset (`State.inReset`). -/
def State.afterReset (s : State) (slot : Option Nat) : State :=
  { State.reset with
    mem := { Mem.init with home := s.mem.home }
    fresh := s.fresh
    agenda := s.agenda
    unit := s.unit
    pkg := { Pkg.init with
      grade := s.pkg.grade
      links := s.pkg.links
      ports := s.pkg.ports
      clmap := s.pkg.clmap
      l2map := s.pkg.l2map
      liveStacks := s.pkg.liveStacks
      channels := s.pkg.channels
      idkey := s.pkg.idkey
      idseed := s.pkg.idseed
      serial := s.pkg.serial
      images := s.pkg.images
      flash := s.pkg.flash
      running := slot } }

/-- MODULE_RESET. -/
def execModuleReset (s : State) : Out := .next (s.afterReset (bootSlot s.pkg.images))

/-- The management core's unit number (Table 18.5). -/
def unitManagement : Nat := 9

/-- Every partition becomes FAULTED with class 0x06 (R349). -/
def State.faultAll (s : State) (unit : Nat) : State := s.partNos.foldl (fun s p => s.faultPart p 0x06 unit 0 0) s

/-- The fault records of a management-core fault, as the core's flash log keeps them. -/
def State.flashRecords (s : State) : List (List Byte) :=
  s.partNos.map fun p =>
    FaultRec.bytes { kind := .hwFault, cls := 0x06, unit := unitManagement, detail := s.peerBits p }
      (s.logSeq p + 1) s.cycle

/-- The module after a reset that its FAULTED partitions outlast: their configurations, the clusters assigned to them,
their queues with the event words to be posted, their counters, nodes and experts stay; all else is as after any module
reset (assumption 41). -/
def State.resetAround (s : State) (slot : Nat) : State :=
  let t := State.afterReset { s with mem := s.mem.recallAll fun _ => true } (some slot)
  { t with
    ctx := s.ctx
    cur := s.cur
    ctxs := s.ctxs
    cores := s.cores
    clusters := s.clusters
    dies := s.dies
    parts := s.parts
    pkg := { t.pkg with
      ctrs := s.pkg.ctrs
      qpSeq := s.pkg.qpSeq
      experts := s.pkg.experts
      selectors := s.pkg.selectors
      inFlight := s.pkg.inFlight
      nodes := s.pkg.nodes
      queues := s.pkg.queues.filter fun q => q.1 ≠ 0
      steps := s.pkg.steps } }

/-- MANAGEMENT_CORE_FAULT (R349): the module resets; the fields of the enumeration table that change do so in the copies of
the partitions that stay configured (20 R357). Without an image that verifies it stays in reset (20 R372). -/
def execManagementCoreFault (s : State) : Out :=
  let flash := s.pkg.flash ++ s.flashRecords
  let t := s.faultAll unitManagement
  let t := { t with pkg := { t.pkg with flash := flash } }
  .next (match bootSlot s.pkg.images with
    | some n => (t.resetAround n).rewriteFields [fOwnerKey, fNonce, fOwnSeq]
    | none => t.afterReset none)

-- Thermal events (20 R374)

/-- THERMAL_ALARM: `unit` is the die. -/
def execThermalAlarm (s : State) : Out :=
  if s.unit < 8 then
    let t := s.pkg.telemetry
    .next { s with pkg := { s.pkg with telemetry := { t with alarms := t.alarms ||| BitVec.twoPow 8 s.unit } } }
  else disabled "THERMAL_ALARM"

/-- THERMAL_SHUTDOWN: `unit` is the die. UNIT of the records is not stated (assumption 5). -/
def execThermalShutdown (s : State) : Out :=
  if s.unit < 8 && !s.pkg.poweredDown then
    let (u, s) := s.pick 256
    let s := s.faultAll u
    .next { s with pkg := { s.pkg with poweredDown := true } }
  else disabled "THERMAL_SHUTDOWN"

end Sys2Proof.Machine
end

