-- ==== Sys2Proof/Machine/Crypto.lean ====
section
/-!
DEFINITION. SHA-512 and Ed25519, which 20 R367, R372 and R373 name, as their standards define them (FIPS 180-4, RFC 8032;
assumption 75): the digest of bytes, the check of a signature, and signing.
-/
namespace Sys2Proof.Machine

-- SHA-512

/-- A number from bytes, the most significant first. -/
def beNat (bs : List Byte) : Nat := bs.foldl (fun n b => n * 256 + b.toNat) 0

/-- The n bytes of a number, the most significant first. -/
def beBytes (n v : Nat) : List Byte := (leBytes n v).reverse

/-- Rotate 64 bits right. -/
def rotr64 (n x : Nat) : Nat := x / 2 ^ n + x % 2 ^ n * 2 ^ (64 - n)

/-- The functions of a word. -/
def shaS0 (x : Nat) : Nat := rotr64 28 x ^^^ rotr64 34 x ^^^ rotr64 39 x
def shaS1 (x : Nat) : Nat := rotr64 14 x ^^^ rotr64 18 x ^^^ rotr64 41 x
def shaR0 (x : Nat) : Nat := rotr64 1 x ^^^ rotr64 8 x ^^^ x / 2 ^ 7
def shaR1 (x : Nat) : Nat := rotr64 19 x ^^^ rotr64 61 x ^^^ x / 2 ^ 6

/-- The functions of three words. -/
def shaCh (x y z : Nat) : Nat := (x &&& y) ^^^ ((2 ^ 64 - 1 - x) &&& z)
def shaMaj (x y z : Nat) : Nat := (x &&& y) ^^^ (x &&& z) ^^^ (y &&& z)

/-- The constants of the rounds: the first 64 bits of the fractions of the cube roots of the first 80 primes. -/
def shaK : List Nat :=
  [0x428A2F98D728AE22, 0x7137449123EF65CD, 0xB5C0FBCFEC4D3B2F, 0xE9B5DBA58189DBBC,
   0x3956C25BF348B538, 0x59F111F1B605D019, 0x923F82A4AF194F9B, 0xAB1C5ED5DA6D8118,
   0xD807AA98A3030242, 0x12835B0145706FBE, 0x243185BE4EE4B28C, 0x550C7DC3D5FFB4E2,
   0x72BE5D74F27B896F, 0x80DEB1FE3B1696B1, 0x9BDC06A725C71235, 0xC19BF174CF692694,
   0xE49B69C19EF14AD2, 0xEFBE4786384F25E3, 0x0FC19DC68B8CD5B5, 0x240CA1CC77AC9C65]
  ++ [0x2DE92C6F592B0275, 0x4A7484AA6EA6E483, 0x5CB0A9DCBD41FBD4, 0x76F988DA831153B5,
   0x983E5152EE66DFAB, 0xA831C66D2DB43210, 0xB00327C898FB213F, 0xBF597FC7BEEF0EE4,
   0xC6E00BF33DA88FC2, 0xD5A79147930AA725, 0x06CA6351E003826F, 0x142929670A0E6E70,
   0x27B70A8546D22FFC, 0x2E1B21385C26C926, 0x4D2C6DFC5AC42AED, 0x53380D139D95B3DF,
   0x650A73548BAF63DE, 0x766A0ABB3C77B2A8, 0x81C2C92E47EDAEE6, 0x92722C851482353B]
  ++ [0xA2BFE8A14CF10364, 0xA81A664BBC423001, 0xC24B8B70D0F89791, 0xC76C51A30654BE30,
   0xD192E819D6EF5218, 0xD69906245565A910, 0xF40E35855771202A, 0x106AA07032BBD1B8,
   0x19A4C116B8D2D0C8, 0x1E376C085141AB53, 0x2748774CDF8EEB99, 0x34B0BCB5E19B48A8,
   0x391C0CB3C5C95A63, 0x4ED8AA4AE3418ACB, 0x5B9CCA4F7763E373, 0x682E6FF3D6B2B8A3,
   0x748F82EE5DEFB2FC, 0x78A5636F43172F60, 0x84C87814A1F0AB72, 0x8CC702081A6439EC]
  ++ [0x90BEFFFA23631E28, 0xA4506CEBDE82BDE9, 0xBEF9A3F7B2C67915, 0xC67178F2E372532B,
   0xCA273ECEEA26619C, 0xD186B8C721C0C207, 0xEADA7DD6CDE0EB1E, 0xF57D4F7FEE6ED178,
   0x06F067AA72176FBA, 0x0A637DC5A2C898A6, 0x113F9804BEF90DAE, 0x1B710B35131C471B,
   0x28DB77F523047D84, 0x32CAAB7B40C72493, 0x3C9EBE0A15C9BEBC, 0x431D67C49C100D4C,
   0x4CC5D4BECB3E42B6, 0x597F299CFC657E2A, 0x5FCB6FAB3AD6FAEC, 0x6C44198C4A475817]

/-- The initial value: the same of the square roots of the first eight. -/
def shaInit : List Nat :=
  [0x6A09E667F3BCC908, 0xBB67AE8584CAA73B, 0x3C6EF372FE94F82B, 0xA54FF53A5F1D36F1,
   0x510E527FADE682D1, 0x9B05688C2B3E6C1F, 0x1F83D9ABFB41BD6B, 0x5BE0CD19137E2179]

/-- Go on with a number that has been computed. -/
def computed {α : Type} (n : Nat) (f : Nat → α) : α := match n with | 0 => f 0 | k + 1 => f (k + 1)

/-- Go on with numbers that have been computed. -/
def allComputed {α : Type} : List Nat → (List Nat → α) → α
  | [], f => f []
  | n :: ns, f => computed n fun n => allComputed ns fun ns => f (n :: ns)

/-- The rounds of a block, given their constants, the next 16 words of the schedule, and the eight working variables. -/
def shaRounds : List Nat → List Nat → List Nat → List Nat
  | k :: ks, w, [a, b, c, d, e, f, g, h] =>
    let t := h + shaS1 e + shaCh e f g + k + w.headD 0
    let next := (shaR1 (w.getD 14 0) + w.getD 9 0 + shaR0 (w.getD 1 0) + w.headD 0) % 2 ^ 64
    computed ((t + shaS0 a + shaMaj a b c) % 2 ^ 64) fun a' =>
      computed ((d + t) % 2 ^ 64) fun e' =>
        computed next fun x => shaRounds ks (w.drop 1 ++ [x]) [a', a, b, c, e', e, f, g]
  | _, _, v => v

/-- The words of a block. -/
def shaWords (bs : List Byte) : List Nat := (List.range 16).map fun i => beNat ((bs.drop (8 * i)).take 8)

/-- The blocks of a padded message, one by one. -/
def shaBlocks : Nat → List Byte → List Nat → List Nat
  | 0, _, v => v
  | n + 1, bs, v =>
    allComputed (shaWords bs) fun w =>
      allComputed (List.zipWith (fun x y => (x + y) % 2 ^ 64) v (shaRounds shaK w v)) fun v =>
        shaBlocks n (bs.drop 128) v

/-- The padding of a message of n bytes: a one bit, zeros, and the length in bits as 16 bytes. -/
def shaPad (n : Nat) : List Byte := 0x80 :: List.replicate ((239 - n % 128) % 128) 0 ++ beBytes 16 (8 * n)

/-- The SHA-512 digest of bytes: 64 bytes. -/
def sha512 (bs : List Byte) : List Byte :=
  ((shaBlocks ((bs.length + 144) / 128) (bs ++ shaPad bs.length) shaInit).map (beBytes 8)).flatten

-- Ed25519

/-- The field of the curve. -/
def edP : Nat := 2 ^ 255 - 19
/-- The order of the base point. -/
def edL : Nat := 2 ^ 252 + 27742317777372353535851937790883648493
/-- d = -121665 / 121666. -/
def edD : Nat := 37095705934669439343138083508754565189542113879843219016388785533085940283555

/-- A point in extended homogeneous coordinates: x = X / Z, y = Y / Z, x * y = T / Z. -/
structure EdPoint where
  x : Nat
  y : Nat
  z : Nat
  t : Nat
  deriving DecidableEq, Repr

/-- The neutral point, and the base point. -/
def EdPoint.zero : EdPoint := ⟨0, 1, 1, 0⟩
def edBase : EdPoint :=
  let x := 15112221349535400772501151409588531511454012693041857206046113283949847762202
  let y := 46316835694926478169428394003475163141307993866256225615783033603165251855960
  ⟨x, y, 1, x * y % edP⟩

/-- Go on with the sum of two points. -/
def EdPoint.plus {α : Type} (p q : EdPoint) (f : EdPoint → α) : α :=
  computed ((p.y + (edP - p.x)) * (q.y + (edP - q.x)) % edP) fun a =>
  computed ((p.y + p.x) * (q.y + q.x) % edP) fun b =>
  computed (p.t * 2 * edD * q.t % edP) fun c =>
  computed (p.z * 2 * q.z % edP) fun d =>
  computed ((b + (edP - a)) * (d + (edP - c)) % edP) fun x =>
  computed ((d + c) * (b + a) % edP) fun y =>
  computed ((d + (edP - c)) * (d + c) % edP) fun z =>
  computed ((b + (edP - a)) * (b + a) % edP) fun t => f ⟨x, y, z, t⟩

/-- Bits 0 to n - 1 of a number, times a point, added to another point. -/
def EdPoint.mulAdd : Nat → Nat → EdPoint → EdPoint → EdPoint
  | 0, _, _, acc => acc
  | n + 1, k, p, acc =>
    p.plus p fun q =>
      if k % 2 = 1 then acc.plus p fun acc => EdPoint.mulAdd n (k / 2) q acc else EdPoint.mulAdd n (k / 2) q acc

/-- A multiple of a point. -/
def EdPoint.times (k : Nat) (p : EdPoint) : EdPoint := EdPoint.mulAdd 256 k p EdPoint.zero

/-- A power modulo the prime, by the bits of the exponent; the first argument counts them. -/
def edPow : Nat → Nat → Nat → Nat → Nat
  | 0, _, _, acc => acc
  | n + 1, x, k, acc =>
    computed (x * x % edP) fun x' =>
      computed (if k % 2 = 1 then acc * x % edP else acc) fun acc => edPow n x' (k / 2) acc

/-- Two points are the same. -/
def EdPoint.same (p q : EdPoint) : Bool := p.x * q.z % edP = q.x * p.z % edP && p.y * q.z % edP = q.y * p.z % edP

/-- The 32 bytes of a point. -/
def EdPoint.bytes (p : EdPoint) : List Byte :=
  computed (edPow 256 p.z (edP - 2) 1) fun i =>
    leBytes 32 (p.y * i % edP + p.x * i % edP % 2 * 2 ^ 255)

/-- A square root of u / v modulo the prime. -/
def edRoot (u v : Nat) : Option Nat :=
  computed (u * edPow 256 v 3 1 % edP * edPow 256 (u * edPow 256 v 7 1 % edP) ((edP - 5) / 8) 1 % edP) fun x =>
    computed (v * x % edP * x % edP) fun w =>
      if w = u then some x
      else if w = (edP - u) % edP then some (x * edPow 256 2 ((edP - 1) / 4) 1 % edP)
      else none

/-- The point of 32 bytes, if they are the bytes of one. -/
def edPoint (bs : List Byte) : Option EdPoint :=
  let n := leNat bs
  let y := n % 2 ^ 255
  if bs.length ≠ 32 ∨ edP ≤ y then none
  else
    (edRoot ((y * y + (edP - 1)) % edP) ((edD * (y * y) + 1) % edP)).bind fun x =>
      if x = 0 ∧ n / 2 ^ 255 = 1 then none
      else
        let x := if x % 2 = n / 2 ^ 255 then x else edP - x
        some ⟨x, y, 1, x * y % edP⟩

/-- The Ed25519 check of a signature: key, message, signature. -/
def ed25519Verify (key msg sig : List Byte) : Bool :=
  let r := sig.take 32
  let s := leNat (sig.drop 32)
  match edPoint key, edPoint r with
  | some a, some b =>
    sig.length = 64 && decide (s < edL)
      && (EdPoint.times (8 * s) edBase).same
          (EdPoint.mulAdd 259 (8 * (leNat (sha512 (r ++ key ++ msg)) % edL)) a (EdPoint.times 8 b))
  | _, _ => false

/-- The secret scalar of a private key of 32 bytes, and the prefix of its nonces. -/
def edSecret (seed : List Byte) : Nat × List Byte :=
  let h := sha512 seed
  (leNat (h.take 32) % 2 ^ 254 / 8 * 8 + 2 ^ 254, h.drop 32)

/-- The public key of a private key. -/
def ed25519Public (seed : List Byte) : List Byte := (EdPoint.times (edSecret seed).1 edBase).bytes

/-- The Ed25519 signature of a message with a private key. -/
def ed25519Sign (seed msg : List Byte) : List Byte :=
  let k := edSecret seed
  computed (leNat (sha512 (k.2 ++ msg)) % edL) fun r =>
    let rb := (EdPoint.times r edBase).bytes
    rb ++ leBytes 32 ((r + leNat (sha512 (rb ++ ed25519Public seed ++ msg)) * k.1) % edL)

end Sys2Proof.Machine
end

