-- ==== Sys2Proof/Machine/Owner.lean ====
section
/-!
DEFINITION. Ownership (20 R367, R368), attestation (20 R373), and what hosts do by remote memory access (20 R361).
-/
namespace Sys2Proof.Machine

-- Requests (R367)

/-- Cycles of a lease: 300 ms at 1.7 GHz. -/
def leaseCycles : Nat := 510000000

/-- The key of no owner. -/
def noKey : List Byte := List.replicate 32 0

/-- No host owns the module. -/
def Owner.open (o : Owner) : Bool := o.key.all (· = 0)

/-- KEY of a request. -/
def reqKey (r : List Byte) : List Byte := (r.drop 16).take 32

/-- A request is well formed, carries the current nonce, and its signature verifies with a key. -/
def State.reqValid (s : State) (r : List Byte) (type : Nat) (key : List Byte) : Bool :=
  r.length = 128 && recNat r 0 1 = type && recZero r 1 7 && recZero r 120 8 && recNat r 8 8 = s.pkg.owner.nonce
    && ed25519Verify key (r.take 48 ++ r.drop 112 ++ s.pkg.serial) ((r.drop 48).take 64)

/-- A change of owner: a new nonce, OWNSEQ + 1, and the table's fields in their order (R367, R368). -/
def State.changeOwner (s : State) (key : List Byte) (lease : Option Nat) : State :=
  let o : Owner := ⟨key, Config.nonce s.fresh % 2 ^ 64, s.pkg.owner.seq + 1, lease, 0⟩
  { s with pkg := { s.pkg with owner := o }, fresh := s.fresh + 1 }.rewriteFields [fOwnerKey, fNonce, fOwnSeq]

/-- CLAIM: a request that is not accepted has no effect. -/
def State.claim (s : State) (r : List Byte) : State :=
  if s.pkg.owner.open && s.reqValid r 0x10 (reqKey r) then s.changeOwner (reqKey r) (some leaseCycles) else s

/-- An owner holds the module: its lease has not lapsed (R368). -/
def Owner.holds (o : Owner) : Bool := match o.lease with | some n => n ≠ 0 | none => false

/-- HANDOVER. -/
def State.handover (s : State) (r : List Byte) : State :=
  if s.pkg.owner.holds && s.reqValid r 0x11 s.pkg.owner.key then s.changeOwner (reqKey r) (some leaseCycles) else s

/-- HEARTBEAT. -/
def State.heartbeat (s : State) (r : List Byte) : State :=
  let o := s.pkg.owner
  if o.holds && reqKey r = o.key && s.reqValid r 0x12 o.key && o.lastCount < recNat r 112 8 then
    { s with pkg := { s.pkg with owner := { o with lease := some leaseCycles, lastCount := recNat r 112 8 } } }
  else s

/-- CLAIM: a write to the claim window. -/
def execClaim (req : List (BitVec 8)) (s : State) : Out :=
  if s.inReset then disabled "CLAIM" else .next (s.claim req)
/-- HANDOVER. -/
def execHandover (req : List (BitVec 8)) (s : State) : Out :=
  if s.inReset then disabled "HANDOVER" else .next (s.handover req)
/-- HEARTBEAT. -/
def execHeartbeat (req : List (BitVec 8)) (s : State) : Out :=
  if s.inReset then disabled "HEARTBEAT" else .next (s.heartbeat req)

/-- LEASE_LAPSE (R368): 300 ms have passed without an accepted heartbeat. -/
def execLeaseLapse (s : State) : Out :=
  if s.pkg.owner.lease = some 0 then .next (s.changeOwner noKey none) else disabled "LEASE_LAPSE"

/-- A request that has been written to the claim window. -/
def State.takeRequest (s : State) (r : List Byte) : State :=
  match recNat r 0 1 with
  | 0x10 => s.claim r | 0x11 => s.handover r | 0x12 => s.heartbeat r | _ => s

-- Attestation (R373)

/-- The report for a challenge: its fields in the order of R373, and the signature over them by the identity key. -/
def State.attestation (s : State) (challenge : List Byte) : List Byte :=
  let image := (s.pkg.running.bind fun n => s.pkg.images[n]?).map Image.bytes
  let body := s.pkg.serial ++ leBytes 1 s.pkg.grade.code ++ sha512 s.pkg.enumTable
    ++ sha512 (image.getD []) ++ s.pkg.owner.key ++ leBytes 8 s.pkg.owner.seq ++ challenge
  body ++ ed25519Sign s.pkg.idseed body

/-- ATTESTATION_REQUEST: a challenge of 32 bytes. -/
def execAttestationRequest (challenge : List (BitVec 8)) (s : State) : Out :=
  if challenge.length ≠ 32 || s.inReset then disabled "ATTESTATION_REQUEST"
  else .next { s with pkg := { s.pkg with telemetry := { s.pkg.telemetry with
    request := challenge, report := s.attestation challenge } } }

-- Remote memory access (R361, Table 20.4)

/-- A part of the base-die window: offset and size. -/
def wEnum : Nat × Nat := (0x0, 0x800)
def wClaim : Nat × Nat := (0x1000, 0x80)
def wTelemetry : Nat × Nat := (0x2000, 0x1000)
def wControl : Nat × Nat := (0x8000, 0x40)
def wRing : Nat × Nat := (0x10000, 0x2000)
def wCompletion : Nat × Nat := (0x20000, 0x1000)

/-- A range lies in a part of the window. -/
def inPart (w : Nat × Nat) (off n : Nat) : Bool := w.1 ≤ off && off + n ≤ w.1 + w.2

/-- The address names the base-die window. -/
def isWindow (a : Word) : Bool := a.getLsbD 63
/-- The offset in the window. -/
def windowOff (a : Word) : Nat := a.toNat % 2 ^ 63

/-- The host has the owner's rights. -/
def State.ownerHost (s : State) (h : HostKind) : Bool := h = .owner && !s.pkg.owner.open && s.pkg.owner.holds

/-- The image slot that a write to the window replaces: the flash window lies outside the parts that Table 20.4 lists
(R372, assumption 58). -/
def flashSlotAt (a : Word) (n : Nat) : Option Nat :=
  let o := windowOff a
  if !isWindow a || [wEnum, wClaim, wTelemetry, wControl, wRing, wCompletion].any (inPart · o n) then none
  else (Config.flashSlot o n).map (· % 2)

/-- A physical range lies in the completion ring of a configured queue. -/
def State.inCompletion (s : State) (pa n : Nat) : Bool :=
  s.parts.any fun p => p.2.cfg.queues.any fun q => q.compl ≤ pa && pa + n ≤ q.compl + 16 * 2 ^ q.clog2n

/-- The host may read a range. -/
def State.mayRead (s : State) (h : HostKind) (a : Word) (n : Nat) : Bool :=
  if isWindow a then
    let o := windowOff a
    inPart wEnum o n || inPart wTelemetry o n || inPart wCompletion o n
      || (s.ownerHost h && (inPart wClaim o n || inPart wControl o n || inPart wRing o n))
  else inPresent s.pkg.grade a.toNat n && (s.ownerHost h || s.inCompletion a.toNat n)

/-- The host may write a range. -/
def State.mayWrite (s : State) (h : HostKind) (a : Word) (n : Nat) : Bool :=
  if isWindow a then
    inPart wClaim (windowOff a) n
      || (s.ownerHost h
        && (inPart wControl (windowOff a) n || inPart wRing (windowOff a) n || (flashSlotAt a n).isSome))
  else s.ownerHost h && inPresent s.pkg.grade a.toNat n

/-- The answer of the module to a host. -/
def State.answerHost (s : State) (a : Option (List Byte)) : State := { s with pkg := { s.pkg with answer := a } }

/-- RMA_WRITE: an access outside the host's rights is answered with an error, and nothing is performed. A write to the
flash window is a firmware update; it takes effect at the next reset (R372). -/
def execRmaWrite (host : HostKind) (addr : BitVec 64) (bytes : List (BitVec 8)) (s : State) : Out :=
  if s.inReset then disabled "RMA_WRITE"
  else if !s.mayWrite host addr bytes.length then .next (s.answerHost none)
  else if let some k := flashSlotAt addr bytes.length then
    .next ({ s with pkg := { s.pkg with
      images := s.pkg.images.set k ⟨Config.imageVersion bytes, bytes⟩ } }.answerHost (some []))
  else if isWindow addr then
    let s := { s with pkg := { s.pkg with window := cellsWrite s.pkg.window (windowOff addr) bytes } }.answerHost (some [])
    .next (if windowOff addr = wClaim.1 && bytes.length = wClaim.2 then s.takeRequest bytes else s)
  else .next ((s.asHost (s.writePhys addr.toNat bytes)).answerHost (some []))

/-- The telemetry window: the latest report at offset 0x800; the spec gives no place to the rest (assumption 5). -/
def State.telemetryBytes (s : State) (n : Nat) : List Byte :=
  (List.range n).map fun i =>
    if 0x800 ≤ i then s.pkg.telemetry.report.getD (i - 0x800) 0 else BitVec.ofNat 8 (Config.freeNat (s.fresh + i))

/-- A part of the window as a host reads it. -/
def State.windowBytes (s : State) (o n : Nat) : List Byte :=
  if inPart wEnum o n then ((s.pkg.enumTable).drop o).take n
  else if inPart wTelemetry o n then ((s.telemetryBytes wTelemetry.2).drop (o - wTelemetry.1)).take n
  else cellsRead s.pkg.window o n

/-- RMA_READ. A module that stays in reset answers only reads of telemetry (R372). -/
def execRmaRead (host : HostKind) (addr : BitVec 64) (len : Nat) (s : State) : Out :=
  if s.inReset && !(isWindow addr && inPart wTelemetry (windowOff addr) len) then disabled "RMA_READ"
  else if !s.mayRead host addr len then .next (s.answerHost none)
  else if isWindow addr then
    .next ({ s.answerHost (some (s.windowBytes (windowOff addr) len)) with fresh := s.fresh + wTelemetry.2 })
  else
    let r := s.readHome addr.toNat len
    .next (r.1.answerHost (some r.2))

/-- RMA_ATOMIC: a far AMO at the home (R222), or in a writable window of Table 20.4. -/
def execRmaAtomic (host : HostKind) (addr : BitVec 64) (op : AmoOp) (wide : Bool) (v : BitVec 64) (s : State) : Out :=
  let n := atomBytes wide
  let f := fun (old : List Byte) => leBytes n (amoValue op (8 * n) (leNat old) (v.toNat % 2 ^ (8 * n)))
  if s.inReset then disabled "RMA_ATOMIC"
  else if !s.ownerHost host || !s.mayWrite host addr n || addr.toNat % n ≠ 0 || (flashSlotAt addr n).isSome then
    .next (s.answerHost none)
  else if isWindow addr then
    let old := cellsRead s.pkg.window (windowOff addr) n
    .next ({ s with pkg := { s.pkg with
      window := cellsWrite s.pkg.window (windowOff addr) (f old), answer := some old } })
  else
    let h := s.mem.homePlace (lineOf addr.toNat) none true false
    let m := s.mem.prepare addr.toNat h
    let old := cellsRead m.home addr.toNat n
    .next ((s.asHost { s with mem := m.writeAt addr.toNat (f old) h }).answerHost (some old))

end Sys2Proof.Machine
end

