-- ==== Sys2Proof/Machine/HostQ.lean ====
section
/-!
DEFINITION. Work queues (20 R362-R366, R375): rings and control blocks, the entries and their checks, completion
records, PARTCFG, RESET, PEERS, NAMES.
-/
namespace Sys2Proof.Machine

-- Queues (R362)

/-- The module queue: offsets in the base-die window, 64 entries and 256 records (Table 20.4). -/
def moduleQueue : QueueDesc := ⟨0x10000, 0x8000, 0x20000, 6, 8⟩

/-- A queue: the partition it belongs to, none for queue 0, and its descriptor. -/
def State.queue? (s : State) (q : Nat) : Option (Option Nat × QueueDesc) :=
  if q = 0 then some (none, moduleQueue)
  else (s.parts.find? fun p => p.2.cfg.wq0 ≤ q && q < p.2.cfg.wq0 + p.2.cfg.nwq).bind fun p =>
    (p.2.cfg.queues[q - p.2.cfg.wq0]?).map fun d => (some p.1, d)

/-- Read n bytes of a queue's memory: the window for queue 0, the homes otherwise. -/
def State.qRead (s : State) (own : Option Nat) (a n : Nat) : State × List Byte :=
  match own with
  | none => (s, cellsRead s.pkg.window a n)
  | some _ => s.readHome a n

/-- Write bytes of a queue's memory. -/
def State.qWrite (s : State) (own : Option Nat) (a : Nat) (bs : List Byte) : State :=
  match own with
  | none => { s with pkg := { s.pkg with window := cellsWrite s.pkg.window a bs } }
  | some _ => s.writePhys a bs

/-- The partition of a queue is DUMPED or FAULTED. -/
def State.stoppedFor (s : State) (own : Option Nat) : Bool :=
  match own with
  | none => false
  | some p => match s.partState p with | some .dumped | some .faulted => true | _ => false

-- Entries (Table 20.5)

/-- An entry of a type ends at a byte; what follows it is reserved. -/
def entryEnd : Nat → Nat
  | 1 | 3 | 4 | 8 => 16 | 2 => 28 | 5 | 6 | 7 => 9 | 9 => 18 | _ => 20

/-- The code that rejects an entry before it is performed: STATE, TYPE, RESERVED. -/
def State.entryReject (s : State) (own : Option Nat) (e : List Byte) : Option Nat :=
  let t := recNat e 0 1
  let known := if own.isSome then 1 ≤ t && t ≤ 4 else 5 ≤ t && t ≤ 10
  if s.stoppedFor own then some 0x24
  else if !known then some 0x20
  else if !recZero e 1 7 || !recZero e (entryEnd t) (128 - entryEnd t) then some 0x21
  else none

/-- A COPY entry of the queue is being performed; one that a dump has stopped is not (18 R342). -/
def State.copying (s : State) (q : Nat) : Bool :=
  s.pkg.fired.any fun f => match f.entry.wq with
    | some (k, _) => decide (k = q) && decide ((s.part? f.entry.part).map Part.state ≠ some .dumped)
    | none => false

/-- WORK_QUEUE_TAIL: `unit` is the queue. The next entry is read, HEAD advances past it, and it is checked (R363). -/
def execWorkQueueTail (s : State) : Out :=
  let q := s.unit
  match s.queue? q with
  | none => disabled "WORK_QUEUE_TAIL"
  | some (own, d) =>
    let v := s.getQueue q
    let (s, tb) := s.qRead own d.control 8
    if v.entry.isSome || s.copying q || leNat tb = v.head then disabled "WORK_QUEUE_TAIL"
    else
      let n := v.head
      let (s, e) := s.qRead own (d.ring + 128 * (n % 2 ^ d.log2n)) 128
      let head := (n + 1) % 2 ^ 64
      let s := s.qWrite own (d.control + 8) (leBytes 8 head)
      let bad := s.entryReject own e
      let s := s.setQueue q { v with tail := leNat tb, head := head, entry := if bad.isNone then some (n, e) else none }
      .next (match bad with
        | some code => s.pushRecord q (rejectWord code 0) (word n)
        | none => s)

/-- An entry that has been read is performed: its queue, its number, its partition, its bytes. An entry whose partition
has become DUMPED or FAULTED since is rejected with STATE (18 R342). -/
def State.perform (s : State) (type : Nat) (name : String) (f : State → Nat → Nat → Nat → List Byte → Out) : Out :=
  let q := s.unit
  match s.queue? q, (s.getQueue q).entry with
  | some (own, _), some (n, e) =>
    if recNat e 0 1 ≠ type then disabled name
    else
      let t := s.setQueue q { s.getQueue q with entry := none }
      if s.stoppedFor own then .next (t.pushRecord q (rejectWord 0x24 0) (word n))
      else f t q n (own.getD 0) e
  | _, _ => disabled name

/-- The record of an entry that has been performed. -/
def State.entryDone (s : State) (q n : Nat) (result : Nat) : State := s.pushRecord q (word (result % 2 ^ 32)) (word n)
/-- The record of an entry that is rejected. -/
def State.entryBad (s : State) (q n code : Nat) : State := s.pushRecord q (rejectWord code 0) (word n)
/-- The record of an operation that returned a negative code. -/
def State.entryFailed (s : State) (q n : Nat) (result : Word) : State :=
  s.pushRecord q (rejectWord 0x25 result.toNat) (word n)

/-- LAUNCH: `unit` is the queue. -/
def execLaunch (s : State) : Out :=
  s.perform 1 "LAUNCH" fun s q n p e => .next (s.submitLaunch p q n (recWord e 8))

/-- A side of a COPY entry is present and PINNED, or absolute mesh space. -/
def State.copySide (s : State) (p : Nat) (a : Word) (n : Nat) : Bool :=
  !(isMesh a && a.getLsbD 55) && match s.side p a n with | .trap _ => false | _ => true

/-- COPY_ENTRY: performed as a queue-pair WRITE; its record is posted when it has been performed. -/
def execCopyEntry (s : State) : Out :=
  s.perform 2 "COPY_ENTRY" fun s q n p e =>
    let src := recWord e 8
    let dst := recWord e 16
    let len := recNat e 24 4
    if len = 0 || !s.copySide p src len || !s.copySide p dst len then .next (s.entryBad q n 0x22)
    else
      let x : QpEntry := {
        qp := 0, pos := 0, seq := 0, part := p, addr := 0, src := src, dst := dst, len := len, trig := none
        lctr := none, rctr := none, module := 0, reduce := false, dkind := if isMesh dst then 1 else 0, redop := 0
        fmt := 0, step := 0, block := 0, contrib := 0, node := 0, wq := some (q, n) }
      .next { s with pkg := { s.pkg with fired := s.pkg.fired ++ [x.fire s.cycle] } }

/-- Read n bytes of a partition's address space; none when a page is not present. -/
def State.readVirt (s : State) (p : Nat) (a : Word) (n : Nat) : Option (State × List Byte) :=
  (cut64 (n / 2 ^ 16 + 2) a.toNat n).foldl (fun acc x =>
    acc.bind fun t => (s.pageAt p x.1).bind fun g =>
      if leafTier g.e = 2 then none
      else
        let r := t.1.readHome (g.pa x.1) x.2
        some (r.1, t.2 ++ r.2)) (some (s, []))

/-- The weave at an address of a partition: none when it is not present, else the weave if it is valid. -/
def State.hostWeave (s : State) (p : Nat) (a : Word) : Option (State × Option Weave) :=
  if !aligned a 64 then none
  else (s.readVirt p a 64).bind fun h =>
    match weaveHeader h.2 with
    | none => some (h.1, none)
    | some (w, n) => (h.1.readVirt p (a + 64) (4 * n)).map fun b => (b.1, weaveBody w b.2 n [])

/-- WEAVE: performed as CVOPEN (7 R189). -/
def execWeave (s : State) : Out :=
  s.perform 3 "WEAVE" fun s q n p e =>
    match s.hostWeave p (recWord e 8) with
    | none => .next (s.entryBad q n 0x22)
    | some (s, none) => .next (s.entryFailed q n (negCode 2))
    | some (s, some w) =>
      match s.openConv p w with
      | none => .next (s.entryFailed q n (negCode 1))
      | some (s, id) => .next (s.entryDone q n id)

/-- XREG_ENTRY: held until its partition is RUNNING (18 R342). -/
def execXregEntry (s : State) : Out :=
  match s.queue? s.unit with
  | some (some p, _) =>
    if !s.running p && !s.stoppedFor (some p) then disabled "XREG_ENTRY"
    else s.perform 4 "XREG_ENTRY" fun s q n p e =>
      let a := recWord e 8
      match if aligned a 64 then s.readVirt p a 512 else none with
      | none => .next (s.entryBad q n 0x22)
      | some (s, r) =>
        let v := s.register p r
        .next (if v.2 = 0 then v.1.entryDone q n 0 else v.1.entryFailed q n v.2)
  | _ => disabled "XREG_ENTRY"

/-- PREEMPT: PREQ's effect on a RUNNING partition (18 R350). -/
def execPreempt (s : State) : Out :=
  s.perform 5 "PREEMPT" fun s q n _ e =>
    let p := recNat e 8 1
    if s.partState p = some .running then .next ((s.preempt p none).entryDone q n 0) else .next (s.entryBad q n 0x24)

/-- RESUME_ENTRY: RESUME's effect on a SAVED partition (18 R351). -/
def execResumeEntry (s : State) : Out :=
  s.perform 6 "RESUME_ENTRY" fun s q n _ e =>
    let p := recNat e 8 1
    if s.partState p = some .saved then .next ((s.resume p none).entryDone q n 0) else .next (s.entryBad q n 0x24)

-- RESET (R366)

/-- The permits of an expert's handles are returned (13 R280). -/
def Expert.returnHandles (e : Expert) : Expert :=
  { e with ectr := e.ectr + (e.handles.map Handle.count).foldl (· + ·) 0, handles := [] }

/-- The resources of a partition return to the unconfigured state; STEPNO and the experts' registrations stay
(18 R348). -/
def State.unconfigure (s : State) (p : Nat) (v : Part) : State :=
  let mine := fun (c : ClusterId) => s.clIn p c
  let mem := s.mem.recallAll fun q => mine q.cl
  let wq := fun (q : Nat) => decide (v.cfg.wq0 ≤ q) && decide (q < v.cfg.wq0 + v.cfg.nwq)
  { s with
    mem := { mem with
      ctlb := mem.ctlb.map fun (t : ClusterId × List TlbEntry) => (t.1, t.2.filter fun e => e.part ≠ p)
      dtlb := mem.dtlb.map fun (t : Nat × List TlbEntry) => (t.1, t.2.filter fun e => e.part ≠ p)
      walks := mem.walks.filter fun w => w.part ≠ p }
    ctxs := s.ctxs.filter fun q => !mine q.1.core.cl
    ctx := if mine s.cur.core.cl then Ctx.init else s.ctx
    cores := s.cores.filter fun q => !mine q.1.cl
    clusters := s.clusters.filter fun q => q.2.part ≠ some p
    dies := s.dies.map fun (d : Nat × Die) => (d.1, { d.2 with shapes := d.2.shapes.filter fun x => x.2.part ≠ p })
    parts := Map.del s.parts p
    pkg := { s.pkg with
      queues := s.pkg.queues.filter fun q => !wq q.1
      qps := s.pkg.qps.filter fun q => !inRange v.cfg.qps q.1
      nodes := Vector.ofFn fun i => if v.cfg.nodes.getLsbD i.val then Node.init else s.pkg.nodes.get i
      busy := s.pkg.busy.filter fun c => !mine c.core.cl
      experts := s.pkg.experts.map fun (x : Nat × Expert) => (x.1, if x.2.part = p then x.2.returnHandles else x.2)
      steps := Map.put s.pkg.steps p v.stepno } }

/-- RESET: no event word is posted, and the partition's queues post nothing further. -/
def execReset (s : State) : Out :=
  s.perform 7 "RESET" fun s q n _ e =>
    let p := recNat e 8 1
    match s.part? p with
    | none => .next (s.entryBad q n 0x24)
    | some v => .next (((s.discardPart p).unconfigure p v).entryDone q n 0)

-- PARTCFG (Table 20.7)

/-- A queue descriptor. -/
def queueDescOf (r : List Byte) : QueueDesc := ⟨recNat r 0 8, recNat r 8 8, recNat r 16 8, recNat r 24 1, recNat r 25 1⟩

/-- The queue descriptors of a table. -/
def queueDescs : Nat → List Byte → List QueueDesc
  | 0, _ => []
  | k + 1, bs => queueDescOf bs :: queueDescs k (bs.drop 32)

/-- A configuration record. -/
def partCfgOf (g : Grade) (r : List Byte) (qs : List QueueDesc) : PartCfg where
  ptroot := recNat r 8 8
  trapvec := addrBits (recWord r 16)
  save := recNat r 24 8
  dump := recNat r 32 8
  flog := recNat r 40 8
  npool := (recNat r 48 4, recNat r 52 4)
  cpool := (recNat r 56 4, recNat r 60 4)
  ctrs := (recNat r 64 2, recNat r 66 2)
  qps := (bits (recNat r 68 4) 0 12, bits (recNat r 68 4) 16 12)
  wq0 := recNat r 72 2
  nwq := recNat r 74 2
  cfgq := recNat r 76 2
  nodes := BitVec.ofNat 8 (recNat r 78 1)
  ctrlset := BitVec.ofNat 16 (recNat r 80 2)
  convs := recNat r 82 2
  xnames := recNat r 84 4
  queues := qs
  clusters := (allClusters g).filter fun c => bit (recNat r 96 72) (clLinear g c)
  enumcopy := recNat r 168 8
  enumva := recWord r 176

/-- A reserved byte of the record or of a queue descriptor is not zero, or a field has a value outside its range. -/
def cfgReserved (g : Grade) (r qt : List Byte) (c : PartCfg) : Bool :=
  !(recNat r 0 8 < 16 && recZero r 79 1 && recZero r 184 72
    && bits (recNat r 68 4) 12 4 = 0 && bits (recNat r 68 4) 28 4 = 0 && recNat r 96 72 / 2 ^ (8 * (g.gx * g.gy)) = 0
    && c.ctrs.1 + c.ctrs.2 ≤ 65536 && c.qps.1 + c.qps.2 ≤ 4096
    && 1 ≤ c.wq0 && 1 ≤ c.nwq && c.wq0 + c.nwq ≤ 2048 && c.wq0 ≤ c.cfgq && c.cfgq < c.wq0 + c.nwq
    && (List.range c.nwq).all (fun i => recZero qt (32 * i + 26) 6)
    && c.queues.all fun q => 4 ≤ q.log2n && q.log2n ≤ 16 && 4 ≤ q.clog2n && q.clog2n ≤ 16)

/-- An address of the record is misaligned or not present. -/
def cfgAddress (g : Grade) (c : PartCfg) : Bool :=
  !(c.ptroot % 4096 = 0 && inNear g c.ptroot 4096 && c.enumcopy % 2048 = 0 && inNear g c.enumcopy 2048
    && canonical c.enumva && inNear g c.save (slotBase + slotStride * c.clusters.length)
    && inNear g c.dump (slotBase + slotStride * c.clusters.length)
    && 64 ≤ c.flog && inNear g c.flog (64 * 4096)
    && inNear g (c.npool.1 * 2 ^ 21) (c.npool.2 * 2 ^ 21) && (c.cpool.1 + c.cpool.2) * 2 ^ 12 ≤ 2 ^ 41
    && c.queues.all fun q => inPresent g q.ring (128 * 2 ^ q.log2n) && inPresent g q.control 64
      && inPresent g q.compl (16 * 2 ^ q.clog2n))

/-- Two ranges, first and count, overlap. -/
def rangesMeet (a b : Nat × Nat) : Bool := a.1 < b.1 + b.2 && b.1 < a.1 + a.2

/-- A resource is held by another configured partition. -/
def State.cfgConflict (s : State) (c : PartCfg) : Bool :=
  (s.parts.any fun p =>
    let o := p.2.cfg
    rangesMeet c.ctrs o.ctrs || rangesMeet c.qps o.qps || rangesMeet (c.wq0, c.nwq) (o.wq0, o.nwq)
      || c.nodes &&& o.nodes ≠ 0 || c.clusters.any o.clusters.contains)
    || 65536 < (s.parts.map fun p => p.2.cfg.convs).foldl (· + ·) c.convs
    || 262144 < (s.parts.map fun p => p.2.cfg.xnames).foldl (· + ·) c.xnames

/-- A cluster is assigned to a partition (08 R194, 12 R255, R259). -/
def State.assign (s : State) (p : Nat) (c : ClusterId) : State :=
  let s := (List.finRange 16).foldl (fun s b => s.zeroBank c b) s
  s.setCl c { Cluster.init with part := some p }

/-- The state of a context slot at assignment. -/
def State.assignCtxs (s : State) (cs : List ClusterId) : State :=
  { s with
    ctxs := s.ctxs.filter fun q => !cs.contains q.1.core.cl
    ctx := if cs.contains s.cur.core.cl then Ctx.init else s.ctx
    cores := s.cores.filter fun q => !cs.contains q.1.cl }

/-- TRAPVEC of every core of a cluster. -/
def State.assignVec (s : State) (v : Word) (c : ClusterId) : State :=
  (List.range 10).foldl (fun s k => s.setCore ⟨c, k⟩ { CoreSt.init with trapvec := v }) s

/-- The free units of a pool's frames: near-tier frames of 64 KiB. -/
def poolFrames (r : Nat × Nat) : List (Nat × Nat) := if r.2 = 0 then [] else [(32 * r.1, 32 * r.2)]
/-- The free slots of a pool. -/
def poolSlots (r : Nat × Nat) : List (Nat × Nat) := if r.2 = 0 then [] else [r]

/-- The experts that the partition number has kept over a reset start again: the leaves of replica 0 (18 R348). -/
def State.restartExperts (s : State) (p : Nat) : State :=
  (s.pkg.experts.filter fun x => x.2.part = p).foldl (fun s x =>
    if (s.groupOf x.2 (x.2.rep 0).group).all (s.clIn p) && (x.2.rep 0).state = .live then
      s.startReplica x.1 x.2 0 else s) s

/-- A partition is configured: it is RUNNING, its counters are 0, its send lists empty (R375), and its copy of the
enumeration table is written (R357). -/
def State.configure (s : State) (p : Nat) (c : PartCfg) : State :=
  let old := Map.get? s.pkg.steps p
  let v : Part := {
    cfg := c, state := .running, stepno := old.getD 0, discarded := old.isSome, preqCtr := none, resumeCtr := none
    logSeq := 0, haltCycle := 0, dumpRec := none, saveTag := 0, waiting := [], frames := poolFrames c.npool
    slots := poolSlots c.cpool, packed := [] }
  let s := (s.setPart p v).assignCtxs c.clusters
  let s := c.clusters.foldl (fun s k => (s.assign p k).assignVec c.trapvec k) s
  let s := { s with pkg := { s.pkg with
    ctrs := s.pkg.ctrs.filter fun x => !inRange c.ctrs x.1
    qps := s.pkg.qps.filter fun x => !inRange c.qps x.1
    queues := s.pkg.queues.filter fun x => !(decide (c.wq0 ≤ x.1) && decide (x.1 < c.wq0 + c.nwq))
    nodes := Vector.ofFn fun i =>
      if c.nodes.getLsbD i.val then { Node.init with part := some p } else s.pkg.nodes.get i } }
  (s.writePhys c.enumcopy s.pkg.enumTable).restartExperts p

/-- PARTCFG. -/
def execPartcfg (s : State) : Out :=
  s.perform 8 "PARTCFG" fun s q n _ e =>
    let g := s.pkg.grade
    let a := recNat e 8 8
    if a % 64 ≠ 0 || !inPresent g a 256 then .next (s.entryBad q n 0x22)
    else
      let (s, r) := s.readHome a 256
      let qt := recNat r 88 8
      let nq := recNat r 74 2
      if !inPresent g qt (32 * nq) then .next (s.entryBad q n 0x22)
      else
        let (s, t) := s.readHome qt (32 * nq)
        let c := partCfgOf g r (queueDescs nq t)
        let p := recNat r 0 1 % 16
        .next (
          if cfgReserved g r t c then s.entryBad q n 0x21
          else if cfgAddress g c then s.entryBad q n 0x22
          else if (s.part? p).isSome then s.entryBad q n 0x24
          else if s.cfgConflict c then s.entryBad q n 0x23
          else (s.configure p c).entryDone q n p)

-- PEERS and NAMES (R360, R370)

/-- The records of a table. -/
def tableRecords (size : Nat) : Nat → List Byte → List (List Byte)
  | 0, _ => []
  | k + 1, bs => bs.take size :: tableRecords size k (bs.drop size)

/-- A table entry: address, count and size of a record; the result, or the reject code. -/
def State.tableEntry (s : State) (q n a count limit size : Nat) (ok : List Byte → Bool)
    (f : State → List (List Byte) → State) : Out :=
  if count = 0 || limit < count then .next (s.entryBad q n 0x21)
  else if !inPresent s.pkg.grade a (size * count) || a % 8 ≠ 0 then .next (s.entryBad q n 0x22)
  else
    let (s, bs) := s.readHome a (size * count)
    let rs := tableRecords size count bs
    .next (if rs.all ok then (f s rs).entryDone q n count else s.entryBad q n 0x21)

/-- PEERS. -/
def execPeers (s : State) : Out :=
  s.perform 9 "PEERS" fun s q n _ e =>
    s.tableEntry q n (recNat e 8 8) (recNat e 16 2) 4096 32 (fun r => recZero r 16 16)
      fun s rs => { s with pkg := { s.pkg with peers := rs.map (·.take 16) } }

/-- NAMES. -/
def execNames (s : State) : Out :=
  s.perform 10 "NAMES" fun s q n _ e =>
    s.tableEntry q n (recNat e 8 8) (recNat e 16 4) 65536 8 (fun _ => true)
      fun s rs => { s with pkg := { s.pkg with names := rs.map fun r => (recNat r 0 3, recNat r 3 3, recNat r 6 2) } }

-- Completion records (R364)

/-- COMPLETION_RECORD_POST: `unit` is the queue. The oldest held record is posted while the ring has room: the record,
and then CTAIL. -/
def execCompletionRecordPost (s : State) : Out :=
  let q := s.unit
  match s.queue? q, (s.getQueue q).records with
  | some (own, d), r :: rest =>
    let v := s.getQueue q
    let (s, hb) := s.qRead own (d.control + 16) 8
    if 2 ^ d.clog2n ≤ (v.ctail + 2 ^ 64 - leNat hb) % 2 ^ 64 then disabled "COMPLETION_RECORD_POST"
    else
      let ctail := (v.ctail + 1) % 2 ^ 64
      let s := s.qWrite own (d.compl + 16 * (v.ctail % 2 ^ d.clog2n)) (wordBytes r.1 ++ wordBytes r.2)
      let s := s.qWrite own (d.control + 24) (leBytes 8 ctail)
      .next (s.setQueue q { v with ctail := ctail, records := rest })
  | _, _ => disabled "COMPLETION_RECORD_POST"

end Sys2Proof.Machine
end

