-- ==== Sys2Proof/Machine/Migrate.lean ====
section
/-!
DEFINITION. The migration engines (14 R302-R304): the rules of their cards, MGJOB, the start of a job, one page; and
the partition's frame pools.
-/
namespace Sys2Proof.Machine

-- The card (R302)

/-- The pages from an address on are whole pages of 64 KiB or 2 MiB, and the last ends at `stop`. -/
def State.wholePages (s : State) (part : Nat) : Nat → Nat → Nat → Bool
  | 0, _, _ => false
  | k + 1, a, stop =>
    a = stop || match s.pageAt part a with
      | none => false
      | some p => p.va = a && 3 ≤ p.level && s.wholePages part k (a + p.size) stop

/-- Check 5 of Table 11.3 for a migration job. -/
def State.migrateBad (s : State) (r : List Byte) (c : Card) : Option Nat :=
  let f := c.writes.headD ⟨0, 0, 0⟩
  match firstBad ([(decide (c.reads.length ≠ 0 ∨ c.writes.length ≠ 1), 4)] ++ cardFmts r c.fps.length) with
  | some o => some o
  | none =>
    if !isMesh f.base && s.wholePages s.partNo (f.len / 2 ^ 16 + 1) f.base.toNat (f.base.toNat + f.len) then none
    else some 16

/-- MGJOB (15 R307). -/
def execMgjob (d a : XReg) (la : LaCount) (s : State) : Out :=
  s.run (.mgjob d a la) fun s =>
    s.submit (.mgjob d a la) d a la 5 3 0 true fun s r c => s.migrateBad r c

-- The pools

/-- The starts of n units in a free range at multiples of u. -/
def rangeStarts (u n : Nat) (r : Nat × Nat) : List Nat :=
  let first := (r.1 + u - 1) / u * u
  let last := r.1 + r.2
  if last < first + n then [] else (List.range ((last - first - n) / u + 1)).map fun k => first + k * u

/-- Take n units from start a out of free ranges. -/
def takeRange (a n : Nat) (rs : List (Nat × Nat)) : List (Nat × Nat) :=
  (rs.map fun r =>
    if r.1 ≤ a ∧ a + n ≤ r.1 + r.2 then
      [(r.1, a - r.1), (a + n, r.1 + r.2 - (a + n))].filter fun x => x.2 ≠ 0
    else [r]).flatten

/-- Give n units from start a back to free ranges: they join those beside them. -/
def giveRange (a n : Nat) (rs : List (Nat × Nat)) : List (Nat × Nat) :=
  let below := fun (r : Nat × Nat) => decide (r.1 + r.2 = a)
  let above := fun (r : Nat × Nat) => decide (r.1 = a + n)
  let lo := ((rs.find? below).map Prod.fst).getD a
  let hi := ((rs.find? above).map fun r => r.1 + r.2).getD (a + n)
  (rs.filter fun r => !below r && !above r) ++ [(lo, hi - lo)]

/-- Units of free ranges. -/
def freeUnits (rs : List (Nat × Nat)) : Nat := (rs.map Prod.snd).foldl (· + ·) 0

/-- The k-th unit of free ranges. -/
def nthUnit : List (Nat × Nat) → Nat → Nat
  | [], _ => 0
  | r :: rs, k => if k < r.2 then r.1 + k else nthUnit rs (k - r.2)

/-- Choose n free units in a row that start at a multiple of n: any of them (assumption 5). -/
def State.chooseRun (s : State) (rs : List (Nat × Nat)) (n : Nat) : Option (Nat × State) :=
  let cs := (rs.map (rangeStarts n n)).flatten
  if cs.isEmpty then none
  else
    let (k, s) := s.pick cs.length
    some (cs.getD k 0, s)

/-- Choose n free units, wherever they lie (assumption 5): the units, and what remains free. -/
def State.chooseUnits (s : State) : Nat → List (Nat × Nat) → State × List Nat × List (Nat × Nat)
  | 0, rs => (s, [], rs)
  | n + 1, rs =>
    let (k, s) := s.pick (freeUnits rs)
    let u := nthUnit rs k
    let (s, us, rs) := s.chooseUnits n (takeRange u 1 rs)
    (s, u :: us, rs)

/-- The first byte of a 4 KiB slot of the capacity tier. -/
def slotPa (n : Nat) : Nat := capBase + n * 2 ^ 12

-- Moving a page (R304)

/-- The cells of a range, numbered from its start. -/
def cellsCut (m : List Host.Cell) (lo n : Nat) : List Host.Cell :=
  (m.filter fun c => lo ≤ c.1 && c.1 < lo + n).map fun c => (c.1 - lo, c.2)

/-- Replace the cells of a range. -/
def cellsPaste (m : List Host.Cell) (lo n : Nat) (cs : List Host.Cell) : List Host.Cell :=
  (m.filter fun c => c.1 < lo) ++ (cs.filter fun c => c.1 < n).map (fun c => (lo + c.1, c.2))
    ++ m.filter fun c => lo + n ≤ c.1

/-- Where a page goes: its new TIER, its FRAME as an address, and the slots of a compressed page. -/
structure NewPlace where
  tier : Nat
  pa : Nat
  slots : List Nat
  deriving DecidableEq, Repr

/-- The new leaf entry. -/
def newLeaf (e : Nat) (n : NewPlace) : Nat :=
  setBits (setBits e 9 2 n.tier) 32 26 (n.pa / 2 ^ 16)

/-- The compressed page of a leaf. -/
def Part.packedPage (v : Part) (p : Page) : Option Packed := v.packed.find? fun k => k.frame = leafFrame p.e

/-- The contents of a page. -/
def State.pageCells (s : State) (v : Part) (p : Page) : List Host.Cell :=
  if leafTier p.e = 2 then ((v.packedPage p).map Packed.cells).getD []
  else cellsCut s.mem.home (leafFrame p.e) p.size

/-- Free the old place of a page. -/
def Part.freePage (v : Part) (p : Page) : Part :=
  let f := leafFrame p.e
  match leafTier p.e with
  | 0 => { v with frames := giveRange (f / 2 ^ 16) (p.size / 2 ^ 16) v.frames }
  | 1 => { v with slots := giveRange ((f - capBase) / 2 ^ 12) (p.size / 2 ^ 12) v.slots }
  | _ =>
    { v with
      packed := v.packed.filter fun k => k.frame ≠ f
      slots := ((v.packedPage p).map Packed.slots |>.getD []).foldl (fun rs u => giveRange u 1 rs) v.slots }

/-- FRAME of a page about to be compressed: a frame of its size in the capacity tier that names no other compressed page
(8 R206, assumption 27). -/
def State.newHandle (s : State) (size : Nat) : Nat × State :=
  let used := (s.parts.map fun q => q.2.packed.map Packed.frame).flatten
  let cs := (List.range (used.length + 1)).map fun i => capBase + (Config.freeNat s.fresh + i) % (2 ^ 41 / size) * size
  (((cs.find? fun a => !used.contains a)).getD capBase, { s with fresh := s.fresh + 1 })

/-- The place for a page: of `slots` slots where it is compressed. -/
def State.newPlace (s : State) (v : Part) (op slots : Nat) (p : Page) : Option (NewPlace × Part × State) :=
  let total := p.size / 2 ^ 12
  if op = 1 then
    let u := p.size / 2 ^ 16
    (s.chooseRun v.frames u).map fun a => (⟨0, a.1 * 2 ^ 16, []⟩, { v with frames := takeRange a.1 u v.frames }, a.2)
  else if op = 0 && 0 < slots && slots < total then
    if freeUnits v.slots < slots then none
    else
      let (s, us, rs) := s.chooseUnits slots v.slots
      let (a, s) := s.newHandle p.size
      some (⟨2, a, us⟩, { v with slots := rs }, s)
  else
    (s.chooseRun v.slots total).map fun a =>
      (⟨1, slotPa a.1, []⟩, { v with slots := takeRange a.1 total v.slots }, a.2)

/-- Where what is known of a page's bytes is kept: at its addresses, or, of a compressed page, past the physical ones. -/
def knownAt (tier pa : Nat) : Nat := if tier = 2 then 2 ^ 43 + pa else pa

/-- What is known of n bytes moves from one place to another: the accesses logged on them, and what stores have
replaced. What was known of the new place is of an earlier page. -/
def Mem.moveKnown (m : Mem) (old new n : Nat) : Mem :=
  let within := fun lo a => decide (lo ≤ a ∧ a < lo + n)
  { m with
    accesses := (m.accesses.filter fun a => !within new a.lo).map fun a =>
      if within old a.lo then { a with lo := new + (a.lo - old) } else a
    past := (m.past.filter fun o => !within new o.pa).map fun o =>
      if within old o.pa then { o with pa := new + (o.pa - old) } else o }

/-- Move a page (R304): what is known of it goes with it. -/
def State.movePage (s : State) (part : Nat) (v : Part) (p : Page) (pte : Nat) (n : NewPlace) : State :=
  let old := leafFrame p.e
  let cells := s.pageCells v p
  let m := if leafTier p.e = 2 then s.mem else s.mem.flushRange old p.size
  let cells := if leafTier p.e = 2 then cells else cellsCut m.home old p.size
  let v := v.freePage p
  let v := if n.tier = 2 then { v with packed := v.packed ++ [⟨n.pa, n.slots, cells⟩] } else v
  let m :=
    if n.tier = 2 then m
    else
      let m := m.flushRange n.pa p.size
      { m with home := cellsPaste m.home n.pa p.size cells }
  let m := m.moveKnown (knownAt (leafTier p.e) old) (knownAt n.tier n.pa) p.size
  let m := m.write pte (leBytes 8 (newLeaf p.e n))
  ({ s with mem := m }).setPart part v

-- Requests and races of a move

/-- The lines that the home cores are asked to move for n bytes of the tiers: those of rows of the near tier, or of the
lines of 256 bytes of the capacity tier (8 R203). -/
def moveLines (pa n : Nat) : List Nat :=
  let step := if pa < capBase then 2048 else 256
  (List.range (n / step)).map fun i => lineOf (pa + i * step)

/-- The lines of a place: of a frame, or of the slots of a compressed page. -/
def placeLines (tier pa size : Nat) (slots : List Nat) : List Nat :=
  if tier = 2 then (slots.map fun u => moveLines (slotPa u) (2 ^ 12)).flatten else moveLines pa size

/-- The home cores are asked to read or to write lines. -/
def State.requestMoves (s : State) (j : JobSt) (write : Bool) (ls : List Nat) : State :=
  ls.foldl (fun s l =>
    let (due, s) := s.dueCycle j.card.dl false
    s.enterReq (.move write) l (missTarget s.pkg.grade l) due j.card.dl) s

/-- The engine's move of a page to a new place races on a CHECKED page (9 R218, assumption 56): it reads the bytes of the
page, and writes them. -/
def State.moveRaces (s : State) (ag : Agent) (p : Page) (n : NewPlace) : Bool :=
  p.checked && [knownAt (leafTier p.e) (leafFrame p.e), knownAt n.tier n.pa].any fun a =>
    !(s.mem.racing ag a p.size true false).isEmpty

/-- The engine's read and write of a page that it has moved are logged, on a CHECKED page. -/
def State.noteMove (s : State) (ag : Agent) (p : Page) (n : NewPlace) : State :=
  if p.checked then
    let a := knownAt n.tier n.pa
    { s with mem := (s.mem.log ⟨ag, 0, a, p.size, false, false⟩).log ⟨ag, 0, a, p.size, true, false⟩ }
  else s

/-- The tiers that an operation acts on (Table 14.4). -/
def migrates (op tier : Nat) : Bool :=
  match op with | 0 => tier ≤ 1 | 1 => tier = 1 || tier = 2 | _ => tier = 2

/-- The next page of a job is finished, moved or skipped. -/
def State.pageDone (s : State) (r : JobRef) (j : JobSt) (size : Nat) (moved : Bool) : State :=
  let j := { j with
    progress := j.progress + size
    detail := j.detail + moved.toNat
    skipped := j.skipped + (!moved).toNat }
  if j.progress < (j.card.writes.headD ⟨0, 0, 0⟩).len then s.setJob r j else s.endJob r j jDone 0

/-- MIGRATION_PAGE (R303): the next page of a running job; `slots` are the slots that compression needs. Accesses that
have been walked before are performed before the move (R304, assumption 70). -/
def execMigrationPage (r : JobRef) (slots : Nat) (s : State) : Out :=
  match s.job? r with
  | none => disabled "MIGRATION_PAGE"
  | some j =>
    if j.card.engine ≠ 5 || j.phase ≠ .running || !s.running j.part then disabled "MIGRATION_PAGE"
    else
      let a := (j.card.writes.headD ⟨0, 0, 0⟩).base.toNat + j.progress
      match s.part? j.part, s.walk j.part a with
      | some v, .page p path =>
        let ag := jobAgent s.pkg.grade r j
        let k := s.mem.below.length
        let s := (s.noteRange none j.part (word a) 1).tagBelow k j
        if p.pinned || p.level < 3 || !migrates j.card.op (leafTier p.e) then .next (s.pageDone r j p.size false)
        else match s.newPlace v j.card.op slots p with
          | none => .next (s.pageDone r j p.size false)
          | some (n, w, t) =>
            if leafTier p.e ≠ 2 && s.awaits (.glob (leafFrame p.e)) p.size then disabled "MIGRATION_PAGE"
            else if s.moveRaces ag p n then .next (s.endJob r j jRace 0)
            else
              let pte := (path.getLast?.map WalkMark.pte).getD 0
              let gone := ((v.packedPage p).map Packed.slots).getD []
              let t := (t.movePage j.part w p pte n).noteMove ag p n
              let t := t.requestMoves j false (placeLines (leafTier p.e) (leafFrame p.e) p.size gone)
              let t := (t.requestMoves j true (placeLines n.tier n.pa p.size n.slots)).tagBelow k j
              .next (t.pageDone r j p.size true)
      | _, _ => .next (s.endJob r j jXlate 0)

/-- The migration engines of the base die. -/
def migrationEngines : Nat := 4

/-- A migration job starts: one of the four engines is free, and no ready job has arrived before it (R240). -/
def State.startMigration (s : State) (r : JobRef) (op : Nat) (name : String) : Out :=
  match s.job? r with
  | none => disabled name
  | some j =>
    let mine := s.allJobs.filter fun q => q.2.card.engine = 5 && s.running q.2.part
    let busy := (mine.filter fun q => q.2.phase = .running).map fun q => q.2.home
    let free := (List.range migrationEngines).filter fun n => !busy.contains n
    let first := !mine.any fun q => q.2.phase = .ready && q.2.arrival < j.arrival
    if j.card.engine = 5 && j.card.op = op && j.phase = .ready && s.running j.part && first && !free.isEmpty then
      let (n, s) := s.pick free.length
      .next (s.setJob r { j with phase := .running, home := free.getD n 0 })
    else disabled name

/-- DEMOTE. -/
def execDemote (r : JobRef) (s : State) : Out := s.startMigration r 0 "DEMOTE"
/-- PROMOTE. -/
def execPromote (r : JobRef) (s : State) : Out := s.startMigration r 1 "PROMOTE"
/-- EXPAND. -/
def execExpand (r : JobRef) (s : State) : Out := s.startMigration r 2 "EXPAND"

end Sys2Proof.Machine
end

