-- ==== Sys2Proof/Machine/Routing.lean ====
section
/-!
DEFINITION. The routing engine of a die (11 R247-R249, 15 R315): SHPSET, RTJOB, the start of a job, one token.
-/
namespace Sys2Proof.Machine

-- Shape entries (Tables 11.7, 15.4)

/-- A shape record. -/
def shapeOf (r : List Byte) (part : Nat) : Shape where
  part := part
  base := recWord r 0
  t := recNat r 8 4
  e := recNat r 12 2
  tstride := recWord r 16
  estride := recWord r 24
  bf16 := recNat r 14 1 = 0x09

/-- Bytes of a score. -/
def Shape.size (h : Shape) : Nat := if h.bf16 then 2 else 4

/-- A shape record keeps the limits of Table 15.4. -/
def shapeOk (r : List Byte) : Bool :=
  let h := shapeOf r 0
  canonical h.base && 1 ≤ h.t && h.t ≤ 2 ^ 24 && 2 ≤ h.e && h.e ≤ 16384
    && (recNat r 14 1 = 0x0A || recNat r 14 1 = 0x09) && recNat r 15 1 = 0
    && h.tstride.toNat % h.size = 0 && h.estride.toNat % h.size = 0

/-- SHPSET (R315). -/
def execShpset (d a : XReg) (entry : Fin 64) (s : State) : Out :=
  s.run (.shpset d a entry) fun s =>
    if s.vecMemBusy then .wait s
    else (s.loadRecord (s.rx a) 32 32).res s fun r =>
      let die := s.getDie s.cl.die
      let held := match Map.get? die.shapes entry.val with | some h => decide (h.part ≠ s.partNo) | none => false
      if !shapeOk r.2 then .done (r.1.wx d (BitVec.allOnes 64))
      else if held then .done (r.1.wx d (word (2 ^ 64 - 2)))
      else .done ((r.1.setDie s.cl.die { die with
          shapes := Map.put die.shapes entry.val (shapeOf r.2 s.partNo) }).wx d 0)

-- The card

/-- The entry that a card names, if its partition holds it. -/
def State.shapeFor (s : State) (die part n : Nat) : Option Shape :=
  (Map.get? (s.getDie die).shapes n).bind fun h => if h.part = part then some h else none

/-- Check 5 of Table 11.3 for a routing job (R247). -/
def State.routingBad (s : State) (r : List Byte) (c : Card) : Option Nat :=
  let n := recNat r 112 1
  let k := recNat r 113 1
  match firstBad ([(decide (c.reads.length ≠ 1 ∨ c.writes.length ≠ 3), 4)] ++ cardFmts r c.fps.length
      ++ [(decide (63 < n), 112)]) with
  | some o => some o
  | none =>
    if k = 0 ∨ 8 < k then some 113
    else match s.shapeFor s.cl.die s.partNo n with
      | none => some 112
      | some h =>
        let len (i : Nat) := (c.writes.getD i ⟨0, 0, 0⟩).len
        firstBad [(h.e < k, 113), (len 0 < 4 * h.t * k, 40), (len 1 < 4 * h.t * k, 56), (len 2 < 4 * h.e, 72)]

/-- RTJOB (15 R307). -/
def execRtjob (d a : XReg) (la : LaCount) (s : State) : Out :=
  s.run (.rtjob d a la) fun s =>
    s.submit (.rtjob d a la) d a la 3 1 2 false fun s r c => s.routingBad r c

-- The engine

/-- The jobs that a die's routing engine receives. -/
def routingGroup (die : Nat) (r : JobRef) (j : JobSt) : Bool := j.card.engine = 3 && r.cl.die = die

/-- The first byte of a write footprint. -/
def Card.outAt (c : Card) (i : Nat) : Nat := (c.writes.getD i ⟨0, 0, 0⟩).base.toNat

/-- ROUTING_JOB: a job starts; the entry is captured, and the histogram set to zero (R247, R248). A job that continues
after a pre-emption keeps both. -/
def execRoutingJob (r : JobRef) (s : State) : Out :=
  match s.job? r with
  | none => disabled "ROUTING_JOB"
  | some j =>
    if j.card.engine ≠ 3 || !s.sharedNext (routingGroup r.cl.die) j then disabled "ROUTING_JOB"
    else if j.shape.isSome then .next (s.setJob r { j with phase := .running })
    else match s.shapeFor r.cl.die j.part (recNat j.card.params 0 1) with
      | none => .next (s.endJob r j jFootprint 0xFF)
      | some h =>
        let j := { j with phase := .running, shape := some h }
        let ws := (List.range h.e).map fun e => (⟨3, 8 * (j.card.outAt 2 + 4 * e), 32, 0, false⟩ : JWrite)
        match s.putAll r j ws with
        | (_, .hold) => disabled "ROUTING_JOB"
        | (s, .fail c e) => .next (s.endJob r j c e)
        | (s, .done) => .next (s.setJob r j)

/-- The scores of a token, from expert e on, as FP32. -/
def State.scores (s : State) (r : JobRef) (j : JobSt) (h : Shape) (t : Nat) : Nat → Nat → JRes (State × List Nat)
  | 0, _ => .ok (s, [])
  | k + 1, e =>
    let a := h.base + word t * h.tstride + word e * h.estride
    (s.getBits r j 0 (8 * a.toNat) (8 * h.size)).bind fun v =>
      (v.1.scores r j h t k (e + 1)).bind fun w => .ok (w.1, (if h.bf16 then v.2 * 2 ^ 16 else v.2) :: w.2)

/-- A score that makes its token invalid (R249). -/
def badScore (b : Nat) : Bool :=
  match specFp32.decode b with | .nan _ => true | .inf n => !n | .fin .. => false

/-- Position of the largest of a list, the first among equals. -/
def argMax (ps : List Nat) : Nat := ps.findIdx fun p => p = ps.foldl max 0

/-- The k largest of a list, in decreasing order; equal ones go to the lower index. Where the list is shorter than k, the
last places name index 0 (assumption 67). -/
def topK : Nat → List (Option Nat) → List Nat
  | 0, _ => []
  | k + 1, ps =>
    let i := argMax (ps.map fun p => match p with | some v => v + 1 | none => 0)
    i :: topK k (ps.set i none)

/-- A probability as a key of the selection: not above +0 counts as +0. -/
def pKey (b : Nat) : Nat := match specFp32.decode b with | .fin false _ _ => b | _ => 0

/-- The selection and the weights of a token with valid scores, and the flags of every step (R248). -/
def routeToken (k : Nat) (renorm : Bool) (ss : List Nat) : List Nat × List Nat × Flags :=
  let f := specFp32
  let m := ss.foldl (fun a b => (fMinMax f true a b).1) (f.sign true + f.infBits)
  let xs := ss.map fun b =>
    if f.decode b = .inf true then (0, (0 : Flags))
    else
      let d := fSub f .rne (f.decode b) (f.decode m)
      let x := specialFn .exp .rne d.1
      (x.1, d.2 ||| x.2)
  let sum := pairSum f .rne (xs.map fun x => some x.1)
  let ps := xs.map fun x => fDiv f .rne (f.decode x.1) (f.decode sum.1)
  let sel := topK k (ps.map fun p => some (pKey p.1))
  let ws := sel.map fun i => (ps.getD i (0, 0)).1
  let fl := ps.foldl (fun a p => a ||| p.2) (xs.foldl (fun a x => a ||| x.2) sum.2)
  if renorm then
    let z := pairSum f .rne (ws.map some)
    let vs := ws.map fun w => fDiv f .rne (f.decode w) (f.decode z.1)
    (sel, vs.map Prod.fst, vs.foldl (fun a v => a ||| v.2) (fl ||| z.2))
  else (sel, ws, fl)

/-- The writes of token t (R248, R249), and its flags. -/
def tokenWrites (c : Card) (t k : Nat) (ss : List Nat) : List JWrite × Flags :=
  let out (e w : Nat) (vs : List Nat) : List JWrite :=
    vs.mapIdx fun i v => ⟨e, 8 * (c.outAt w + 4 * (t * k + i)), 32, v, false⟩
  if ss.any badScore then
    (out 1 0 (List.replicate k (2 ^ 32 - 1)) ++ out 2 1 (List.replicate k specFp32.nanBits), flNV)
  else
    let q := routeToken k (bit c.eflags 0) ss
    (out 1 0 q.1 ++ out 2 1 q.2.1 ++ q.1.map fun e => ⟨3, 8 * (c.outAt 2 + 4 * e), 32, 1, true⟩, q.2.2)

/-- ROUTING_TOKEN: the next token of a running job. -/
def execRoutingToken (r : JobRef) (s : State) : Out :=
  match s.job? r with
  | none => disabled "ROUTING_TOKEN"
  | some j =>
    match j.shape with
    | none => disabled "ROUTING_TOKEN"
    | some h =>
      if j.card.engine ≠ 3 || j.phase ≠ .running || !s.running j.part then disabled "ROUTING_TOKEN"
      else
        (s.scores r j h j.progress h.e 0).out s r j "ROUTING_TOKEN" fun v =>
          let w := tokenWrites j.card j.progress (recNat j.card.params 1 1) v.2
          let j := { j with flags := j.flags ||| w.2 }
          match v.1.putAll r j w.1 with
          | (s, .fail c e) => s.endJob r j c e
          | (_, .hold) => s
          | (s, .done) =>
            let j := { j with progress := j.progress + 1, detail := j.detail + 1 }
            if j.progress < h.t then s.setJob r j else s.endJob r j jDone 0

end Sys2Proof.Machine
end

