-- ==== Sys2Proof/Machine/Dispatch.lean ====
section
/-!
DEFINITION. The meaning of every instruction and of every event of the opcode table, one arm each.
-/
namespace Sys2Proof.Machine

/-- The effect of an instruction or an event in a state. -/
def exec (i : Instr) (s : State) : Host.Outcome State Fault Refusal :=
  match i with
  | .pad32 => Sys2Proof.Machine.execPad32 s
  | .nop => Sys2Proof.Machine.execNop s
  | .rett => Sys2Proof.Machine.execRett s
  | .fence sc => Sys2Proof.Machine.execFence sc s
  | .exit a => Sys2Proof.Machine.execExit a s
  | .trap imm => Sys2Proof.Machine.execTrap imm s
  | .brk imm => Sys2Proof.Machine.execBrk imm s
  | .sysrd d num => Sys2Proof.Machine.execSysrd d num s
  | .syswr a num => Sys2Proof.Machine.execSyswr a num s
  | .clflagsWrite a => Sys2Proof.Machine.execClflagsWrite a s
  | .sleep a imm => Sys2Proof.Machine.execSleep a imm s
  | .sleepExpiry c => Sys2Proof.Machine.execSleepExpiry c s
  | .add d a b => Sys2Proof.Machine.execAdd d a b s
  | .sub d a b => Sys2Proof.Machine.execSub d a b s
  | .mul d a b => Sys2Proof.Machine.execMul d a b s
  | .mulh d a b => Sys2Proof.Machine.execMulh d a b s
  | .mulhz d a b => Sys2Proof.Machine.execMulhz d a b s
  | .div d a b => Sys2Proof.Machine.execDiv d a b s
  | .divz d a b => Sys2Proof.Machine.execDivz d a b s
  | .rem d a b => Sys2Proof.Machine.execRem d a b s
  | .remz d a b => Sys2Proof.Machine.execRemz d a b s
  | .and d a b => Sys2Proof.Machine.execAnd d a b s
  | .or d a b => Sys2Proof.Machine.execOr d a b s
  | .xor d a b => Sys2Proof.Machine.execXor d a b s
  | .andn d a b => Sys2Proof.Machine.execAndn d a b s
  | .shl d a b => Sys2Proof.Machine.execShl d a b s
  | .shr d a b => Sys2Proof.Machine.execShr d a b s
  | .sha d a b => Sys2Proof.Machine.execSha d a b s
  | .rot d a b => Sys2Proof.Machine.execRot d a b s
  | .slt d a b => Sys2Proof.Machine.execSlt d a b s
  | .sltz d a b => Sys2Proof.Machine.execSltz d a b s
  | .seq d a b => Sys2Proof.Machine.execSeq d a b s
  | .min d a b => Sys2Proof.Machine.execMin d a b s
  | .max d a b => Sys2Proof.Machine.execMax d a b s
  | .minz d a b => Sys2Proof.Machine.execMinz d a b s
  | .maxz d a b => Sys2Proof.Machine.execMaxz d a b s
  | .popc d a => Sys2Proof.Machine.execPopc d a s
  | .clz d a => Sys2Proof.Machine.execClz d a s
  | .ctz d a => Sys2Proof.Machine.execCtz d a s
  | .bfx d a pos width1 => Sys2Proof.Machine.execBfx d a pos width1 s
  | .bfi d a b pos width1 => Sys2Proof.Machine.execBfi d a b pos width1 s
  | .brev d a => Sys2Proof.Machine.execBrev d a s
  | .sel d a b c => Sys2Proof.Machine.execSel d a b c s
  | .rankx d a b c => Sys2Proof.Machine.execRankx d a b c s
  | .addi d a imm => Sys2Proof.Machine.execAddi d a imm s
  | .andi d a imm => Sys2Proof.Machine.execAndi d a imm s
  | .ori d a imm => Sys2Proof.Machine.execOri d a imm s
  | .xori d a imm => Sys2Proof.Machine.execXori d a imm s
  | .shli d a n => Sys2Proof.Machine.execShli d a n s
  | .shri d a n => Sys2Proof.Machine.execShri d a n s
  | .shai d a n => Sys2Proof.Machine.execShai d a n s
  | .li d imm => Sys2Proof.Machine.execLi d imm s
  | .addpc d imm => Sys2Proof.Machine.execAddpc d imm s
  | .li64 d imm => Sys2Proof.Machine.execLi64 d imm s
  | .mesha form d a b c off => Sys2Proof.Machine.execMesha form d a b c off s
  | .bcc cond a b off => Sys2Proof.Machine.execBcc cond a b off s
  | .bmask cond a off => Sys2Proof.Machine.execBmask cond a off s
  | .jal d imm => Sys2Proof.Machine.execJal d imm s
  | .jalr d a imm => Sys2Proof.Machine.execJalr d a imm s
  | .ld d m sz sx ord sc la => Sys2Proof.Machine.execLd d m sz sx ord sc la s
  | .st src m sz ord sc => Sys2Proof.Machine.execSt src m sz ord sc s
  | .ldc d m sz sx la => Sys2Proof.Machine.execLdc d m sz sx la s
  | .pfl m => Sys2Proof.Machine.execPfl m s
  | .longLatencyComplete c => Sys2Proof.Machine.execLongLatencyComplete c s
  | .start d a imm => Sys2Proof.Machine.execStart d a imm s
  | .startW d a imm => Sys2Proof.Machine.execStartW d a imm s
  | .joinh d a => Sys2Proof.Machine.execJoinh d a s
  | .hstat d => Sys2Proof.Machine.execHstat d s
  | .ldf d m la => Sys2Proof.Machine.execLdf d m la s
  | .ldff d m la => Sys2Proof.Machine.execLdff d m la s
  | .ste src m => Sys2Proof.Machine.execSte src m s
  | .stf src m => Sys2Proof.Machine.execStf src m s
  | .festat d m => Sys2Proof.Machine.execFestat d m s
  | .feset src m => Sys2Proof.Machine.execFeset src m s
  | .barinitInit d a b => Sys2Proof.Machine.execBarinitInit d a b s
  | .barinitBind d a => Sys2Proof.Machine.execBarinitBind d a s
  | .bararr d a => Sys2Proof.Machine.execBararr d a s
  | .barexp a b => Sys2Proof.Machine.execBarexp a b s
  | .barwait d a => Sys2Proof.Machine.execBarwait d a s
  | .waitany d a => Sys2Proof.Machine.execWaitany d a s
  | .bartest d a => Sys2Proof.Machine.execBartest d a s
  | .msend a b c => Sys2Proof.Machine.execMsend a b c s
  | .sendBufferRetry k n => Sys2Proof.Machine.execSendBufferRetry k n s
  | .mailboxDelivery k n => Sys2Proof.Machine.execMailboxDelivery k n s
  | .mrecv d a la => Sys2Proof.Machine.execMrecv d a la s
  | .msends a b c => Sys2Proof.Machine.execMsends a b c s
  | .streamChunkArrival k => Sys2Proof.Machine.execStreamChunkArrival k s
  | .endOfStream k => Sys2Proof.Machine.execEndOfStream k s
  | .mbind d b a hi imm => Sys2Proof.Machine.execMbind d b a hi imm s
  | .munbind a => Sys2Proof.Machine.execMunbind a s
  | .cvopen d a => Sys2Proof.Machine.execCvopen d a s
  | .cvjoin d a b hi => Sys2Proof.Machine.execCvjoin d a b hi s
  | .cvsend d c a b => Sys2Proof.Machine.execCvsend d c a b s
  | .cvchoose d c a b => Sys2Proof.Machine.execCvchoose d c a b s
  | .convHeldDelivery conv n => Sys2Proof.Machine.execConvHeldDelivery conv n s
  | .cvdeleg a b => Sys2Proof.Machine.execCvdeleg a b s
  | .cvleave a => Sys2Proof.Machine.execCvleave a s
  | .cvstat d a => Sys2Proof.Machine.execCvstat d a s
  | .fadd t rnd d a b => Sys2Proof.Machine.execFadd t rnd d a b s
  | .fsub t rnd d a b => Sys2Proof.Machine.execFsub t rnd d a b s
  | .fmul t rnd d a b => Sys2Proof.Machine.execFmul t rnd d a b s
  | .ffma t rnd d a b c => Sys2Proof.Machine.execFfma t rnd d a b c s
  | .fdiv t rnd d a b => Sys2Proof.Machine.execFdiv t rnd d a b s
  | .fsqrt t rnd d a => Sys2Proof.Machine.execFsqrt t rnd d a s
  | .fmin t d a b => Sys2Proof.Machine.execFmin t d a b s
  | .fmax t d a b => Sys2Proof.Machine.execFmax t d a b s
  | .fcmp cond t d a b => Sys2Proof.Machine.execFcmp cond t d a b s
  | .fcvt o rnd => Sys2Proof.Machine.execFcvt o rnd s
  | .fclass t d a => Sys2Proof.Machine.execFclass t d a s
  | .fsgn op t d a b => Sys2Proof.Machine.execFsgn op t d a b s
  | .fmvx d a => Sys2Proof.Machine.execFmvx d a s
  | .fmvf d a => Sys2Proof.Machine.execFmvf d a s
  | .vadd t sat rnd d a b m => Sys2Proof.Machine.execVadd t sat rnd d a b m s
  | .vsub t sat rnd d a b m => Sys2Proof.Machine.execVsub t sat rnd d a b m s
  | .vmul t sat rnd d a b m => Sys2Proof.Machine.execVmul t sat rnd d a b m s
  | .vfma t rnd d a b c m => Sys2Proof.Machine.execVfma t rnd d a b c m s
  | .vmin t d a b m => Sys2Proof.Machine.execVmin t d a b m s
  | .vmax t d a b m => Sys2Proof.Machine.execVmax t d a b m s
  | .vcmp cond t d a b m => Sys2Proof.Machine.execVcmp cond t d a b m s
  | .vsel t d a b m => Sys2Proof.Machine.execVsel t d a b m s
  | .vand t d a b m => Sys2Proof.Machine.execVand t d a b m s
  | .vor t d a b m => Sys2Proof.Machine.execVor t d a b m s
  | .vxor t d a b m => Sys2Proof.Machine.execVxor t d a b m s
  | .vshl t d a sem m => Sys2Proof.Machine.execVshl t d a sem m s
  | .vshr t d a sem m => Sys2Proof.Machine.execVshr t d a sem m s
  | .vcvt dst src half rnd d a m => Sys2Proof.Machine.execVcvt dst src half rnd d a m s
  | .vqnt t rnd d a c m => Sys2Proof.Machine.execVqnt t rnd d a c m s
  | .vdq t rnd d a c m => Sys2Proof.Machine.execVdq t rnd d a c m s
  | .vred op t rnd d a m => Sys2Proof.Machine.execVred op t rnd d a m s
  | .vscan excl t rnd d a m => Sys2Proof.Machine.execVscan excl t rnd d a m s
  | .vsf fn rnd d a m => Sys2Proof.Machine.execVsf fn rnd d a m s
  | .vperm t d a b m => Sys2Proof.Machine.execVperm t d a b m s
  | .vbcast t src d m => Sys2Proof.Machine.execVbcast t src d m s
  | .vins t d a n => Sys2Proof.Machine.execVins t d a n s
  | .vext t d a n => Sys2Proof.Machine.execVext t d a n s
  | .vld t rnd d a off m la => Sys2Proof.Machine.execVld t rnd d a off m la s
  | .vst t rnd src a off m => Sys2Proof.Machine.execVst t rnd src a off m s
  | .vlds t rnd d a b off m la => Sys2Proof.Machine.execVlds t rnd d a b off m la s
  | .vsts t rnd src a b off m => Sys2Proof.Machine.execVsts t rnd src a b off m s
  | .vgath t rnd d a b scale off m la => Sys2Proof.Machine.execVgath t rnd d a b scale off m la s
  | .vscat t rnd src a b scale off m => Sys2Proof.Machine.execVscat t rnd src a b scale off m s
  | .vectorCommandComplete c => Sys2Proof.Machine.execVectorCommandComplete c s
  | .vfence => Sys2Proof.Machine.execVfence s
  | .vstat d => Sys2Proof.Machine.execVstat d s
  | .scfgMem t d a b => Sys2Proof.Machine.execScfgMem t d a b s
  | .scfgMsg t d b => Sys2Proof.Machine.execScfgMsg t d b s
  | .memoryStreamRead c j => Sys2Proof.Machine.execMemoryStreamRead c j s
  | .srep d n mask => Sys2Proof.Machine.execSrep d n mask s
  | .sstop d => Sys2Proof.Machine.execSstop d s
  | .amo op d b a wide sx ord sc off la => Sys2Proof.Machine.execAmo op d b a wide sx ord sc off la s
  | .cas d b a wide sx ord sc off la => Sys2Proof.Machine.execCas d b a wide sx ord sc off la s
  | .red op b a wide ord sc off => Sys2Proof.Machine.execRed op b a wide ord sc off s
  | .redx src a ord sc off => Sys2Proof.Machine.execRedx src a ord sc off s
  | .cvtexa rnd d a => Sys2Proof.Machine.execCvtexa rnd d a s
  | .bankcfg mode d a => Sys2Proof.Machine.execBankcfg mode d a s
  | .bankZeroingDone cl bank => Sys2Proof.Machine.execBankZeroingDone cl bank s
  | .cinv m => Sys2Proof.Machine.execCinv m s
  | .cinvAll => Sys2Proof.Machine.execCinvAll s
  | .disc m => Sys2Proof.Machine.execDisc m s
  | .cacheFill cl bank => Sys2Proof.Machine.execCacheFill cl bank s
  | .pageWalk part va => Sys2Proof.Machine.execPageWalk part va s
  | .cpjob d a la => Sys2Proof.Machine.execCpjob d a la s
  | .mxjob d a la => Sys2Proof.Machine.execMxjob d a la s
  | .rtjob d a la => Sys2Proof.Machine.execRtjob d a la s
  | .drjob d a la => Sys2Proof.Machine.execDrjob d a la s
  | .mgjob d a la => Sys2Proof.Machine.execMgjob d a la s
  | .jwait d a => Sys2Proof.Machine.execJwait d a s
  | .jpoll d a => Sys2Proof.Machine.execJpoll d a s
  | .jcancel d a => Sys2Proof.Machine.execJcancel d a s
  | .copy j => Sys2Proof.Machine.execCopy j s
  | .gather j => Sys2Proof.Machine.execGather j s
  | .scatter j => Sys2Proof.Machine.execScatter j s
  | .fill j => Sys2Proof.Machine.execFill j s
  | .copyChunkDelivery j => Sys2Proof.Machine.execCopyChunkDelivery j s
  | .routingJob j => Sys2Proof.Machine.execRoutingJob j s
  | .routingToken j => Sys2Proof.Machine.execRoutingToken j s
  | .rcopy j => Sys2Proof.Machine.execRcopy j s
  | .rfill0 j => Sys2Proof.Machine.execRfill0 j s
  | .rfill1 j => Sys2Proof.Machine.execRfill1 j s
  | .rnot j => Sys2Proof.Machine.execRnot j s
  | .rand j => Sys2Proof.Machine.execRand j s
  | .ror j => Sys2Proof.Machine.execRor j s
  | .rxor j => Sys2Proof.Machine.execRxor j s
  | .rmaj j => Sys2Proof.Machine.execRmaj j s
  | .dramRow j => Sys2Proof.Machine.execDramRow j s
  | .demote j => Sys2Proof.Machine.execDemote j s
  | .promote j => Sys2Proof.Machine.execPromote j s
  | .expand j => Sys2Proof.Machine.execExpand j s
  | .migrationPage j slots => Sys2Proof.Machine.execMigrationPage j slots s
  | .jobComplete j => Sys2Proof.Machine.execJobComplete j s
  | .shpset d a entry => Sys2Proof.Machine.execShpset d a entry s
  | .jtake d => Sys2Proof.Machine.execJtake d s
  | .jdone a => Sys2Proof.Machine.execJdone a s
  | .mlda h a b row0 rows klen la => Sys2Proof.Machine.execMlda h a b row0 rows klen la s
  | .mldb k a b klen nlen la => Sys2Proof.Machine.execMldb k a b klen nlen la s
  | .mzero d m1 => Sys2Proof.Machine.execMzero d m1 s
  | .mma d h k m1 la => Sys2Proof.Machine.execMma d h k m1 la s
  | .msta d a b m1 n => Sys2Proof.Machine.execMsta d a b m1 n s
  | .semv sem => Sys2Proof.Machine.execSemv sem s
  | .semp sem => Sys2Proof.Machine.execSemp sem s
  | .mprogRd d => Sys2Proof.Machine.execMprogRd d s
  | .mprogWr a => Sys2Proof.Machine.execMprogWr a s
  | .ctrset a b => Sys2Proof.Machine.execCtrset a b s
  | .ctradd d a b => Sys2Proof.Machine.execCtradd d a b s
  | .ctrwait d a b => Sys2Proof.Machine.execCtrwait d a b s
  | .qppost d a b => Sys2Proof.Machine.execQppost d a b s
  | .qpcancel d a b => Sys2Proof.Machine.execQpcancel d a b s
  | .xreg d a => Sys2Proof.Machine.execXreg d a s
  | .xpol d a b => Sys2Proof.Machine.execXpol d a b s
  | .xresv d a b c => Sys2Proof.Machine.execXresv d a b c s
  | .xrel d a => Sys2Proof.Machine.execXrel d a s
  | .xsend d a b c len => Sys2Proof.Machine.execXsend d a b c len s
  | .xsendr d a b c len => Sys2Proof.Machine.execXsendr d a b c len s
  | .xbatchFwd d a b c => Sys2Proof.Machine.execXbatchFwd d a b c s
  | .xbatchBwd d a b c => Sys2Proof.Machine.execXbatchBwd d a b c s
  | .xbatchReload d a => Sys2Proof.Machine.execXbatchReload d a s
  | .weightReloadDone name r => Sys2Proof.Machine.execWeightReloadDone name r s
  | .xseal d a => Sys2Proof.Machine.execXseal d a s
  | .xjoin d a b => Sys2Proof.Machine.execXjoin d a b s
  | .xstep d a => Sys2Proof.Machine.execXstep d a s
  | .xstat sel d a b => Sys2Proof.Machine.execXstat sel d a b s
  | .xspawn d a b => Sys2Proof.Machine.execXspawn d a b s
  | .xretire d a b => Sys2Proof.Machine.execXretire d a b s
  | .replicaPublish name r => Sys2Proof.Machine.execReplicaPublish name r s
  | .snapshotArrival die name => Sys2Proof.Machine.execSnapshotArrival die name s
  | .remoteExpertOp op => Sys2Proof.Machine.execRemoteExpertOp op s
  | .pnrule d a b => Sys2Proof.Machine.execPnrule d a b s
  | .pnsend a b c count => Sys2Proof.Machine.execPnsend a b c count s
  | .pnstep d a b c => Sys2Proof.Machine.execPnstep d a b c s
  | .pnstat sel d a => Sys2Proof.Machine.execPnstat sel d a s
  | .pnRuleChunk node fuel => Sys2Proof.Machine.execPnRuleChunk node fuel s
  | .pnBlockDone node block => Sys2Proof.Machine.execPnBlockDone node block s
  | .preq d a => Sys2Proof.Machine.execPreq d a s
  | .preqCtr d a b => Sys2Proof.Machine.execPreqCtr d a b s
  | .resume d a => Sys2Proof.Machine.execResume d a s
  | .resumeCtr d a b => Sys2Proof.Machine.execResumeCtr d a b s
  | .faultDetected p unit loc addr => Sys2Proof.Machine.execFaultDetected p unit loc addr s
  | .faultMasked p unit loc addr => Sys2Proof.Machine.execFaultMasked p unit loc addr s
  | .sharedUnitFault parts unit loc addr => Sys2Proof.Machine.execSharedUnitFault parts unit loc addr s
  | .portLinkChange port up => Sys2Proof.Machine.execPortLinkChange port up s
  | .completionNodeForward launch path => Sys2Proof.Machine.execCompletionNodeForward launch path s
  | .rmaWrite host addr bytes => Sys2Proof.Machine.execRmaWrite host addr bytes s
  | .rmaRead host addr len => Sys2Proof.Machine.execRmaRead host addr len s
  | .rmaAtomic host addr op wide v => Sys2Proof.Machine.execRmaAtomic host addr op wide v s
  | .claim req => Sys2Proof.Machine.execClaim req s
  | .handover req => Sys2Proof.Machine.execHandover req s
  | .heartbeat req => Sys2Proof.Machine.execHeartbeat req s
  | .attestationRequest challenge => Sys2Proof.Machine.execAttestationRequest challenge s
  | .workQueueTail => Sys2Proof.Machine.execWorkQueueTail s
  | .launch => Sys2Proof.Machine.execLaunch s
  | .copyEntry => Sys2Proof.Machine.execCopyEntry s
  | .weave => Sys2Proof.Machine.execWeave s
  | .xregEntry => Sys2Proof.Machine.execXregEntry s
  | .preempt => Sys2Proof.Machine.execPreempt s
  | .resumeEntry => Sys2Proof.Machine.execResumeEntry s
  | .reset => Sys2Proof.Machine.execReset s
  | .partcfg => Sys2Proof.Machine.execPartcfg s
  | .peers => Sys2Proof.Machine.execPeers s
  | .names => Sys2Proof.Machine.execNames s
  | .completionRecordPost => Sys2Proof.Machine.execCompletionRecordPost s
  | .haltComplete => Sys2Proof.Machine.execHaltComplete s
  | .saveComplete => Sys2Proof.Machine.execSaveComplete s
  | .restoreComplete => Sys2Proof.Machine.execRestoreComplete s
  | .dumpComplete => Sys2Proof.Machine.execDumpComplete s
  | .thermalAlarm => Sys2Proof.Machine.execThermalAlarm s
  | .thermalShutdown => Sys2Proof.Machine.execThermalShutdown s
  | .freeCountReport => Sys2Proof.Machine.execFreeCountReport s
  | .homeCoreSchedule => Sys2Proof.Machine.execHomeCoreSchedule s
  | .dueRefresh => Sys2Proof.Machine.execDueRefresh s
  | .patrolScrub => Sys2Proof.Machine.execPatrolScrub s
  | .pnContribution => Sys2Proof.Machine.execPnContribution s
  | .pnCommit => Sys2Proof.Machine.execPnCommit s
  | .pnStepDeadline => Sys2Proof.Machine.execPnStepDeadline s
  | .qpSourceReadsDone => Sys2Proof.Machine.execQpSourceReadsDone s
  | .write => Sys2Proof.Machine.execWrite s
  | .writeReduce => Sys2Proof.Machine.execWriteReduce s
  | .tokenDelivery => Sys2Proof.Machine.execTokenDelivery s
  | .windowBoundary => Sys2Proof.Machine.execWindowBoundary s
  | .deadlineExpiry => Sys2Proof.Machine.execDeadlineExpiry s
  | .clflagsUpdate => Sys2Proof.Machine.execClflagsUpdate s
  | .mstaStoresPerformed => Sys2Proof.Machine.execMstaStoresPerformed s
  | .matrixJobStart => Sys2Proof.Machine.execMatrixJobStart s
  | .dieLinkFailure => Sys2Proof.Machine.execDieLinkFailure s
  | .managementCoreFault => Sys2Proof.Machine.execManagementCoreFault s
  | .unreliablePacketDrop => Sys2Proof.Machine.execUnreliablePacketDrop s
  | .moduleReset => Sys2Proof.Machine.execModuleReset s
  | .leaseLapse => Sys2Proof.Machine.execLeaseLapse s

end Sys2Proof.Machine
end

