-- ==== Sys2Proof/Machine/Schedule.lean ====
section
/-!
DEFINITION. Who acts: the context that a core issues (06 R153, R154), the events that the module's agents may perform in
a state, and the choice among them. The spec's machine is parallel; here one agent acts per step (assumption 3).
-/
namespace Sys2Proof.Machine

-- Cores (R153, R154)

/-- A context may issue: it is not at its halt, and does not sleep (4 R99). -/
def State.mayIssue (s : State) (c : CtxId) : Bool := s.goesOn c && (s.getCtx c).wake.isNone

/-- Try the instruction of a context: fetch it, decode it and perform it. One that has performed a part goes on with the
rest, and one that has a request outstanding waits for it: neither is fetched again (18 R335). At the head of a loop, the
loop's next iteration begins first, or waits (5 R146). -/
def State.attempt (s : State) (c : CtxId) : Out :=
  let s := s.switchTo c
  let s : State := { s with ctx := { s.ctx with waiting := false } }
  match s.ctx.doing.or s.ctx.asked with
  | some i => exec i s
  | none =>
  match s.loopTurn with
  | (s, .error t) => .next (s.enterTrap t)
  | (s, .ok false) => .next { s with ctx := { s.ctx with waiting := true } }
  | (s, .ok true) =>
    match s.fetch with
    | (s, .instr i) => exec i s
    | (s, .trap t) => .next (s.enterTrap t)

/-- The instruction that was tried waits, and has not issued: a SLEEP waits after its issue (4 R99). -/
def State.instrWaits (s : State) (c : CtxId) : Bool :=
  decide (s.cur = c) && s.ctx.waiting && s.ctx.lastIssue ≠ some s.cycle

/-- An instruction that had issued before has performed a further part, or its last: that is no issue (R154). -/
def State.goneOn (s t : State) (c : CtxId) : Bool :=
  (s.getCtx c).doing.isSome && (t.getCtx c).lastIssue = (s.getCtx c).lastIssue

/-- Insert a context index where its turn is (R154). -/
def State.insertTurn (s : State) (k : CoreId) (n : Nat) : List Nat → List Nat
  | [] => [n]
  | m :: ms => if s.issuedBefore k n m then n :: m :: ms else m :: s.insertTurn k n ms

/-- The contexts of a core that may issue, the one whose latest issue is oldest first. -/
def State.turns (s : State) (k : CoreId) : List Nat :=
  ((List.range (ctxCount k)).filter fun n => s.mayIssue ⟨k, n⟩).foldr (s.insertTurn k) []

/-- The contexts in turn until one issues: the outcome, and whether one did. What a waiting instruction has done (its
request at a bank, its place in a queue) stays. -/
def tryTurns (k : CoreId) : List Nat → State → Out × Bool
  | [], s => (.next s, false)
  | n :: ns, s =>
    match s.attempt ⟨k, n⟩ with
    | .next t => if t.instrWaits ⟨k, n⟩ || s.goneOn t ⟨k, n⟩ then tryTurns k ns t else (.next t, true)
    | o => (o, true)

/-- A core has issued in this cycle. -/
def State.issuedNow (s : State) (k : CoreId) : Bool := (s.getCore k).lastIssue = some s.cycle

/-- A core issues in this cycle. -/
def State.markIssue (s : State) (k : CoreId) : State := s.setCore k { s.getCore k with lastIssue := some s.cycle }

/-- A core's part in this cycle: at most one instruction issues. -/
def State.coreTurn (s : State) (k : CoreId) : Out × Bool :=
  if s.issuedNow k then (.next s, false)
  else match tryTurns k (s.turns k) s with
    | (.next t, true) => (.next (t.markIssue k), true)
    | o => o

-- Events

/-- An event of the opcode table: it has no encoding. -/
def isEvent (i : Instr) : Bool := encode i = 0

/-- Events of the contexts that the machine holds. -/
def State.ctxEvents (s : State) : List (Instr × Nat) :=
  (s.knownCtxs.map fun (c : CtxId) =>
    let k := s.getCtx c
    (if s.queued c = [] then [] else [(Instr.vectorCommandComplete c, 0)])
      ++ (if k.windows = [] then [] else [(Instr.longLatencyComplete c, 0)])
      ++ ((List.finRange 8).filter fun j => (k.streams.get j).isSome).map fun j =>
          (Instr.memoryStreamRead c j, 0)).flatten

/-- Events of the cores: send buffers and arriving streams. -/
def State.coreEvents (s : State) : List (Instr × Nat) :=
  (s.cores.map fun (k : CoreId × CoreSt) =>
    ((List.range k.2.sendBuf.length).map fun n =>
        [(Instr.mailboxDelivery k.1 n, 0), (Instr.sendBufferRetry k.1 n, 0)]).flatten
      ++ (if k.2.inbox = [] then [] else [(Instr.streamChunkArrival k.1, 0), (Instr.endOfStream k.1, 0)])).flatten

/-- Events of a job. -/
def jobEvents (r : JobRef) (j : JobSt) : List Instr :=
  .jobComplete r ::
    match j.card.engine with
    | 1 => [.copyChunkDelivery r, .copy r, .gather r, .scatter r, .fill r]
    | 3 => [.routingToken r, .routingJob r]
    | 4 => [.dramRow r, .rcopy r, .rfill0 r, .rfill1 r, .rnot r, .rand r, .ror r, .rxor r, .rmaj r]
    | 5 => [.migrationPage r 0, .demote r, .promote r, .expand r]
    | _ => []

/-- Events of the clusters: banks, caches, jobs, the matrix engine, the flags. A line may be filled into any bank. -/
def State.clusterEvents (s : State) : List (Instr × Nat) :=
  (s.clusters.map fun (k : ClusterId × Cluster) =>
    let u := clLinear s.pkg.grade k.1
    (k.2.changing.map fun b => (Instr.bankZeroingDone k.1 b.bank, 0))
      ++ (if k.2.fills = [] then [] else [(Instr.cacheFill k.1 (Fin.ofNat 16 s.cycle), 0)])
      ++ (k.2.jobs.map fun j => (jobEvents ⟨k.1, j.1⟩ j.2).map fun i => (i, 0)).flatten
      ++ [(Instr.matrixJobStart, u), (Instr.mstaStoresPerformed, u), (Instr.clflagsUpdate, u)]).flatten

/-- Events of the partitions. -/
def State.partEvents (s : State) : List (Instr × Nat) :=
  (s.parts.keys.map fun p =>
    [(Instr.haltComplete, p), (Instr.saveComplete, p), (Instr.restoreComplete, p), (Instr.dumpComplete, p)]).flatten

/-- The numbers of the work queues: queue 0, and those that partitions hold. -/
def State.queueNos (s : State) : List Nat :=
  0 :: (s.parts.map fun (p : Nat × Part) => (List.range p.2.cfg.nwq).map fun n => p.2.cfg.wq0 + n).flatten

/-- Events of the work queues, and of the launches. -/
def State.queueEvents (s : State) : List (Instr × Nat) :=
  (s.queueNos.map fun q =>
    [(Instr.completionRecordPost, q), (Instr.launch, q), (Instr.copyEntry, q), (Instr.weave, q), (Instr.xregEntry, q),
      (Instr.preempt, q), (Instr.resumeEntry, q), (Instr.reset, q), (Instr.partcfg, q), (Instr.peers, q),
      (Instr.names, q), (Instr.workQueueTail, q)]).flatten
    ++ (s.launches.map fun (l : Nat × Launch) =>
      l.2.tree.map fun t => (Instr.completionNodeForward l.1 t.path, 0)).flatten
    ++ ((List.range 8).filter fun d =>
      s.pkg.busy.any fun c => decide (c.core.cl.die = d) && !(s.getCtx c).live && !s.creatingCtx c).map fun d =>
        (Instr.freeCountReport, d)

/-- Steps of a rule between two of its lookahead bounds: the length of a PN_RULE_CHUNK that the machine itself takes. -/
def ruleFuel : Nat := 64

/-- Events of the base die: queue pairs, conversations, experts, nodes, home cores. -/
def State.baseEvents (s : State) : List (Instr × Nat) :=
  ((List.range s.pkg.fired.length).map fun n => (Instr.qpSourceReadsDone, n))
    ++ ((List.range (s.pkg.fired.length + s.pkg.incoming.length)).map fun n =>
      [(Instr.write, n), (Instr.writeReduce, n)]).flatten
    ++ (s.pkg.convs.map fun (c : Nat × Conv) =>
      (List.range c.2.held.length).map fun n => (Instr.convHeldDelivery c.1 n, 0)).flatten
    ++ ((List.range (s.pkg.deliveries.length + s.pkg.incoming.length)).map fun n => (Instr.tokenDelivery, n))
    ++ (s.pkg.experts.map fun (e : Nat × Expert) =>
      ((List.finRange 16).map fun r => [(Instr.replicaPublish e.1 r, 0), (Instr.weightReloadDone e.1 r, 0)]).flatten).flatten
    ++ (s.pkg.inFlight.map fun x => (Instr.snapshotArrival x.die x.name, 0))
    ++ ((List.finRange 8).map fun n =>
      [(Instr.pnContribution, n.val), (Instr.pnRuleChunk n ruleFuel, 0), (Instr.pnCommit, n.val),
        (Instr.pnStepDeadline, n.val)]
      ++ ((s.node n.val).order.take 1).map fun b => (Instr.pnBlockDone n b, 0)).flatten
    ++ (s.mem.walks.map fun w => (Instr.pageWalk w.part (word w.va), 0))
    ++ (s.pkg.homes.map fun (h : Nat × HomeCore) => (Instr.homeCoreSchedule, h.1))

/-- The events that the module's own agents may be able to perform, with their units. What comes from outside (hosts,
links, faults, heat) is not among them. -/
def State.ownEvents (s : State) : List (Instr × Nat) :=
  s.ctxEvents ++ s.coreEvents ++ s.clusterEvents ++ s.partEvents ++ s.queueEvents ++ s.baseEvents

/-- Perform an event. -/
def State.event (s : State) (i : Instr) (unit : Nat) : Out :=
  if isEvent i then exec i { s with unit := unit } else disabled "AN INSTRUCTION OF A CONTEXT"

/-- The first event of a list that its agent can perform: its outcome. -/
def State.firstEvent (s : State) : List (Instr × Nat) → Option (Out × Act)
  | [] => none
  | e :: es =>
    match s.event e.1 e.2 with
    | .refused _ => s.firstEvent es
    | o => some (o, .event e.1 e.2)

/-- A list begun at another element, so that each has its turn. -/
def rotate {α : Type} (l : List α) (n : Nat) : List α := l.drop (n % l.length) ++ l.take (n % l.length)

/-- The first core of a list that issues: the outcome; else the state after what was tried. -/
def firstCore : List CoreId → State → Out × Bool
  | [], s => (.next s, false)
  | k :: ks, s =>
    match s.coreTurn k with
    | (.next t, false) => firstCore ks t
    | o => o

/-- The cores that hold a context that may issue. -/
def State.liveCores (s : State) : List CoreId :=
  ((s.knownCtxs.filter s.mayIssue).map CtxId.core).eraseDups

-- Requests to the home cores

/-- An event of the deadline-class agents that are not engines of jobs (08 R204). -/
def deadlineEvent : Instr → Bool
  | .qpSourceReadsDone | .write | .writeReduce | .saveComplete | .restoreComplete | .dumpComplete
  | .pnRuleChunk .. | .pnBlockDone .. | .pnCommit | .pnContribution | .replicaPublish .. | .weightReloadDone .. => true
  | _ => false

/-- An action of the deadline-class agents that are not engines of jobs. -/
def Act.deadline : Act → Bool
  | .event i _ => deadlineEvent i
  | .core _ | .peer _ => false

/-- After an action, what the home slices ask of memory below reaches the home cores (08 R202-R204), and L2 and the TLBs
keep to their sizes (08 R201, R210). -/
def requestsAfter (a : Act) (s : State) : State := ((s.drainBelow a.deadline).trimL2.drainBelow false).trimTlbs

/-- An action's outcome with its requests. -/
def afterAct (a : Act) : Out → Out
  | .next s => .next (requestsAfter a s)
  | .fault r => .fault r
  | .refused r => .refused r

-- Peers (20 R369-R371)

/-- A contribution of a peer arrives at the sequencer of a node, where the poster's partition owns it here. -/
def State.peerContribution (s : State) (node part : Nat) (c : Contribution) : State :=
  if s.ownsNode part node then s.contribute node c else s

/-- The join mask of a peer's step arrives at a node. -/
def State.peerMask (s : State) (node part first count : Nat) (m : BitVec 16) : State :=
  if s.ownsNode part node then s.setNode node ((s.node node).setMasks first count m) else s

/-- What a peer has sent arrives: bytes of a queue-pair entry, and a late token, are taken up by their own events. The
answer to an operation of this module is what the operation has returned (assumption 29). -/
def State.fromPeer (s : State) : PeerMsg → Out
  | .expertOp op => s.event (.remoteExpertOp op) 0
  | .contribution _ node part c => .next (s.peerContribution node part c)
  | .joinMask _ node part first count m => .next (s.peerMask node part first count m)
  | .answer .. => .next s
  | m => .next { s with pkg := { s.pkg with incoming := s.pkg.incoming ++ [m] } }

-- Turns

/-- Perform a turn of the agenda. -/
def State.act (s : State) (a : Act) : Out :=
  afterAct a (match a with
    | .core k => (s.coreTurn k).1
    | .event i u => s.event i u
    | .peer m => if s.inReset then disabled "A PEER'S MESSAGE" else s.fromPeer m)

/-- The machine's own choice when the agenda is empty: events and cores come first in turn, and each of them. -/
def State.ownTurn (s : State) : Out :=
  let es := s.firstEvent (rotate s.ownEvents (s.cycle / 2))
  let k := firstCore (rotate s.liveCores (s.cycle / 2)) s
  let idle := afterAct (.core s.cur.core) k.1
  match es with
  | none => idle
  | some e => if s.cycle % 2 = 1 && k.2 then idle else afterAct e.2 e.1

-- Time

/-- The events that the time which has passed brings about, and that no action comes before: a leaf whose DEADLINE is zero
(R165), a window of the Orrery that ends (R282), an armed step whose deadline passes (R293), a lease that lapses (R368),
the end of a SLEEP (R99). -/
def State.dueEvents (s : State) : List (Instr × Nat) :=
  ((s.leaves.filter fun l => l.2.deadline = 0).map fun l => (Instr.deadlineExpiry, l.1))
    ++ (if s.pkg.owner.lease = some 0 then [(Instr.leaseLapse, 0)] else [])
    ++ ((s.pkg.experts.filter fun e => e.2.windowLeft = some 0).map fun e => (Instr.windowBoundary, e.1))
    ++ (((List.range 8).filter fun n => (s.node n).armed && (s.node n).left = some 0 && !(s.node n).met).map fun n =>
      (Instr.pnStepDeadline, n))
    ++ ((s.knownCtxs.filter fun c => match (s.getCtx c).wake with | some w => w ≤ s.cycle | none => false).map fun c =>
      (Instr.sleepExpiry c, 0))

/-- The cycles after which each such event comes, where the partition's cycles count. -/
def State.waits (s : State) : List Nat :=
  ((s.leaves.filter fun l => s.counts l.2.part).map fun l => l.2.deadline.toNat)
    ++ s.pkg.owner.lease.toList
    ++ (s.pkg.experts.filter fun e => s.counts e.2.part).filterMap (fun e => e.2.windowLeft)
    ++ ((List.range 8).map s.node).filterMap (fun d =>
      if d.armed && !d.met && (match d.part with | some p => s.countsSteps p | none => false) then d.left else none)
    ++ s.knownCtxs.filterMap fun c => (s.getCtx c).wake.map (· - s.cycle)

/-- Of n cycles, those that pass before the next such event. -/
def State.passing (s : State) (n : Nat) : Nat := (s.waits.filter (· ≠ 0)).foldl min n

/-- Time passes, and a turn is taken; what the time brings about comes first, and the turn waits for the rest of its
cycles. -/
def State.nextTurn (s : State) : Out :=
  match s.firstEvent s.dueEvents with
  | some e => afterAct e.2 e.1
  | none =>
    match s.agenda with
    | [] =>
      let t := s.elapse 1
      match t.firstEvent t.dueEvents with
      | some e => afterAct e.2 e.1
      | none => t.ownTurn
    | u :: us =>
      let n := s.passing u.cycles
      let t := ({ s with agenda := ⟨u.cycles - n, u.act⟩ :: us } : State).elapse n
      match t.firstEvent t.dueEvents with
      | some e => afterAct e.2 e.1
      | none => if n = u.cycles then ({ t with agenda := us } : State).act u.act else .next t

end Sys2Proof.Machine
end

