-- ==== Sys2Proof/Machine/Bench.lean ====
section
/-!
DEFINITION. A partition with one cluster, one page and one running context, put around an instruction: what a launch by
a host brings about (06 R162, 20 R364). `State.withFetchWord` uses it (assumption 8).
-/
namespace Sys2Proof.Machine

/-- Where the bench's page table lies, and the physical address of its instruction. -/
def benchRoot : Nat := 0x10000
def benchPc : Nat := 0x1000

/-- The bench's cluster. -/
def benchCluster : ClusterId := ⟨0, 0, 0⟩

/-- The configuration of the bench's partition: one cluster and a page table; nothing else is its own. -/
def benchCfg : PartCfg where
  ptroot := benchRoot
  trapvec := 0
  save := 0
  dump := 0
  flog := 0
  npool := (0, 0)
  cpool := (0, 0)
  ctrs := (0, 0)
  qps := (0, 0)
  wq0 := 0
  nwq := 0
  cfgq := 0
  nodes := 0
  ctrlset := 0
  convs := 0
  xnames := 0
  queues := []
  clusters := [benchCluster]
  enumcopy := 0
  enumva := 0

/-- The bench's partition. -/
def benchPart : Part where
  cfg := benchCfg
  state := .running
  stepno := 0
  discarded := false
  preqCtr := none
  resumeCtr := none
  logSeq := 0
  haltCycle := 0
  dumpRec := none
  saveTag := 0
  waiting := []
  frames := []
  slots := []
  packed := []

/-- The core on which the bench runs an instruction: the kind of core that decodes it. -/
def benchCore (bs : List Byte) : CoreId :=
  match decodeBytes .compute benchPc bs, decodeBytes .stager benchPc bs, decodeBytes .issuer benchPc bs with
  | .ok _, _, _ => ⟨benchCluster, 0⟩
  | _, .ok _, _ => ⟨benchCluster, 8⟩
  | _, _, .ok _ => ⟨benchCluster, 9⟩
  | _, _, _ => ⟨benchCluster, 0⟩

/-- Page tables that map the first GiB of virtual addresses to the first of the near tier, readable, writable and
executable at every level (08 Table 8.4, Table 8.5). -/
def benchTables (m : List Host.Cell) : List Host.Cell :=
  cellsWrite (cellsWrite (cellsWrite m benchRoot (leBytes 8 0x11001)) 0x11000 (leBytes 8 0x12001)) 0x12000
    (leBytes 8 0x1F)

/-- No event is due: what time has brought about and has not been performed is put aside, so that the next step takes the
agenda's turn. -/
def State.noneDue (s : State) : State :=
  let s := s.mapCtxs fun _ c => { c with wake := none }
  let owner := s.pkg.owner
  { s with
    leaves := s.leaves.filter fun l => l.2.deadline ≠ 0
    pkg := { s.pkg with
      owner := if owner.lease = some 0 then { owner with lease := none } else owner
      experts := s.pkg.experts.map fun e =>
        (e.1, if e.2.windowLeft = some 0 then { e.2 with windowLeft := none } else e.2)
      nodes := s.pkg.nodes.map fun d => if d.left = some 0 then { d with left := none } else d } }

/-- Put an instruction's bytes where a context of a one-cluster partition fetches next, and let its core act. -/
def State.placeInstr (s : State) (bs : List Byte) : State :=
  let k := benchCore bs
  let s := s.setPart 0 benchPart
  let s := s.setCl benchCluster { s.getCl benchCluster with part := some 0 }
  let s := s.noneDue.switchTo ⟨k, 0⟩
  let s := s.setCore k { s.getCore k with lastIssue := none }
  { s with
    ctx := { s.ctx with
      live := true, super := false, pc := word benchPc, lastIssue := none, loop := none, fetched := []
      fence := s.mem.stores }
    mem := { s.mem with home := cellsWrite (benchTables s.mem.home) benchPc bs }
    agenda := [⟨0, .core k⟩] }

end Sys2Proof.Machine
end

