-- ==== Sys2Proof/Machine/Step.lean ====
section
/-!
DEFINITION. One step of the machine, and the placement of one instruction where the next step fetches.
-/
namespace Sys2Proof.Machine

/-- One step: time passes and one agent acts. -/
def step (s : State) : Host.Outcome State Fault Refusal := s.nextTurn

/-- The state in which the next step fetches and runs the instruction whose bits are w (assumption 8). -/
def State.withFetchWord (s : State) (nbits w : Nat) : State := s.placeInstr (leBytes 16 (w % 2 ^ nbits))

end Sys2Proof.Machine
end

