-- ==== Sys2Proof/Safety.lean ====
section
/-!
DEFINITION. What claims are stated in: the states in which an instruction's own effect happens, the state after an
instruction, the invariant, and safe runs.
-/
namespace Sys2Proof.Machine

/-- No check that precedes an instruction's own holds it back (03 R71, 05 R117, R147): no SREP is active, no lookahead
window is open, and no queued vector command writes an x or f register that it names. -/
def Calm (s : State) (i : Instr) : Bool :=
  s.ctx.loop.isNone && s.ctx.windows.isEmpty && !(s.queued s.cur).any fun q => touches i (scalarDests q.instr)

/-- A state after an instruction of n bytes of the issuing context, the effect on the context being given: PC has gone
on; the rest of the machine is as it was. -/
def State.after (s : State) (c : Ctx) (n : Nat) : State :=
  { s with ctx := { c with
      pc := s.ctx.pc + word n, lastIssue := s.issueCycle, waiting := false, doing := none, asked := none,
      pos := 0, plan := [], awaits := [] } }

/-- A state after a jump of the issuing context. -/
def State.jumped (s : State) (c : Ctx) (target : Word) : State :=
  { s with ctx := { c with
      pc := target, lastIssue := s.issueCycle, waiting := false, doing := none, asked := none,
      pos := 0, plan := [], awaits := [] } }

/-- The state after a trap of the issuing context (01 R27). -/
def State.trapped (s : State) (t : Trap) : State :=
  { s with
    ctx := { s.ctx with
      trappc := s.ctx.pc
      trapcause := trapCauseWord t s.ctx.super
      trapaddr := t.addr
      trapinfo := t.info
      super := true
      inh := true
      pc := s.core.trapvec
      waiting := false
      wake := none
      doing := none
      asked := none
      pos := 0
      plan := []
      awaits := []
      lastIssue := some s.cycle }
    fresh := s.fresh + 1 }

/-- A trap is taken at once, into the handler (01 R25, R29). -/
def TrapReady (s : State) : Bool := (s.queued s.cur).isEmpty && !s.ctx.inh

/-- In a calm state the instruction, of n bytes, writes a value to an x register, advances PC, and changes nothing else
of the machine. -/
def WritesX (i : Instr) (s : State) (d : XReg) (v : Word) (n : Nat) : Prop :=
  Calm s i = true → exec i s = .next (s.after (s.ctx.wx d v) n)

/-- In a calm state the instruction is performed: a next state in which the issuing context is as given, PC past the
instruction, and what is said of the rest holds. -/
def Performs (i : Instr) (s : State) (c : Ctx) (P : State → Prop) : Prop :=
  Calm s i = true → ∃ t, exec i s = .next t ∧ t.cur = s.cur ∧ t.ctx = (s.after c i.len).ctx ∧ P t

/-- In a calm state the instruction waits, to be tried again, and nothing else changes. -/
def Waits (i : Instr) (s : State) : Prop :=
  Calm s i = true → exec i s = .next { s with ctx := { s.ctx with waiting := true } }

/-- In a calm state in which a trap can be taken the instruction traps, and nothing else changes. -/
def Traps (i : Instr) (s : State) (t : Trap) : Prop :=
  Calm s i = true → TrapReady s = true → exec i s = .next (s.trapped t)

/-- Flags of the issuing context are on their way to its cluster's CLFLAGS (02 R49). -/
def State.flagged (s : State) (fl : BitVec 5) : State :=
  if fl = 0 then s
  else s.setCl s.cur.core.cl { s.getCl s.cur.core.cl with
    clPend := (s.getCl s.cur.core.cl).clPend ++ [(fl, s.cycle)] }

/-- In a calm state the instruction raises flags, leaves the context as given, and changes nothing else. -/
def GivesFlags (i : Instr) (s : State) (c : Ctx) (fl : BitVec 5) : Prop :=
  Calm s i = true → exec i s = .next ((s.flagged fl).after { c with fpflags := s.ctx.fpflags ||| fl } i.len)

/-- The rounding mode that an instruction's RND selects (Table 3.7). -/
def roundingMode (s : State) : Rnd → RMode
  | .ctx => s.ctx.fpmode | .rne => .rne | .rtz => .rtz | .rup => .rup | .rdn => .rdn | .rmm => .rmm

/-- A finite value. -/
def FVal.finite (v : FVal) : Prop := ∃ n m e, v = .fin n m e

/-- R46 with Table 2.7, for a format with infinities: the result, as bits and flags, of rounding a nonzero real number.
`reaches` says that its magnitude, rounded with an unbounded exponent, is not below a power of two, numbers just below
which lie `u` apart: the power above the largest number, where it overflows, or the smallest normal number, below which
it is tiny. -/
def FSpec.Rounds (F : FSpec) (rm : RMode) (y : ℝ) (r : Nat × Flags) : Prop :=
  let val : FVal → ℝ := fun v => match v with | .fin n m e => (if n then -1 else 1) * m * (2 : ℝ) ^ e | _ => 0
  let reaches := fun (limit u : ℝ) => match rm with
    | .rne | .rmm => limit - u / 2 ≤ |y|
    | .rtz => limit ≤ |y|
    | .rup => if y < 0 then limit ≤ |y| else limit - u < |y|
    | .rdn => if y < 0 then limit - u < |y| else limit ≤ |y|
  let overflows := reaches (2 ^ (F.emax + 1)) (2 ^ (F.emax - F.mb))
  let tiny := ¬ reaches (2 ^ F.emin) (2 ^ (F.emin - 1 - F.mb))
  let toInf := match rm with | .rne | .rmm => True | .rtz => False | .rup => 0 < y | .rdn => y < 0
  let numbers : Set ℝ := { x | ∃ w < 2 ^ F.width, (∃ n m e, F.decode w = .fin n m e) ∧ x = val (F.decode w) }
  r.1 < 2 ^ F.width ∧ (r.1.testBit (F.width - 1) = true ↔ y < 0) ∧
  (overflows → r.2 = flOF ||| flNX ∧
    (toInf → r.1 % 2 ^ (F.width - 1) = F.infBits) ∧ (¬ toInf → r.1 % 2 ^ (F.width - 1) = F.infBits - 1)) ∧
  (¬ overflows →
    let v := val (F.decode r.1)
    (∃ n m e, F.decode r.1 = .fin n m e) ∧ (r.2.getLsbD 4 = true ↔ v ≠ y) ∧
    (r.2.getLsbD 3 = true ↔ v ≠ y ∧ tiny) ∧ r.2.getLsbD 2 = false ∧ r.2.getLsbD 1 = false ∧ r.2.getLsbD 0 = false ∧
    match rm with
    | .rtz => |v| ≤ |y| ∧ ∀ x ∈ numbers, |x| ≤ |y| → |x| ≤ |v|
    | .rdn => v ≤ y ∧ ∀ x ∈ numbers, x ≤ y → x ≤ v
    | .rup => y ≤ v ∧ ∀ x ∈ numbers, y ≤ x → v ≤ x
    | .rne => ∀ x ∈ numbers, |y - v| ≤ |y - x| ∧ (|y - v| = |y - x| → x = v ∨ r.1 % 2 = 0)
    | .rmm => ∀ x ∈ numbers, |y - v| ≤ |y - x| ∧ (|y - v| = |y - x| → |x| ≤ |v|))

/-- R46 with Table 2.7, to an integer. -/
def RoundsToInt (rm : RMode) (x : ℚ) (k : ℤ) : Prop :=
  match rm with
  | .rtz => k = if 0 ≤ x then ⌊x⌋ else ⌈x⌉
  | .rdn => k = ⌊x⌋
  | .rup => k = ⌈x⌉
  | .rne => |x - k| ≤ 1 / 2 ∧ (|x - k| = 1 / 2 → k % 2 = 0)
  | .rmm => |x - k| ≤ 1 / 2 ∧ (|x - k| = 1 / 2 → |x| ≤ |(k : ℚ)|)

/-- The mask register of a vector arithmetic instruction; x0 for VINS and VEXT, which have none. None: any other
instruction. -/
def maskReg : Instr → Option XReg
  | .vadd _ _ _ _ _ _ m | .vsub _ _ _ _ _ _ m | .vmul _ _ _ _ _ _ m | .vfma _ _ _ _ _ _ m | .vmin _ _ _ _ m
  | .vmax _ _ _ _ m | .vcmp _ _ _ _ _ m | .vsel _ _ _ _ m | .vand _ _ _ _ m | .vor _ _ _ _ m | .vxor _ _ _ _ m
  | .vshl _ _ _ _ m | .vshr _ _ _ _ m | .vcvt _ _ _ _ _ _ m | .vqnt _ _ _ _ _ m | .vdq _ _ _ _ _ m
  | .vred _ _ _ _ _ m | .vscan _ _ _ _ _ m | .vsf _ _ _ _ m | .vperm _ _ _ _ m | .vbcast _ _ _ m => some m
  | .vins _ _ _ _ | .vext _ _ _ _ => some 0
  | _ => none

/-- The rounding field of a vector arithmetic instruction; without one, the context's mode. -/
def rndOf : Instr → Rnd
  | .vadd _ _ r _ _ _ _ | .vsub _ _ r _ _ _ _ | .vmul _ _ r _ _ _ _ | .vfma _ r _ _ _ _ _ | .vcvt _ _ _ r _ _ _
  | .vqnt _ r _ _ _ _ | .vdq _ r _ _ _ _ | .vred _ _ r _ _ _ | .vscan _ _ r _ _ _ | .vsf _ r _ _ _ => r
  | _ => .ctx

/-- What a byte reads as: at its home, the partials of its line merged (09 R221), or in its scratchpad. -/
def Mem.reads (m : Mem) : Place → Byte
  | .glob pa => (m.peek pa 1).headD 0
  | .scr k => cellsGet m.sram k

/-- The byte n bytes after a place. -/
def Place.plus : Place → Nat → Place
  | .glob pa, n => .glob (pa + n)
  | .scr k, n => .scr (k + n)

/-- Every byte of memory reads as before. -/
def SameBytes (s t : State) : Prop := ∀ p, t.mem.reads p = s.mem.reads p

/-- The bytes from a place on read as given, and every other byte of memory as before. -/
def StoresBytes (s t : State) (p : Place) (bs : List Byte) : Prop :=
  (∀ i b, bs[i]? = some b → t.mem.reads (p.plus i) = b) ∧
  ∀ q, (∀ i < bs.length, q ≠ p.plus i) → t.mem.reads q = s.mem.reads q

/-- The issuing context apart, every context, core, partition and leaf, and the base die, are as before. -/
def SameUnits (s t : State) : Prop :=
  t.cur = s.cur ∧ t.ctxs = s.ctxs ∧ t.leaves = s.leaves ∧ t.cores = s.cores ∧ t.dies = s.dies ∧ t.parts = s.parts ∧
  t.launches = s.launches ∧ t.pkg = s.pkg ∧ t.cycle = s.cycle

/-- Partials (09 R221): whole lines, at most one of a cluster for a line, and those of a line of one class. -/
def Mem.PartialsOk (m : Mem) : Prop :=
  (∀ p ∈ m.partials, p.bytes.length = 128) ∧ (m.partials.map fun p => (p.cl, p.line)).Nodup ∧
  ∀ p ∈ m.partials, ∀ q ∈ m.partials, p.line = q.line → p.cls = q.cls

/-- The invariant: memory, scratchpads, the host window and the compressed pages are in canonical form, and the partials
are those of R221. -/
def State.Inv (s : State) : Prop :=
  s.mem.wf ∧ s.mem.PartialsOk ∧ cellsWf s.pkg.window = true ∧ ∀ p ∈ s.parts, ∀ k ∈ p.2.packed, cellsWf k.cells = true

/-- A step is safe: the machine goes on. -/
def SafeStep (s : State) : Prop := ∃ t, step s = .next t

/-- A run of n steps is safe. -/
def SafeRun : Nat → State → Prop
  | 0, _ => True
  | n + 1, s => ∃ t, step s = .next t ∧ SafeRun n t

end Sys2Proof.Machine
end

