-- ==== Sys2Proof/Certificates/Slice0/Obligations.lean ====
section
/-!
DEFINITION. The statements for the provers: what the spec's numbered rules say of the machine.
-/
open Sys2Proof Sys2Proof.Machine

/-- R100, Table 4.1: sums, products, logic, comparisons, selection. -/
def Obligations.IntegerOperationsWriteTheirValue : Prop :=
  ∀ (s : State) (d a b c : XReg),
    let A := s.ctx.rx a
    let B := s.ctx.rx b
    WritesX (.add d a b) s d (BitVec.ofNat 64 (A.toNat + B.toNat)) 8 ∧
    WritesX (.sub d a b) s d (BitVec.ofInt 64 (A.toInt - B.toInt)) 8 ∧
    WritesX (.mul d a b) s d (BitVec.ofNat 64 (A.toNat * B.toNat)) 8 ∧
    WritesX (.mulh d a b) s d ((A.signExtend 128 * B.signExtend 128).extractLsb' 64 64) 8 ∧
    WritesX (.mulhz d a b) s d ((A.setWidth 128 * B.setWidth 128).extractLsb' 64 64) 8 ∧
    WritesX (.and d a b) s d (A &&& B) 8 ∧
    WritesX (.or d a b) s d (A ||| B) 8 ∧
    WritesX (.xor d a b) s d (A ^^^ B) 8 ∧
    WritesX (.andn d a b) s d (A &&& ~~~B) 8 ∧
    WritesX (.slt d a b) s d (if A.toInt < B.toInt then 1 else 0) 8 ∧
    WritesX (.sltz d a b) s d (if A.toNat < B.toNat then 1 else 0) 8 ∧
    WritesX (.seq d a b) s d (if A = B then 1 else 0) 8 ∧
    WritesX (.min d a b) s d (if A.toInt ≤ B.toInt then A else B) 8 ∧
    WritesX (.max d a b) s d (if A.toInt ≤ B.toInt then B else A) 8 ∧
    WritesX (.minz d a b) s d (if A.toNat ≤ B.toNat then A else B) 8 ∧
    WritesX (.maxz d a b) s d (if A.toNat ≤ B.toNat then B else A) 8 ∧
    WritesX (.sel d a b c) s d (if s.ctx.rx c ≠ 0 then A else B) 8

/-- R101, Table 4.2. -/
def Obligations.DivisionTruncatesAndNeverTraps : Prop :=
  ∀ (s : State) (d a b : XReg),
    let A := s.ctx.rx a
    let B := s.ctx.rx b
    (∃ q r : Word, WritesX (.div d a b) s d q 8 ∧ WritesX (.rem d a b) s d r 8 ∧ A = q * B + r ∧
      (B = 0 → q = BitVec.allOnes 64 ∧ r = A) ∧
      (A = BitVec.intMin 64 → B = BitVec.allOnes 64 → q = BitVec.intMin 64 ∧ r = 0) ∧
      (B ≠ 0 → ¬(A = BitVec.intMin 64 ∧ B = BitVec.allOnes 64) → q.toInt = Int.tdiv A.toInt B.toInt) ∧
      (B ≠ 0 → r.toInt.natAbs < B.toInt.natAbs ∧ (r = 0 ∨ (r.toInt < 0 ↔ A.toInt < 0)))) ∧
    (∃ q r : Word, WritesX (.divz d a b) s d q 8 ∧ WritesX (.remz d a b) s d r 8 ∧ A = q * B + r ∧
      (B = 0 → q = BitVec.allOnes 64 ∧ r = A) ∧
      (B ≠ 0 → q.toNat = A.toNat / B.toNat ∧ r.toNat = A.toNat % B.toNat))

/-- Table 4.1 and Table 4.3: the shifts, bit by bit. -/
def Obligations.ShiftsMoveEachBit : Prop :=
  ∀ (s : State) (d a b : XReg) (m : Fin 64),
    let A := s.ctx.rx a
    let n := (s.ctx.rx b).toNat % 64
    ∃ l r h o li ri hi : Word,
      WritesX (.shl d a b) s d l 8 ∧ WritesX (.shr d a b) s d r 8 ∧ WritesX (.sha d a b) s d h 8 ∧
      WritesX (.rot d a b) s d o 8 ∧
      WritesX (.shli d a m) s d li 8 ∧ WritesX (.shri d a m) s d ri 8 ∧ WritesX (.shai d a m) s d hi 8 ∧
      ∀ i < 64,
        l.getLsbD i = (decide (n ≤ i) && A.getLsbD (i - n)) ∧
        r.getLsbD i = (decide (i + n < 64) && A.getLsbD (i + n)) ∧
        h.getLsbD i = A.getLsbD (min (i + n) 63) ∧
        o.getLsbD i = A.getLsbD ((i + n) % 64) ∧
        li.getLsbD i = (decide (m.val ≤ i) && A.getLsbD (i - m.val)) ∧
        ri.getLsbD i = (decide (i + m.val < 64) && A.getLsbD (i + m.val)) ∧
        hi.getLsbD i = A.getLsbD (min (i + m.val) 63)

/-- Table 4.1 and R102: counts, reversal, fields. -/
def Obligations.BitCountsAndFields : Prop :=
  ∀ (s : State) (d a b : XReg) (pos width1 : Fin 64), pos.val + width1.val < 64 →
    let A := s.ctx.rx a
    let B := s.ctx.rx b
    WritesX (.popc d a) s d (BitVec.ofNat 64 ((List.range 64).countP A.getLsbD)) 8 ∧
    (∃ z : Word, WritesX (.clz d a) s d z 8 ∧ (A = 0 → z = 64) ∧ (A ≠ 0 → z.toNat = 63 - Nat.log2 A.toNat)) ∧
    (∃ z : Word, WritesX (.ctz d a) s d z 8 ∧ (A = 0 → z = 64) ∧
      (A ≠ 0 → A.getLsbD z.toNat = true ∧ ∀ i < z.toNat, A.getLsbD i = false)) ∧
    (∃ r : Word, WritesX (.brev d a) s d r 8 ∧ ∀ i < 64, r.getLsbD i = A.getLsbD (63 - i)) ∧
    WritesX (.bfx d a pos width1) s d (BitVec.ofNat 64 (A.toNat / 2 ^ pos.val % 2 ^ (width1.val + 1))) 8 ∧
    (∃ r : Word, WritesX (.bfi d a b pos width1) s d r 8 ∧ ∀ i < 64, r.getLsbD i =
      if pos.val ≤ i ∧ i ≤ pos.val + width1.val then A.getLsbD (i - pos.val) else B.getLsbD i)

/-- Table 4.3 and R104. -/
def Obligations.ImmediatesWriteTheirValue : Prop :=
  ∀ (s : State) (d a : XReg) (imm : BitVec 30) (w : BitVec 64),
    let A := s.ctx.rx a
    let I : Word := BitVec.ofInt 64 imm.toInt
    WritesX (.addi d a imm) s d (A + I) 8 ∧
    WritesX (.andi d a imm) s d (A &&& I) 8 ∧
    WritesX (.ori d a imm) s d (A ||| I) 8 ∧
    WritesX (.xori d a imm) s d (A ^^^ I) 8 ∧
    WritesX (.li d imm) s d I 8 ∧
    WritesX (.addpc d imm) s d (s.ctx.pc + I) 8 ∧
    WritesX (.li64 d w) s d w 16

/-- R105 and R107 as their pseudocode says. `p` is the largest power of two not above n. -/
def Obligations.RanksAndMeshAddresses : Prop :=
  ∀ (s : State) (d a b c : XReg) (off : BitVec 22),
    let r := (s.ctx.rx a).toInt
    let n := (s.ctx.rx b).toInt
    let k := (s.ctx.rx c).toInt
    let gx : Int := s.pkg.grade.gx
    let gy : Int := s.pkg.grade.gy
    let o := s.cur.core.cl
    let addr := fun (rel : Nat) (e x y : Int) =>
      (BitVec.ofNat 64 (0xFE * 2 ^ 56 + rel * 2 ^ 55) ||| ((BitVec.ofInt 4 e).setWidth 64 <<< 51)
        ||| ((BitVec.ofInt 5 x).setWidth 64 <<< 46) ||| ((BitVec.ofInt 5 y).setWidth 64 <<< 41) ||| off.setWidth 64 : Word)
    (∃ q : Int, WritesX (.rankx d a b c) s d (BitVec.ofInt 64 q) 8 ∧
      ((n < 1 ∨ r < 0 ∨ n ≤ r) → q = -1) ∧
      (∀ L : Nat, 0 ≤ r → r < n → (2 : Int) ^ L ≤ n → n < 2 ^ (L + 1) →
        (k = -1 → q = if 2 ^ L ≤ r then r - 2 ^ L else if r < n - 2 ^ L then r + 2 ^ L else -1) ∧
        (0 ≤ k → k < L → q = if 2 ^ L ≤ r then -1 else ((r.toNat ^^^ 2 ^ k.toNat : Nat) : Int)) ∧
        (k < -1 ∨ (L : Int) ≤ k → q = -1))) ∧
    WritesX (.mesha .abs d a b c off) s d
      (if 0 ≤ r ∧ r ≤ 7 ∧ 0 ≤ n ∧ n < gx ∧ 0 ≤ k ∧ k < gy then addr 0 r n k else 0xFD00000000000000) 12 ∧
    WritesX (.mesha .delta d a b c off) s d
      (if -8 ≤ r ∧ r ≤ 7 ∧ -16 ≤ n ∧ n ≤ 15 ∧ -16 ≤ k ∧ k ≤ 15 then addr 1 r n k else 0xFD00000000000000) 12 ∧
    WritesX (.mesha .resolve d a b c off) s d
      (if 0 ≤ o.die + r ∧ o.die + r ≤ 7 ∧ 0 ≤ o.x + n ∧ o.x + n < gx ∧ 0 ≤ o.y + k ∧ o.y + k < gy
        then addr 0 (o.die + r) (o.x + n) (o.y + k) else 0xFD00000000000000) 12

/-- R108, Table 4.5, R109. -/
def Obligations.BranchesAndJumps : Prop :=
  ∀ (s : State) (d a b : XReg) (off : BitVec 32) (imm : BitVec 30),
    let A := s.ctx.rx a
    let B := s.ctx.rx b
    let T : Word := s.ctx.pc + BitVec.ofInt 64 (off.toInt * 4)
    let J : Word := s.ctx.pc + BitVec.ofInt 64 (imm.toInt * 4)
    let R : Word := A + BitVec.ofInt 64 imm.toInt
    let go := fun (i : Instr) (c : Prop) [Decidable c] =>
      Calm s i = true → exec i s = .next (if c then s.jumped s.ctx T else s.after s.ctx 8)
    let link := fun (i : Instr) (t : Word) =>
      Calm s i = true →
        (t.toNat % 4 = 0 → exec i s = .next (s.jumped (s.ctx.wx d (s.ctx.pc + 8)) t)) ∧
        (t.toNat % 4 ≠ 0 → TrapReady s = true → exec i s = .next (s.trapped ⟨.align, t, 0⟩))
    go (.bcc .eq a b off) (A = B) ∧ go (.bcc .ne a b off) (A ≠ B) ∧
    go (.bcc .lt a b off) (A.toInt < B.toInt) ∧ go (.bcc .ge a b off) (B.toInt ≤ A.toInt) ∧
    go (.bcc .ltz a b off) (A.toNat < B.toNat) ∧ go (.bcc .gez a b off) (B.toNat ≤ A.toNat) ∧
    go (.bmask .any a off) (A.toNat % 2 ^ 32 ≠ 0) ∧ go (.bmask .all a off) (A.toNat % 2 ^ 32 = 2 ^ 32 - 1) ∧
    go (.bmask .none a off) (A.toNat % 2 ^ 32 = 0) ∧
    link (.jal d imm) J ∧ link (.jalr d a imm) R

/-- R56 and R92. -/
def Obligations.FillersOnlyAdvancePc : Prop :=
  ∀ s : State,
    exec .pad32 s = .next { s with ctx := { s.ctx with pc := s.ctx.pc + 4, lastIssue := some s.cycle } } ∧
    (Calm s .nop = true → exec .nop s = .next (s.after s.ctx 8))

/-- R96 with R25, R27, R29, R346 and Table 1.5. `dumpRec` is what the dump's fault record will say: class, WHERE, ADDR,
DETAIL and CYCLE. The wait for queued vector commands, at a double trap too, and the PC at which the context then stands are
the model's reading (assumption 9, DEDUCED). -/
def Obligations.SoftwareTrapsEnterTheHandler : Prop :=
  ∀ (s : State) (imm : BitVec 30) (i : Instr) (cause : Nat),
    (i = .trap imm ∧ cause = 0x0C) ∨ (i = .brk imm ∧ cause = 0x0B) → Calm s i = true →
    let level := if s.ctx.super then 2 ^ 16 else 0
    ((s.queued s.cur).isEmpty = false → exec i s = .next { s with ctx := { s.ctx with waiting := true } }) ∧
    ((s.queued s.cur).isEmpty = true → s.ctx.inh = true →
      ∀ p v, (s.getCl s.cur.core.cl).part = some p → s.part? p = some v → v.dumpRec = none →
        exec i s = .next ({ s with ctx := { s.ctx with waiting := false, wake := none, doing := none, asked := none } }.setPart p { v with
          state := .dumping
          haltCycle := s.cycle
          dumpRec := some (2, coreIdBits s.cur, 0, leBytes 8 (cause + level) ++ leBytes 8 s.ctx.pc.toNat, s.cycle) })) ∧
    (TrapReady s = true →
      ∃ t, exec i s = .next t ∧ t = { s with ctx := t.ctx, fresh := s.fresh + 1 } ∧
        t.ctx.trappc = s.ctx.pc ∧ t.ctx.trapcause.toNat = cause + level ∧
        t.ctx.trapaddr = 0 ∧ t.ctx.trapinfo = BitVec.ofInt 64 imm.toInt ∧
        t.ctx.super = true ∧ t.ctx.inh = true ∧ t.ctx.pc = s.core.trapvec ∧
        t.ctx.fpmode = s.ctx.fpmode ∧ t.ctx.fpflags = s.ctx.fpflags ∧ t.ctx.regionid = s.ctx.regionid ∧
        t.ctx.x = s.ctx.x ∧ t.ctx.f = s.ctx.f ∧ t.ctx.v = s.ctx.v ∧ t.ctx.hdone = s.ctx.hdone)

/-- R28. -/
def Obligations.TrapReturnRestoresLevelAndPc : Prop :=
  ∀ s : State, Calm s .rett = true →
    let ppriv := s.ctx.trapcause.toNat / 2 ^ 16 % 4
    (s.ctx.super = true → ppriv ≤ 1 →
      exec .rett s = .next (s.jumped { s.ctx with super := decide (ppriv = 1), inh := false } s.ctx.trappc)) ∧
    (s.ctx.super = true → 1 < ppriv → TrapReady s = true →
      exec .rett s = .next (s.trapped ⟨.priv, 0, 0x5⟩)) ∧
    (s.ctx.super = false → TrapReady s = true → exec .rett s = .next (s.trapped ⟨.priv, 0, 0x5⟩))

/-- R76 with R15: the instructions that only SUPER may execute. -/
def Obligations.PrivilegedInstructionsTrapAtUser : Prop :=
  ∀ (s : State) (d a b : XReg) (num : BitVec 30),
    num.toNat ∈ [0x003, 0x040, 0x041, 0x042, 0x043, 0x044] → s.ctx.super = false → TrapReady s = true →
    ∀ i ∈ [Instr.rett, .preq d a, .preqCtr d a b, .resume d a, .resumeCtr d a b, .sysrd d num, .sysrd d 0x012,
        .syswr a num, .clflagsWrite a],
      Calm s i = true → exec i s = .next (s.trapped ⟨.priv, 0, BitVec.ofNat 64 (encode i)⟩)

/-- R15, R16, R97 and Tables 1.1-1.4. What a context without a leaf reads is the model's choice (assumption 46).
The flags of CLFLAGS that have had their 32 cycles are present (R49). -/
def Obligations.SystemRegisterReads : Prop :=
  ∀ (s : State) (d : XReg),
    let rd := fun (n : Nat) (v : Word) =>
      (s.ctx.super = true ∨ n ∉ [0x003, 0x012, 0x040, 0x041, 0x042, 0x043, 0x044]) →
      WritesX (.sysrd d (BitVec.ofNat 30 n)) s d v 8
    let nq := (s.core.vq.filter fun q => q.ctx = s.cur.idx).length
    let c := s.cur
    rd 0x000 (BitVec.ofNat 64 (c.core.cl.die * 2 ^ 18 + c.core.cl.y * 2 ^ 13 + c.core.cl.x * 2 ^ 8 + c.core.core * 2 ^ 4
      + c.idx)) ∧
    (∀ p, (s.getCl c.core.cl).part = some p → rd 0x001 (BitVec.ofNat 64 p)) ∧
    rd 0x002 (BitVec.ofNat 64 ((if s.ctx.super then 1 else 0) + if s.ctx.inh then 4 else 0)) ∧
    (∀ p q, (s.getCl c.core.cl).part = some p → s.part? p = some q →
      rd 0x003 q.cfg.enumva ∧ rd 0x005 (BitVec.ofNat 64 q.stepno)) ∧
    rd 0x004 (BitVec.ofNat 64 s.cycle) ∧
    rd 0x010 (match s.ctx.fpmode with | .rne => 0 | .rtz => 1 | .rup => 2 | .rdn => 3 | .rmm => 4) ∧
    rd 0x011 (s.ctx.fpflags.setWidth 64) ∧
    rd 0x012 ((s.clflagsRead c.core.cl).setWidth 64) ∧
    rd 0x013 (BitVec.ofNat 64 ((if nq = 0 then 0 else 1) + 2 ^ 8 * nq)) ∧
    rd 0x018 s.ctx.regionid ∧ rd 0x019 (s.ctx.hdone.setWidth 64) ∧
    rd 0x040 s.core.trapvec ∧ rd 0x041 s.ctx.trappc ∧ rd 0x042 s.ctx.trapcause ∧ rd 0x043 s.ctx.trapaddr ∧
    rd 0x044 s.ctx.trapinfo ∧
    (∀ n l, s.ctx.leaf = some n → Map.get? s.leaves n = some l →
      rd 0x020 l.deadline ∧ rd 0x021 l.launchptr ∧
      ∀ i : Fin 8, rd (0x028 + i.val) (l.levelix.get i) ∧ rd (0x030 + i.val) (l.levelcnt.get i)) ∧
    (s.ctx.leaf = none → ∀ n, n = 0x020 ∨ n = 0x021 ∨ (0x028 ≤ n ∧ n ≤ 0x037) → rd n 0)

/-- R15, R18, R49, R97 and Table 1.1. -/
def Obligations.SystemRegisterWrites : Prop :=
  ∀ (s : State) (a : XReg),
    let A := s.ctx.rx a
    let wr := fun (n : Nat) (t : State) => Calm s (.syswr a (BitVec.ofNat 30 n)) = true →
      exec (.syswr a (BitVec.ofNat 30 n)) s = .next t
    let bad := fun (n : Nat) => Calm s (.syswr a (BitVec.ofNat 30 n)) = true → TrapReady s = true →
      exec (.syswr a (BitVec.ofNat 30 n)) s =
        .next (s.trapped ⟨.illegal .reserved, 0, BitVec.ofNat 64 (encode (.syswr a (BitVec.ofNat 30 n)))⟩)
    (∀ m : RMode, A.toNat % 8 = (match m with | .rne => 0 | .rtz => 1 | .rup => 2 | .rdn => 3 | .rmm => 4) →
      wr 0x010 (s.after { s.ctx with fpmode := m } 8)) ∧
    (5 ≤ A.toNat % 8 → bad 0x010) ∧
    wr 0x011 (s.after { s.ctx with fpflags := A.setWidth 5 } 8) ∧
    wr 0x019 (s.after { s.ctx with hdone := s.ctx.hdone &&& ~~~(A.setWidth 11) } 8) ∧
    (∀ n, n ∈ [0x000, 0x001, 0x002, 0x004, 0x005, 0x013, 0x018, 0x021] ∨ (0x028 ≤ n ∧ n ≤ 0x037) →
      wr n (s.after s.ctx 8)) ∧
    (s.ctx.super = false → wr 0x020 (s.after s.ctx 8)) ∧
    (s.ctx.super = true →
      wr 0x003 (s.after s.ctx 8) ∧
      (∀ n l, s.ctx.leaf = some n → Map.get? s.leaves n = some l →
        wr 0x020 ({ s with leaves := Map.put s.leaves n { l with deadline := A } }.after s.ctx 8)) ∧
      wr 0x040 ((s.setCore s.cur.core { s.core with trapvec := BitVec.ofNat 64 (A.toNat / 4 * 4) }).after s.ctx 8) ∧
      wr 0x041 (s.after { s.ctx with trappc := BitVec.ofNat 64 (A.toNat / 4 * 4) } 8) ∧
      (A.toNat / 2 ^ 16 % 4 ≠ 3 → wr 0x042 (s.after { s.ctx with trapcause := BitVec.ofNat 64 (A.toNat % 2 ^ 18) } 8)) ∧
      (A.toNat / 2 ^ 16 % 4 = 3 → bad 0x042) ∧
      wr 0x043 (s.after { s.ctx with trapaddr := A } 8) ∧
      wr 0x044 (s.after { s.ctx with trapinfo := A } 8) ∧
      (Calm s (.clflagsWrite a) = true → ∃ t, exec (.clflagsWrite a) s = .next t ∧
        t = (s.setCl s.cur.core.cl { s.getCl s.cur.core.cl with
          clflags := 0, clPend := (t.getCl s.cur.core.cl).clPend }).after s.ctx 8 ∧
        t.clflagsRead s.cur.core.cl = 0))

/-- R93 and R99; R339 and Table 18.6 for a context at its halt. The wait keeps the cycle at which it ends. R339 lets a context
go on for up to 1,700 cycles after a pre-emption request: that the model's does not, its SLEEP being abandoned at once, is
the model's choice (assumption 35, DEDUCED). -/
def Obligations.FenceAndSleep : Prop :=
  (∀ (s : State) (sc : Scope), Calm s (.fence sc) = true → s.vecMemBusy = false →
    ∃ t, exec (.fence sc) s = .next t ∧
      t.ctx = { s.ctx with
        pc := s.ctx.pc + 8, fetched := [], fence := s.mem.stores, lastIssue := s.issueCycle, doing := none
        waiting := false, asked := none, pos := 0, plan := [], awaits := []
        regionid := if sc = .ctx then s.ctx.regionid else s.ctx.regionid + 1 } ∧
      t = { s with
        ctx := t.ctx
        clusters := if sc = .die ∨ sc = .pkg ∨ sc = .sys
          then Map.put s.clusters s.cur.core.cl { s.getCl s.cur.core.cl with ways := [] } else s.clusters
        mem := { s.mem with accesses := t.mem.accesses } } ∧
      (sc = .ctx → t.mem.accesses = s.mem.accesses) ∧
      (sc ≠ .ctx → ∀ x, x ∈ t.mem.accesses ↔ x ∈ s.mem.accesses ∧ x.agent ≠ .ctx s.cur)) ∧
  (∀ (s : State) (a : XReg) (imm : BitVec 30), Calm s (.sleep a imm) = true → s.ctx.wake = none →
    let n := (s.ctx.rx a + BitVec.ofInt 64 imm.toInt).toInt
    (n ≤ 0 → exec (.sleep a imm) s = .next (s.after s.ctx 8)) ∧
    (0 < n → exec (.sleep a imm) s = .next { s with ctx := { s.ctx with
      wake := some (s.cycle + min n.toNat (2 ^ 32 - 1)), waiting := true, lastIssue := some s.cycle } })) ∧
  (∀ (s : State) (a : XReg) (imm : BitVec 30) (w : Nat), Calm s (.sleep a imm) = true → s.ctx.wake = some w →
    (w ≤ s.cycle → exec (.sleep a imm) s = .next (s.after { s.ctx with wake := none } 8)) ∧
    (s.cycle < w → exec (.sleep a imm) s = .next { s with ctx := { s.ctx with waiting := true } }) ∧
    (w ≤ s.cycle → s.goesOn s.cur = true → exec (.sleepExpiry s.cur) s = .next { s with ctx := { s.ctx with
      wake := none, pc := s.ctx.pc + 8, waiting := false, doing := none, asked := none, pos := 0, plan := [], awaits := [] } }) ∧
    (s.cycle < w ∨ s.goesOn s.cur = false → ∃ name, exec (.sleepExpiry s.cur) s = .refused (.notEnabled name)))

/-- R94 and R31 on compute cores. A helper's slot may serve a pending handler start at once (R167); the statement about
it is for cores without one. -/
def Obligations.ExitEndsTheContext : Prop :=
  ∀ (s : State) (a : XReg), Calm s (.exit a) = true → s.cur.core.core < 8 →
    ((s.queued s.cur).isEmpty = false →
      exec (.exit a) s = .next { s with ctx := { s.ctx with waiting := true } }) ∧
    ((s.queued s.cur).isEmpty = true → s.cur.idx = 0 → s.helpersLive = true →
      exec (.exit a) s = .next { s with ctx := { s.ctx with waiting := true } }) ∧
    ((s.queued s.cur).isEmpty = true → s.cur.idx ≠ 0 → s.core.firstStart = none →
      ∃ t, exec (.exit a) s = .next t ∧ t.cur = s.cur ∧ t.ctx = { Ctx.init with lastIssue := some s.cycle } ∧
        SameBytes s t ∧ t.leaves = s.leaves ∧ t.launches = s.launches ∧
        ∀ c, s.ctx.starter = some c → c ≠ s.cur →
          (t.getCtx c).hdone = (s.getCtx c).hdone ||| BitVec.twoPow 11 s.cur.idx) ∧
    ((s.queued s.cur).isEmpty = true → s.cur.idx = 0 → s.helpersLive = false →
      ∃ t, exec (.exit a) s = .next t ∧ t.cur = s.cur ∧ t.ctx = { Ctx.init with lastIssue := some s.cycle } ∧
        SameBytes s t ∧
        ∀ n l m x, s.ctx.leaf = some n → Map.get? s.leaves n = some l → l.launch = some m →
          Map.get? s.launches m = some x →
          Map.get? t.leaves n = none ∧
          t.launches = Map.put s.launches m (x.arrive ((l.levelix.toList.map BitVec.toNat).take (x.counts.length - 1))
            (BitVec.ofNat 64 (1 + (s.ctx.rx a).toNat % 2 ^ 16 * 2 ^ 32))))

/-- R110 and R114, where the access passes its checks: `s.access` is the check, `memEa` the effective address. R209 and
R218 check an access to a CHECKED page as it is performed; that such a load then reads the home and not the cluster's own
copy is the model's choice (assumption 18). -/
def Obligations.LoadsReadMemory : Prop :=
  ∀ (s : State) (d : XReg) (m : MemOp) (sz : Fin 4) (sx : Bool) (sc : Scope) (la : LaCount) (t : Target) (i : Instr)
    (acq : Bool), s.mem.wf →
    (i = .ld d m sz sx .plain sc la ∧ acq = false) ∨ (i = .ld d m sz sx .acq sc la ∧ acq = true) ∨
      (i = .ldc d m sz sx la ∧ acq = false) →
    Calm s i = true → s.vecMemBusy = false →
    s.access .load (memEa m s.ctx) (2 ^ sz.val) (2 ^ sz.val) = .ok t →
    ∃ u bs, exec i s = .next u ∧ bs.length = 2 ^ sz.val ∧
      (∀ c off, t = .mesh c off → ∀ j < 2 ^ sz.val, bs[j]? = some (s.mem.reads (.scr (scrKey c off + j)))) ∧
      (∀ p pa, t = .glob p pa →
        (p.checked = true ∨ (s.getCl s.cur.core.cl).wayOf (pa / 128) = none ∨ (acq = true ∧ wideScope sc = true)) →
        ∀ j < 2 ^ sz.val, bs[j]? = some (s.mem.reads (.glob (pa + j)))) ∧
      (∀ p pa w, t = .glob p pa → p.checked = false → (s.getCl s.cur.core.cl).wayOf (pa / 128) = some w →
        (acq = true → wideScope sc = false) → bs = (w.bytes.drop (pa % 128)).take (2 ^ sz.val) ∨
          w.bytes.length ≠ 128) ∧
      (let v : Word := if sx then (BitVec.ofNat (8 * 2 ^ sz.val) (leNat bs)).signExtend 64 else BitVec.ofNat 64 (leNat bs)
       u.ctx = { (if la = 0 then s.ctx.wx d v else s.ctx) with
        pc := s.ctx.pc + 8, lastIssue := s.issueCycle, waiting := false, doing := none, asked := none, pos := 0, plan := [], awaits := []
        windows := if la = 0 then [] else [⟨s.ctx.pc, la.val, [.x d], [.x d v], none⟩]
        regionid := if acq then s.ctx.regionid + 1 else s.ctx.regionid }) ∧
      SameBytes s u ∧ SameUnits s u

/-- R110, where the access passes its checks: the place stored to is that of `s.access`' target. -/
def Obligations.StoresWriteTheirBytesOnly : Prop :=
  ∀ (s : State) (src : XReg) (m : MemOp) (sz : Fin 4) (sc : Scope) (rel : Bool) (t : Target), s.mem.wf →
    let i : Instr := .st src m sz (if rel then .rel else .plain) sc
    Calm s i = true → s.vecMemBusy = false →
    s.access .store (memEa m s.ctx) (2 ^ sz.val) (2 ^ sz.val) = .ok t →
    ∃ u, exec i s = .next u ∧ StoresBytes s u t.place (leBytes (2 ^ sz.val) (s.ctx.rx src).toNat) ∧
      u.ctx = { s.ctx with
        pc := s.ctx.pc + 8, lastIssue := s.issueCycle, waiting := false, doing := none, asked := none, pos := 0, plan := [], awaits := []
        regionid := if rel then s.ctx.regionid + 1 else s.ctx.regionid } ∧
      SameUnits s u

/-- R112 with the order of R26: address kind, alignment, then what the access check answers. -/
def Obligations.TrappingAccessesChangeNothing : Prop :=
  ∀ (s : State) (r : XReg) (m : MemOp) (sz : Fin 4) (sx : Bool) (la : LaCount) (load : Bool),
    let i : Instr := if load then .ld r m sz sx .plain .ctx la else .st r m sz .plain .ctx
    let k : AccKind := if load then .load else .store
    let ea := memEa m s.ctx
    Calm s i = true → s.vecMemBusy = false → TrapReady s = true →
    (ea.toNat / 2 ^ 56 ∉ [0x00, 0xFE, 0xFF] → exec i s = .next (s.trapped ⟨.notPresent, ea, 0⟩)) ∧
    (ea.toNat / 2 ^ 56 ∈ [0x00, 0xFE, 0xFF] → ea.toNat % 2 ^ sz.val ≠ 0 →
      exec i s = .next (s.trapped ⟨.align, ea, 0⟩)) ∧
    (ea.toNat / 2 ^ 56 ∈ [0x00, 0xFF] → ea.toNat % 2 ^ sz.val = 0 →
      ∀ t, s.xlate s.partNo s.ctx.super k ea = .error t → exec i s = .next (s.trapped t)) ∧
    (∀ t, s.access k ea (2 ^ sz.val) (2 ^ sz.val) = .trap t → exec i s = .next (s.trapped t))

/-- R115; R71, of a context whose partition has not been saved (R340): L completes whenever it does, and the window's
check depends on the count only. -/
def Obligations.PrefetchAndEarlyCompletion : Prop :=
  (∀ (s : State) (m : MemOp), s.mem.wf → Calm s (.pfl m) = true →
    ∃ t, exec (.pfl m) s = .next t ∧ SameBytes s t ∧ SameUnits s t ∧
      t.ctx = (s.after s.ctx 8).ctx ∧
      ((memEa m s.ctx).toNat / 2 ^ 56 ∉ [0x00, 0xFF] → t = s.after s.ctx 8) ∧
      ((memEa m s.ctx).toNat / 2 ^ 56 ∈ [0x00, 0xFF] →
        (∀ e, s.xlate s.partNo s.ctx.super .load (memEa m s.ctx) = .error e → t = s.after s.ctx 8) ∧
        (∀ p, s.xlate s.partNo s.ctx.super .load (memEa m s.ctx) = .ok p →
          let line := p.pa (memEa m s.ctx).toNat / 128
          if (s.getCl s.cur.core.cl).hasCache then line ∈ (t.getCl s.cur.core.cl).fills else line ∈ t.mem.l2))) ∧
  (∀ (s : State) (c : CtxId) (w : Window) (r : XReg) (v : Word), (s.getCtx c).windows = [w] → w.pend = [.x r v] →
    s.unsaved c = true →
    ∃ t, exec (.longLatencyComplete c) s = .next t ∧ t.mem = s.mem ∧ t.clusters = s.clusters ∧ t.pkg = s.pkg ∧
      t.getCtx c = { (s.getCtx c).wx r v with windows := [{ w with pend := [] }] } ∧
      ∀ k, k ≠ c → t.getCtx k = s.getCtx k)

/-- R171 and R172 with R30. HDONE has no bit 0 (Table 1.1): the premise of the clause about HSTAT. -/
def Obligations.HelpersStartAndJoin : Prop :=
  ∀ (s : State) (d a : XReg) (imm : BitVec 30),
    let k := s.cur.core
    let same := fun (t : State) (v : Word) (hd : BitVec 11) =>
      t.cur = s.cur ∧ SameBytes s t ∧
      t.ctx = { s.ctx.wx d v with
        pc := s.ctx.pc + 8, hdone := hd, regionid := s.ctx.regionid + 1
        lastIssue := s.issueCycle, waiting := false, doing := none, asked := none, pos := 0, plan := [], awaits := [] }
    (∀ i ∈ [Instr.start d a imm, .startW d a imm], Calm s i = true → s.vecMemBusy = false → s.ctx.live = true →
      s.core.firstStart = none → s.core.startW = [] →
      (∀ n rest, s.freeSlots k = n :: rest →
        ∃ t, exec i s = .next t ∧ same t (BitVec.ofNat 64 n) s.ctx.hdone ∧
          let h := t.getCtx ⟨k, n⟩
          h.live = true ∧ h.pc = s.ctx.pc + BitVec.ofInt 64 (imm.toInt * 4) ∧ h.rx 1 = s.ctx.rx a ∧
          h.rx 2 = BitVec.ofNat 64 n ∧ (∀ r, r ≠ 1 → r ≠ 2 → h.rx r = 0) ∧ (∀ r, h.rf r = 0) ∧
          (∀ r, h.rv r = Vector.replicate 32 0) ∧ h.super = false ∧ h.inh = false ∧ h.fpmode = .rne ∧ h.fpflags = 0 ∧
          h.regionid = 0 ∧ h.hdone = 0 ∧ h.trappc = 0 ∧ h.trapcause = 0 ∧ h.trapaddr = 0 ∧ h.trapinfo = 0 ∧
          h.leaf = s.ctx.leaf ∧ h.starter = some s.cur) ∧
      (s.freeSlots k = [] →
        (i = .start d a imm → ∃ t, exec i s = .next t ∧ same t (BitVec.allOnes 64) s.ctx.hdone) ∧
        (i = .startW d a imm → ∃ t, exec i s = .next t ∧ t.ctx = { s.ctx with waiting := true, asked := some i } ∧
          (t.getCore k).startW = [s.cur.idx]))) ∧
    (Calm s (.joinh d a) = true →
      let m : BitVec 11 := (s.ctx.rx a).setWidth 11 &&& 0x7FE
      ((∀ n, m.getLsbD n = true → s.ctx.hdone.getLsbD n = true) →
        ∃ t, exec (.joinh d a) s = .next t ∧ same t (m.setWidth 64) (s.ctx.hdone &&& ~~~m)) ∧
      ((∃ n, m.getLsbD n = true ∧ s.ctx.hdone.getLsbD n = false) →
        exec (.joinh d a) s = .next { s with ctx := { s.ctx with waiting := true } })) ∧
    (s.ctx.hdone.getLsbD 0 = false → ∃ v : Word, WritesX (.hstat d) s d v 8 ∧
      ∀ n < 64, v.getLsbD n =
        if 1 ≤ n ∧ n ≤ 10 then s.ctx.hdone.getLsbD n
        else if 17 ≤ n ∧ n ≤ 26 then
          (s.getCtx ⟨k, n - 16⟩).live && decide ((s.getCtx ⟨k, n - 16⟩).starter = some s.cur)
        else false)

/-- R174. -/
def Obligations.FullEmptyOperations : Prop :=
  ∀ (s : State) (r : XReg) (m : MemOp) (c : ClusterId) (off : Nat), s.mem.wf → s.vecMemBusy = false →
    s.feAccess (memEa m s.ctx) = .ok (c, off) → (s.getCl c).feWaits = [] →
    let w := scrKey c off / 8
    let full := s.mem.full.contains w
    let ends := fun (i : Instr) (x : Ctx) (region fe : Bool) (bs : Option (List Byte)) => Calm s i = true →
      ∃ t, exec i s = .next t ∧
        t.ctx = { x with
          pc := s.ctx.pc + 8, lastIssue := s.issueCycle, waiting := false, doing := none, asked := none, pos := 0, plan := [], awaits := []
          regionid := if region then s.ctx.regionid + 1 else s.ctx.regionid } ∧
        t.mem.full.contains w = fe ∧ (∀ v, v ≠ w → t.mem.full.contains v = s.mem.full.contains v) ∧
        (match bs with | none => SameBytes s t | some b => StoresBytes s t (.scr (8 * w)) b)
    let waits := fun (i : Instr) (store : Option Word) (keep : Bool) => Calm s i = true →
      ∃ t, exec i s = .next t ∧ t.ctx = { s.ctx with waiting := true, asked := some i } ∧ t.mem = s.mem ∧
        (t.getCl c).feWaits = [⟨s.cur, w, store, keep, none⟩]
    let val := BitVec.ofNat 64 (leNat (cellsRead s.mem.sram (8 * w) 8))
    let src := s.ctx.rx r
    (full = true →
      ends (.ldf r m 0) (s.ctx.wx r val) true false none ∧ ends (.ldff r m 0) (s.ctx.wx r val) true true none ∧
      waits (.ste r m) (some src) false) ∧
    (full = false →
      waits (.ldf r m 0) none false ∧ waits (.ldff r m 0) none true ∧
      ends (.ste r m) s.ctx true true (some (leBytes 8 src.toNat))) ∧
    ends (.stf r m) s.ctx true true (some (leBytes 8 src.toNat)) ∧
    ends (.festat r m) (s.ctx.wx r (if full then 1 else 0)) false full none ∧
    ends (.feset r m) s.ctx false (src.getLsbD 0) none

/-- R174: the bank's queue of a word, for requests none of which has been answered. -/
def Obligations.BankServesInArrivalOrder : Prop :=
  ∀ (s : State) (c : ClusterId) (w : Nat) (keeps : List FeWait) (q : FeWait) (rest : List FeWait), s.mem.wf →
    (∀ p ∈ keeps, p.word = w ∧ p.store = none ∧ p.keep = true ∧ p.answer = none) → q.word = w → q.answer = none →
    let val := BitVec.ofNat 64 (leNat (cellsRead s.mem.sram (8 * w) 8))
    (q.store = none → q.keep = false → s.mem.full.contains w = true →
      (∀ p ∈ rest, p.word ≠ w ∨ (p.store = none ∧ p.answer = none)) →
      (s.getCl c).feWaits = keeps ++ q :: rest →
      let t := s.wakeFe c w
      (t.getCl c).feWaits = keeps.map (fun p => { p with answer := some val }) ++ { q with answer := some val } :: rest ∧
      t.mem.full.contains w = false ∧ t.mem.sram = s.mem.sram) ∧
    (∀ v, q.store = some v → s.mem.full.contains w = false →
      (∀ p ∈ rest, p.word ≠ w ∨ p.store ≠ none) →
      (s.getCl c).feWaits = keeps ++ q :: rest → keeps = [] →
      let t := s.wakeFe c w
      (t.getCl c).feWaits = { q with answer := some v } :: rest ∧ t.mem.full.contains w = true ∧
      cellsRead t.mem.sram (8 * w) 8 = leBytes 8 v.toNat)

/-- Table 7.4, R176-R178. `State.barrier` reads the fields of Table 7.3. That every STATE but 0 counts as BROKEN, and that
BROKEN comes before a complete phase, is the model's choice (assumption 15). `breaks` reads the fault record of R338 at the
physical address that FLOG of Table 20.7 is taken to be (assumption 38, DEDUCED), and in it the barrier's absolute
mesh-space address (assumption 15, DEDUCED). -/
def Obligations.BarrierInstructions : Prop :=
  ∀ (s : State) (x y : XReg) (b : BSlot) (c : ClusterId) (off : Nat), s.mem.wf → s.vecMemBusy = false →
    let B := s.barrier c off
    let slot := s.ctx.bs.get b
    let n := (s.ctx.rx y).toNat % 2 ^ 32
    let sum := B.bytes + (s.ctx.rx y).toNat
    let P : Word := BitVec.ofNat 64 B.phase
    let seen := fun (k : Ctx) (r : BSlot) (v : SlotSt) => { k with bs := k.bs.set r.val v }
    let region := fun (k : Ctx) => { k with regionid := s.ctx.regionid + 1 }
    let becomes := fun (v : Barrier) (t : State) => t.barrier c off = v ∧
      ∀ q, (∀ i < 32, q ≠ .scr (scrKey c off + i)) → t.mem.reads q = s.mem.reads q
    let breaks := fun (v : Barrier) (err : Nat) (t : State) =>
      t.barrier c off = { v with state := 1, err := err } ∧
      (∀ k, k ≠ s.cur → ∀ w ∈ (s.getCtx k).awaits, w.cl = c → w.off = off →
        { w with broken := true } ∈ (t.getCtx k).awaits) ∧
      ∀ p u, (s.getCl c).part = some p → s.part? p = some u → 64 ≤ u.cfg.flog →
        let at' := u.cfg.flog + 64 * ((u.logSeq + 1) % 4096)
        t.part? p = some { u with logSeq := u.logSeq + 1 } ∧ t.mem.reads (.glob (at' + 16)) = 1 ∧
        t.mem.reads (.glob (at' + 32)) = BitVec.ofNat 8 err ∧
        ∀ i e, (leBytes 8 (meshAbs c off).toNat)[i]? = some e → t.mem.reads (.glob (at' + 24 + i)) = e
    (s.barAccess (s.ctx.rx x) = .ok (c, off) →
      (n ≠ 0 → Performs (.barinitInit b x y) s (seen s.ctx b ⟨s.ctx.rx x, 0⟩) (becomes ⟨0, n, 0, n, 0, 0⟩)) ∧
      (n = 0 → Performs (.barinitInit b x y) s (seen s.ctx b ⟨s.ctx.rx x, 0⟩) (breaks ⟨0, 0, 0, 0, 0, 0⟩ 2)) ∧
      Performs (.barinitBind b x) s (seen s.ctx b ⟨s.ctx.rx x, BitVec.ofNat 32 B.phase⟩) fun t => t.mem = s.mem) ∧
    (s.barAccess slot.addr = .ok (c, off) →
      let arrived := region (seen (s.ctx.wx x P) b ⟨slot.addr, BitVec.ofNat 32 B.phase⟩)
      let told := ∃ w ∈ s.ctx.awaits, w.slot = b ∧ w.broken = true
      (B.state = 0 → B.arrive ≠ 0 → Performs (.bararr x b) s arrived
        (becomes (if B.arrive = 1 ∧ B.bytes = 0
          then { B with phase := (B.phase + 1) % 2 ^ 32, arrive := B.expect } else { B with arrive := B.arrive - 1 }))) ∧
      (B.state = 0 → B.arrive = 0 → Performs (.bararr x b) s arrived (breaks B 2)) ∧
      (B.state ≠ 0 → Performs (.bararr x b) s (region (s.ctx.wx x P)) (SameBytes s)) ∧
      (B.state = 0 → sum < 2 ^ 63 → Performs (.barexp b y) s s.ctx (becomes { B with bytes := sum })) ∧
      (B.state = 0 → 2 ^ 63 ≤ sum → Performs (.barexp b y) s s.ctx (breaks B 1)) ∧
      (B.state ≠ 0 → Performs (.barexp b y) s s.ctx fun t => t.mem = s.mem) ∧
      (∀ i ∈ [Instr.barwait x b, .bartest x b],
        (B.state = 0 → ¬ told → B.phase ≠ slot.seen.toNat → Performs i s
          (region (seen (s.ctx.wx x 1) b ⟨slot.addr, BitVec.ofNat 32 B.phase⟩)) (SameBytes s)) ∧
        ((B.state ≠ 0 ∨ told) → Performs i s (region (s.ctx.wx x 2)) (SameBytes s))) ∧
      (B.state = 0 → ¬ told → B.phase = slot.seen.toNat →
        (Calm s (.barwait x b) = true → exec (.barwait x b) s = .next { s with ctx := { s.ctx with
          waiting := true, awaits := [⟨b, c, off, false⟩] } }) ∧
        WritesX (.bartest x b) s x 0 8)) ∧
    ((s.ctx.rx y).toNat % 256 = 0 →
      Performs (.waitany x y) s (region { s.ctx.wx x 0 with rot := s.ctx.rot + 1 }) (SameBytes s)) ∧
    (∀ places : BSlot → ClusterId × Nat,
      (∀ q : BSlot, (s.ctx.rx y).getLsbD q.val = true → s.barAccess (s.ctx.bs.get q).addr = .ok (places q)) →
      (∀ w ∈ s.ctx.awaits, w.broken = false) → (s.ctx.rx y).toNat % 256 ≠ 0 →
      let at' := fun (q : BSlot) => s.barrier (places q).1 (places q).2
      let pending := fun (q : BSlot) => (at' q).state = 0 ∧ (at' q).phase = (s.ctx.bs.get q).seen.toNat
      ((∀ q : BSlot, (s.ctx.rx y).getLsbD q.val = true → pending q) → Calm s (.waitany x y) = true →
        ∃ a, exec (.waitany x y) s = .next { s with ctx := { s.ctx with waiting := true, awaits := a } }) ∧
      ∀ j : Fin 8, (s.ctx.rx y).getLsbD (s.ctx.rot + j).val = true →
        (∀ i : Fin 8, i < j → (s.ctx.rx y).getLsbD (s.ctx.rot + i).val = true → pending (s.ctx.rot + i)) →
        let q := s.ctx.rot + j
        let next := fun (k : Ctx) (st : Nat) =>
          region { k.wx x (BitVec.ofNat 64 (q.val + st * 2 ^ 8)) with rot := s.ctx.rot + 1 }
        ((at' q).state ≠ 0 → Performs (.waitany x y) s (next s.ctx 2) (SameBytes s)) ∧
        ((at' q).state = 0 → (at' q).phase ≠ (s.ctx.bs.get q).seen.toNat → Performs (.waitany x y) s
          (next (seen s.ctx q ⟨(s.ctx.bs.get q).addr, BitVec.ofNat 32 (at' q).phase⟩) 1) (SameBytes s)))

/-- R179-R183, where the checks that precede the effect pass: `payload`, `msgEndpoint`, `checkBuffer`, `checkRange`. -/
def Obligations.MessagesBetweenCores : Prop :=
  (∀ (s s' : State) (a b c : XReg) (e : Endpoint) (bs : List Byte), s.mem.wf → s.vecMemBusy = false →
    s.payload (s.ctx.rx b) (s.ctx.rx c) = .ok (s', bs) → s.msgEndpoint (s.ctx.rx a) = .ok e →
    ((s.getCl s.cur.core.cl).ways = [] → ∀ ts, s.checkRange .load (s.ctx.rx b) (min (s.ctx.rx c).toNat 256) 8 = .ok ts →
      ∀ ea t n, (ea, t, n) ∈ ts → ∀ k < n,
        bs[(ea - s.ctx.rx b).toNat + k]? = some (s.mem.reads (t.place.plus k))) ∧
    (s.core.sendBuf.length < 4 →
      Performs (.msend a b c) s { s.ctx with regionid := s.ctx.regionid + 1 } fun t =>
        bs.length = min (s.ctx.rx c).toNat 256 ∧ SameBytes s t ∧
        t.arrivals = s.arrivals + 1 ∧ t.getCore s.cur.core = { s.core with
          sendBuf := s.core.sendBuf ++ [⟨e.core, e.hi, ⟨e.ctx, plainHeader s.cur bs.length, bs, some s.cur.core.cl⟩,
            s.cur.idx, false, s.arrivals⟩] }) ∧
    (4 ≤ s.core.sendBuf.length → Waits (.msend a b c) s)) ∧
  (∀ (s : State) (k : CoreId) (n : Nat) (e : SendEntry), (s.getCore k).sendBuf[n]? = some e →
    s.clRuns e.dst.cl = true →
    let first := (∀ q ∈ (s.getCore k).sendBuf, ¬(q.sender = e.sender ∧ q.dst = e.dst ∧ q.hi = e.hi ∧ q.order < e.order)) ∧
      ∀ v ∈ s.pkg.convs, ∀ h ∈ v.2.held,
        ¬(h.sender = ⟨k, e.sender⟩ ∧ h.dst = e.dst ∧ h.hi = e.hi ∧ h.order < e.order)
    let box := fun (t : State) => (t.getCore e.dst).mailbox e.hi
    (¬ first → ∀ i ∈ [Instr.mailboxDelivery k n, .sendBufferRetry k n], ∃ name, exec i s = .refused (.notEnabled name)) ∧
    (first → (box s).length < 32 → ∀ i ∈ [Instr.mailboxDelivery k n, .sendBufferRetry k n],
      (i = .mailboxDelivery k n → e.retry = false) → (i = .sendBufferRetry k n → e.retry = true) →
      ∃ t, exec i s = .next t ∧ box t = box s ++ [e.msg] ∧ t.mem = s.mem ∧ t.ctx = s.ctx ∧ t.ctxs = s.ctxs ∧
        (t.getCore k).sendBuf = (s.getCore k).sendBuf.eraseIdx n) ∧
    (first → 32 ≤ (box s).length → e.retry = false →
      exec (.mailboxDelivery k n) s = .next (s.setCore k { s.getCore k with
        sendBuf := (s.getCore k).sendBuf.set n { e with retry := true } }))) ∧
  (∀ (s : State) (d a : XReg) (la : LaCount), s.vecMemBusy = false →
    ((s.ctx.rx a).toNat / 2 ^ 56 ∉ [0x00, 0xFE, 0xFF] → Traps (.mrecv d a la) s ⟨.notPresent, s.ctx.rx a, 0⟩) ∧
    ((s.ctx.rx a).toNat / 2 ^ 56 ∈ [0x00, 0xFE, 0xFF] → (s.ctx.rx a).toNat % 8 ≠ 0 →
      Traps (.mrecv d a la) s ⟨.align, s.ctx.rx a, 0⟩)) ∧
  (∀ (s : State) (d a : XReg) (la : LaCount), s.mem.wf → s.vecMemBusy = false → (s.ctx.rx a).toNat % 8 = 0 →
    s.checkBuffer (pieces (s.ctx.rx a) 256) = .ok () →
    ((∀ m ∈ s.core.hi ++ s.core.lo, m.ctx ≠ s.cur.idx) → Waits (.mrecv d a la) s) ∧
    (∀ (hi : Bool) (n : Nat) (m : Message) (ts : List (Word × Target × Nat)),
      (s.core.mailbox hi)[n]? = some m → m.ctx = s.cur.idx →
      (∀ j q, j < n → (s.core.mailbox hi)[j]? = some q → q.ctx ≠ s.cur.idx) →
      (hi = false → ∀ q ∈ s.core.hi, q.ctx ≠ s.cur.idx) →
      s.checkRange .store (s.ctx.rx a) m.payload.length 8 = .ok ts →
      let v := m.hdr + (if hi then 512 else 0)
      Performs (.mrecv d a la) s { (if la = 0 then s.ctx.wx d v else s.ctx) with
          windows := if la = 0 then [] else [⟨s.ctx.pc, la.val, [.x d], [.x d v], none⟩]
          regionid := s.ctx.regionid + 1 } fun t =>
        (t.getCore s.cur.core).mailbox hi = (s.core.mailbox hi).eraseIdx n ∧
        (t.getCore s.cur.core).mailbox (!hi) = s.core.mailbox (!hi) ∧
        ∀ p, t.mem.reads p = (s.storeRange ts m.payload).mem.reads p))

/-- R184-R186 and R166. MSENDS is performed in parts (assumption 3): it is tried again for
each chunk. That every check is made at its issue, what it still reads being held, and that MBIND answers -1 before -2
before -3, is the model's choice (assumptions 53 and 16). -/
def Obligations.StreamsBetweenCores : Prop :=
  (∀ (s : State) (d a : XReg) (b : StreamIx) (hi : Bool) (imm : BitVec 48),
    let tag : BitVec 8 := (s.ctx.rx a).setWidth 8
    let used := ∃ (n : Fin 16) (e : TableEntry), s.core.table.get n = some e ∧ e.tag = tag
    let open' := ∃ st, s.ctx.streams.get b = some st ∧ st.src = .msg
    let attached := ∃ (n : Fin 16) (e : TableEntry),
      s.core.table.get n = some e ∧ e.ctx = s.cur.idx ∧ e.reg = b ∧ e.attached = true
    let answers := fun (v : Word) => WritesX (.mbind d b a hi imm) s d v 12
    ((∀ n, s.core.table.get n ≠ none) → answers (BitVec.ofInt 64 (-1))) ∧
    (∀ n, s.core.table.get n = none → (∀ j < n, s.core.table.get j ≠ none) →
      (used → answers (BitVec.ofInt 64 (-2))) ∧
      (¬ used → (¬ open' ∨ attached) → answers (BitVec.ofInt 64 (-3))) ∧
      (¬ used → open' → ¬ attached →
        Performs (.mbind d b a hi imm) s (s.ctx.wx d (BitVec.ofNat 64 n.val)) fun t =>
          t.mem = s.mem ∧ (t.getCore s.cur.core).table.get n =
            some ⟨tag, s.cur.idx, b, s.ctx.pc + imm.signExtend 64, hi, true, none, none, 0⟩ ∧
          ∀ j, j ≠ n → (t.getCore s.cur.core).table.get j = s.core.table.get j)) ∧
    Performs (.munbind a) s s.ctx fun t => t.mem = s.mem ∧ ∀ j, (t.getCore s.cur.core).table.get j =
      (s.core.table.get j).bind fun e => if e.ctx = s.cur.idx ∧ e.tag = tag then none else some e) ∧
  (∀ (s u w : State) (a b c : XReg) (e : Endpoint) (bs : List Byte), s.mem.wf → s.vecMemBusy = false →
    let n := (s.ctx.rx c).toNat % 2 ^ 32
    let pos := 64 * s.ctx.pos
    let id := BitVec.ofNat 64 (coreIdBits s.cur)
    let begins := s.ctx.pos = 0 ∧ s.ctx.plan = []
    let chunk : List Chunk := if pos < n then [⟨BitVec.ofNat 8 e.tag, id, bs, none⟩] else []
    (∀ tr, begins → s.holdLoads (s.ctx.rx b) n = .trap tr → Traps (.msends a b c) s tr) ∧
    (∀ tr, ¬ begins → s.streamEndpoint (s.ctx.rx a) = .ok e → s.chunkRoom e.core e.tag id = true →
      s.takeHeld (s.ctx.rx b + BitVec.ofNat 64 pos) (min 64 (n - pos)) = .trap tr → Traps (.msends a b c) s tr) ∧
    ((begins → s.holdLoads (s.ctx.rx b) n = .ok u) → (¬ begins → u = s) → s.streamEndpoint (s.ctx.rx a) = .ok e →
      s.chunkRoom e.core e.tag id = true →
      u.takeHeld (s.ctx.rx b + BitVec.ofNat 64 pos) (min 64 (n - pos)) = .ok (w, bs) →
      (∀ t, begins → 0 < n → n ≤ 64 → (s.ctx.rx b).toNat % 2 ^ 16 + n ≤ 2 ^ 16 →
        s.access .load (s.ctx.rx b) n 8 = .ok t → (s.getCl s.cur.core.cl).ways = [] →
        bs.length = n ∧ ∀ j < n, bs[j]? = some (s.mem.reads (t.place.plus j))) ∧
      (n ≤ pos + 64 → Performs (.msends a b c) s { s.ctx with regionid := s.ctx.regionid + 1 } fun t =>
        SameBytes s t ∧ (t.getCore e.core).inbox = (s.getCore e.core).inbox ++ chunk ++
          [⟨BitVec.ofNat 8 e.tag, id, [], some (BitVec.ofNat 32 n)⟩]) ∧
      (pos + 64 < n → Calm s (.msends a b c) = true → ∃ t, exec (.msends a b c) s = .next t ∧
        t.ctx = { s.ctx with
          pos := s.ctx.pos + 1, waiting := true, plan := w.ctx.plan, doing := some (.msends a b c)
          lastIssue := s.issueCycle } ∧ SameBytes s t ∧
        (t.getCore e.core).inbox = (s.getCore e.core).inbox ++ chunk))) ∧
  (∀ (s : State) (k : CoreId) (n : Nat) (c : Chunk) (ix : Fin 16) (e : TableEntry) (st : StreamSt),
    (s.nextArrival k false = some (n, c, ix, e, st) →
      ∃ t st', exec (.streamChunkArrival k) s = .next t ∧ t.mem = s.mem ∧
        (t.getCore k).inbox = (s.getCore k).inbox.eraseIdx n ∧
        (t.getCore k).table.get ix = some { e with busy := some c.sender } ∧
        (t.getCtx ⟨k, e.ctx⟩).streams.get e.reg = some st' ∧
        (e.busy.isSome = true → st.bound = 0 → st.ended = false →
          st'.ended = false ∧ st'.delivered * st.esz + st'.rest.length
            = st.delivered * st.esz + st.rest.length + c.bytes.length)) ∧
    (s.nextArrival k true = some (n, c, ix, e, st) → s.freeSlots k = [] →
      ∃ t st', exec (.endOfStream k) s = .next t ∧ t.mem = s.mem ∧
        (t.getCore k).inbox = (s.getCore k).inbox.eraseIdx n ∧
        (t.getCore k).table.get ix = some { e with
          busy := none, order := (s.getCore k).orders
          pending := some ((c.eos.getD 0).setWidth 64 + (c.sender <<< 32), clOfBits c.sender.toNat) } ∧
        (t.getCtx ⟨k, e.ctx⟩).streams.get e.reg = some st' ∧ st'.ended = true ∧ st'.rest = []))

/-- R188, R189, R191, R192; the id of a new conversation is the table's free choice (assumption 5). That NOTBOUND on a
register that is not VALID has TRAPINFO 0, and what CVLEAVE does for a role that is no more, is the model's reading
(assumption 52, DEDUCED). -/
def Obligations.ConversationsOpenJoinLeave : Prop :=
  (∀ (s s' : State) (d a : XReg), s.mem.wf → s.vecMemBusy = false →
    ((s.ctx.rx a).toNat % 64 ≠ 0 → Traps (.cvopen d a) s ⟨.align, s.ctx.rx a, 0⟩) ∧
    (s.readWeave (s.ctx.rx a) = .ok (s', none) →
      Performs (.cvopen d a) s (s.ctx.wx d (BitVec.ofInt 64 (-2))) fun t => SameBytes s t ∧ t.pkg = s.pkg) ∧
    (∀ w p q, s.readWeave (s.ctx.rx a) = .ok (s', some w) → (s.getCl s.cur.core.cl).part = some p → s.part? p = some q →
      (q.cfg.convs ≤ s.convCount p →
        Performs (.cvopen d a) s (s.ctx.wx d (BitVec.ofInt 64 (-1))) fun t => SameBytes s t ∧ t.pkg = s.pkg) ∧
      (s.convCount p < q.cfg.convs → s.pkg.convs.length < 65536 → ∃ id < 65536, Map.get? s.pkg.convs id = none ∧
        Performs (.cvopen d a) s (s.ctx.wx d (BitVec.ofNat 64 id)) fun t => SameBytes s t ∧
          t.pkg = { s.pkg with
            convs := Map.put s.pkg.convs id ⟨p, w, 0, 0, Vector.replicate 8 none, [], [], false⟩ }))) ∧
  (∀ (s : State) (d : CvReg) (a b : XReg) (hi : Bool) (p : Nat) (c : Conv),
    let id := (s.ctx.rx a).toNat
    let role := (s.ctx.rx b).toNat
    (s.getCl s.cur.core.cl).part = some p →
    ((∀ v, Map.get? s.pkg.convs id = some v → v.part ≠ p ∨ v.gone = true) →
      Traps (.cvjoin d a b hi) s ⟨.noConv, 0, BitVec.ofNat 64 id⟩) ∧
    (Map.get? s.pkg.convs id = some c → c.part = p → c.gone = false →
      (c.weave.nroles ≤ role → Traps (.cvjoin d a b hi) s ⟨.noRole, 0, BitVec.ofNat 64 id⟩) ∧
      (role < c.weave.nroles → c.bound role = true → (∀ e, c.mapOf role = some e → e.ctx ≠ s.cur) →
        (∀ e, c.pendingOf role = some e → e.ctx ≠ s.cur) →
        Traps (.cvjoin d a b hi) s ⟨.bound, 0, BitVec.ofNat 64 id⟩) ∧
      (role < c.weave.nroles → role < 8 → c.bound role = false →
        let v : Word := BitVec.ofNat 64 (2 ^ 63 + (if hi then 2 ^ 19 else 0) + role * 2 ^ 16 + id)
        Performs (.cvjoin d a b hi) s { s.ctx with cv := s.ctx.cv.set d.val v } fun t =>
          t.mem = s.mem ∧ t.pkg = { s.pkg with convs := Map.put s.pkg.convs id { c with
            roles := c.roles.setIfInBounds role (some ⟨s.cur, hi⟩) } }))) ∧
  (∀ (s : State) (r : CvReg) (b d : XReg) (p : Nat) (c : Conv),
    let v := s.ctx.cv.get r
    let id := v.toNat % 2 ^ 16
    let role := v.toNat / 2 ^ 16 % 8
    (s.getCl s.cur.core.cl).part = some p → v.getLsbD 63 = true →
    Map.get? s.pkg.convs id = some c → c.part = p → c.gone = false →
    (∀ e h, s.msgEndpoint (s.ctx.rx b) = .ok e → c.mapOf role = some h → h.ctx = s.cur →
      Performs (.cvdeleg r b) s { s.ctx with cv := s.ctx.cv.set r.val (v &&& BitVec.ofNat 64 (2 ^ 63 - 1)) } fun t =>
        t.mem = s.mem ∧ t.pkg = { s.pkg with convs := Map.put s.pkg.convs id { c with
          delegs := Map.put c.delegs role ⟨⟨e.core, e.ctx⟩, e.hi⟩ } }) ∧
    (∀ h g, c.mapOf role = some h → h.ctx = s.cur → c.pendingOf role = some g → g.ctx ≠ s.cur → c.held = [] →
      Performs (.cvleave r) s { s.ctx with cv := s.ctx.cv.set r.val 0 } fun t => t.mem = s.mem ∧
        t.pkg = { s.pkg with convs := Map.put s.pkg.convs id { c with roles := c.roles.setIfInBounds role none } }) ∧
    (∀ g, c.pendingOf role = some g → g.ctx = s.cur → c.held = [] → (∃ q < 8, q ≠ role ∧ c.bound q = true) →
      Performs (.cvleave r) s { s.ctx with cv := s.ctx.cv.set r.val 0 } fun t => t.mem = s.mem ∧
        t.pkg = { s.pkg with convs := Map.put s.pkg.convs id { c with
          roles := c.roles.setIfInBounds role none, delegs := Map.del c.delegs role } }) ∧
    (∀ h, c.mapOf role = some h → h.ctx = s.cur → c.pendingOf role = none → c.held = [] →
      Performs (.cvleave r) s { s.ctx with cv := s.ctx.cv.set r.val 0 } fun t => t.mem = s.mem ∧
        ((∃ q < 8, q ≠ role ∧ c.bound q = true) → t.pkg = { s.pkg with convs := Map.put s.pkg.convs id { c with
          roles := c.roles.setIfInBounds role none } }) ∧
        ((∀ q < 8, q ≠ role → c.bound q = false) →
          t.pkg = { s.pkg with convs := Map.del s.pkg.convs id })) ∧
    ((∀ h, c.mapOf role = some h → h.ctx ≠ s.cur) → (∀ g, c.pendingOf role = some g → g.ctx ≠ s.cur) →
      Performs (.cvleave r) s { s.ctx with cv := s.ctx.cv.set r.val 0 } fun t => t.mem = s.mem ∧ t.pkg = s.pkg) ∧
    (∃ w : Word, WritesX (.cvstat d r) s d w 8 ∧ (c.state < 64 → w.toNat / 2 ^ 63 = 1 ∧ w.toNat % 2 ^ 6 = c.state ∧
      w.toNat / 2 ^ 40 % 2 ^ 16 = id ∧ w.toNat / 2 ^ 16 % 2 ^ 24 = c.seq.toNat % 2 ^ 24 ∧
      (w.getLsbD 7 = true ↔ ∀ t ∈ c.weave.trans, t.state ≠ c.state) ∧
      ∀ j < 8, w.getLsbD (8 + j) = c.bound j))) ∧
  ∀ (s : State) (r : CvReg) (d : XReg), (s.ctx.cv.get r).getLsbD 63 = false →
    WritesX (.cvstat d r) s d 0 8 ∧ Traps (.cvleave r) s ⟨.notBound, 0, 0⟩

/-- R190 with R191: `map` is the map of roles once the recorded delegations are applied. A trap leaves them recorded, as it
changes nothing, and CVCHOOSE's notifications go in role order (assumption 17, DEDUCED). The PRIO of the endpoint that
CVDELEG named selects the mailbox, and a held message goes by the PRIO in force when it was sent (assumption 52, DEDUCED).
-/
def Obligations.ConversationsSend : Prop :=
  (∀ (s s' : State) (r : CvReg) (kr a b : XReg) (choose : Bool) (bs : List Byte) (p : Nat) (c : Conv),
    let i : Instr := if choose then .cvchoose r kr a b else .cvsend r kr a b
    let v := s.ctx.cv.get r
    let id := v.toNat % 2 ^ 16
    let role := v.toNat / 2 ^ 16 % 8
    let k := (s.ctx.rx kr).toNat
    let map := fun (n : Nat) => match Map.get? c.delegs n with | some e => some e | none => c.mapOf n
    s.mem.wf → s.vecMemBusy = false → (s.getCl s.cur.core.cl).part = some p → v.getLsbD 63 = true →
    Map.get? s.pkg.convs id = some c → c.part = p → c.gone = false →
    s.payload (s.ctx.rx a) (s.ctx.rx b) = .ok (s', bs) →
    ((∀ h, map role = some h → h.ctx ≠ s.cur) → Traps i s ⟨.notBound, 0, BitVec.ofNat 64 id⟩) ∧
    (∀ h, map role = some h → h.ctx = s.cur →
      let turn : Trap := ⟨.turn, 0, BitVec.ofNat 64 (c.state + role * 2 ^ 8 + k % 32 * 2 ^ 16 + id * 2 ^ 32)⟩
      ((∀ t ∈ c.weave.trans, ¬(t.state = c.state ∧ t.srole = role ∧ t.kind = k)) → Traps i s turn) ∧
      ∀ tr, findTrans c.weave.trans c.state role k = some tr → tr.rrole < 8 →
        (¬(c.weave.choice / 2 ^ k % 2 = 1 ↔ choose = true) → Traps i s turn) ∧
        ((c.weave.choice / 2 ^ k % 2 = 1 ↔ choose = true) →
          (map tr.rrole = none → Traps i s ⟨.unbound, 0, BitVec.ofNat 64 id⟩) ∧
          ∀ e, map tr.rrole = some e →
            let msg := fun (q : RoleMap) (bs : List Byte) =>
              (⟨q.ctx.idx, convHeader (c.seq + 1) role k id bs.length, bs, none⟩ : Message)
            let others := if choose then (List.range 8).filterMap fun n =>
              if n = role ∨ n = tr.rrole then none else (map n).map fun q => (q, msg q []) else []
            let sent := (e, msg e bs) :: others
            let ahead := fun (q : RoleMap) =>
              (∃ x ∈ s.core.sendBuf, x.sender = s.cur.idx ∧ x.dst = q.ctx.core ∧ x.hi = q.hi ∧ x.order < s.arrivals) ∨
              ∃ v ∈ s.pkg.convs, ∃ h ∈ v.2.held,
                h.sender = s.cur ∧ h.dst = q.ctx.core ∧ h.hi = q.hi ∧ h.order < s.arrivals
            Performs i s { s.ctx with regionid := s.ctx.regionid + 1 } fun t => SameBytes s t ∧
              bs.length = min (s.ctx.rx b).toNat 256 ∧
              ∃ c', Map.get? t.pkg.convs id = some c' ∧ c'.state = tr.next ∧ c'.seq = c.seq + 1 ∧ c'.delegs = [] ∧
                (∀ n < 8, c'.mapOf n = map n) ∧
                (others = [] →
                  let goes := ((s.getCore e.ctx.core).mailbox e.hi).length < 32 ∧
                    (∀ q ∈ c.held, ¬(q.dst = e.ctx.core ∧ q.msg.ctx = e.ctx.idx)) ∧ ¬ ahead e
                  (goes → c'.held = c.held ∧ (t.getCore e.ctx.core).mailbox e.hi =
                    (s.getCore e.ctx.core).mailbox e.hi ++ [msg e bs]) ∧
                  (¬ goes → t.cores = s.cores ∧ t.arrivals = s.arrivals + 1 ∧
                    c'.held = c.held ++ [⟨e.ctx.core, e.hi, msg e bs, s.cur, s.arrivals⟩])) ∧
                (c.held = [] → (∀ x ∈ sent, ¬ ahead x.1 ∧
                    ((s.getCore x.1.ctx.core).mailbox x.1.hi).length + 8 ≤ 32) →
                  c'.held = [] ∧ ∀ (core : CoreId) (hi : Bool), (t.getCore core).mailbox hi =
                    (s.getCore core).mailbox hi ++
                      (sent.filter fun x => decide (x.1.ctx.core = core) && decide (x.1.hi = hi)).map fun x => x.2)))) ∧
  (∀ (s : State) (id n : Nat) (c : Conv) (h : HeldMsg), Map.get? s.pkg.convs id = some c → c.held[n]? = some h →
    ((s.getCore h.dst).mailbox h.hi).length < 32 → s.clRuns h.dst.cl = true →
    (∀ j q, j < n → c.held[j]? = some q → ¬(q.dst = h.dst ∧ q.msg.ctx = h.msg.ctx)) →
    (∀ x ∈ (s.getCore h.sender.core).sendBuf,
      ¬(x.sender = h.sender.idx ∧ x.dst = h.dst ∧ x.hi = h.hi ∧ x.order < h.order)) →
    (∀ v ∈ s.pkg.convs, ∀ x ∈ v.2.held, ¬(x.sender = h.sender ∧ x.dst = h.dst ∧ x.hi = h.hi ∧ x.order < h.order)) →
    ∃ t, exec (.convHeldDelivery id n) s = .next t ∧ t.mem = s.mem ∧ t.ctx = s.ctx ∧
      (t.getCore h.dst).mailbox h.hi = (s.getCore h.dst).mailbox h.hi ++ [h.msg] ∧
      (c.gone = false → Map.get? t.pkg.convs id = some { c with held := c.held.eraseIdx n }))

/-- R122 with R46, R47 and R54. `FSpec.Rounds` is R46's rounding of a real number. -/
def Obligations.FloatArithmeticRoundsOnce : Prop :=
  ∀ (s : State) (t : FFmt) (rnd : Rnd) (d a b c : FReg),
    let F := ffmtSpec t
    let op := fun (r : FReg) => F.decode ((s.ctx.rf r).toNat % 2 ^ F.width)
    let rm := roundingMode s rnd
    let val : FVal → ℝ := fun v => match v with | .fin n m e => (if n then -1 else 1) * m * (2 : ℝ) ^ e | _ => 0
    let gives := fun (i : Instr) (r : Nat × Flags) => GivesFlags i s (s.ctx.wf d (BitVec.ofNat 64 r.1)) r.2
    let rounds := fun (i : Instr) (y : ℝ) => y ≠ 0 → ∃ r, F.Rounds rm y r ∧ gives i r
    let nv := fun (l : List FVal) => if FVal.nan true ∈ l then flNV else (0 : Flags)
    let invalid := fun (i : Instr) => gives i (F.nanBits, flNV)
    let inf := fun (i : Instr) (n : Bool) => gives i (F.sign n + F.infBits, 0)
    let zero := fun (i : Instr) (n : Bool) => gives i (F.sign n, 0)
    let zeroSum := fun (z₁ z₂ : Prop) [Decidable z₁] [Decidable z₂] (n₁ n₂ : Bool) =>
      if z₁ ∧ z₂ ∧ n₁ = n₂ then n₁ else decide (rm = .rdn)
    let fadd := Instr.fadd t rnd d a b
    let fsub := Instr.fsub t rnd d a b
    let fmul := Instr.fmul t rnd d a b
    let fdiv := Instr.fdiv t rnd d a b
    let ffma := Instr.ffma t rnd d a b c
    let fsqrt := Instr.fsqrt t rnd d a
    (∀ n₁ m₁ e₁ n₂ m₂ e₂, op a = .fin n₁ m₁ e₁ → op b = .fin n₂ m₂ e₂ →
      rounds fadd (val (op a) + val (op b)) ∧ rounds fsub (val (op a) - val (op b)) ∧
      rounds fmul (val (op a) * val (op b)) ∧ (m₂ ≠ 0 → rounds fdiv (val (op a) / val (op b))) ∧
      (n₁ = false → rounds fsqrt (Real.sqrt (val (op a)))) ∧
      (val (op a) + val (op b) = 0 → zero fadd (zeroSum (m₁ = 0) (m₂ = 0) n₁ n₂)) ∧
      (val (op a) - val (op b) = 0 → zero fsub (zeroSum (m₁ = 0) (m₂ = 0) n₁ (!n₂))) ∧
      ((m₁ = 0 ∨ m₂ = 0) → zero fmul (n₁ != n₂)) ∧
      (m₁ = 0 → m₂ ≠ 0 → zero fdiv (n₁ != n₂)) ∧ (m₁ = 0 → zero fsqrt n₁) ∧
      (m₁ ≠ 0 → m₂ = 0 → gives fdiv (F.sign (n₁ != n₂) + F.infBits, flDZ)) ∧ (m₁ = 0 → m₂ = 0 → invalid fdiv) ∧
      (n₁ = true → m₁ ≠ 0 → invalid fsqrt) ∧
      (∀ n₃ m₃ e₃, op c = .fin n₃ m₃ e₃ →
        rounds ffma (val (op a) * val (op b) + val (op c)) ∧
        (val (op a) * val (op b) + val (op c) = 0 → zero ffma (zeroSum (m₁ * m₂ = 0) (m₃ = 0) (n₁ != n₂) n₃))) ∧
      (∀ n, op c = .inf n → inf ffma n) ∧ (∀ g, op c = .nan g → gives ffma (F.nanBits, nv [op c]))) ∧
    (((op a).isNan = true ∨ (op b).isNan = true) →
      (∀ i ∈ [fadd, fsub, fmul, fdiv], gives i (F.nanBits, nv [op a, op b])) ∧
      gives ffma (F.nanBits, nv [op a, op b, op c])) ∧
    ((op a).isNan = true → gives fsqrt (F.nanBits, nv [op a])) ∧
    (op a = .inf false → inf fsqrt false) ∧ (op a = .inf true → invalid fsqrt) ∧
    (∀ n n' m e,
      (op a = .inf n → op b = .inf n' →
        (if n = n' then inf fadd n else invalid fadd) ∧ (if n = n' then invalid fsub else inf fsub n) ∧
        inf fmul (n != n') ∧ invalid fdiv) ∧
      (op a = .inf n → op b = .fin n' m e → inf fadd n ∧ inf fsub n ∧ inf fdiv (n != n')) ∧
      (op a = .fin n m e → op b = .inf n' → inf fadd n' ∧ inf fsub (!n') ∧ zero fdiv (n != n')) ∧
      ((op a = .inf n ∧ op b = .fin n' m e) ∨ (op a = .fin n m e ∧ op b = .inf n') →
        if m = 0 then invalid fmul ∧ invalid ffma else inf fmul (n != n')) ∧
      ((op a = .inf n ∧ (op b = .inf n' ∨ (op b = .fin n' m e ∧ m ≠ 0))) ∨ (op a = .fin n m e ∧ m ≠ 0 ∧ op b = .inf n') →
        (∀ k j q, op c = .fin k j q → inf ffma (n != n')) ∧
        (∀ k, op c = .inf k → if k = (n != n') then inf ffma k else invalid ffma) ∧
        (∀ g, op c = .nan g → gives ffma (F.nanBits, nv [op c]))))

/-- R123-R127 with R50 and Table 2.9. -/
def Obligations.FloatSelectsComparesConverts : Prop :=
  ∀ (s : State) (t : FFmt) (d a b : FReg) (x y : XReg),
    let F := ffmtSpec t
    let raw := fun (r : FReg) => (s.ctx.rf r).toNat % 2 ^ F.width
    let op := fun (r : FReg) => F.decode (raw r)
    let val : FVal → ℚ := fun v => match v with | .fin n m e => (if n then -1 else 1) * m * 2 ^ e | _ => 0
    let givesF := fun (i : Instr) (r : Nat) (fl : Flags) => GivesFlags i s (s.ctx.wf d (BitVec.ofNat 64 r)) fl
    let givesX := fun (i : Instr) (r : Nat) (fl : Flags) => GivesFlags i s (s.ctx.wx x (BitVec.ofNat 64 r)) fl
    let nv := if FVal.nan true ∈ [op a, op b] then flNV else (0 : Flags)
    let less : FVal → FVal → Prop := fun u v => match u, v with
      | .nan _, _ | _, .nan _ | .inf false, _ | .inf true, .inf true | .fin _ _ _, .inf true => False
      | .inf true, _ | .fin _ _ _, .inf false => True
      | .fin n m e, .fin n' m' e' => val (.fin n m e) < val (.fin n' m' e')
    let lt := less (op a) (op b)
    let gt := less (op b) (op a)
    let eq := (op a).isNan = false ∧ (op b).isNan = false ∧ ¬ lt ∧ ¬ gt
    let un := (op a).isNan = true ∨ (op b).isNan = true
    (lt → givesF (.fmin t d a b) (raw a) 0 ∧ givesF (.fmax t d a b) (raw b) 0) ∧
    (gt → givesF (.fmin t d a b) (raw b) 0 ∧ givesF (.fmax t d a b) (raw a) 0) ∧
    (eq → raw a = raw b → givesF (.fmin t d a b) (raw a) 0 ∧ givesF (.fmax t d a b) (raw a) 0) ∧
    (eq → raw a ≠ raw b → ∃ n, op a = .fin n 0 (F.emin - F.mb) ∧ op b = .fin (!n) 0 (F.emin - F.mb) ∧
      givesF (.fmin t d a b) (if n then raw a else raw b) 0 ∧ givesF (.fmax t d a b) (if n then raw b else raw a) 0) ∧
    ((op a).isNan = true → (op b).isNan = false →
      givesF (.fmin t d a b) (raw b) nv ∧ givesF (.fmax t d a b) (raw b) nv) ∧
    ((op a).isNan = false → (op b).isNan = true →
      givesF (.fmin t d a b) (raw a) nv ∧ givesF (.fmax t d a b) (raw a) nv) ∧
    ((op a).isNan = true → (op b).isNan = true →
      givesF (.fmin t d a b) F.nanBits nv ∧ givesF (.fmax t d a b) F.nanBits nv) ∧
    (lt → givesX (.fcmp .eq t x a b) 0 0 ∧ givesX (.fcmp .lt t x a b) 1 0 ∧ givesX (.fcmp .le t x a b) 1 0 ∧
      givesX (.fcmp .un t x a b) 0 0) ∧
    (gt → givesX (.fcmp .eq t x a b) 0 0 ∧ givesX (.fcmp .lt t x a b) 0 0 ∧ givesX (.fcmp .le t x a b) 0 0) ∧
    (eq → givesX (.fcmp .eq t x a b) 1 0 ∧ givesX (.fcmp .lt t x a b) 0 0 ∧ givesX (.fcmp .le t x a b) 1 0) ∧
    (un → givesX (.fcmp .eq t x a b) 0 nv ∧ givesX (.fcmp .lt t x a b) 0 flNV ∧ givesX (.fcmp .le t x a b) 0 flNV ∧
      givesX (.fcmp .un t x a b) 1 nv) ∧
    (∃ k : Nat, givesX (.fclass t x a) (2 ^ k) 0 ∧ match op a with
      | .inf n => k = if n then 0 else 7
      | .nan sig => k = if sig then 8 else 9
      | .fin n m _ => k = if m = 0 then (if n then 3 else 4) else if raw a / 2 ^ F.mb % 2 ^ F.eb = 0
          then (if n then 2 else 5) else (if n then 1 else 6)) ∧
    (∀ o : FsgnOp, ∃ r : Nat, givesF (.fsgn o t d a b) r 0 ∧ r < 2 ^ F.width ∧
      r % 2 ^ (F.width - 1) = raw a % 2 ^ (F.width - 1) ∧
      r.testBit (F.width - 1) = match o with
        | .cp => (raw b).testBit (F.width - 1)
        | .neg => !(raw b).testBit (F.width - 1)
        | .xor => (raw a).testBit (F.width - 1) ^^ (raw b).testBit (F.width - 1)) ∧
    WritesX (.fmvx x a) s x (s.ctx.rf a) 8 ∧
    (Calm s (.fmvf d y) = true → exec (.fmvf d y) s = .next (s.after (s.ctx.wf d (s.ctx.rx y)) 8)) ∧
    (∀ (o : CvtOp) (rnd : Rnd),
      let rm := roundingMode s rnd
      let out := fun (r : Nat) (fl : Flags) => match cvtNumTy o.dst with
        | .flt _ => GivesFlags (.fcvt o rnd) s (s.ctx.wf (fReg o.d) (BitVec.ofNat 64 r)) fl
        | .int sg w => GivesFlags (.fcvt o rnd) s (s.ctx.wx o.d (BitVec.ofInt 64 (readInt sg w r))) fl
      let outInt := fun (sg : Bool) (w : Nat) (k : Int) =>
        if k < intLo sg w then out (wrapBits w (intLo sg w)) flNV
        else if intHi sg w < k then out (wrapBits w (intHi sg w)) flNV
        else out (wrapBits w k) 0
      (∀ G F' : FSpec, cvtNumTy o.src = .flt G → cvtNumTy o.dst = .flt F' →
        let v := G.decode ((s.ctx.rf (fReg o.a)).toNat % 2 ^ G.width)
        out (F'.encode rm v).1 (F'.encode rm v).2) ∧
      (∀ (sg : Bool) (w : Nat) (F' : FSpec), cvtNumTy o.src = .int sg w → cvtNumTy o.dst = .flt F' →
        let k := readInt sg w (s.ctx.rx o.a).toNat
        let v := FVal.fin (decide (k < 0)) k.natAbs 0
        out (F'.encode rm v).1 (F'.encode rm v).2) ∧
      (∀ (G : FSpec) (sg : Bool) (w : Nat), cvtNumTy o.src = .flt G → cvtNumTy o.dst = .int sg w →
        let v := G.decode ((s.ctx.rf (fReg o.a)).toNat % 2 ^ G.width)
        (v.isNan = true → out 0 flNV) ∧
        (∀ n, v = .inf n → out (wrapBits w (if n then intLo sg w else intHi sg w)) flNV) ∧
        (∀ k : Int, v.finite → RoundsToInt rm (val v) k →
          if k < intLo sg w then out (wrapBits w (intLo sg w)) flNV
          else if intHi sg w < k then out (wrapBits w (intHi sg w)) flNV
          else out (wrapBits w k) (if val v = k then 0 else flNX))) ∧
      (∀ (sg sg' : Bool) (w w' : Nat), cvtNumTy o.src = .int sg w → cvtNumTy o.dst = .int sg' w' →
        outInt sg' w' (readInt sg w (s.ctx.rx o.a).toNat)))

/-- R46, R47 and Table 2.7, on `FSpec.encode`; `FSpec.Rounds` says what the rounding of a nonzero number is. -/
def Obligations.RoundingIsCorrect : Prop :=
  ∀ (t : FFmt) (rm : RMode),
    let F := ffmtSpec t
    (∀ (w : Nat) n m e, w < 2 ^ F.width → F.decode w = .fin n m e → F.encode rm (.fin n m e) = (w, 0)) ∧
    (∀ (n : Bool) (m : Nat) (e : Int), m ≠ 0 → F.Rounds rm ((if n then -1 else 1) * m * (2 : ℝ) ^ e) (F.encode rm (.fin n m e))) ∧
    (∀ n, F.encode rm (.inf n) = (F.sign n + F.infBits, 0)) ∧
    F.encode rm (.nan false) = (F.nanBits, 0) ∧ F.encode rm (.nan true) = (F.nanBits, flNV)

/-- R116, R117, R142, R143 and Table 5.6. -/
def Obligations.VectorIssue : Prop :=
  (∀ (s : State) (i : Instr) (m : XReg), maskReg i = some m → (∀ j, s.ctx.streams.get j = none) →
    (s.core.vq.length < 16 →
      Performs i s s.ctx fun t => ∃ q : VCmd,
        t = (s.setCore s.cur.core { s.core with vq := s.core.vq ++ [q], vseq := s.core.vseq + 1 }).after s.ctx i.len ∧
        q.instr = i ∧ q.seq = s.core.vseq ∧ q.ctx = s.cur.idx ∧ q.rm = roundingMode s (rndOf i) ∧
        q.mask = (if m = 0 then BitVec.allOnes 64 else s.ctx.rx m) ∧ q.lanes = BitVec.allOnes 32 ∧ q.heads = [] ∧
        (∀ t rnd d a x m, i = .vdq t rnd d a x m → q.op1 = s.ctx.rx x) ∧
        (∀ t d x n, i = .vins t d x n → q.op1 = s.ctx.rx x) ∧
        (∀ t d x m, i = .vbcast t (.x x) d m → q.op1 = s.ctx.rx x) ∧
        (∀ t d x m, i = .vbcast t (.f x) d m → q.op1 = s.ctx.rf x)) ∧
    (16 ≤ s.core.vq.length → Waits i s)) ∧
  (∀ (s : State) (d : XReg),
    ((s.queued s.cur).isEmpty = true → Calm s .vfence = true → exec .vfence s = .next (s.after s.ctx 12)) ∧
    ((s.queued s.cur).isEmpty = false → Waits .vfence s) ∧
    ∃ v : Word, WritesX (.vstat d) s d v 12 ∧ (∀ n, 32 ≤ n → v.getLsbD n = false) ∧
      ∀ j : Fin 8, v.getLsbD (24 + j.val) = s.ctx.ovr.getLsbD j.val ∧
        match s.ctx.streams.get j with
        | none => v.getLsbD j.val = false ∧ v.getLsbD (8 + j.val) = false ∧ v.getLsbD (16 + j.val) = false
        | some st => v.getLsbD j.val = true ∧ v.getLsbD (8 + j.val) = st.ended ∧
            v.getLsbD (16 + j.val) = !st.groups.isEmpty)

/-- R116, R120, R129-R137 and R141, for commands whose order numbers differ, as those of a core do. `blkQuant` is the
quantisation of R39 and R41. That VINS writes no lane that is not valid in the iteration is the model's choice
(assumption 12). -/
def Obligations.VectorCommandEffects : Prop :=
  ∀ (s : State) (c : CtxId) (q : VCmd) (rest : List VCmd), s.queued c = q :: rest → (∀ p ∈ rest, p.seq ≠ q.seq) →
    let old := s.getCtx c
    let lane := fun (j : Nat) => q.mask.getLsbD j && q.lanes.getLsbD j
    let src := fun (r : VReg) => (Map.get? q.heads r).getD (old.rv r)
    let real : FVal → ℝ := fun v => match v with | .fin n m e => (if n then -1 else 1) * m * (2 : ℝ) ^ e | _ => 0
    let at64 := fun (l : Lanes) (i : Nat) => laneAt l (2 * i) + 2 ^ 32 * laneAt l (2 * i + 1)
    ∃ t, exec (.vectorCommandComplete c) s = .next t ∧
      t.queued c = rest.map (fun p => { p with since := t.mem.stores }) ∧
      (isVectorMem q.instr = false → t.mem = s.mem ∧ ∀ k, k ≠ c → t.getCtx k = s.getCtx k) ∧
      (let new := t.getCtx c
       let only := fun (d : VReg) => new.x = old.x ∧ new.f = old.f ∧ ∀ r, r ≠ d → new.rv r = old.rv r
       let gives := fun (d : VReg) (f : Fin 32 → Lane) =>
        new.rv d = Vector.ofFn (fun j : Fin 32 => if lane j.val then f j else (old.rv d).get j) ∧
          new.fpflags = old.fpflags ∧ only d
       let raised := fun (fl : Flags) => new.fpflags &&& fl = fl
       ∀ (u : VTy) (rnd : Rnd) (d a b : VReg) (x m : XReg) (n : Fin 32) (imm : BitVec 32),
        (∀ (sg : Bool) (w : Nat) (sat : Bool), vtyNum u = .int sg w →
          let num := fun (r : VReg) (j : Fin 32) => readInt sg w (laneAt (src r) j.val)
          let out := fun (v : Int) => BitVec.ofInt 32
            (if sat then max (intLo sg w) (min (intHi sg w) v) else readInt sg w (wrapBits w v))
          (q.instr = .vadd u sat rnd d a b m → gives d fun j => out (num a j + num b j)) ∧
          (q.instr = .vsub u sat rnd d a b m → gives d fun j => out (num a j - num b j)) ∧
          (q.instr = .vmul u sat rnd d a b m → gives d fun j => out (num a j * num b j))) ∧
        (u = .i32 ∨ u = .z32 →
          (q.instr = .vshl u d a (.reg b) m → gives d fun j => (src a).get j <<< (((src b).get j).toNat % 32)) ∧
          (q.instr = .vcmp .eq u x a b m → new.rv = old.rv ∧ ∃ v, new.x = (old.wx x v).x ∧
            ∀ j < 64, v.getLsbD j = (if h : j < 32 then lane j && (src a).get ⟨j, h⟩ == (src b).get ⟨j, h⟩ else false))) ∧
        (q.instr = .vmin .z32 d a b m → gives d fun j =>
          if ((src a).get j).toNat ≤ ((src b).get j).toNat then (src a).get j else (src b).get j) ∧
        (q.instr = .vmax .z32 d a b m → gives d fun j =>
          if ((src a).get j).toNat ≤ ((src b).get j).toNat then (src b).get j else (src a).get j) ∧
        (q.instr = .vmin .i32 d a b m → gives d fun j =>
          if ((src a).get j).toInt ≤ ((src b).get j).toInt then (src a).get j else (src b).get j) ∧
        (q.instr = .vmax .i32 d a b m → gives d fun j =>
          if ((src a).get j).toInt ≤ ((src b).get j).toInt then (src b).get j else (src a).get j) ∧
        (q.instr = .vshr .z32 d a (.imm imm) m → gives d fun j => (src a).get j >>> (imm.toNat % 32)) ∧
        (q.instr = .vshr .i32 d a (.imm imm) m → gives d fun j => ((src a).get j).sshiftRight (imm.toNat % 32)) ∧
        (q.instr = .vand u d a b m → gives d fun j => (src a).get j &&& (src b).get j) ∧
        (q.instr = .vor u d a b m → gives d fun j => (src a).get j ||| (src b).get j) ∧
        (q.instr = .vxor u d a b m → gives d fun j => (src a).get j ^^^ (src b).get j) ∧
        (q.instr = .vsel u d a b m → new.rv d = Vector.ofFn fun j : Fin 32 =>
          if lane j.val then (src a).get j else (src b).get j) ∧
        (q.instr = .vperm u d a b m → gives d fun j =>
          (src a).get ⟨((src b).get j).toNat % 32, Nat.mod_lt _ (by decide)⟩) ∧
        (q.instr = .vbcast u (.imm imm) d m → gives d fun _ => imm) ∧
        (q.instr = .vbcast u (.lane a n) d m → gives d fun _ => (src a).get n) ∧
        (q.instr = .vins u d x n → new.rv d = if lane n.val then (old.rv d).set n.val (q.op1.setWidth 32) else old.rv d) ∧
        (∀ D : Fin 64, q.instr = .vred .sum .i32 rnd D a m → new.v = old.v ∧ new.x = (old.wx D (BitVec.ofInt 64
          ((List.finRange 32).map fun j => if lane j.val then ((src a).get j).toInt else 0).sum)).x) ∧
        (∀ excl, q.instr = .vscan excl .i32 rnd d a m → gives d fun j => BitVec.ofInt 32
          ((List.finRange 32).map fun k => if lane k.val && (decide (k < j) || (!excl && decide (k = j)))
            then ((src a).get k).toInt else 0).sum) ∧
        (q.instr = .vext .i32 x a n → new.x = (old.wx x (((src a).get n).signExtend 64)).x) ∧
        (q.instr = .vext .z32 x a n → new.x = (old.wx x (((src a).get n).setWidth 64)).x) ∧
        (∀ (F : FSpec) (b' : VReg), vtyNum u = .flt F →
          let elem := fun (l : Lanes) (i : Nat) => if u = .f64 then at64 l i else laneAt l i % 2 ^ F.width
          let on := fun (i : Nat) => lane (if u = .f64 then 2 * i else i)
          let num := fun (r : VReg) (i : Nat) => F.decode (elem (src r) i)
          let val := fun (r : VReg) (i : Nat) => real (num r i)
          let is := fun (i r : Nat) => if u = .f64 then at64 (new.rv d) i = r else laneAt (new.rv d) i = r
          let rounds := fun (operands : List VReg) (y : Nat → ℝ) => only d ∧
            (∀ j : Fin 32, on (if u = .f64 then j.val / 2 else j.val) = false → (new.rv d).get j = (old.rv d).get j) ∧
            ∀ i < if u = .f64 then 16 else 32, on i = true → (∀ r ∈ operands, (num r i).finite) → y i ≠ 0 →
              ∃ r, F.Rounds q.rm (y i) r ∧ is i r.1 ∧ raised r.2
          let picks := fun (less : Nat → VReg) => ∀ i < if u = .f64 then 16 else 32, on i = true → (num a i).finite →
            (num b i).finite → val a i ≠ val b i → is i (elem (src (less i)) i)
          (q.instr = .vadd u false rnd d a b m → rounds [a, b] fun i => val a i + val b i) ∧
          (q.instr = .vsub u false rnd d a b m → rounds [a, b] fun i => val a i - val b i) ∧
          (q.instr = .vmul u false rnd d a b m → rounds [a, b] fun i => val a i * val b i) ∧
          (q.instr = .vfma u rnd d a b b' m → rounds [a, b, b'] fun i => val a i * val b i + val b' i) ∧
          (q.instr = .vmin u d a b m → picks fun i => open Classical in if val a i < val b i then a else b) ∧
          (q.instr = .vmax u d a b m → picks fun i => open Classical in if val a i < val b i then b else a)) ∧
        (∀ (to' fr : LaneFmt) (half : Bool), q.instr = .vcvt to' fr half rnd d a m → only d ∧
          let wide := to'.isF64 || fr.isF64
          let on := fun (i : Nat) => lane (if wide then 2 * i else i)
          let side := fun (i : Nat) => if to'.isF64 != fr.isF64 then 16 * half.toNat + i else i
          let bits := fun (i : Nat) => if fr.isF64 then at64 (src a) i else laneAt (src a) (side i)
          let is := fun (i r : Nat) => if to'.isF64 then at64 (new.rv d) i = r else laneAt (new.rv d) (side i) = r
          (∀ j : Fin 32, (if to'.isF64 then on (j.val / 2) = false
              else ∀ i < if wide then 16 else 32, on i = true → side i ≠ j.val) → (new.rv d).get j = (old.rv d).get j) ∧
          ∀ i < if wide then 16 else 32, on i = true →
            let int := fun (sg : Bool) (w : Nat) (k : Int) (fl : Flags) =>
              let k' := max (intLo sg w) (min (intHi sg w) k)
              is i (wrapBits 32 k') ∧ raised (if k' = k then fl else flNV)
            (∀ G F : FSpec, laneNum fr = .flt G → laneNum to' = .flt F →
              let r := F.encode q.rm (G.decode (bits i % 2 ^ G.width))
              is i (r.1 % 2 ^ F.width) ∧ raised r.2) ∧
            (∀ (sg : Bool) (w : Nat) (F : FSpec), laneNum fr = .int sg w → laneNum to' = .flt F →
              let k := readInt sg w (bits i)
              let r := F.encode q.rm (.fin (decide (k < 0)) k.natAbs 0)
              is i (r.1 % 2 ^ F.width) ∧ raised r.2) ∧
            (∀ (G : FSpec) (sg : Bool) (w : Nat), laneNum fr = .flt G → laneNum to' = .int sg w →
              let v := G.decode (bits i % 2 ^ G.width)
              (v.isNan = true → is i 0 ∧ raised flNV) ∧
              (∀ n', v = .inf n' → is i (wrapBits 32 (if n' then intLo sg w else intHi sg w)) ∧ raised flNV) ∧
              ∀ (n' : Bool) (k : Nat) (e k' : Int), v = .fin n' k e →
                let y : ℚ := (if n' then -1 else 1) * k * 2 ^ e
                RoundsToInt q.rm y k' → int sg w k' (if y = k' then 0 else flNX)) ∧
            (∀ (sg sg' : Bool) (w w' : Nat), laneNum fr = .int sg w → laneNum to' = .int sg' w' →
              int sg' w' (readInt sg w (bits i)) 0)) ∧
        (∀ t' : BlkFmt, q.instr = .vqnt t' rnd d a x m →
          let vals := (List.range 32).map fun j => specFp32.decode (if lane j then laneAt (src a) j else 0)
          let r := blkQuant t' q.rm vals
          (∀ (j : Nat) e, r.1[j]? = some e →
            lanesNat (new.rv d) / 2 ^ (t'.bits * j) % 2 ^ t'.bits = e % 2 ^ t'.bits) ∧
          (∀ j : Fin 32, t'.bits ≤ j.val → (new.rv d).get j = 0) ∧ new.x = (old.wx x (BitVec.ofNat 64 r.2.1)).x ∧
          raised r.2.2 ∧ (t'.isDxb = false →
            ((∃ v ∈ vals, v.isNan = true) → r.2.1 = 255 ∧ r.1 = List.replicate 32 0) ∧
            ((∀ v ∈ vals, v.isNan = false) → ∀ k : Int,
              (∃ v ∈ vals, v.finite ∧ (2 : ℝ) ^ k ≤ |real v|) → (∀ v ∈ vals, v.finite → |real v| < (2 : ℝ) ^ (k + 1)) →
              r.2.1 = (max (-127) (min 127 (k - mxEmax t')) + 127).toNat))) ∧
        (∀ t' : BlkFmt, q.instr = .vdq t' rnd d a x m → only d ∧ ∀ j : Fin 32,
          (lane j.val = false → (new.rv d).get j = (old.rv d).get j) ∧ (lane j.val = true →
            let sc := q.op1.toNat % 2 ^ 32
            let S := Int.ofNat (sc % 256)
            let e := lanesNat (src a) / 2 ^ (t'.bits * j.val) % 2 ^ t'.bits
            let is := fun (r : Nat) => (new.rv d).get j = BitVec.ofNat 32 r
            let exact := fun (y : ℝ) => y ≠ 0 → ∃ r, specFp32.Rounds q.rm y r ∧ is r.1 ∧ raised r.2
            if t'.isDxb then
              let mb := if t' = .dxb8 then 6 else 2
              let E : Nat := if e.testBit (mb + 1) then sc / 2 ^ 10 % 2 ^ 10 else sc % 2 ^ 10
              (2 ^ 20 ≤ sc → is specFp32.nanBits ∧ raised flNV) ∧
              (sc < 2 ^ 20 → (E = 1023 → is specFp32.nanBits) ∧
                (E = 0 ∨ (E < 1023 ∧ e % 2 ^ mb = 0) → is (specFp32.sign (e.testBit mb))) ∧
                (E ≠ 0 → E < 1023 → exact ((if e.testBit mb then -1 else 1) * (e % 2 ^ mb : Nat) *
                  (2 : ℝ) ^ ((E : Int) - if t' = .dxb8 then 516 else 512))))
            else
              (sc % 256 = 255 → is specFp32.nanBits) ∧ (sc % 256 ≠ 255 →
                if t' = .mxint8 then exact ((BitVec.ofNat 8 e).toInt * (2 : ℝ) ^ (S - 133))
                else ((mxSpec t').decode e).finite →
                  exact (real ((mxSpec t').decode e) * (2 : ℝ) ^ (S - 127))))) ∧
        (∀ fn : VsfFn, q.instr = .vsf fn rnd d a m → only d ∧ ∀ j : Fin 32,
          (lane j.val = false → (new.rv d).get j = (old.rv d).get j) ∧ (lane j.val = true →
            let v := specFp32.decode (laneAt (src a) j.val)
            let is := fun (r : Nat) (fl : Flags) => (new.rv d).get j = BitVec.ofNat 32 r ∧ raised fl
            let nan := specFp32.nanBits
            let inf := fun (n : Bool) => specFp32.sign n + specFp32.infBits
            let one := 0x3F800000
            let rounded := fun (y : ℝ) => ∃ r, specFp32.Rounds q.rm y r ∧ is r.1 r.2
            match v with
            | .nan g => is nan (if g then flNV else 0)
            | .inf n => match fn with
              | .exp2 | .exp => is (if n then 0 else inf false) 0
              | .log2 => if n then is nan flNV else is (inf false) 0
              | .rsqrt => if n then is nan flNV else is 0 0
              | .rcp => is (specFp32.sign n) 0
              | .tanh => is (specFp32.sign n + one) 0
              | .sigmoid => is (if n then 0 else one) 0
            | .fin n 0 _ => match fn with
              | .exp2 | .exp => is one 0
              | .log2 => is (inf true) flDZ
              | .rcp | .rsqrt => is (inf n) flDZ
              | .tanh => is (specFp32.sign n) 0
              | .sigmoid => is 0x3F000000 0
            | .fin n (_ + 1) _ =>
              (fn = .rcp → rounded (1 / real v)) ∧ (fn = .rsqrt → n = false → rounded (1 / Real.sqrt (real v))) ∧
              (fn = .rsqrt ∨ fn = .log2 → n = true → is nan flNV) ∧
              (fn = .exp2 → ∀ k : Int, real v = k → rounded ((2 : ℝ) ^ k)) ∧
              (fn = .log2 → ∀ k : Int, real v = (2 : ℝ) ^ k → if k = 0 then is 0 0 else rounded k)))) ∧
      ∀ (rnd : Rnd) (r : VReg) (a m : XReg) (off : BitVec 32) (e : ElemPlan) (h : e.e < 32), s.mem.wf →
        q.instr = .vst .i32 rnd r a off m → q.plan = [e] → e.fmt = none →
        StoresBytes s t e.place (leBytes 4 ((src r).get ⟨e.e, h⟩).toNat)

/-- R138, R140, R218, Table 5.4. `planElems` makes the checks of R140, element by element, and `raceElems` those of R218;
an element is performed at its home when its page, or that of its scale, is CHECKED. -/
def Obligations.VectorMemoryIssue : Prop :=
  ∀ (s : State) (t : VTy) (rnd : Rnd) (v r : VReg) (a b m : XReg) (sc : Fin 4) (off : BitVec 32) (la : LaCount),
    s.mem.wf → (∀ j, s.ctx.streams.get j = none) → s.core.vq.length < 16 →
    let base := s.ctx.rx a + off.signExtend 64
    let index := fun (i : Nat) => s.indexLane [] r t i <<< sc.val
    let issues := fun (i : Instr) (store uniform : Bool) (ea : Nat → Nat → Word) (ws : List Window) =>
      let q := s.command i m rnd [] []
      let acc : VecAccess := ⟨t, store, uniform, base, ea, decide ((q.actives t).length = 32)⟩
      let first := if uniform then s.convAt t base else convOf t none
      (∀ es, s.planElems acc first (q.actives t) = .ok es →
        ((∀ e ∈ es, e.plan.home = false) → Performs i s { s.ctx with windows := ws } fun u => SameBytes s u ∧
          u.getCore s.cur.core = { s.core with
            vq := s.core.vq ++ [{ q with plan := es.map fun e => e.plan }], vseq := s.core.vseq + 1 }) ∧
        ((∃ e ∈ es, e.plan.home = true) → (s.queued s.cur).isEmpty = true →
          (∀ tr, s.raceElems acc es = .trap tr → Traps i s tr) ∧
          (s.raceElems acc es = .ok () → Calm s i = true → ∃ u, exec i s = .next u ∧ u.cur = s.cur ∧
            u.cores = s.cores ∧ u.ctx.pc = s.ctx.pc + BitVec.ofNat 64 i.len ∧ (store = false → SameBytes s u)))) ∧
      (∀ tr, s.planElems acc first (q.actives t) = .trap tr → Traps i s tr)
    let window := [⟨s.ctx.pc, la.val, [.v v], [], some s.core.vseq⟩]
    let free := ∀ q ∈ s.queued s.cur, RegName.v r ∉ dests q.instr
    issues (.vld t rnd v a off m la) false true (fun i n => base + BitVec.ofNat 64 (i * n / 8)) window ∧
    issues (.vst t rnd v a off m) true true (fun i n => base + BitVec.ofNat 64 (i * n / 8)) [] ∧
    issues (.vlds t rnd v a b off m la) false false (fun i _ => base + BitVec.ofNat 64 i * s.ctx.rx b) window ∧
    issues (.vsts t rnd v a b off m) true false (fun i _ => base + BitVec.ofNat 64 i * s.ctx.rx b) [] ∧
    (free → issues (.vgath t rnd v a r sc off m la) false false (fun i _ => base + index i) window ∧
      issues (.vscat t rnd v a r sc off m) true false (fun i _ => base + index i) [])

/-- R144-R149. That the body's words are passed over from the SREP's issue on, and that a return to the end of the body
completes the iteration, is the model's choice (assumption 13). -/
def Obligations.StreamRegisters : Prop :=
  (∀ (s : State) (u : VTy) (j : StreamIx) (a b : XReg),
    let n := (s.ctx.rx b).toNat % 2 ^ 32
    let zero := fun (x : Ctx) => if (s.ctx.streams.get j).isSome then x.wv (vOfStream j) (Vector.replicate 32 0) else x
    let fresh := fun (st : StreamSt) => { zero s.ctx with
      streams := s.ctx.streams.set j.val (some st), ovr := s.ctx.ovr &&& ~~~(1#8 <<< j.val) }
    ((s.queued s.cur).isEmpty = true →
      Performs (.scfgMem u j a b) s (fresh ⟨.mem (s.ctx.rx a), u, n, 0, [], [], decide (n = 0), s.ctx.fpmode⟩)
        (fun t => t.mem = s.mem) ∧
      Performs (.scfgMsg u j b) s (fresh ⟨.msg, u, n, 0, [], [], false, s.ctx.fpmode⟩) (fun t => t.mem = s.mem) ∧
      (s.ctx.streams.get j = none → Performs (.sstop j) s s.ctx fun t => t.mem = s.mem) ∧
      ((s.ctx.streams.get j).isSome = true →
        Performs (.sstop j) s { zero s.ctx with streams := s.ctx.streams.set j.val none } fun t => t.mem = s.mem ∧
          ∀ (ix : Fin 16) e, (t.getCore s.cur.core).table.get ix = some e → e.ctx = s.cur.idx → e.reg = j →
            e.attached = false)) ∧
    ((s.queued s.cur).isEmpty = false →
      Waits (.scfgMem u j a b) s ∧ Waits (.scfgMsg u j b) s ∧ Waits (.sstop j) s)) ∧
  (∀ (s : State) (j : StreamIx) (st : StreamSt) (base : Word) (es : List Planned), s.mem.wf →
    s.goesOn s.cur = true → s.ctx.streams.get j = some st → st.src = .mem base → st.ended = false → st.groups.length < 4 →
    s.checkGroup st base = .ok es →
    ∃ t g, exec (.memoryStreamRead s.cur j) s = .next t ∧ SameBytes s t ∧ t.cur = s.cur ∧ t.ctx.x = s.ctx.x ∧
      t.ctx.pc = s.ctx.pc ∧ es.length = min 32 (st.bound - st.delivered) ∧ g.n = es.length ∧
      t.ctx.streams.get j = some { st with
        groups := st.groups ++ [g], delivered := st.delivered + es.length
        ended := decide (st.bound ≤ st.delivered + es.length) }) ∧
  (∀ (s s' : State) (d : XReg) (n : Fin 65) (mask : BitVec 8) (k : Nat) (stop : Word) (tr : Option Trap),
    let body := s.ctx.pc + 12
    let i : Instr := .srep d n mask
    let on := fun (j : Fin 8) => mask.getLsbD j.val = true
    let stream := fun (j : Fin 8) => s.ctx.streams.get j
    let ends := mask = 0 ∨ (∀ j st, on j → stream j = some st → st.groups ≠ [] ∨ st.ended = true) ∧
      ∃ j, on j ∧ ∀ st, stream j = some st → st.groups = [] ∧ st.ended = true
    s.passOver 4096 n.val body = (s', (k, stop), tr) →
    (∀ tr', tr = some tr' → ends → Traps i s tr') ∧
    (Calm s i = true →
      let stands := ∃ t l, exec i s = .next t ∧ t.ctx.pc = s.ctx.pc ∧ t.ctx.x = s.ctx.x ∧ t.ctx.loop = some l ∧
        l.srep = s.ctx.pc ∧ l.body = body ∧ l.stop = stop ∧ l.toPass = k ∧ l.mask = mask ∧ l.dst = d ∧ l.count = 0 ∧
        l.head = true
      (k ≠ 0 → tr = none → ends → stands) ∧
      (∀ j st, on j → stream j = some st → st.src = .msg → st.groups = [] → st.ended = false → stands) ∧
      (k = 0 → tr = none → ends →
        ∃ t, exec i s = .next t ∧ t.ctx.pc = stop ∧ t.ctx.loop = none ∧ t.ctx.x = (s.ctx.wx d 0).x ∧
          t.ctx.f = s.ctx.f ∧ t.ctx.v = s.ctx.v ∧ t.ctx.streams = s.ctx.streams) ∧
      (∀ len : Fin 8 → Nat, mask ≠ 0 →
        (∀ j, on j → ∃ st g gs, stream j = some st ∧ st.groups = g :: gs ∧ g.n = len j) →
        ∃ t l, exec i s = .next t ∧ t.ctx.pc = body ∧ t.ctx.x = s.ctx.x ∧ t.ctx.loop = some l ∧
          l.srep = s.ctx.pc ∧ l.body = body ∧ l.stop = stop ∧ l.toPass = k ∧ l.mask = mask ∧ l.dst = d ∧
          l.count = 0 ∧ l.head = false ∧ ∀ i < 32, l.lanes.getLsbD i = true ↔ ∀ j, on j → i < len j))) ∧
  (∀ (s : State) (d a : XReg) (imm : BitVec 30) (l : LoopSt), s.ctx.loop = some l → l.head = false → l.toPass = 0 →
    s.ctx.windows = [] → s.queued s.cur = [] →
    let inside := l.body ≤ s.ctx.pc ∧ s.ctx.pc < l.stop
    let closes := fun (t : State) => t.ctx.pc = l.srep ∧ t.ctx.loop = some { l with head := true, count := l.count + 1 } ∧
      ∀ (j : Fin 8) st g gs, s.ctx.streams.get j = some st → st.groups = g :: gs →
        t.ctx.streams.get j = some (if l.mask.getLsbD j.val then { st with groups := gs } else st)
    (inside → s.ctx.pc + 8 = l.stop → ∃ t, exec (.addi d a imm) s = .next t ∧ closes t ∧
      t.ctx.x = (s.ctx.wx d (s.ctx.rx a + imm.signExtend 64)).x) ∧
    (¬ inside → s.ctx.super = true → s.ctx.trapcause.toNat / 2 ^ 16 % 4 ≤ 1 → s.ctx.trappc = l.stop →
      ∃ t, exec .rett s = .next t ∧ closes t ∧ t.ctx.x = s.ctx.x ∧ t.ctx.inh = false))

/-- R225 and R226 where the checks pass. -/
def Obligations.AtomicsReadModifyWrite : Prop :=
  ∀ (s : State) (d b a : XReg) (wide sx : Bool) (ord : MemOrd) (sc : Scope) (off : BitVec 64) (la : LaCount) (t : Target)
    (op : AmoOp), s.mem.wf → s.vecMemBusy = false →
    let n := if wide then 8 else 4
    let w := 8 * n
    s.access .atomic (s.ctx.rx a + off) n n = .ok t →
    ∃ o : BitVec w,
      (∀ j < n, s.mem.reads (t.place.plus j) = (o >>> (8 * j)).setWidth 8) ∧
      let v : Word := if sx then o.signExtend 64 else o.setWidth 64
      let y : BitVec w := (s.ctx.rx b).setWidth w
      let after := { (if la = 0 then s.ctx.wx d v else s.ctx) with
        windows := if la = 0 then [] else [⟨s.ctx.pc, la.val, [.x d], [.x d v], none⟩]
        regionid := if ord = .acq ∨ ord = .ar ∨ ord = .rel then s.ctx.regionid + 1 else s.ctx.regionid }
      let new : BitVec w := match op with
        | .add => o + y | .and => o &&& y | .or => o ||| y | .xor => o ^^^ y | .swap => y
        | .min => if o.toInt ≤ y.toInt then o else y | .max => if y.toInt ≤ o.toInt then o else y
        | .minz => if o.toNat ≤ y.toNat then o else y | .maxz => if y.toNat ≤ o.toNat then o else y
      Performs (.amo op d b a wide sx ord sc off la) s after (fun u => StoresBytes s u t.place (leBytes n new.toNat)) ∧
      Performs (.cas d b a wide sx ord sc off la) s after fun u =>
        if o = (s.ctx.rx d).setWidth w then StoresBytes s u t.place (leBytes n y.toNat) else SameBytes s u

/-- R221, R227-R229: what memory reads as includes the partials of a line (`Mem.reads`). -/
def Obligations.ReductionsCombine : Prop :=
  let inU := fun (s u : State) (t : Target) (ord : MemOrd) (k : RedClass) =>
    ∀ p pa, t = .glob p pa → ord = .plain ∨ ord = .rel → (s.getCl s.cur.core.cl).cacheBanks ≠ [] →
      (∃ q ∈ u.mem.partials, q.cl = s.cur.core.cl ∧ q.line = pa / 128) ∧
      (∀ q ∈ u.mem.partials, q.line = pa / 128 → q.cls = k) ∧
      ∀ w ∈ (u.getCl s.cur.core.cl).ways, w.line ≠ pa / 128
  (∀ (s : State) (b a : XReg) (wide : Bool) (ord : MemOrd) (sc : Scope) (off : BitVec 64) (t : Target) (op : RedOp),
    s.mem.wf → s.mem.PartialsOk → s.vecMemBusy = false →
    (∀ k ∈ s.mem.marks, ∀ p ∈ s.mem.partials, p.line ≠ k.line) →
    let n := if wide then 8 else 4
    let w := 8 * n
    s.access .atomic (s.ctx.rx a + off) n n = .ok t →
    ∃ o : BitVec w, (∀ j < n, s.mem.reads (t.place.plus j) = (o >>> (8 * j)).setWidth 8) ∧
      let y : BitVec w := (s.ctx.rx b).setWidth w
      let new : BitVec w := match op with
        | .add => o + y | .and => o &&& y | .or => o ||| y | .xor => o ^^^ y
        | .min => if o.toInt ≤ y.toInt then o else y | .max => if y.toInt ≤ o.toInt then o else y
        | .minz => if o.toNat ≤ y.toNat then o else y | .maxz => if y.toNat ≤ o.toNat then o else y
      Performs (.red op b a wide ord sc off) s
        { s.ctx with
          regionid := if ord = .acq ∨ ord = .ar ∨ ord = .rel then s.ctx.regionid + 1 else s.ctx.regionid }
        fun u => StoresBytes s u t.place (leBytes n new.toNat) ∧ inU s u t ord (.int op wide)) ∧
  (∀ (s s' : State) (src : RedxSrc) (a : XReg) (ord : MemOrd) (sc : Scope) (off : BitVec 64) (t : Target) (f : Exa → Exa),
    s.mem.wf → s.mem.PartialsOk → s.vecMemBusy = false →
    s.access .atomic (s.ctx.rx a + off) 64 64 = .ok t → s.redxSource src = .ok (s', f) →
    (∀ r, src = .f r → f = fun e => e.addF32 ((s.ctx.rf r).toNat % 2 ^ 32)) ∧
    Performs (.redx src a ord sc off) s
      { s.ctx with
        regionid := if ord = .acq ∨ ord = .ar ∨ ord = .rel then s.ctx.regionid + 1 else s.ctx.regionid }
      fun u => (∀ q, (∀ j < 64, q ≠ t.place.plus j) → u.mem.reads q = s.mem.reads q) ∧
        ((ord = .acq ∨ ord = .ar ∨ ∃ c o, t = .mesh c o) → ∀ j < 64, ∀ x,
          (leBytes 64 (f (Exa.ofBits (leNat ((List.range 64).map fun i => s.mem.reads (t.place.plus i))))).toBits)[j]?
            = some x → u.mem.reads (t.place.plus j) = x) ∧
        ((∀ k ∈ s.mem.marks, ∀ p ∈ s.mem.partials, p.line ≠ k.line) →
          let value := fun (v : State) => Exa.ofBits (leNat ((List.range 64).map fun i => v.mem.reads (t.place.plus i)))
          (value u).n = (f (value s)).n ∧ (value u).nan = (f (value s)).nan ∧ (value u).pinf = (f (value s)).pinf ∧
            (value u).ninf = (f (value s)).ninf) ∧
        inU s u t ord .exa) ∧
  (∀ (s : State) (rnd : Rnd) (d : FReg) (a : XReg) (t : Target), s.mem.wf → s.vecMemBusy = false →
    s.access .load (s.ctx.rx a) 64 64 = .ok t →
    (∀ p pa, t = .glob p pa → (s.getCl s.cur.core.cl).wayOf (pa / 128) = none) →
    let e := Exa.ofBits (leNat ((List.range 64).map fun i => s.mem.reads (t.place.plus i)))
    let r := e.toF32 (roundingMode s rnd)
    Performs (.cvtexa rnd d a) s
      { s.ctx.wf d (BitVec.ofNat 64 r.1) with fpflags := s.ctx.fpflags ||| r.2 } fun u => SameBytes s u)

/-- R196 and R230. The instruction is tried again until the change is over; `pos` keeps the previous mode meanwhile. That
the change waits for what has been issued to the bank is the model's choice (assumption 70). -/
def Obligations.BankModeChanges : Prop :=
  (∀ (s : State) (mode : BankMode) (d a : XReg), s.mem.wf → s.mem.PartialsOk →
    let k := s.getCl s.cur.core.cl
    let code := fun (m : BankMode) => match m with | .cache => 0 | .scratch => 1 | .fifo => 2
    let i : Instr := .bankcfg mode d a
    (s.ctx.pos < 2 ^ 32 → 15 < (s.ctx.rx a).toNat → WritesX i s d (BitVec.allOnes 64) 8) ∧
    (∀ b : Fin 16, s.ctx.pos < 2 ^ 32 → (s.ctx.rx a).toNat = b.val → k.changing = [] →
      (b = 15 ∨ k.modes.get b = mode → WritesX i s d (BitVec.ofNat 64 (code (k.modes.get b))) 8) ∧
      (b ≠ 15 → k.modes.get b ≠ mode → Calm s i = true → ∃ t, exec i s = .next t ∧
        t.ctx = { s.ctx with
          pos := 2 ^ 32 + code (k.modes.get b), waiting := true, doing := some i, lastIssue := s.issueCycle } ∧
        SameBytes s t ∧
        (t.getCl s.cur.core.cl).changing = [⟨b, mode⟩] ∧ (t.getCl s.cur.core.cl).modes = k.modes ∧
        ∀ w ∈ (t.getCl s.cur.core.cl).ways, w.bank ≠ b.val)) ∧
    (∀ prev : BankMode, s.ctx.pos = 2 ^ 32 + code prev →
      (k.changing = [] → WritesX i s d (BitVec.ofNat 64 (code prev)) 8) ∧ (k.changing ≠ [] → Waits i s))) ∧
  (∀ (s : State) (c : ClusterId) (b : Fin 16) (mode : BankMode), s.mem.wf → (s.getCl c).changing = [⟨b, mode⟩] →
    (s.getCl c).modes.get b ≠ .fifo → s.awaits (.scr (scrKey c (b.val * 2 ^ 18))) (2 ^ 18) = false →
    ∃ t, exec (.bankZeroingDone c b) s = .next t ∧ (t.getCl c).changing = [] ∧
      (∀ x, (t.getCl c).modes.get x = if x = b then mode else (s.getCl c).modes.get x) ∧
      (let inBank := fun (k : Nat) => scrKey c (b.val * 2 ^ 18) ≤ k ∧ k < scrKey c (b.val * 2 ^ 18) + 2 ^ 18
       (∀ k, inBank k → t.mem.reads (.scr k) = 0 ∧ t.mem.full.contains (k / 8) = false) ∧
       (∀ k, ¬ inBank k → t.mem.reads (.scr k) = s.mem.reads (.scr k) ∧
        t.mem.full.contains (k / 8) = s.mem.full.contains (k / 8)) ∧
       ∀ pa, t.mem.reads (.glob pa) = s.mem.reads (.glob pa)))

/-- R195, R210, R231, R232. What DISC leaves in memory is one of the contents that the line has had, and fills are
taken from a list, oldest first: the model's choices (assumptions 20 and 19), as is what makes two walks one, and which
ends when every walker is taken (assumption 43). -/
def Obligations.CacheMaintenance : Prop :=
  (∀ s : State, Performs .cinvAll s s.ctx fun t => t.mem = s.mem ∧ (t.getCl s.cur.core.cl).ways = []) ∧
  (∀ (s : State) (m : MemOp), s.mem.wf → Performs (.cinv m) s s.ctx fun t => SameBytes s t ∧
    ∀ p, (memEa m s.ctx).toNat / 2 ^ 56 ∈ [0x00, 0xFF] →
      s.xlate s.partNo s.ctx.super .load (memEa m s.ctx) = .ok p →
      ∀ w, w ∈ (t.getCl s.cur.core.cl).ways ↔
        w ∈ (s.getCl s.cur.core.cl).ways ∧ w.line ≠ p.pa (memEa m s.ctx).toNat / 128) ∧
  (∀ (s : State) (m : MemOp), s.mem.wf → s.vecMemBusy = false →
    let ea := memEa m s.ctx
    (ea.toNat / 2 ^ 56 = 0xFE → Traps (.disc m) s ⟨.protect, ea, 0⟩) ∧
    (∀ p, ea.toNat / 2 ^ 56 ∈ [0x00, 0xFF] → s.xlate s.partNo s.ctx.super .store ea = .ok p →
      let line := p.pa ea.toNat / 128
      (∀ tr, s.raceCheck p ea (128 * line) 128 .store = .trap tr → Traps (.disc m) s tr) ∧
      (s.raceCheck p ea (128 * line) 128 .store = .ok () → Performs (.disc m) s s.ctx fun t =>
        line ∉ t.mem.l2 ∧ (∀ w ∈ (t.getCl s.cur.core.cl).ways, w.line ≠ line) ∧
        (∀ k, t.mem.reads (.scr k) = s.mem.reads (.scr k)) ∧
        (∀ a, a / 128 ≠ line → t.mem.reads (.glob a) = s.mem.reads (.glob a)) ∧
        ((∀ q ∈ s.mem.partials, q.line ≠ line) → (∀ bs ∈ Map.getD s.mem.dirty line [], bs.length = 128) →
          ∃ bs ∈ Map.getD s.mem.dirty line [] ++ [(List.range 128).map fun i => s.mem.reads (.glob (128 * line + i))],
            ∀ i < 128, bs[i]? = some (t.mem.reads (.glob (128 * line + i))))))) ∧
  (∀ (s : State) (c : ClusterId) (b : Fin 16) (line : Nat) (rest : List Nat), s.mem.wf →
    s.mem.PartialsOk → (s.getCl c).fills = line :: rest → (s.getCl c).modes.get b = .cache → (s.getCl c).changing = [] →
    (s.getCl c).wayOf line = none →
    ∃ t, exec (.cacheFill c b) s = .next t ∧ SameBytes s t ∧ (t.getCl c).fills = rest ∧
      (t.getCl c).wayOf line = some ⟨line, b.val, (List.range 128).map fun i => s.mem.reads (.glob (128 * line + i))⟩) ∧
  (∀ (s : State) (va : Word) (w : PageWalk), w ∈ s.mem.walks → w.path = (s.walk w.part va.toNat).path →
    (∀ x ∈ s.mem.walks, x.part = w.part → x.path = w.path → x = w) →
    ∃ t, exec (.pageWalk w.part va) s = .next t ∧ SameBytes s t ∧ t.mem.walks = s.mem.walks.erase w ∧
      ∀ e c, w.entry = some e → c ∈ w.joined →
        e ∈ Map.getD t.mem.ctlb c [] ∧ e ∈ Map.getD t.mem.dtlb c.die []) ∧
  (∀ (m : Mem) (c : ClusterId) (p va : Nat) (g : Page) (path : List WalkMark), m.walks.length ≤ 128 →
    let e : TlbEntry := ⟨p, g.va, g.level, path.map WalkMark.pte⟩
    let n := m.noteWalk (some c) p va (.page g path)
    (e ∈ Map.getD m.ctlb c [] → n = m) ∧
    (e ∉ Map.getD m.ctlb c [] → e ∈ Map.getD m.dtlb c.die [] →
      n.walks = m.walks ∧ e ∈ Map.getD n.ctlb c []) ∧
    (e ∉ Map.getD m.ctlb c [] → e ∉ Map.getD m.dtlb c.die [] →
      n.walks.length ≤ 128 ∧ (∃ x ∈ n.walks, x.part = p ∧ x.path = path ∧ c ∈ x.joined) ∧
      ((∃ x ∈ m.walks, x.part = p ∧ x.path = path) → n.walks.length = m.walks.length)))

/-- R235-R239 and R307. The checks are the model's: `cardBad` is check 3, `checkFootprints` check 4, the last argument of
`submits` check 5 of the engine. -/
def Obligations.JobsAreSubmitted : Prop :=
  ∀ (s s' : State) (d a : XReg) (la : LaCount) (r : List Byte), s.mem.wf → s.vecMemBusy = false →
    let ad := s.ctx.rx a
    let cl := s.cur.core.cl
    let jobs := (s.getCl cl).jobs
    let card := cardOf ad r (s.absolute cl (s.slotAddr (cardBar r)))
    let submits := fun (i : Instr) (engine ops fl : Nat) (valid : Bool) (bad : Option Nat) =>
      (ad.toNat % 256 ≠ 0 → Traps i s ⟨.align, ad, 0⟩) ∧
      (ad.toNat % 256 = 0 → s.loadRecord ad 256 256 = .ok (s', r) → s.cardBad r engine ops fl = none →
        s.checkFootprints valid card.fps = .ok () → bad = none →
        ((∀ n < 32, Map.get? jobs n ≠ none) → Waits i s) ∧
        (∀ n < 32, Map.get? jobs n = none → (s.getCl cl).mayEnter s.cycle s.cur.core.core = false → Waits i s) ∧
        (∀ n < 32, Map.get? jobs n = none → (∀ k < n, Map.get? jobs k ≠ none) →
          (s.getCl cl).mayEnter s.cycle s.cur.core.core = true →
          let id := BitVec.ofNat 64 (n + (s.getCl cl).jobSeq * 32)
          Performs i s { (if la = 0 then s.ctx.wx d id else s.ctx) with
            windows := if la = 0 then [] else [⟨s.ctx.pc, la.val, dests i, [.x d id], none⟩]
            regionid := s.ctx.regionid + 1 } fun t => SameBytes s t ∧
              (t.getCl cl).jobSeq = (s.getCl cl).jobSeq + 1 ∧
              (∀ k, k ≠ n → Map.get? (t.getCl cl).jobs k = Map.get? jobs k) ∧
              ∃ j, Map.get? (t.getCl cl).jobs n = some j ∧ j.card = card ∧ j.seq = (s.getCl cl).jobSeq ∧
                (∀ p, (s.getCl cl).part = some p → j.part = p) ∧ j.super = s.ctx.super ∧
                (∀ k, k ∈ j.preds ↔ ∃ q, (k, q) ∈ jobs ∧ q.phase ≠ .done ∧ q.card.conflicts card = true) ∧
                (j.preds = [] → j.phase = .ready) ∧ (j.preds ≠ [] → j.phase = .queued)))
    submits (.cpjob d a la) 1 4 0 false (s.copyBad r card) ∧
    submits (.mxjob d a la) 2 1 0 false (s.matrixBad r card) ∧
    submits (.rtjob d a la) 3 1 2 false (s.routingBad r card) ∧
    submits (.drjob d a la) 4 8 0 false (dramBad card) ∧
    submits (.mgjob d a la) 5 3 0 true (s.migrateBad r card)

/-- R241, R308, R309. Nothing is said of a JCANCEL of a job of another engine than the matrix engine's whose accesses are
all done and whose completion is still to be performed: there the model makes a choice (assumption 23). -/
def Obligations.JobsAreReported : Prop :=
  (∀ (s : State) (d a : XReg), let id := s.ctx.rx a
    let cl := s.cur.core.cl
    let slot := id.toNat % 32
    ((∀ j, Map.get? (s.getCl cl).jobs slot = some j → j.seq % 2 ^ 59 ≠ id.toNat / 32) →
      WritesX (.jwait d a) s d 0xFF 8 ∧ WritesX (.jpoll d a) s d 0xFF 8 ∧
      WritesX (.jcancel d a) s d (BitVec.allOnes 64) 8) ∧
    (∀ j, Map.get? (s.getCl cl).jobs slot = some j → j.seq % 2 ^ 59 = id.toNat / 32 →
      (j.card.detach = true → WritesX (.jwait d a) s d 0xFF 8 ∧ WritesX (.jpoll d a) s d 0xFF 8) ∧
      (j.card.detach = false → j.phase ≠ .done →
        Waits (.jwait d a) s ∧ WritesX (.jpoll d a) s d (BitVec.ofNat 64 (j.card.engine * 2 ^ 16)) 8) ∧
      (j.card.detach = false → j.phase = .done →
        ∀ i ∈ [Instr.jwait d a, .jpoll d a],
          Performs i s { s.ctx.wx d j.word with regionid := s.ctx.regionid + 1 } fun t =>
            SameBytes s t ∧ Map.get? (t.getCl cl).jobs slot = none ∧ (t.getCl cl).ways = [] ∧
            ∀ k, k ≠ slot → Map.get? (t.getCl cl).jobs k = Map.get? (s.getCl cl).jobs k) ∧
      (j.phase = .done → WritesX (.jcancel d a) s d 0 8) ∧
      (j.phase ≠ .done → (j.phase = .ending → j.card.engine = 2) → s.ctx.live = true →
        (j.card.engine ≠ 2 ∨ j.phase ≠ .running →
          Performs (.jcancel d a) s (s.ctx.wx d 1) fun t => t.mem = s.mem ∧
            Map.get? (t.getCl cl).jobs slot = some { j with
              phase := .ending, code := 2, entry := 0, detail := if j.card.engine = 2 then 0 else j.detail }) ∧
        (j.card.engine = 2 → j.phase = .running → s.cur.core.core < 8 →
          Performs (.jcancel d a) s (s.ctx.wx d 1) fun t =>
            Map.get? (t.getCl cl).jobs slot = some { j with phase := .ending, code := 2, entry := 0, detail := 0 } ∧
            t.mx cl = { s.mx cl with
              sem := Vector.replicate 8 0, held := none, stores := []
              stager := ⟨false, 0, false, false, none⟩, issuer := ⟨false, 0, false, false, none⟩ } ∧
            (t.getCtx ⟨⟨cl, 8⟩, 0⟩).live = false ∧ (t.getCtx ⟨⟨cl, 9⟩, 0⟩).live = false)))) ∧
  (∀ (s : State) (r : JobRef) (j : JobSt), s.mem.wf → s.job? r = some j → j.phase = .ending →
    s.beforeSave j.part = true →
    let completes := fun (t : State) => exec (.jobComplete r) s = .next t ∧
      (∀ x ∈ t.mem.accesses, x.agent.same (jobAgent s.pkg.grade r j) = false) ∧
      (j.card.engine ≤ 2 → j.flags ≠ 0 → (j.flags, s.cycle) ∈ (t.getCl r.cl).clPend) ∧
      (∀ n, t.ctr n = if j.card.ctr = some n then s.ctr n + 1 else s.ctr n) ∧
      (j.card.detach = true → t.job? r = none) ∧
      (j.card.detach = false → ∃ j', t.job? r = some j' ∧ j'.phase = .done ∧ j'.code = j.code ∧ j'.detail = j.detail) ∧
      ∀ n q, n ≠ r.slot → t.job? ⟨r.cl, n⟩ = some q → r.slot ∉ q.preds
    (j.code = 1 ∨ j.code = 8 ∨ j.card.bar = none → ∃ t, completes t ∧ SameBytes s t ∧ t.ctx = s.ctx) ∧
    (∀ c off, j.code ≠ 1 → j.code ≠ 8 → s.jobBarrier r j = .ok (some (c, off)) →
      let B := s.barrier c off
      (B.state = 0 → ∃ t, completes t ∧ t.barrier c off = { B with state := 1, err := 3 } ∧
        ∀ k, ∀ w ∈ (s.getCtx k).awaits, w.cl = c → w.off = off → { w with broken := true } ∈ (t.getCtx k).awaits) ∧
      (B.state ≠ 0 → ∃ t, completes t ∧ SameBytes s t)))

/-- R240, R247, R297, R302. -/
def Obligations.EnginesStartJobs : Prop :=
  ∀ (s : State) (r : JobRef) (j : JobSt), s.job? r = some j →
    (∀ p ∈ [(Instr.copy r, 0), (.gather r, 1), (.scatter r, 2), (.fill r, 3)],
      j.card.engine = 1 → j.card.op = p.2 → s.mayStart r j = true →
      exec p.1 s = .next (s.setJob r { j with phase := .running })) ∧
    (∀ p ∈ [(Instr.rcopy r, 0), (.rfill0 r, 1), (.rfill1 r, 2), (.rnot r, 3), (.rand r, 4), (.ror r, 5), (.rxor r, 6),
        (.rmaj r, 7)],
      j.card.engine = 4 → j.card.op = p.2 → j.progress = 0 →
      s.sharedNext (s.dramGroup (s.dramHome j)) j = true →
      ((∀ f ∈ j.card.fps, ∃ g, s.pageAt j.part f.1.base.toNat = some g ∧ g.compute = true ∧
          f.1.base.toNat + f.1.len ≤ g.va + g.size) →
        ∃ t, exec p.1 s = .next t ∧ t.mem = s.mem ∧
          t.job? r = some { j with phase := .running, home := s.dramHome j, fence := s.mem.stores } ∧
          ∀ g, s.pageAt j.part j.card.dest = some g →
            ∃ q ∈ (t.homeCore (rowOf s.pkg.grade (g.pa j.card.dest)).core).reqs, q.kind = .row r) ∧
      (∀ f rest g, j.card.fps = f :: rest → s.pageAt j.part f.1.base.toNat = some g → g.compute = false →
        exec p.1 s = .next (s.setJob r { j with phase := .ending, code := 7, entry := 0 }))) ∧
    (∀ p ∈ [(Instr.demote r, 0), (.promote r, 1), (.expand r, 2)],
      j.card.engine = 5 → j.card.op = p.2 → j.phase = .ready → s.running j.part = true →
      (∀ q ∈ s.allJobs, q.2.card.engine = 5 → s.running q.2.part = true → q.2.phase = .ready →
        j.arrival ≤ q.2.arrival) →
      ((s.allJobs.filter fun q => q.2.card.engine = 5 && s.running q.2.part && decide (q.2.phase = .running)).length < 4) →
      ∃ t n, exec p.1 s = .next t ∧ t.mem = s.mem ∧ n < 4 ∧ t.job? r = some { j with phase := .running, home := n } ∧
        ∀ q ∈ s.allJobs, q.2.card.engine = 5 → s.running q.2.part = true → q.2.phase = .running → q.2.home ≠ n) ∧
    (∀ h s', j.card.engine = 3 → s.sharedNext (routingGroup r.cl.die) j = true → j.shape = none →
      s.shapeFor r.cl.die j.part (recNat j.card.params 0 1) = some h →
      s.putAll r { j with phase := .running, shape := some h }
        ((List.range h.e).map fun e => ⟨3, 8 * (j.card.outAt 2 + 4 * e), 32, 0, false⟩) = (s', .done) →
      ∃ t, exec (.routingJob r) s = .next t ∧ t.mem = s'.mem ∧
        t.job? r = some { j with phase := .running, shape := some h })

/-- R245, R246, R248, R298, R299, R303, R304, R315. A row is one step of the model (assumption 26), a page moves when no
access waits for it (assumption 70), and the place of a page is the implementation's (assumption 5). -/
def Obligations.EnginesWork : Prop :=
  (∀ (s : State) (r : JobRef) (j : JobSt) (u : Nat) (idx src dst : Place) (c₁ c₂ c₃ : Bool), s.mem.wf →
    s.job? r = some j → j.card.engine = 1 → j.card.op < 4 →
    let p := s.copyPlan j.part j.card
    let zs : Nat := p.ws / 8
    let zd : Nat := p.wd / 8
    blkOfCode p.fs = none → blkOfCode p.fd = none → p.ws % 8 = 0 → p.wd % 8 = 0 →
    let k : Int := readInt true 32 (leNat ((List.range 4).map fun i => s.mem.reads (idx.plus i)))
    let n := fun (i : Nat) => p.n.getD i 1
    let strided := fun (base z : Nat) (t : List Int) => (base : Int) + (u % n 0 * z : Nat)
      + (u / n 0 % n 1 : Nat) * t.getD 0 0 + (u / n 0 / n 1 % n 2 : Nat) * t.getD 1 0
      + (u / n 0 / n 1 / n 2 : Nat) * t.getD 2 0
    let from' : Int := if p.op = 1 then p.sb + k * zs else strided p.sb zs p.s
    let into : Int := if p.op = 2 then p.db + k * zd else strided p.db zd p.t
    (p.op = 1 ∨ p.op = 2 →
      s.jobCheck r j false (fun i _ => i = 1) (BitVec.ofNat 64 (p.ib + 4 * u)) 4 = .ok [⟨idx, 4, c₁⟩]) →
    (p.op ≠ 3 → s.jobCheck r j false (fun i _ => i = 0) (BitVec.ofInt 64 from') zs = .ok [⟨src, zs, c₂⟩]) →
    s.jobCheck r j true (fun i _ => i = p.rc) (BitVec.ofInt 64 into) zd = .ok [⟨dst, zd, c₃⟩] →
    let code := if p.op = 3 then p.fill % 2 ^ p.ws
      else leNat ((List.range zs).map fun i => s.mem.reads (src.plus i))
    ∃ t fl, s.copyUnit r j p [] u = .ok (t, fl) ∧ t.ctx = s.ctx ∧
      StoresBytes s t dst (leBytes zd (if p.conv then (convertElem j.card.rm p ⟨code, 0, 0⟩).1 else code))) ∧
  (∀ (s : State) (r : JobRef) (j : JobSt) (st : Nat → State) (fl : Nat → Flags) (bar : Option (ClusterId × Nat)),
    s.job? r = some j → j.card.engine = 1 → j.phase = .running → s.running j.part = true →
    s.jobBarrier r j = .ok bar →
    let p := s.copyPlan j.part j.card
    let ws := s.columnPages j.part p (j.card.writes.headD ⟨0, 0, 0⟩)
    let n := min (chunkUnits p) (unitCount p ws - j.progress)
    let bytes := if blkOfCode p.fd = none then (n * p.wd + 7) / 8 else n * (4 * p.wd)
    let broken := ∃ c off, bar = some (c, off) ∧ (s.barrier c off).state ≠ 0
    (j.detail = 0 → broken → exec (.copyChunkDelivery r) s
      = .next (s.setJob r { j with phase := .ending, code := 8, entry := 0 })) ∧
    (st 0 = s → (∀ k < n, (st k).copyUnit r j p ws (j.progress + k) = .ok (st (k + 1), fl k)) →
      ¬ (j.detail = 0 ∧ broken) → (blkOfCode p.fd = none ∨ ws = []) → (st n).mem.wf →
      ∃ t j', exec (.copyChunkDelivery r) s = .next t ∧ t.job? r = some j' ∧
        j'.progress = j.progress + n ∧ j'.detail = j.detail + bytes ∧
        j'.flags = (List.range n).foldl (fun f k => f ||| fl k) j.flags ∧
        j'.phase = (if j.progress + n < unitCount p ws then .running else .ending) ∧
        (bar = none → t.mem = (st n).mem ∧ t.ctx = (st n).ctx) ∧
        ∀ c off, bar = some (c, off) →
          let B := (st n).barrier c off
          (B.state ≠ 0 → t.mem = (st n).mem) ∧
          (B.state = 0 → bytes ≤ B.bytes → t.barrier c off =
            if B.arrive = 0 ∧ B.bytes = bytes
            then { B with bytes := 0, phase := (B.phase + 1) % 2 ^ 32, arrive := B.expect }
            else { B with bytes := B.bytes - bytes }) ∧
          (B.state = 0 → B.bytes < bytes → t.barrier c off = { B with state := 1, err := 1 }))) ∧
  (∀ (k : Nat) (renorm : Bool) (ss : List Nat), k ≤ ss.length →
    let sel := (routeToken k renorm ss).1
    sel.length = k ∧ sel.Nodup ∧ ∀ e ∈ sel, e < ss.length) ∧
  (∀ (k : Nat) (renorm : Bool) (ss : List Nat), k ≤ ss.length →
    let F := specFp32
    let ratio := fun (a b : Nat) => (fDiv F .rne (F.decode a) (F.decode b)).1
    let top := ss.foldl (fun a b => (fMinMax F true a b).1) (F.sign true + F.infBits)
    let x := fun (b : Nat) => if F.decode b = .inf true then 0
      else (specialFn .exp .rne (fSub F .rne (F.decode b) (F.decode top)).1).1
    let p := fun (e : Nat) => ratio (x (ss.getD e 0)) (pairSum F .rne (ss.map fun b => some (x b))).1
    let val := fun (e : Nat) => match F.decode (p e) with
      | .fin n m q => (if n then (-1 : ℚ) else 1) * (m : ℚ) * (2 : ℚ) ^ q
      | _ => (0 : ℚ)
    let r := routeToken k renorm ss
    let w := r.1.map p
    (∀ e < ss.length, ∃ m q, F.decode (p e) = .fin false m q) →
    (∀ (i j : Nat) e e', r.1[i]? = some e → (r.1[j]? = some e' ∧ i < j) ∨ (e' < ss.length ∧ e' ∉ r.1) →
      val e' < val e ∨ (val e' = val e ∧ e < e')) ∧
    r.2.1 = if renorm then w.map fun b => ratio b (pairSum F .rne (w.map some)).1 else w) ∧
  (∀ (s s' s'' : State) (r : JobRef) (j : JobSt) (h : Shape) (ss : List Nat), s.job? r = some j → j.shape = some h →
    j.card.engine = 3 → j.phase = .running → s.running j.part = true → s.scores r j h j.progress h.e 0 = .ok (s', ss) →
    let w := tokenWrites j.card j.progress (recNat j.card.params 1 1) ss
    s'.putAll r { j with flags := j.flags ||| w.2 } w.1 = (s'', .done) →
    ∃ t j', exec (.routingToken r) s = .next t ∧ t.mem = s''.mem ∧ t.job? r = some j' ∧
      j'.progress = j.progress + 1 ∧ j'.detail = j.detail + 1 ∧ j'.flags = j.flags ||| w.2 ∧
      j'.phase = if j.progress + 1 < h.t then .running else .ending) ∧
  (∀ (s : State) (r : JobRef) (j : JobSt) (src : List (Nat × Bool)) (pd : Nat) (chk : Bool), s.mem.wf →
    s.job? r = some j → j.card.engine = 4 → j.phase = .running → s.running j.part = true → j.card.op < 8 →
    s.rowTurn r j = true → (∀ o ∈ s.mem.past, o.seq < j.fence) →
    src.length = dramSources j.card.op → j.card.reads.length = src.length →
    (∀ p ∈ src, p.1 % 2048 = 0 ∧ p.1 ≠ pd) → pd % 2048 = 0 →
    (∀ i q, src[i]? = some q → ∀ f, j.card.reads[i]? = some f →
      s.jobCheck r j false (fun k _ => k = i) (f.base + BitVec.ofNat 64 (j.progress * 2048)) 2048
        = .ok [⟨.glob q.1, 2048, q.2⟩]) →
    s.jobCheck r j true (fun _ _ => true) (BitVec.ofNat 64 (j.card.dest + j.progress * 2048)) 2048
      = .ok [⟨.glob pd, 2048, chk⟩] →
    let new := fun (k : Nat) =>
      let x := fun (n : Nat) => s.mem.reads (.glob ((src[n]?.map Prod.fst).getD 0 + k))
      match j.card.op with
      | 0 => x 0 | 1 => 0 | 2 => 0xFF | 3 => ~~~(x 0) | 4 => x 0 &&& x 1 | 5 => x 0 ||| x 1 | 6 => x 0 ^^^ x 1
      | _ => (x 0 &&& x 1) ||| (x 0 &&& x 2) ||| (x 1 &&& x 2)
    ∃ t j', exec (.dramRow r) s = .next t ∧ t.ctx = s.ctx ∧ t.job? r = some j' ∧
      (∀ q, (∀ k < 2048, q ≠ .glob (pd + k)) → t.mem.reads q = s.mem.reads q) ∧
      j'.progress = j.progress + 1 ∧ j'.detail = j.detail + 1 ∧
      j'.phase = (if j.progress + 1 < j.card.rows then .running else .ending) ∧
      ∀ k < 2048, t.mem.reads (.glob (pd + k)) = new k) ∧
  (∀ (s : State) (r : JobRef) (j : JobSt) (slots : Nat) (v : Part) (g : Page) (path : List WalkMark), s.Inv →
    s.job? r = some j → j.card.engine = 5 → j.phase = .running → s.running j.part = true → s.part? j.part = some v →
    let f := j.card.writes.headD ⟨0, 0, 0⟩
    s.walk j.part (f.base.toNat + j.progress) = .page g path →
    let place := s.newPlace v j.card.op slots g
    let skips := g.pinned = true ∨ g.level < 3 ∨ migrates j.card.op (leafTier g.e) = false
    (skips ∨ place = none →
      ∃ t j', exec (.migrationPage r slots) s = .next t ∧ SameBytes s t ∧ t.parts = s.parts ∧ t.job? r = some j' ∧
        j'.progress = j.progress + g.size ∧ j'.skipped = j.skipped + 1 ∧ j'.detail = j.detail) ∧
    (∀ n w s' a, ¬ skips → place = some (n, w, s') → path.getLast?.map WalkMark.pte = some a →
      (leafTier g.e ≠ 2 → s.awaits (.glob (leafFrame g.e)) g.size = false) →
      s.moveRaces (jobAgent s.pkg.grade r j) g n = false →
      (n.tier ≠ 2 → a + 8 ≤ n.pa ∨ n.pa + g.size ≤ a) →
      let was := fun (k : Nat) => if leafTier g.e = 2 then cellsGet (((v.packedPage g).map Packed.cells).getD []) k
        else s.mem.reads (.glob (leafFrame g.e + k))
      ∃ t j', exec (.migrationPage r slots) s = .next t ∧ t.ctx = s.ctx ∧ t.job? r = some j' ∧
        j'.progress = j.progress + g.size ∧ j'.detail = j.detail + 1 ∧ j'.skipped = j.skipped ∧
        (∀ i b, (leBytes 8 (newLeaf g.e n))[i]? = some b → t.mem.reads (.glob (a + i)) = b) ∧
        (n.tier ≠ 2 → ∀ k < g.size, t.mem.reads (.glob (n.pa + k)) = was k) ∧
        (n.tier = 2 → ∃ v' c, t.part? j.part = some v' ∧ (⟨n.pa, n.slots, c⟩ : Packed) ∈ v'.packed ∧
          ∀ k < g.size, cellsGet c k = was k) ∧
        ∀ q, (∀ i < 8, q ≠ .glob (a + i)) → (n.tier ≠ 2 → ∀ k < g.size, q ≠ .glob (n.pa + k)) →
          t.mem.reads q = s.mem.reads q)) ∧
  (∀ (s s' : State) (d a : XReg) (n : Fin 64) (rec : List Byte), s.mem.wf → s.vecMemBusy = false →
    s.loadRecord (s.ctx.rx a) 32 32 = .ok (s', rec) →
    let die := s.cur.core.cl.die
    let held := ∃ h p, Map.get? (s.getDie die).shapes n.val = some h ∧ (s.getCl s.cur.core.cl).part = some p ∧ h.part ≠ p
    (shapeOk rec = false → Performs (.shpset d a n) s (s.ctx.wx d (BitVec.allOnes 64)) fun t =>
      SameBytes s t ∧ t.dies = s.dies) ∧
    (shapeOk rec = true → held → Performs (.shpset d a n) s (s.ctx.wx d (BitVec.ofInt 64 (-2))) fun t =>
      SameBytes s t ∧ t.dies = s.dies) ∧
    (∀ p, shapeOk rec = true → (s.getCl s.cur.core.cl).part = some p → ¬ held →
      Performs (.shpset d a n) s (s.ctx.wx d 0) fun t => SameBytes s t ∧
        Map.get? (t.getDie die).shapes n.val = some (shapeOf rec p)))

/-- R259, R260, R263, R269, R314. -/
def Obligations.MatrixJobControl : Prop :=
  (∀ (s : State) (n : Nat) (j : JobSt),
    let c := clOfLinear s.pkg.grade s.unit
    (s.mx c).stager.running = false → (s.mx c).issuer.running = false →
    ((s.getCl c).jobs.find? fun q => q.2.card.engine = 2 && s.mayStart ⟨c, q.1⟩ q.2) = some (n, j) →
    ∃ t, exec .matrixJobStart s = .next t ∧ t.mem = s.mem ∧ t.job? ⟨c, n⟩ = some { j with phase := .running } ∧
      (∀ p ∈ [(8, j.card.stagerEntry), (9, j.card.issuerEntry)],
        let x := t.getCtx ⟨⟨c, p.1⟩, 0⟩
        x.live = true ∧ x.pc = p.2 ∧ x.rx 1 = j.card.addr ∧ x.rx 2 = j.id n) ∧
      (t.mx c).held = some n ∧ (t.mx c).row = 0 ∧ (t.mx c).kstep = 0 ∧ (∀ k, (t.mx c).sem.get k = 0) ∧
      (t.mx c).stager.holds = true ∧ (t.mx c).issuer.holds = true) ∧
  (∀ (s : State) (d a : XReg) (n : SemReg),
    let c := s.cur.core.cl
    let m := s.mx c
    let half := if s.cur.core.core = 8 then m.stager else m.issuer
    let other := if s.cur.core.core = 8 then m.issuer else m.stager
    (∀ ad, half.given = some ad → Performs (.jtake d) s (s.ctx.wx d ad) fun t => t.mem = s.mem) ∧
    (half.given = none → half.holds = true → Performs (.jtake d) s (s.ctx.wx d 0) fun t => t.mem = s.mem) ∧
    (half.given = none → half.holds = false →
      (s.nextMatrixJob c = none → Performs (.jtake d) s (s.ctx.wx d 0) fun t => t.mem = s.mem) ∧
      ∀ k j, s.nextMatrixJob c = some (k, j) →
        let same := j.card.stagerEntry = m.stager.entry ∧ j.card.issuerEntry = m.issuer.entry
        let waits := Calm s (.jtake d) = true →
          ∃ t, exec (.jtake d) s = .next t ∧
            t.ctx = { s.ctx with waiting := true, asked := some (.jtake d) } ∧ t.mem = s.mem
        (j.phase ≠ .ready → waits) ∧ (j.phase = .ready → same → other.atTake = false ∨ other.holds = true → waits) ∧
        (j.phase = .ready → ¬ same → Performs (.jtake d) s (s.ctx.wx d 0) fun t => t.mem = s.mem) ∧
        (j.phase = .ready → same → other.atTake = true → other.holds = false →
          Performs (.jtake d) s (s.ctx.wx d j.card.addr) fun t => t.mem = s.mem ∧
            t.job? ⟨c, k⟩ = some { j with phase := .running } ∧ (t.mx c).held = some k ∧ (t.mx c).row = 0 ∧
            (t.mx c).kstep = 0 ∧ (∀ x, (t.mx c).sem.get x = 0) ∧ (t.mx c).stager.holds = true ∧
            (t.mx c).issuer.holds = true ∧
            (if s.cur.core.core = 8 then (t.mx c).issuer else (t.mx c).stager).given = some j.card.addr)) ∧
    (s.cur.core.core = 8 ∨ s.cur.core.core = 9 → (s.queued s.cur).isEmpty = true →
      let ends := fun (P : State → Prop) => Calm s (.exit a) = true → ∃ t, exec (.exit a) s = .next t ∧
        t.ctx = { Ctx.init with lastIssue := some s.cycle } ∧ SameBytes s t ∧
        (if s.cur.core.core = 8 then (t.mx c).stager else (t.mx c).issuer).running = false ∧
        (if s.cur.core.core = 8 then (t.mx c).issuer else (t.mx c).stager) = other ∧ P t
      (half.holds = true → m.stores ≠ [] → Waits (.exit a) s) ∧
      (half.holds = false → ends fun t => (t.getCl c).jobs = (s.getCl c).jobs ∧ (t.mx c).held = m.held) ∧
      ∀ k j, half.holds = true → m.stores = [] → m.held = some k → s.job? ⟨c, k⟩ = some j →
        ends fun t => ∃ j', t.job? ⟨c, k⟩ = some j' ∧
          j'.detail = (if s.cur.core.core = 9 then (s.ctx.rx a).toNat % 2 ^ 32 else j.detail) ∧
          (other.holds = true → j'.phase = j.phase ∧ (t.mx c).held = some k) ∧
          (other.holds = false → j'.phase = .ending ∧ j'.code = 1 ∧ (t.mx c).held = none)) ∧
    (half.holds = false → Calm s (.jdone a) = true → exec (.jdone a) s = .next (s.after s.ctx 8)) ∧
    (half.holds = true → m.stores ≠ [] → Calm s (.jdone a) = true → exec (.jdone a) s = .next { s with
      ctx := { s.ctx with waiting := true, doing := some (.jdone a), lastIssue := s.issueCycle } }) ∧
    (∀ k j, half.holds = true → m.stores = [] → m.held = some k → s.job? ⟨c, k⟩ = some j →
      Performs (.jdone a) s s.ctx fun t => t.mem = s.mem ∧ ∃ j', t.job? ⟨c, k⟩ = some j' ∧
        j'.detail = (if s.cur.core.core = 9 then (s.ctx.rx a).toNat % 2 ^ 32 else j.detail) ∧
        (other.holds = true → j'.phase = j.phase ∧ (t.mx c).held = some k) ∧
        (other.holds = false → j'.phase = .ending ∧ j'.code = 1 ∧ (t.mx c).held = none)) ∧
    ((s.cur.core.core = 8 ∨ m.stores = []) → m.sem.get n < 255 →
      Performs (.semv n) s s.ctx fun t => t.mem = s.mem ∧ (t.mx c).sem.get n = m.sem.get n + 1 ∧
        ∀ k, k ≠ n → (t.mx c).sem.get k = m.sem.get k) ∧
    (255 ≤ m.sem.get n → Waits (.semv n) s) ∧ (m.sem.get n = 0 → Waits (.semp n) s) ∧
    (m.sem.get n ≠ 0 → Performs (.semp n) s s.ctx fun t => t.mem = s.mem ∧ (t.mx c).sem.get n = m.sem.get n - 1 ∧
        ∀ k, k ≠ n → (t.mx c).sem.get k = m.sem.get k) ∧
    (m.held = none → ∀ i ∈ [Instr.mprogRd d, .mprogWr a],
      Traps i s ⟨.illegal .format, 0, BitVec.ofNat 64 (encode i)⟩) ∧
    (∀ k j, half.holds = true → m.held = some k → s.job? ⟨c, k⟩ = some j →
      WritesX (.mprogRd d) s d (BitVec.ofNat 64 (m.kstep % 2 ^ 16 + m.row % 2 ^ 8 * 2 ^ 16)) 8 ∧
      Performs (.mprogWr a) s s.ctx fun t => t.mem = s.mem ∧ t.mx c = { m with
        kstep := (s.ctx.rx a).toNat % 2 ^ 16, row := (s.ctx.rx a).toNat / 2 ^ 16 % 2 ^ 8 }))

/-- R266-R268 and R311-R313; the checks are the model's `rowChecks`, `bankCheck` and `operandRows`, and the rows of an
MSTA its `stageRows`. An MMA is performed row by row, one for each attempt, since a pre-emption may stop it there (R270), and MLDA and MLDB in one step: the model's
choices (assumptions 24 and 3). -/
def Obligations.MatrixDataInstructions : Prop :=
  (∀ (s s' : State) (a b : XReg) (h : Bool) (row0 m1 : Fin 64) (rows : BitVec 7) (klen : BitVec 8) (nlen : BitVec 9)
    (d : AReg) (la : LaCount) (n : Nat) (j : JobSt) (vs : List (List FVal)) (fl : Flags), s.mem.wf →
    let c := s.cur.core.cl
    let m := s.mx c
    let r : JobRef := ⟨c, n⟩
    let half := if s.cur.core.core = 8 then m.stager else m.issuer
    let after := fun (i : Instr) => { s.ctx with
      windows := if la = 0 then [] else [⟨s.ctx.pc, la.val, dests i, [], none⟩] }
    half.holds = true → m.held = some n → s.job? r = some j →
    (let i : Instr := .mlda h a b row0 rows klen la
     row0.val + rows.toNat ≤ 64 → rows ≠ 0 → klen ≠ 0 → klen.toNat ≤ 128 →
     (blkOfCode j.card.afmt = none ∨ klen.toNat % 32 = 0) →
     let as := strideList (s.ctx.rx a) (s.ctx.rx b) rows.toNat
     (s.rowChecks i j.part j.card.afmt as).1 = .ok → s.operandRows r j j.card.afmt klen.toNat as = .ok (s', vs, fl) →
     Performs i s (after i) fun t => SameBytes s t ∧ t.job? r = some { j with flags := j.flags ||| fl } ∧
       (t.mx c).acc = m.acc ∧ (t.mx c).b0 = m.b0 ∧ (t.mx c).b1 = m.b1 ∧
       (if h then (t.mx c).a1 else (t.mx c).a0) = putRows (if h then m.a1 else m.a0) row0.val vs ∧
       (if h then (t.mx c).a0 else (t.mx c).a1) = (if h then m.a0 else m.a1)) ∧
    (let i : Instr := .mldb h a b klen nlen la
     klen ≠ 0 → klen.toNat ≤ 128 → nlen ≠ 0 → nlen.toNat ≤ 256 →
     let as := strideList (s.ctx.rx a) (s.ctx.rx b) klen.toNat
     (match blkOfCode j.card.bfmt with
      | some bl => s.bankCheck i j.part bl klen.toNat (s.ctx.rx a) (s.ctx.rx b) = .ok
      | none => (s.rowChecks i j.part j.card.bfmt as).1 = .ok) →
     s.operandRows r j j.card.bfmt nlen.toNat as = .ok (s', vs, fl) →
     Performs i s (after i) fun t => SameBytes s t ∧ t.job? r = some { j with flags := j.flags ||| fl } ∧
       (t.mx c).acc = m.acc ∧ (t.mx c).a0 = m.a0 ∧ (t.mx c).a1 = m.a1 ∧
       (if h then (t.mx c).b1 else (t.mx c).b0)
         = vs.map (padZero 256) ++ List.replicate (128 - klen.toNat) (List.replicate 256 (.fin false 0 0))) ∧
    (d.val + m1.val < 64 → Performs (.mzero d m1) s s.ctx fun t => t.mem = s.mem ∧ ∀ k,
      Map.getD (t.mx c).acc k zeroAcc =
        if d.val ≤ k ∧ k ≤ d.val + m1.val then List.replicate 256 0 else Map.getD m.acc k zeroAcc) ∧
    (d.val + m1.val < 64 → m.row ≤ m1.val →
      let v := m.row1 j.card d.val h (rows.getLsbD 0) m.row
      let i : Instr := .mma d h (rows.getLsbD 0) m1 la
      (∀ k, k ≠ d.val + m.row → Map.getD v.1.acc k zeroAcc = Map.getD m.acc k zeroAcc) ∧
      (m.row < m1.val → Calm s i = true → ∃ t, exec i s = .next t ∧ t.ctx = { s.ctx with
          waiting := true, doing := some i, lastIssue := s.issueCycle } ∧ t.mem = s.mem ∧
        t.mx c = { m with acc := v.1.acc, row := m.row + 1 } ∧
        t.job? r = some { j with flags := j.flags ||| v.2 }) ∧
      (m.row = m1.val → Performs i s (after i) fun t => t.mem = s.mem ∧
        t.mx c = { m with acc := v.1.acc, row := 0, kstep := (m.kstep + 1) % 2 ^ 16 } ∧
        t.job? r = some { j with flags := j.flags ||| v.2 })) ∧
    (let i : Instr := .msta d a b m1 nlen
     let z := sideBits j.card.ofmt 0 / 8
     let at' := (List.range (m1.val + 1)).map fun k => (k, s.ctx.rx a + BitVec.ofNat 64 k * s.ctx.rx b)
     d.val + m1.val < 64 → nlen ≠ 0 → nlen.toNat ≤ 256 → (s.ctx.rx a).toNat % z = 0 → (s.ctx.rx b).toNat % z = 0 →
     s.stageRows r j d.val nlen.toNat at' = (s', .ok ()) →
     Performs i s s.ctx fun t => SameBytes s' t ∧ (t.mx c).acc = m.acc ∧ (t.mx c).stores = (s'.mx c).stores)) ∧
  (∀ (s : State) (pl : Place) (bs : List Byte), s.mem.wf →
    let c := clOfLinear s.pkg.grade s.unit
    (s.mx c).stores = [(pl, bs)] →
    ∃ t, exec .mstaStoresPerformed s = .next t ∧ StoresBytes s t pl bs ∧ (t.mx c).stores = [] ∧ t.ctx = s.ctx) ∧
  (∀ (rm : RMode) (ts : List FVal) (n : Bool) (m : Nat) (e : Int), m ≠ 0 → (∀ v ∈ ts, v.finite) →
    let val : FVal → ℚ := fun v => match v with | .fin n m e => (if n then -1 else 1) * m * 2 ^ e | _ => 0
    (ts.map val).sum = val (.fin n m e) →
    (∀ v ∈ ts, ∀ p k q, v = .fin p k q → k ≠ 0 → maxLead (ts.filter FVal.nonzero) - 95 ≤ q) →
    (kstepSum rm ts).1 = (specFp32.encode rm (.fin n m e)).1)

/-- R250, R253, R324, R325. The checks of a record are the model's `entryBad`, `entryForeign` and `entrySides`. -/
def Obligations.CountersAndQueuePairs : Prop :=
  (∀ (s : State) (d a b : XReg) (p : Nat), (s.getCl s.cur.core.cl).part = some p → s.vecMemBusy = false →
    let n := (s.ctx.rx a).toNat
    let y := s.ctx.rx b
    let next := fun (x : Ctx) => { x with regionid := s.ctx.regionid + 1 }
    let fires := fun (v : Word) (e : QpEntry) => (match e.trig with
      | some th => decide (th.1 = n ∧ th.2 ≤ v.toNat) | none => false) && s.mayFire e.part
    let wrote := fun (v : Word) (t : State) => t.mem.home = s.mem.home ∧ t.mem.sram = s.mem.sram ∧ t.ctr n = v ∧
      (∀ k, k ≠ n → t.ctr k = s.ctr k) ∧ (∀ q e, e ∈ t.qpList q ↔ e ∈ s.qpList q ∧ fires v e = false) ∧
      t.pkg.fired = s.pkg.fired ++
        ((s.pkg.qps.map fun q => q.2.filter (fires v)).flatten.map fun e => ⟨e, none, [], s.cycle⟩)
    (s.ownsCtr p n = false → ∀ i ∈ [Instr.ctrset a b, .ctradd d a b, .ctrwait d a b],
      Traps i s ⟨.notPresent, 0, BitVec.ofNat 64 n⟩) ∧
    (s.ownsCtr p n = true →
      Performs (.ctrset a b) s (next s.ctx) (wrote y) ∧
      Performs (.ctradd d a b) s (next (s.ctx.wx d (s.ctr n))) (wrote (s.ctr n + y)) ∧
      ((s.ctr n).toNat < y.toNat → Waits (.ctrwait d a b) s) ∧
      (y.toNat ≤ (s.ctr n).toNat → Performs (.ctrwait d a b) s (next (s.ctx.wx d (s.ctr n))) fun t =>
        SameBytes s t ∧ t.pkg = s.pkg ∧ (t.getCl s.cur.core.cl).ways = [])) ∧
    (s.ownsQp p n = false → ∀ i ∈ [Instr.qppost d a b, .qpcancel d a b], Traps i s ⟨.notPresent, 0, BitVec.ofNat 64 n⟩) ∧
    (s.ownsQp p n = true →
      ((∀ e ∈ s.qpList n, e.handle ≠ y) → WritesX (.qpcancel d a b) s d 0 8) ∧
      ((∃ e ∈ s.qpList n, e.handle = y) → Performs (.qpcancel d a b) s (s.ctx.wx d 1) fun t => t.mem = s.mem ∧
        t.qpList n = (s.qpList n).filter (fun e => decide (e.handle ≠ y)) ∧ t.pkg.ctrs = s.pkg.ctrs))) ∧
  (∀ (s s' : State) (d a b : XReg) (p : Nat) (r : List Byte), s.mem.wf → s.vecMemBusy = false →
    (s.getCl s.cur.core.cl).part = some p →
    let q := (s.ctx.rx a).toNat
    let e₀ := entryOf r q 0 (Map.getD s.pkg.qpSeq q 0) p (s.ctx.rx b)
    let e := { e₀ with src := s.absolute s.cur.core.cl e₀.src, dst := s.absolute s.cur.core.cl e₀.dst }
    s.ownsQp p q = true → s.loadRecord (s.ctx.rx b) 64 64 = .ok (s', r) → entryBad r = none → s.entryForeign p e₀ = none →
    (∀ tr, s.entrySides e₀ = .trap tr → Traps (.qppost d a b) s tr) ∧
    (s.entrySides e₀ = .ok () → freePos (s.qpList q) = none → Performs (.qppost d a b) s
      { s.ctx.wx d (BitVec.allOnes 64) with regionid := s.ctx.regionid + 1 } fun t => SameBytes s t ∧ t.pkg = s.pkg) ∧
    (∀ n, s.entrySides e₀ = .ok () → freePos (s.qpList q) = some n →
      let x := { e with pos := n }
      let now := match e.trig with | none => true | some t => decide (t.2 ≤ (s.ctr t.1).toNat)
      Performs (.qppost d a b) s { s.ctx.wx d x.handle with regionid := s.ctx.regionid + 1 } fun t => SameBytes s t ∧
        t.pkg.ctrs = s.pkg.ctrs ∧ (if now then t.pkg.fired = s.pkg.fired ++ [⟨x, none, [], s.cycle⟩] ∧ t.qpList q = s.qpList q
          else t.pkg.fired = s.pkg.fired ∧ t.qpList q = s.qpList q ++ [x])))

/-- R252-R254, for sides of one piece. That an entry is an agent of races is the model's choice (assumption 54), and so is
that it writes at the places found when its source was read, but for a look at a mesh-space destination's bank when it
writes (assumption 22). -/
def Obligations.FiredEntriesMoveData : Prop :=
  ∀ (s : State) (e : QpEntry) (src dst : Place) (bs : List Byte) (cycle : Nat), s.mem.wf → s.mayFire e.part = true →
    s.running e.part = true → e.dkind ≤ 1 → e.wq = none →
    let count := fun (c : Option Nat) (t : State) => ∀ n, t.ctr n = if c = some n then s.ctr n + 1 else s.ctr n
    let f : QpFired := ⟨e, none, [], cycle⟩
    let gone := fun (t : State) => ∃ more, t.pkg.fired = s.pkg.fired.eraseIdx s.unit ++ more ∧
      ∀ g ∈ more, g.data = none ∧ g.cycle = s.cycle ∧ (∃ l ∈ s.pkg.qps, g.entry ∈ l.2) ∧
        ∃ c th, e.rctr = some c ∧ g.entry.trig = some (c, th) ∧ th ≤ (t.ctr c).toNat
    (s.pkg.fired[s.unit]? = some f → s.startsLater f = false →
      (s.side e.part e.src e.len = .ok [(src, e.len)] → s.destination e = .ok [(dst, e.dlen)] →
        s.entryRaces e = false →
        ∃ t data, exec .qpSourceReadsDone s = .next t ∧ SameBytes s t ∧ count e.lctr t ∧ t.ctx = s.ctx ∧
          t.pkg.fired[s.unit]? = some ⟨e, some data, [(dst, e.dlen)], cycle⟩ ∧ data.length = e.len ∧
          ∀ j < e.len, data[j]? = some (s.mem.reads (src.plus j))) ∧
      ((∃ tr, s.entryChecks e = .trap tr) ∨ (∃ ps, s.entryChecks e = .ok ps) ∧ s.entryRaces e = true →
        ∃ t, exec .qpSourceReadsDone s = .next t ∧ (∀ n, t.ctr n = s.ctr n) ∧ t.ctx = s.ctx ∧
          t.pkg.fired = s.pkg.fired.eraseIdx s.unit)) ∧
    (s.pkg.fired[s.unit]? = some ⟨e, some bs, [(dst, e.dlen)], cycle⟩ → bs.length = e.len →
      (isMesh e.dst = true → (∃ tr, s.destination e = .trap tr) →
        ∃ t, exec (if e.reduce then .writeReduce else .write) s = .next t ∧ (∀ n, t.ctr n = s.ctr n) ∧ t.ctx = s.ctx ∧
          t.pkg.fired = s.pkg.fired.eraseIdx s.unit) ∧
      ((isMesh e.dst = true → s.destination e = .ok [(dst, e.dlen)]) →
      (s.writeRaces e = true → ∃ t, exec (if e.reduce then .writeReduce else .write) s = .next t ∧
        (∀ n, t.ctr n = s.ctr n) ∧ t.ctx = s.ctx ∧ t.pkg.fired = s.pkg.fired.eraseIdx s.unit) ∧
      (s.writeRaces e = false → e.reduce = false →
        ∃ t, exec .write s = .next t ∧ StoresBytes s t dst bs ∧ count e.rctr t ∧ t.ctx = s.ctx ∧ gone t) ∧
      (s.writeRaces e = false → e.reduce = true → e.fmt = 4 → e.len = 4 → e.redop < 8 →
        ∃ (t : State) (o : BitVec 32), exec .writeReduce s = .next t ∧ count e.rctr t ∧ t.ctx = s.ctx ∧ gone t ∧
          (∀ j < 4, s.mem.reads (dst.plus j) = (o >>> (8 * j)).setWidth 8) ∧
          let y : BitVec 32 := BitVec.ofNat 32 (leNat bs)
          let new := match e.redop with
            | 0 => o + y | 1 => o &&& y | 2 => o ||| y | 3 => o ^^^ y
            | 4 => if o.toInt ≤ y.toInt then o else y | 5 => if y.toInt ≤ o.toInt then o else y
            | 6 => if o.toNat ≤ y.toNat then o else y | _ => if y.toNat ≤ o.toNat then o else y
          StoresBytes s t dst (leBytes 4 new.toNat))))

/-- R276, R279-R281, R287, R318-R320, for names of this module. The order of the checks of an operation (XRESV's -10 and
-2 before -1, XBATCH.fwd's -3 before a capacity of 0) is the model's choice (assumption 28). -/
def Obligations.ExpertAdmission : Prop :=
  (∀ (s s' : State) (d a b c : XReg) (p : Nat) (v : Part) (e : Expert), s.mem.wf → s.vecMemBusy = false →
    (s.getCl s.cur.core.cl).part = some p → s.part? p = some v →
    let name := (s.ctx.rx a).toNat % 2 ^ 24
    let err := fun (n : Int) => s.ctx.wx d (BitVec.ofInt 64 (-n))
    let sync := fun (x : Ctx) => { x with regionid := s.ctx.regionid + 1 }
    let kept := fun (t : State) => SameBytes s t ∧ t.pkg = s.pkg
    s.namePeer name = none → s.expert? name = some e → e.part = p →
    (∀ r, s.loadRecord (s.ctx.rx b) 64 64 = .ok (s', r) →
      (policyOk r e.groups.length = true → Performs (.xpol d a b) s (s.ctx.wx d 0) fun t => SameBytes s t ∧
        t.expert? name = some { e with nextPolicy :=
          ⟨recNat r 0 8, recNat r 8 4, recNat r 12 4, recNat r 16 1, recNat r 24 4, recNat r 28 4⟩ }) ∧
      (policyOk r e.groups.length = false → Performs (.xpol d a b) s (err 9) fun t => SameBytes s t ∧
        t.expert? name = some e)) ∧
    (∀ ts, s.checkRange .store (s.ctx.rx c) 16 16 = .ok ts →
      let n := (s.ctx.rx b).toNat
      (v.stepno = 0 → Performs (.xresv d a b c) s (err 10) kept) ∧
      (v.stepno ≠ 0 → e.sealed = true → Performs (.xresv d a b c) s (err 2) kept) ∧
      (v.stepno ≠ 0 → e.sealed = false → (n = 0 ∨ 2 ^ 32 ≤ n ∨ e.ectr < n) → Performs (.xresv d a b c) s (err 1) kept) ∧
      (v.stepno ≠ 0 → e.sealed = false → 0 < n → n < 2 ^ 32 → n ≤ e.ectr →
        let h : Handle := ⟨e.nextHandle % 2 ^ 32, v.stepno, n⟩
        Performs (.xresv d a b c) s (s.ctx.wx d (BitVec.ofNat 64 n)) fun t =>
          t.expert? name = some { e with
            ectr := e.ectr - n, handles := e.handles ++ [h], nextHandle := e.nextHandle + 1 } ∧
          ∀ q, t.mem.reads q = (s.storeRange ts
            (leBytes 4 name ++ leBytes 4 h.id ++ leBytes 4 h.step ++ leBytes 4 n)).mem.reads q)) ∧
    (∀ (len : BitVec 8) (bs : List Byte), 0 < len.toNat → len.toNat ≤ 248 →
      s.payload (s.ctx.rx b) (BitVec.ofNat 64 len.toNat) = .ok (s', bs) →
      let i : Instr := .xsend d a b 0 len
      let first := (e.candidates (s.selector s.cur.core.cl.die name)).find? fun k => 0 < e.ectr && 0 < e.dieCtr k
      (v.stepno = 0 → Performs i s (sync (err 10)) kept) ∧
      (v.stepno ≠ 0 → e.sealed = true → Performs i s (sync (err 2)) kept) ∧
      (v.stepno ≠ 0 → e.sealed = false → first = none → Performs i s (sync (err 1)) kept) ∧
      (∀ k, v.stepno ≠ 0 → e.sealed = false → first = some k →
        Performs i s (sync (s.ctx.wx d (BitVec.ofNat 64 k.val))) fun t => SameBytes s t ∧
          t.pkg.deliveries = s.pkg.deliveries ++ [⟨name, k.val, ⟨bs, coreIdBits s.cur, 0xFFFF⟩, v.stepno, false⟩] ∧
          ∃ e', t.expert? name = some e' ∧ e'.ectr = e.ectr - 1 ∧ e'.count = e.count + 1 ∧
            (e'.rep k).out = (e.rep k).out + 1 ∧ (∀ q : Fin 8, e'.dctr.get q =
              if q.val = e.dieOf k then e.dctr.get q - 1 else e.dctr.get q)) ∧
      (∀ (c' : XReg) (s'' : State) (hb : List Byte), c' ≠ 0 → s'.loadRecord (s.ctx.rx c') 16 16 = .ok (s'', hb) →
        let i : Instr := .xsend d a b c' len
        (v.stepno = 0 → Performs i s (sync (err 10)) kept) ∧
        (v.stepno ≠ 0 → e.sealed = true → Performs i s (sync (err 2)) kept) ∧
        (v.stepno ≠ 0 → e.sealed = false → e.handle? name v.stepno hb = none → Performs i s (sync (err 12)) kept) ∧
        ∀ h, v.stepno ≠ 0 → e.sealed = false → e.handle? name v.stepno hb = some h →
          let first := (e.candidates (s.selector s.cur.core.cl.die name)).find? fun k => 0 < h.count && 0 < e.dieCtr k
          (first = none → Performs i s (sync (err 1)) kept) ∧
          ∀ k, first = some k → Performs i s (sync (s.ctx.wx d (BitVec.ofNat 64 k.val))) fun t => SameBytes s t ∧
            t.pkg.deliveries = s.pkg.deliveries ++ [⟨name, k.val, ⟨bs, coreIdBits s.cur, 0xFFFF⟩, v.stepno, false⟩] ∧
            ∃ e', t.expert? name = some e' ∧ e'.ectr = e.ectr ∧ e'.count = e.count + 1 ∧
              e'.handles = (e.handles.map fun y => if y.id = h.id then { y with count := y.count - 1 } else y) ∧
              (e'.rep k).out = (e.rep k).out + 1) ∧
      (let k : Fin 16 := Fin.ofNat 16 ((s.ctx.rx c).toNat % 16)
       let ok := ((e.rep k).state = .live ∨ (e.rep k).state = .draining) ∧ e.join.getLsbD k.val = true
       (ok → Performs (.xsendr d a b c len) s (sync (s.ctx.wx d 0)) fun t => SameBytes s t ∧ t.pkg = { s.pkg with
         deliveries := s.pkg.deliveries ++ [⟨name, k.val, ⟨bs, coreIdBits s.cur, 0xFFFF⟩, v.stepno, true⟩] }) ∧
       (¬ ok → Performs (.xsendr d a b c len) s (sync (err 5)) kept))) ∧
    (let k : Fin 16 := Fin.ofNat 16 ((s.ctx.rx a).toNat / 2 ^ 24 % 16)
     let own := ((e.rep k).state = .live ∨ (e.rep k).state = .draining) ∧
       s.cur.core.cl ∈ s.groupOf e (e.rep k).group
     let n := (s.ctx.rx c).toNat
     let records := fun (ps : List (List (Word × Target × Nat) × List Byte)) (ts : List Token) (t : State) =>
       let cell := fun (q : Place) (j o : Nat) => ∃ pieces bs, ps[j]? = some (pieces, bs) ∧
         ∃ ea tgt len, (ea, tgt, len) ∈ pieces ∧ ∃ k < len,
           o = (ea - (s.ctx.rx b + BitVec.ofNat 64 (256 * j))).toNat + k ∧ q = tgt.place.plus k
       (∀ q j o j' o', cell q j o → cell q j' o' → j = j' ∧ o = o') →
         (∀ j tk, ts[j]? = some tk → ∀ o y,
           (leBytes 8 (tk.bytes.length + tk.sender * 2 ^ 8 + tk.module * 2 ^ 32) ++ tk.bytes)[o]? = some y →
           ∃ q, cell q j o ∧ t.mem.reads q = y) ∧
         ∀ q, (∀ j o, ¬ cell q j o) → t.mem.reads q = s.mem.reads q
     (n = 0 ∨ (s.ctx.rx b).toNat % 256 = 0) → s.bufferCheck (n * 256 / 2 ^ 16 + 2) (s.ctx.rx b).toNat (n * 256) = .ok () →
     (¬ own → ∀ i ∈ [Instr.xbatchFwd d a b c, .xbatchBwd d a b c, .xbatchReload d a], Performs i s (err 5) kept) ∧
     (own → v.stepno ≠ 0 → (e.rep k).version ≠ some v.stepno → Performs (.xbatchFwd d a b c) s (err 3) kept) ∧
     (own → (e.rep k).version = some v.stepno → Performs (.xbatchReload d a) s (s.ctx.wx d 0) kept) ∧
     (own → (e.rep k).version ≠ some v.stepno → (e.rep k).reloading = true → Waits (.xbatchReload d a) s) ∧
     (own → (e.rep k).version ≠ some v.stepno → (e.rep k).reloading = false → Calm s (.xbatchReload d a) = true →
       ∃ t, exec (.xbatchReload d a) s = .next t ∧ t.mem = s.mem ∧
         t.ctx = { s.ctx with waiting := true, doing := some (.xbatchReload d a), lastIssue := s.issueCycle } ∧
         ∃ e', t.expert? name = some e' ∧ (e'.rep k).reloading = true) ∧
     (∀ ps, own → v.stepno ≠ 0 → (e.rep k).version = some v.stepno →
       let m := min n (e.rep k).queue.length
       0 < m → s.checkBatch (s.ctx.rx b).toNat ((e.rep k).queue.take m) = .ok ps →
       Performs (.xbatchFwd d a b c) s (sync (s.ctx.wx d (BitVec.ofNat 64 m))) fun t =>
         records ps ((e.rep k).queue.take m) t ∧ ∃ e', t.expert? name = some e' ∧
           (e'.rep k).queue = (e.rep k).queue.drop m ∧ (e'.rep k).fwd = (e.rep k).fwd + m ∧
         (e'.rep k).out = (e.rep k).out - m) ∧
     (∀ ps, own → let m := min n (e.rep k).bqueue.length
       0 < m → s.checkBatch (s.ctx.rx b).toNat ((e.rep k).bqueue.take m) = .ok ps →
       Performs (.xbatchBwd d a b c) s (sync (s.ctx.wx d (BitVec.ofNat 64 m))) fun t =>
         records ps ((e.rep k).bqueue.take m) t ∧ ∃ e', t.expert? name = some e' ∧
           (e'.rep k).bqueue = (e.rep k).bqueue.drop m ∧ (e'.rep k).fwd = (e.rep k).fwd))) ∧
  (∀ (s s' : State) (d a : XReg) (r : List Byte) (p : Nat) (v : Part) (e : Expert) (h : Handle), s.mem.wf →
    s.vecMemBusy = false → s.loadRecord (s.ctx.rx a) 16 16 = .ok (s', r) →
    (s.getCl s.cur.core.cl).part = some p → s.part? p = some v →
    let name := recNat r 0 4 % 2 ^ 24
    s.namePeer name = none → s.expert? name = some e → e.part = p → e.handle? name v.stepno r = some h →
    Performs (.xrel d a) s (s.ctx.wx d (BitVec.ofNat 64 h.count)) fun t => SameBytes s t ∧
      t.expert? name = some { e with ectr := e.ectr + h.count, handles := e.handles.filter fun y => y.id ≠ h.id }) ∧
  (∀ (s : State) (x : Delivery) (e : Expert), s.pkg.deliveries[s.unit]? = some x → s.expert? x.name = some e →
    s.running e.part = true →
    let k : Fin 16 := Fin.ofNat 16 x.rep
    let late := x.backward = false ∧ (e.sealed = true ∨ x.step ≠ s.stepOf e.part)
    let c := ctxOfBits x.token.sender
    (¬ late → ∃ t e', exec .tokenDelivery s = .next t ∧ t.mem = s.mem ∧ t.ctx = s.ctx ∧ t.expert? x.name = some e' ∧
      t.pkg.deliveries = s.pkg.deliveries.eraseIdx s.unit ∧
      (x.backward = false → (e'.rep k).queue = (e.rep k).queue ++ [x.token]) ∧
      (x.backward = true → (e'.rep k).bqueue = (e.rep k).bqueue ++ [x.token] ∧ (e'.rep k).bwd = (e.rep k).bwd + 1)) ∧
    (late → x.token.module = 0xFFFF → s.mailRoom c.core false = true → s.clRuns c.core.cl = true →
      ∃ t, exec .tokenDelivery s = .next t ∧ t.mem = s.mem ∧ t.expert? x.name = some e ∧
        t.pkg.deliveries = s.pkg.deliveries.eraseIdx s.unit ∧
        (t.getCore c.core).mailbox false = (s.getCore c.core).mailbox false ++
          [⟨c.idx, BitVec.ofNat 64 (0xFFFF * 2 ^ 16 + (8 + x.token.bytes.length)),
            leBytes 8 (x.name + 4 * 2 ^ 24 + x.step % 2 ^ 32 * 2 ^ 32) ++ x.token.bytes, none⟩]))

/-- R273-R288, for names of this module; an operation that a peer asks for is answered. The order of XREG's and of the
other checks, and that the first snapshot is at every selector when XREG returns, are the model's choices (assumption 28);
that XJOIN checks and sends as it does, assumption 53; the answer to a peer, assumptions 29 and 42. -/
def Obligations.ExpertReplicas : Prop :=
  (∀ (s s' : State) (d a b : XReg) (p : Nat) (v : Part), s.mem.wf → s.vecMemBusy = false → s.ctx.live = true →
    (s.getCl s.cur.core.cl).part = some p → s.part? p = some v →
    let err := fun (n : Int) => s.ctx.wx d (BitVec.ofInt 64 (-n))
    let kept := fun (t : State) => SameBytes s t ∧ t.pkg = s.pkg
    (∀ r, s.loadRecord (s.ctx.rx a) 512 64 = .ok (s', r) →
      let new := recNat r 0 3
      (s'.xregOk p r = false → Performs (.xreg d a) s (err 9) kept) ∧
      (s'.xregOk p r = true → (s.expert? new).isSome = true → Performs (.xreg d a) s (err 7) kept) ∧
      (s'.xregOk p r = true → (s.namePeer new).isSome = true → Performs (.xreg d a) s (err 7) kept) ∧
      (s'.xregOk p r = true → s.expert? new = none → s.namePeer new = none →
        (262144 ≤ s.pkg.experts.length ∨ v.cfg.xnames ≤ (s.pkg.experts.filter fun q => q.2.part = p).length) →
        Performs (.xreg d a) s (err 8) kept) ∧
      (s'.xregOk p r = true → s.expert? new = none → s.namePeer new = none → s.pkg.experts.length < 262144 →
        (s.pkg.experts.filter fun q => q.2.part = p).length < v.cfg.xnames →
        let group := groupClusters s.pkg.grade (recGroup r 0) (recNat r 4 1)
        (s.groupFree group = false → Performs (.xreg d a) s (err 6) kept) ∧
        (s.groupFree group = true → Performs (.xreg d a) s (s.ctx.wx d 0) fun t => SameBytes s t ∧
          (∀ die < 8, t.selector die new = 1) ∧
          (∃ e, t.expert? new = some e ∧ e.part = p ∧ (e.rep 0).state = .live ∧ e.entry = recWord r 32) ∧
          ∀ (k : Nat) (c : ClusterId), group[k]? = some c → let x := t.getCtx ⟨⟨c, 0⟩, 0⟩
            x.live = true ∧ x.pc = recWord r 32 ∧ x.rx 1 = recWord r 40 ∧
              x.rx 3 = BitVec.ofNat 64 (new + k * 2 ^ 32)))) ∧
    (∀ e, let name := (s.ctx.rx a).toNat % 2 ^ 24
      let k : Fin 16 := Fin.ofNat 16 ((s.ctx.rx b).toNat % 16)
      let i : Fin 16 := Fin.ofNat 16 ((s.ctx.rx a).toNat / 2 ^ 24 % 16)
      let here := e.module = 0xFFFF
      let owned := s.ownsNode p e.node = true
      let present := (s.peer? e.module).isSome = true
      s.namePeer name = none → s.expert? name = some e → e.part = p →
      (v.stepno = 0 → Performs (.xseal d a) s (err 10) kept) ∧
      (v.stepno ≠ 0 → e.sealed = true → Performs (.xseal d a) s (s.ctx.wx d 0) kept) ∧
      (v.stepno ≠ 0 → e.sealed = false → Performs (.xseal d a) s (s.ctx.wx d 0) fun t => t.mem = s.mem ∧
        (here → t.pkg.outbox = s.pkg.outbox) ∧ (here → ¬ owned → t.pkg.nodes = s.pkg.nodes) ∧
        (¬ here → t.pkg.nodes = s.pkg.nodes ∧ t.pkg.outbox = s.pkg.outbox ++
          if present then [.joinMask e.module e.node p e.block0 e.nblk e.join] else []) ∧
        (here → owned → ∀ (n : Nat) x, (s.node e.node).sts[n]? = some x → ∃ x', (t.node e.node).sts[n]? = some x' ∧
          let hit := e.block0 ≤ n ∧ n < e.block0 + e.nblk
          x'.mask = (if hit then e.join.toNat else x.mask) ∧ x'.bitmap = x.bitmap ∧ (x'.complete = true ↔
            x.complete = true ∨ (hit ∧ e.join ≠ 0 ∧ x.bitmap = e.join.toNat))) ∧
        ∃ e', t.expert? name = some e' ∧ e'.sealed = true ∧ e'.handles = [] ∧ e'.join = e.join) ∧
      ((s.ctx.rx b).toNat % 64 = 0 → s.ctx.pos = 0 → e.sealed = false →
        Performs (.xjoin d a b) s { err 11 with regionid := s.ctx.regionid + 1 } kept) ∧
      ((s.ctx.rx b).toNat % 64 = 0 → s.ctx.pos = 0 → e.sealed = true →
        (e.join.getLsbD i.val = false ∨ (e.rep i).joined = true) →
        Performs (.xjoin d a b) s { err 5 with regionid := s.ctx.regionid + 1 } kept) ∧
      (let x := s.ctx.rx b
       let ls := s.segments e
       let sends := fun (k : Nat) (bs : List Byte) (t : State) =>
         let y : Contribution :=
           ⟨v.stepno % 2 ^ 32, e.block0 + k, i.val, true, contribElems 64 (bs.length / 64) bs, none⟩
         (here → t.pkg.outbox = s.pkg.outbox) ∧ (here → ¬ owned → t.pkg.nodes = s.pkg.nodes) ∧
         (here → owned → (t.node e.node).inbox = (s.node e.node).inbox ++ [y]) ∧
         (¬ here → t.pkg.nodes = s.pkg.nodes ∧ t.pkg.outbox = s.pkg.outbox ++
           if present then [.contribution e.module e.node p y] else [])
       let goesOn := fun (k : Nat) (t : State) => t.ctx.pos = k + 1 ∧ t.ctx.waiting = true ∧ t.ctx.pc = s.ctx.pc ∧
         t.ctx.doing = some (.xjoin d a b) ∧ t.ctx.lastIssue = s.issueCycle
       let joins := fun (t : State) => SameBytes s t ∧ ∃ e', t.expert? name = some e' ∧ (e'.rep i).joined = true
       let done := { s.ctx.wx d 0 with regionid := s.ctx.regionid + 1 }
       (here → owned → ∀ k < e.nblk, ls[k]? = some ((((s.node e.node).blocks[e.block0 + k]?).map BlockDesc.len).getD 0)) ∧
       (∀ u w bs, (s.ctx.rx b).toNat % 64 = 0 → s.ctx.pos = 0 → e.sealed = true → e.join.getLsbD i.val = true →
        (e.rep i).joined = false → s.holdLoads x (segmentBytes ls) = .ok u →
        u.takeHeld x (64 * ls.headD 0) = .ok (w, bs) →
        (e.nblk = 1 → Performs (.xjoin d a b) s done fun t => joins t ∧ sends 0 bs t) ∧
        (1 < e.nblk → Calm s (.xjoin d a b) = true →
          ∃ t, exec (.xjoin d a b) s = .next t ∧ joins t ∧ sends 0 bs t ∧ goesOn 1 t) ∧
        (∀ t, 0 < segmentBytes ls → x.toNat % 2 ^ 16 + segmentBytes ls ≤ 2 ^ 16 → (s.getCl s.cur.core.cl).ways = [] →
          s.access .load x (segmentBytes ls) 8 = .ok t → bs.length = 64 * ls.headD 0 ∧
          ∀ j < bs.length, bs[j]? = some (s.mem.reads (t.place.plus j)))) ∧
       (∀ w bs, 0 < s.ctx.pos → s.ctx.pos ≤ e.nblk →
        s.takeHeld (x + BitVec.ofNat 64 (segmentBytes (ls.take (s.ctx.pos - 1)))) (64 * ls.getD (s.ctx.pos - 1) 0) =
          .ok (w, bs) →
        (s.ctx.pos < e.nblk → Calm s (.xjoin d a b) = true → ∃ t, exec (.xjoin d a b) s = .next t ∧ SameBytes s t ∧
          sends (s.ctx.pos - 1) bs t ∧ goesOn s.ctx.pos t) ∧
        (s.ctx.pos = e.nblk → Performs (.xjoin d a b) s done fun t => SameBytes s t ∧ sends (s.ctx.pos - 1) bs t))) ∧
      (e.sealed = true → Performs (.xspawn d a b) s (err 2) kept) ∧
      (∀ j, e.sealed = false → v.stepno ≠ 0 → e.mayCreate = true → e.freeIndex = some j → s.ctx.rx b = 0 →
        s.spareGroups e ≠ [] → Performs (.xspawn d a b) s (s.ctx.wx d (BitVec.ofNat 64 j.val)) fun t => t.mem = s.mem ∧
          ∃ e', t.expert? name = some e' ∧ (e'.rep j).state = .creating) ∧
      ((e.rep k).state ≠ .live → Performs (.xretire d a b) s (err 5) kept) ∧
      ((e.rep k).state = .live → e.liveCount = 1 → Performs (.xretire d a b) s (err 6) kept) ∧
      ((e.rep k).state = .live → e.liveCount ≠ 1 → Performs (.xretire d a b) s (s.ctx.wx d 0) fun t => t.mem = s.mem ∧
        ∃ e', t.expert? name = some e' ∧ ((e'.rep k).state = .draining ∨ (e'.rep k).state = .retired) ∧
          e'.snap = e.snap + 1) ∧
      (let code := fun (r : RepState) => match r with | .free | .retired => 0 | .creating => 1 | .live => 2 | .draining => 3
       let r := e.rep k
       (∃ w : Word, WritesX (.xstat .expert d a b) s d w 8 ∧ w.toNat / 2 ^ 32 = e.snap % 2 ^ 32 ∧
         ∀ q : Fin 16, w.toNat / 4 ^ q.val % 4 = code (e.rep q).state) ∧
       (∃ w : Word, WritesX (.xstat .replica d a b) s d w 8 ∧
         w.toNat / 2 ^ 32 = (match r.version with | some n => n % 2 ^ 32 | none => 2 ^ 32 - 1) ∧
         (r.group < 16 → w.toNat / 2 ^ 20 % 2 ^ 12 = r.group) ∧ w.getLsbD 19 = r.joined ∧
         w.getLsbD 18 = e.join.getLsbD k.val ∧ w.toNat / 2 ^ 16 % 4 = code r.state ∧
         w.toNat % 2 ^ 16 = min r.out (2 ^ 16 - 1)) ∧
       (∃ w : Word, WritesX (.xstat .counts d a b) s d w 8 ∧ w.toNat / 2 ^ 32 = min r.fwd (2 ^ 32 - 1) ∧
         w.toNat % 2 ^ 32 = min r.bwd (2 ^ 32 - 1)) ∧
       (∃ w : Word, WritesX (.xstat .permits d a b) s d w 8 ∧ w.toNat / 2 ^ 32 = min e.ectr (2 ^ 32 - 1) ∧
         w.toNat % 2 ^ 32 = min ((e.dctr[s.cur.core.cl.die]?).getD 0) (2 ^ 32 - 1)) ∧
       ∃ w : Word, WritesX (.xstat .window d a b) s d w 8 ∧ w.getLsbD 63 = e.sealed ∧
         w.toNat % 2 ^ 63 = e.count % 2 ^ 63)) ∧
    (let n := (s.ctx.rx a).toNat
     let joined := ∀ q ∈ s.pkg.experts, q.2.part = p → ∀ i : Fin 16, q.2.join.getLsbD i.val = true → (q.2.rep i).joined = true
     (n ≠ v.stepno + 1 → (v.discarded = false ∨ n ≠ v.stepno) → Performs (.xstep d a) s (err 6) kept) ∧
     (¬ joined → Performs (.xstep d a) s (err 6) kept) ∧
     (n = v.stepno + 1 → joined → Performs (.xstep d a) s (s.ctx.wx d 0) fun t => t.mem = s.mem ∧
       (∃ v', t.part? p = some v' ∧ v'.stepno = n) ∧
       ∀ m e, s.expert? m = some e → e.part = p → ∃ e', t.expert? m = some e' ∧ e'.sealed = false ∧ e'.count = 0 ∧
         e'.ectr = e.nextPolicy.ce ∧ (∀ q : Fin 8, e'.dctr.get q = e.nextPolicy.cd) ∧
         ∀ i : Fin 16, (e'.rep i).state = (e.rep i).state ∧ (e'.rep i).out = 0 ∧ (e'.rep i).fwd = 0 ∧ (e'.rep i).bwd = 0 ∧
           (e'.rep i).queue = [] ∧ (e'.rep i).joined = false ∧
           (e'.join.getLsbD i.val = true ↔ (e.rep i).state = .live)))) ∧
  (∀ (s : State) (name : Nat) (i : Fin 16) (e : Expert), s.mem.wf → s.expert? name = some e → s.running e.part = true →
    ((e.rep i).state = .creating → ∃ t e', exec (.replicaPublish name i) s = .next t ∧ t.expert? name = some e' ∧
      (e'.rep i).state = .live ∧ e'.snap = e.snap + 1 ∧ (e.sealed = false → e'.join.getLsbD i.val = true)) ∧
    ((e.rep i).reloading = true → ∃ t e', exec (.weightReloadDone name i) s = .next t ∧ t.expert? name = some e' ∧
      t.ctx = s.ctx ∧ (e'.rep i).version = some (s.stepOf e.part) ∧ (e'.rep i).reloading = false) ∧
    (name = s.unit → e.windowLeft = some 0 → s.counts e.part = true → ∃ t e', exec .windowBoundary s = .next t ∧ t.mem = s.mem ∧
      t.expert? name = some e' ∧ e'.count = 0 ∧ e'.windowLeft = some e.nextPolicy.window)) ∧
  (∀ (s : State) (die name : Nat) (x : Snapshot) (rest : List Snapshot), s.pkg.inFlight = x :: rest → x.die = die →
    x.name = name → ∃ t, exec (.snapshotArrival die name) s = .next t ∧ t.mem = s.mem ∧ t.pkg.inFlight = rest ∧
      t.selector die name = x.live) ∧
  ∀ (s : State) (o : RemoteOp), s.pkg.running ≠ none → ∃ t w bs pre, exec (.remoteExpertOp o) s = .next t ∧ t.ctx = s.ctx ∧ t.mem = s.mem ∧
    t.pkg.outbox = s.pkg.outbox ++ pre ++ [.answer o.peer o.tag w bs] ∧ (s.expert? o.name = none → w = none)

/-- R289, R293, R294, R306, R326, R327. The checks of the record are the model's `nodeRecOk` and `blocksOk`. -/
def Obligations.NodeInstructions : Prop :=
  ∀ (s : State) (d a b c : XReg) (p : Nat), s.mem.wf → s.vecMemBusy = false → (s.getCl s.cur.core.cl).part = some p →
    let n := (s.ctx.rx a).toNat
    let err := fun (k : Int) => s.ctx.wx d (BitVec.ofInt 64 (-k))
    let kept := fun (t : State) => SameBytes s t ∧ t.pkg = s.pkg
    let others := fun (n : Nat) (t : State) => ∀ m, m ≠ n → t.node m = s.node m
    (s.ownsNode p n = false → ∀ sel, ∀ i ∈ [Instr.pnrule d a b, .pnstep d a b c, .pnstat sel d a],
      Traps i s ⟨.notPresent, 0, BitVec.ofNat 64 n⟩) ∧
    (∀ (s' : State) (r : List Byte), s.ownsNode p n = true → s.loadRecord (s.ctx.rx b) 64 64 = .ok (s', r) →
      let nb := recNat r 16 2
      let held := (s.node n).sts.any fun x => x.bitmap ≠ 0
      (held = true → Performs (.pnrule d a b) s (err 6) kept) ∧
      (held = false → s.nodeRecOk p r = false → Performs (.pnrule d a b) s (err 9) kept) ∧
      (∀ ts, held = false → s.nodeRecOk p r = true → s'.checkPieces .load (pieces (recWord r 8) (16 * nb)) = .ok ts →
        let bs := (s'.loadRange ts).2
        (s.blocksOk p (recNat r 40 4) nb bs = false → Performs (.pnrule d a b) s (err 9) kept) ∧
        (s.blocksOk p (recNat r 40 4) nb bs = true → Performs (.pnrule d a b) s (s.ctx.wx d 0) fun t =>
          SameBytes s t ∧ others n t ∧
          let k := t.node n
          k.loaded = true ∧ k.part = some p ∧ k.rulePart = p ∧ k.code = recWord r 0 ∧ k.hyper = recWord r 24 ∧
          k.store = recWord r 32 ∧ k.nelem = recNat r 40 4 ∧ k.committed = recNat r 48 8 ∧ k.curB = false ∧
          k.ctr = (if (recNat r 44 4).testBit 16 then some (recNat r 44 2) else none) ∧ k.blocks = blockDescs nb bs ∧
          k.blocks.length = nb ∧ k.sts.length = nb ∧ (∀ x ∈ k.sts, x.bitmap = 0 ∧ x.done = false ∧ x.failed = false) ∧
          (∀ (j : Nat) (x : BlockDesc) (y : BlockSt), k.blocks[j]? = some x → k.sts[j]? = some y → y.mask = 2 ^ x.ncontrib - 1) ∧
          k.order = [] ∧ k.armed = false ∧ k.dup = 0 ∧ k.steperr = 0 ∧ k.stray = 0 ∧ k.flags = 0))) ∧
    (s.ownsNode p n = true →
      let k := s.node n
      ((s.ctx.rx b).toNat = k.committed + 1 → Performs (.pnstep d a b c) s (s.ctx.wx d 0) fun t => t.mem = s.mem ∧
        others n t ∧ t.node n = { k with
          part := some p
          armed := true
          left := if s.ctx.rx c = 0 then none else some (s.ctx.rx c).toNat
          met := k.sts.all fun x => x.done && !x.failed }) ∧
      ((s.ctx.rx b).toNat ≠ k.committed + 1 → WritesX (.pnstep d a b c) s d (BitVec.ofInt 64 (-6)) 8) ∧
      WritesX (.pnstat .dup d a) s d (BitVec.ofNat 64 k.dup) 8 ∧
      WritesX (.pnstat .steperr d a) s d (BitVec.ofNat 64 k.steperr) 8 ∧
      WritesX (.pnstat .stray d a) s d (BitVec.ofNat 64 k.stray) 8 ∧
      WritesX (.pnstat .status d a) s d (BitVec.ofNat 32 k.committed ++ BitVec.ofBool k.loaded ++ BitVec.ofBool k.armed
        ++ BitVec.ofNat 11 (k.sts.countP fun x => x.done) ++ BitVec.ofBool k.failed ++ (0 : BitVec 13) ++ k.flags) 8) ∧
    (∀ (count : BitVec 9) (ts : List (Word × Target × Nat)),
      let i : Instr := .pnsend a b c count
      let tag := s.ctx.rx b
      let exa := tag.getLsbD 51
      let es := if exa then 64 else 4
      let node := tag.toNat / 2 ^ 48 % 8
      let peer := (s.ctx.rx c).toNat % 2 ^ 16
      let k : Contribution := ⟨tag.toNat % 2 ^ 32, tag.toNat / 2 ^ 32 % 2 ^ 10, tag.toNat / 2 ^ 42 % 2 ^ 6, exa,
        contribElems es count.toNat (s.loadRange ts).2, none⟩
      let next := { s.ctx with regionid := s.ctx.regionid + 1 }
      (peer = 0xFFFF → s.ownsNode p node = false → Traps i s ⟨.notPresent, 0, BitVec.ofNat 64 node⟩) ∧
      (s.checkRange .load (s.ctx.rx a) (count.toNat * es) es = .ok ts →
        (peer = 0xFFFF → s.ownsNode p node = true → Performs i s next fun t => SameBytes s t ∧ others node t ∧
          t.node node = { s.node node with inbox := (s.node node).inbox ++ [k] }) ∧
        (peer ≠ 0xFFFF → s.peer? peer = none → Traps i s ⟨.msg, 0, 7⟩) ∧
        (peer ≠ 0xFFFF → s.peer? peer ≠ none → Performs i s next fun t => SameBytes s t ∧
          t.pkg = { s.pkg with
            outbox := s.pkg.outbox ++ [.contribution peer node p k], sent := s.pkg.sent ++ [(p, peer, s.cycle)] })))

/-- R290-R293. The bytes of the instruction are the model's `ruleFetch`; the wait before a commit is R348's. Nothing is said
of the registers that R291 does not name (assumptions 5 and 57); that a chunk which cannot fetch ends its block with RULE
(assumption 31) and that a commit which races fails its step (assumption 60) are the model's choices. -/
def Obligations.NodeEvents : Prop :=
  ∀ (s : State), s.mem.wf → s.unit < 8 →
    let d := s.node s.unit
    let n : Fin 8 := Fin.ofNat 8 s.unit
    let node := fun (t : State) => t.node s.unit
    let others := fun (t : State) => t.ctx = s.ctx ∧ ∀ m, m ≠ s.unit → t.node m = s.node m
    let bumps := fun (c : Option Nat) (t : State) => ∀ m, c = some m → t.ctr m = s.ctr m + 1
    (∀ c rest, d.inbox = c :: rest → ∃ t, exec .pnContribution s = .next t ∧ t.mem = s.mem ∧ others t ∧ bumps c.rctr t ∧
      let e := { d with inbox := rest }
      (c.step ≠ (d.committed + 1) % 2 ^ 32 → node t = { e with steperr := d.steperr + 1 }) ∧
      (c.step = (d.committed + 1) % 2 ^ 32 →
        ((d.blocks[c.block]? = none ∨ d.sts[c.block]? = none) → node t = { e with stray := d.stray + 1 }) ∧
        ∀ k b, d.blocks[c.block]? = some k → d.sts[c.block]? = some b →
          ((b.mask.testBit c.contrib = false ∨ c.elems.length ≠ k.len) → node t = { e with stray := d.stray + 1 }) ∧
          (b.mask.testBit c.contrib = true → c.elems.length = k.len → b.bitmap.testBit c.contrib = true →
            node t = { e with dup := d.dup + 1 }) ∧
          (b.mask.testBit c.contrib = true → c.elems.length = k.len → b.bitmap.testBit c.contrib = false →
            ∃ b', node t = { e with
                sts := d.sts.set c.block b'
                order := if b.bitmap + 2 ^ c.contrib = b.mask then d.order ++ [c.block] else d.order } ∧
              b'.bitmap = b.bitmap + 2 ^ c.contrib ∧ b'.mask = b.mask ∧
              b'.complete = decide (b.bitmap + 2 ^ c.contrib = b.mask) ∧ b'.buf.length = k.len ∧
              ∀ j x, c.elems[j]? = some x →
                let old := Exa.ofBits (b.buf.getD j 0)
                b'.buf[j]? = some (if c.exa then old.addExa (Exa.ofBits x) else old.addF32 x).toBits))) ∧
    (∀ block rest k b, d.order = block :: rest → d.blocks[block]? = some k → d.sts[block]? = some b →
      (64 * b.chunks < k.len →
        (d.rule = none → ∃ t c, exec (.pnRuleChunk n 0) s = .next t ∧ t.mem = s.mem ∧ others t ∧
          (node t).rule = some c ∧ (node t).sts = d.sts ∧
          let len := min 64 (k.len - 64 * b.chunks)
          let dxb := match s.pageAt d.rulePart k.wdest.toNat with | some g => g.fmt = some .dxb8 | none => False
          let arr := fun (copy : Bool) (j : Nat) =>
            BitVec.ofNat 64 (d.store.toNat + ((if copy then 3 else 0) + j) * 4 * d.nelem + 4 * (k.offset + 64 * b.chunks))
          c.pc = d.code ∧ c.rx 0 = 0 ∧ c.rx 1 = BitVec.ofNat 64 (2 ^ len - 1) ∧ c.rx 2 = c.grad ∧
          c.rx 3 = arr d.curB 0 ∧ c.rx 4 = arr d.curB 1 ∧ c.rx 5 = arr d.curB 2 ∧ c.rx 6 = arr (!d.curB) 0 ∧
          c.rx 7 = arr (!d.curB) 1 ∧ c.rx 8 = arr (!d.curB) 2 ∧
          (dxb → c.rx 9 = k.wdest + BitVec.ofNat 64 (64 * b.chunks)) ∧
          (¬ dxb → c.rx 9 = k.wdest + BitVec.ofNat 64 (128 * b.chunks)) ∧ c.rx 10 = d.hyper ∧
          c.rx 11 = BitVec.ofNat 64 (d.committed + 1) ∧ c.rx 12 = BitVec.ofNat 64 block ∧
          c.rx 13 = BitVec.ofNat 64 b.chunks) ∧
        (∀ c fuel, d.rule = some c →
          (∀ s' bs a, s.ruleFetch s.unit c.pc.toNat = some (s', bs) →
            decodeBytes .compute c.pc.toNat bs = .ok (.exit a) → (c.windows.any fun w => touches (.exit a) w.2) = false →
            ∃ t, exec (.pnRuleChunk n (fuel + 1)) s = .next t ∧ SameBytes s t ∧ others t ∧ node t = { d with
              rule := none, sts := d.sts.set block { b with chunks := b.chunks + 1 } }) ∧
          (s.ruleFetch s.unit c.pc.toNat = none → ∃ t, exec (.pnRuleChunk n (fuel + 1)) s = .next t ∧ SameBytes s t ∧
            others t ∧ node t = { d with
              sts := d.sts.set block { b with failed := true }, order := rest, rule := none, wait := 17000 }))) ∧
      (k.len ≤ 64 * b.chunks → ∃ t, exec (.pnBlockDone n block) s = .next t ∧ SameBytes s t ∧ others t ∧ bumps d.ctr t ∧
        (node t).sts = d.sts.set block { b with done := true } ∧ (node t).order = rest ∧ (node t).wait = 17000 ∧
        (node t).committed = d.committed ∧ (node t).curB = d.curB)) ∧
    (d.armed = true → d.loaded = true → d.met = true → (∀ b ∈ d.sts, b.done = true ∧ b.failed = false) → d.wait = 0 →
      s.commitRaces s.unit d = false → ∃ t, exec .pnCommit s = .next t ∧ others t ∧ bumps d.ctr t ∧
        (node t).curB = !d.curB ∧ (node t).committed = d.committed + 1 ∧ (node t).armed = false ∧ (node t).written = [] ∧
        (node t).order = [] ∧ (∀ b ∈ (node t).sts, b.bitmap = 0 ∧ b.done = false) ∧
        ((∀ j e, j < 3 → e < d.nelem → (j, e) ∈ d.written) → SameBytes s t) ∧
        ∀ j e x y, j < 3 → e < d.nelem → (j, e) ∉ d.written →
          (∀ j' e', j' < 3 → e' < d.nelem → (j', e') ∉ d.written → j' = j ∧ e' = e) →
          s.pageAt d.rulePart (d.arrayAt d.curB j e) = some x → s.pageAt d.rulePart (d.arrayAt (!d.curB) j e) = some y →
          ∃ bs, bs.length = 4 ∧ StoresBytes s t (.glob (y.pa (d.arrayAt (!d.curB) j e))) bs ∧
            ∀ i < 4, bs[i]? = some (s.mem.reads (.glob (x.pa (d.arrayAt d.curB j e) + i)))) ∧
    (d.armed = true → d.loaded = true → d.met = true → (∀ b ∈ d.sts, b.done = true ∧ b.failed = false) → d.wait = 0 →
      s.commitRaces s.unit d = true → ∃ t, exec .pnCommit s = .next t ∧ others t ∧ SameBytes s t ∧
        (node t).committed = d.committed ∧ (node t).curB = d.curB ∧ (node t).failed = true ∧ (node t).armed = false ∧
        (node t).order = [] ∧ (node t).written = [] ∧ ∀ b ∈ (node t).sts, b.bitmap = 0) ∧
    (d.armed = true → ((d.left = some 0 ∧ d.met = false) ∨ ∃ b ∈ d.sts, b.failed = true) →
      ∃ t, exec .pnStepDeadline s = .next t ∧ others t ∧ (node t).committed = d.committed ∧ (node t).curB = d.curB ∧
        (node t).failed = true ∧ (node t).armed = false ∧ (node t).order = [] ∧ (node t).written = [] ∧
        (∀ b ∈ (node t).sts, b.bitmap = 0) ∧
        ∀ p v, d.part = some p → s.part? p = some v → ∃ v', t.part? p = some v' ∧
          v'.logSeq = v.logSeq + d.sts.countP fun b => !(b.done && !b.failed))

/-- R336-R346, R350, R351. What stops before a halt is complete is the model's `stopped`; the fields of a save that only
RESUME interprets are free, and R344 leaves a resume from an altered save undefined. Read from the spec by inference: what a
halt waits for, and what a wait that has done a part keeps (assumptions 35 and 53); a DEADLINE that expires while HALTING
(assumption 35); the record of a dump at the physical address of FLOG (assumption 38). -/
def Obligations.PreemptionSavesAndRestores : Prop :=
  (∀ (s : State) (d a b : XReg) (p : Nat) (own : Part), (s.getCl s.cur.core.cl).part = some p → s.part? p = some own →
    s.ctx.super = true →
    let q := (s.ctx.rx a).toNat
    let k := (s.ctx.rx b).toNat
    let err := fun (n : Int) => BitVec.ofInt 64 (-n)
    (s.ownsCtr p k = false → ∀ i ∈ [Instr.preqCtr d a b, .resumeCtr d a b],
      Traps i s ⟨.notPresent, 0, BitVec.ofNat 64 k⟩) ∧
    (∀ i ∈ [(Instr.preq d a, none), (.preqCtr d a b, some k)], (i.2 = some k → s.ownsCtr p k = true) →
      let may := q ≤ 15 ∧ (q = p ∨ own.cfg.ctrlset.getLsbD q = true)
      (¬ may → WritesX i.1 s d (err 1) 8) ∧
      (may → (∀ v, s.part? q = some v → v.state ≠ .running) → WritesX i.1 s d (err 2) 8) ∧
      (∀ v, may → s.part? q = some v → v.state = .running → Performs i.1 s (s.ctx.wx d 0) fun t => t.mem = s.mem ∧
        t.part? q = some { v with state := .halting, preqCtr := i.2 } ∧ ∀ m, m ≠ q → t.part? m = s.part? m)) ∧
    (∀ i ∈ [(Instr.resume d a, none), (.resumeCtr d a b, some k)], (i.2 = some k → s.ownsCtr p k = true) →
      let may := q ≤ 15 ∧ q ≠ p ∧ own.cfg.ctrlset.getLsbD q = true
      (¬ may → WritesX i.1 s d (err 1) 8) ∧
      (may → (∀ v, s.part? q = some v → v.state ≠ .saved) → WritesX i.1 s d (err 2) 8) ∧
      (∀ v, may → s.part? q = some v → v.state = .saved → Performs i.1 s (s.ctx.wx d 0) fun t => t.mem = s.mem ∧
        t.part? q = some { v with state := .restoring, resumeCtr := i.2 } ∧
        (∀ r j, s.job? r = some j → (s.getCl r.cl).part = some q → 3 ≤ j.card.engine →
          j.phase = .ready ∨ j.phase = .running →
          t.job? r = some { j with phase := .ready, arrival := s.arrivals + j.arrival }) ∧ ∀ m, m ≠ q → t.part? m = s.part? m))) ∧
  (∀ (s : State) (v : Part), s.mem.wf → s.part? s.unit = some v →
    let posted := fun (event cls seq : Nat) (t : State) =>
      (BitVec.ofNat 64 (event * 2 ^ 56 + cls * 2 ^ 48 + s.unit * 2 ^ 32 + seq % 2 ^ 32), BitVec.allOnes 64) ∈
        (t.getQueue v.cfg.cfgq).records
    let others := fun (t : State) => ∀ m, m ≠ s.unit → t.part? m = s.part? m
    (v.state = .halting → s.stopped s.unit = true → ∃ t, exec .haltComplete s = .next t ∧ others t ∧
      ((∀ x ∈ s.mem.partials, (s.getCl x.cl).part = some s.unit) →
        (∀ q ∈ s.pkg.experts, q.2.part = s.unit → ∀ k, (q.2.rep k).state ≠ .creating) → SameBytes s t) ∧
      t.part? s.unit = some { v with state := .saving, haltCycle := s.cycle } ∧
      (∀ c ∈ s.ctxsOf s.unit, t.getCtx c = { s.getCtx c with
        waiting := false, wake := none, asked := none, awaits := []
        plan := if (s.getCtx c).pos = 0 then [] else (s.getCtx c).plan }) ∧
      ∀ c, (s.getCl c.core.cl).part ≠ some s.unit → t.getCtx c = s.getCtx c) ∧
    (v.state = .halting → s.stopped s.unit = false → ∃ name, exec .haltComplete s = .refused (.notEnabled name)) ∧
    (v.state = .saving → ∃ t, exec .saveComplete s = .next t ∧ t.ctx = s.ctx ∧ others t ∧ posted 0x01 0 0 t ∧
      t.part? s.unit = some { v with state := .saved, saveTag := s.fresh, preqCtr := none } ∧
      (∀ m, v.preqCtr = some m → t.ctr m = s.ctr m + 1) ∧
      (∀ k, t.mem.reads (.scr k) = s.mem.reads (.scr k)) ∧
      ∀ pa, (pa < v.cfg.save ∨ v.cfg.save + 0x10000 + 0x4C0000 * (s.partClusters s.unit).length ≤ pa) →
        t.mem.reads (.glob pa) = s.mem.reads (.glob pa)) ∧
    (v.state = .restoring → s.saveIntact s.unit v = false → exec .restoreComplete s = .fault .saveAltered) ∧
    (v.state = .restoring → s.saveIntact s.unit v = true → v.waiting = [] → ∃ t, exec .restoreComplete s = .next t ∧
      SameBytes s t ∧ others t ∧ posted 0x02 0 0 t ∧ (∀ m, v.resumeCtr = some m → t.ctr m = s.ctr m + 1) ∧
      t.part? s.unit = some { v with state := .running, resumeCtr := none } ∧
      ∀ (i : Nat) (c : ClusterId) (n : Nat), (s.partClusters s.unit)[i]? = some c → n < 88 →
        let k : CtxId := ⟨⟨c, n / 11⟩, n % 11⟩
        let r := s.mem.peek (v.cfg.save + 0x10000 + i * 0x4C0000 + (0x410000 + n * 0x1400)) 0x1358
        (s.getCtx k).live = true → (t.getCtx k).pc = recWord r 0x1300 &&& BitVec.ofNat 64 (2 ^ 64 - 4) ∧
          ∀ j : Fin 64, (t.getCtx k).x.get j = recWord r (8 * j.val)) ∧
    (∀ cls loc addr detail found, v.state = .dumping → v.dumpRec = some (cls, loc, addr, detail, found) → s.stopped s.unit = true →
      ∃ t v', exec .dumpComplete s = .next t ∧ others t ∧ posted 0x03 cls (v.logSeq + 1) t ∧ t.part? s.unit = some v' ∧
        v'.state = .dumped ∧ v'.logSeq = v.logSeq + 1 ∧ v'.dumpRec = none ∧ v'.waiting = [] ∧ v'.cfg = v.cfg ∧
        (64 ≤ v.cfg.flog → ∀ i b, (leBytes 8 found)[i]? = some b →
          t.mem.reads (.glob (v.cfg.flog + 64 * ((v.logSeq + 1) % 4096) + (8 + i))) = b) ∧
        ∀ l ∈ t.launches, l.2.part ≠ s.unit)) ∧
  (∀ (s : State) (l : Leaf) (v : Part), Map.get? s.leaves s.unit = some l → s.part? l.part = some v → l.deadline = 0 →
    v.state = .running ∨ v.state = .halting → exec .deadlineExpiry s = .next (s.setPart l.part { v with
      state := .dumping
      dumpRec := some (1, coreIdBits l.home, l.launchptr, leBytes 8 l.launchptr.toNat, s.cycle) }))

/-- R49, R203, R204, R338, R347-R349, R372, R374. Without an image that verifies none runs: HostsAndLinks says what such
a module answers (R372). The model's choices: which partitions a unit's fault reaches (assumption 37), a log at physical
addresses (38), what stays over the reset of a management-core fault and over MODULE_RESET (41), the requests of the home
cores (43). -/
def Obligations.FaultsAndHardwareEvents : Prop :=
  (∀ (s : State) (p : Fin 16) (unit : BitVec 8) (loc : BitVec 32) (addr : BitVec 64) (v : Part), s.mem.wf →
    s.part? p.val = some v → 64 ≤ v.cfg.flog →
    let seq := v.logSeq + 1
    let at' := v.cfg.flog + 64 * (seq % 4096)
    let logged := fun (kind cls : Nat) (t : State) =>
      let r := leBytes 8 seq ++ leBytes 8 s.cycle ++ leBytes 1 kind ++ leBytes 1 cls ++ leBytes 1 unit.toNat ++ [0]
        ++ leBytes 4 loc.toNat ++ leBytes 8 addr.toNat
      (∀ i b, r[i]? = some b → t.mem.reads (.glob (at' + i)) = b) ∧
      (∀ i b, (leBytes 8 seq)[i]? = some b → t.mem.reads (.glob (v.cfg.flog - 64 + i)) = b) ∧
      ∀ q, (∀ i < 64, q ≠ .glob (at' + i)) → (∀ i < 8, q ≠ .glob (v.cfg.flog - 64 + i)) → t.mem.reads q = s.mem.reads q
    (v.state ≠ .dumped → v.state ≠ .faulted → ∃ t v', exec (.faultDetected p unit loc addr) s = .next t ∧ logged 6 4 t ∧
      t.part? p.val = some v' ∧ v'.state = .faulted ∧ v'.cfg = v.cfg ∧ v'.stepno = v.stepno ∧ v'.logSeq = seq ∧
      v'.waiting = [] ∧ v'.discarded = true ∧ (∀ m, m ≠ p.val → t.part? m = s.part? m) ∧ (∀ m, t.ctr m = s.ctr m) ∧
      (∀ c, (s.getCl c.core.cl).part = some p.val → t.getCtx c = Ctx.init) ∧
      (∀ c, (s.getCl c.core.cl).part ≠ some p.val → t.getCtx c = s.getCtx c) ∧
      (∀ c, (s.getCl c).part = some p.val → (t.getCl c).jobs = []) ∧
      (∀ f ∈ t.pkg.fired, f.entry.part ≠ p.val) ∧ (∀ q, ∀ e ∈ t.qpList q, e.part ≠ p.val) ∧
      (∀ n e bs, PeerMsg.write n e bs ∈ t.pkg.incoming → e.part ≠ p.val) ∧
      (∀ c ∈ t.pkg.convs, c.2.part ≠ p.val) ∧ (∀ l ∈ t.launches, l.2.part ≠ p.val) ∧
      (∀ n < 8, (s.node n).part = some p.val → (t.node n).armed = false ∧ (t.node n).order = [] ∧
        (t.node n).committed = (s.node n).committed ∧ ∀ b ∈ (t.node n).sts, b.bitmap = 0) ∧
      (∀ name e, t.expert? name = some e → e.part = p.val → (e.rep 0).state = .live ∧ (e.rep 0).version = none ∧
        ∀ k, k ≠ 0 → (e.rep k).state = .free) ∧
      (BitVec.ofNat 64 (4 * 2 ^ 56 + 4 * 2 ^ 48 + p.val * 2 ^ 32 + seq % 2 ^ 32), BitVec.allOnes 64) ∈
        (t.getQueue v.cfg.cfgq).records) ∧
    (∃ t, exec (.faultMasked p unit loc addr) s = .next t ∧ logged 7 0 t ∧
      t = { s.setPart p.val { v with logSeq := seq } with mem := t.mem })) ∧
  (∀ (s : State) (parts : BitVec 16) (unit : BitVec 8) (loc : BitVec 32) (addr : BitVec 64),
    (∃ p, parts.getLsbD p = true ∧ s.canFault p = true ∧ s.part? p ≠ none) →
    ∃ t, exec (.sharedUnitFault parts unit loc addr) s = .next t ∧ ∀ p v, s.part? p = some v → ∃ v', t.part? p = some v' ∧
      (parts.getLsbD p = true → s.canFault p = true → v'.state = .faulted ∧ v'.cfg = v.cfg ∧ v'.stepno = v.stepno) ∧
      ((parts.getLsbD p = false ∨ s.canFault p = false) → v' = v)) ∧
  (∀ (s : State) (i : Nat) (m : Image), i < 2 → s.pkg.images[i]? = some m → Config.imageVerifies m.bytes = true →
    (∀ j m', j < 2 → j ≠ i → s.pkg.images[j]? = some m' → Config.imageVerifies m'.bytes = true → m'.version < m.version) →
    (∃ t, exec .moduleReset s = .next t ∧ t.pkg.running = some i ∧ t.mem.home = s.mem.home ∧ t.parts = [] ∧
      t.ctxs = [] ∧ t.ctx = Ctx.init ∧ t.launches = [] ∧ t.cycle = 0 ∧ t.pkg.experts = [] ∧ t.pkg.convs = [] ∧
      t.pkg.poweredDown = false ∧ t.pkg.images = s.pkg.images ∧ t.pkg.idkey = s.pkg.idkey ∧ t.pkg.clmap = s.pkg.clmap) ∧
    (∃ t, exec .managementCoreFault s = .next t ∧ t.cycle = 0 ∧ t.pkg.running = some i ∧ t.pkg.poweredDown = false ∧
      t.pkg.owner = Pkg.init.owner ∧ t.pkg.peers = Pkg.init.peers ∧ t.pkg.names = Pkg.init.names ∧
      t.pkg.telemetry = Pkg.init.telemetry ∧ t.launches = [] ∧
      ∀ p v, s.part? p = some v → ∃ v', t.part? p = some v' ∧ v'.cfg = v.cfg ∧ v'.state = .faulted)) ∧
  (∀ s : State, (∀ i < 2, ∀ m, s.pkg.images[i]? = some m → Config.imageVerifies m.bytes = false) →
    (∃ t, exec .moduleReset s = .next t ∧ t.pkg.running = none ∧ t.parts = [] ∧ t.mem.home = s.mem.home) ∧
    ∃ t, exec .managementCoreFault s = .next t ∧ t.pkg.running = none ∧ t.parts = []) ∧
  (∀ s : State, s.unit < 8 →
    (exec .thermalAlarm s = .next { s with pkg := { s.pkg with telemetry := { s.pkg.telemetry with
      alarms := s.pkg.telemetry.alarms ||| BitVec.twoPow 8 s.unit } } }) ∧
    (s.pkg.poweredDown = false → ∃ t, exec .thermalShutdown s = .next t ∧ t.pkg.poweredDown = true ∧
      ∀ p v, s.part? p = some v → ∃ v', t.part? p = some v' ∧ v'.cfg = v.cfg ∧ v'.state = .faulted)) ∧
  (∀ s : State, let h := s.homeCore s.unit
    let cls := fun (r : HomeReq) =>
      if (match r.deadline with | some d => decide (d < s.cycle + 2000) | none => false) then 1
      else if r.arrived + 8000 < s.cycle then 2
      else if Map.get? h.openRows r.bank = some (r.sub, r.row) then 3 else 4
    let slice := fun (r : HomeReq) => ∃ k, r.kind = .slice k
    (∀ r ∈ h.reqs, slice r) →
    let serves := fun (r : HomeReq) (rest : List HomeReq) => ∃ t, exec .homeCoreSchedule s = .next t ∧ SameBytes s t ∧
      t.homeCore s.unit = { h with reqs := rest, openRows := Map.put h.openRows r.bank (r.sub, r.row) } ∧
      Map.getD t.pkg.telemetry.late s.unit 0 = Map.getD s.pkg.telemetry.late s.unit 0 +
        (match r.deadline with | some d => if d < s.cycle then 1 else 0 | none => 0)
    (∀ r, h.reqs = [r] → 128 * r.line < capBase → serves r []) ∧
    (∀ a b, h.reqs = [a, b] → 128 * a.line < capBase → 128 * b.line < capBase →
      let second := a.line ≠ b.line ∧ (cls b < cls a ∨ (cls a = 1 ∧ cls b = 1 ∧
        b.deadline.getD 0 < a.deadline.getD 0))
      (second → serves b [a]) ∧ (¬ second → serves a [b])) ∧
    (s.unit < s.pkg.grade.npc + 64 →
      (∃ t, exec .patrolScrub s = .next t ∧ t.mem = s.mem ∧ t.homeCore s.unit = { h with openRows := [] }) ∧
      ∃ t, exec .dueRefresh s = .next t ∧ t.mem = s.mem ∧ t.ctx = s.ctx ∧
        (t.homeCore s.unit = { h with openRows := [], postponed := 0 } ∨
          ((∃ r ∈ h.reqs, cls r = 1) ∧ t.homeCore s.unit = { h with postponed := h.postponed + 1 })))) ∧
  (∀ (s : State) (c : ClusterId), clOfLinear s.pkg.grade s.unit = c → (s.getCl c).clPend ≠ [] →
    ∃ fl, exec .clflagsUpdate s = .next (s.setCl c { s.getCl c with clflags := fl, clPend := [] }) ∧
      ∀ i, fl.getLsbD i = true ↔ (s.getCl c).clflags.getLsbD i = true ∨ ∃ x ∈ (s.getCl c).clPend, x.1.getLsbD i = true)

/-- R354, R357-R361, R367, R368, R373. The signature check, the digests and signing are those of their standards
(assumption 75), and the new nonce is free. The model's choices: answers to misaligned and absent addresses (assumption 40), the layout of the report and what a module
without an image answers (41), and firmware updates (58). -/
def Obligations.HostsAndLinks : Prop :=
  (∀ (s : State) (r : List Byte),
    let o := s.pkg.owner
    let key := (r.drop 16).take 32
    let zero := o.key.all (· = 0)
    let holds := ∃ n, o.lease = some n ∧ n ≠ 0
    let valid := fun (type : Nat) (k : List Byte) => r.length = 128 ∧ recNat r 0 1 = type ∧ recNat r 1 7 = 0 ∧
      recNat r 120 8 = 0 ∧ recNat r 8 8 = o.nonce ∧
      ed25519Verify k (r.take 48 ++ r.drop 112 ++ s.pkg.serial) ((r.drop 48).take 64) = true
    let copyOnly := fun (t : State) => t.parts = s.parts ∧ t.ctx = s.ctx ∧ t.launches = s.launches ∧
      ∀ q, (∀ p ∈ s.parts, ∀ i < 2048, q ≠ .glob (p.2.cfg.enumcopy + i)) → t.mem.reads q = s.mem.reads q
    let owned := fun (k : List Byte) (lease : Option Nat) (t : State) => copyOnly t ∧
      ∃ nonce, t.pkg = { s.pkg with owner := ⟨k, nonce, o.seq + 1, lease, 0⟩ }
    s.mem.wf → s.pkg.running ≠ none →
    (zero = true → valid 0x10 key → ∃ t, exec (.claim r) s = .next t ∧ owned key (some 510000000) t) ∧
    (¬ (zero = true ∧ valid 0x10 key) → exec (.claim r) s = .next s) ∧
    (holds → valid 0x11 o.key → ∃ t, exec (.handover r) s = .next t ∧
      owned key (some 510000000) t) ∧
    (¬ (holds ∧ valid 0x11 o.key) → exec (.handover r) s = .next s) ∧
    (let ok := holds ∧ key = o.key ∧ valid 0x12 o.key ∧ o.lastCount < recNat r 112 8
     (ok → exec (.heartbeat r) s = .next { s with pkg := { s.pkg with
       owner := { o with lease := some 510000000, lastCount := recNat r 112 8 } } }) ∧
     (¬ ok → exec (.heartbeat r) s = .next s)) ∧
    (o.lease = some 0 → ∃ t, exec .leaseLapse s = .next t ∧ owned (List.replicate 32 0) none t) ∧
    (o.lease ≠ some 0 → ∃ name, exec .leaseLapse s = .refused (.notEnabled name)) ∧
    (∀ (n : Nat) (m : Image), r.length = 32 → s.pkg.running = some n → s.pkg.images[n]? = some m →
      let body := s.pkg.serial ++ leBytes 1 (match s.pkg.grade with | .fq576 => 0 | .fq512 => 1 | .fq448 => 2)
        ++ sha512 s.pkg.enumTable ++ sha512 m.bytes ++ o.key ++ leBytes 8 o.seq ++ r
      exec (.attestationRequest r) s = .next { s with pkg := { s.pkg with telemetry := { s.pkg.telemetry with
        request := r, report := body ++ ed25519Sign s.pkg.idseed body } } }) ∧
    (∀ (port : Fin 16) (up : Bool), s.pkg.ports.getLsbD port.val ≠ up → ∃ t, exec (.portLinkChange port up) s = .next t ∧
      copyOnly t ∧ t.pkg = { s.pkg with ports := t.pkg.ports } ∧
      ∀ j, t.pkg.ports.getLsbD j = if j = port.val then up else s.pkg.ports.getLsbD j) ∧
    (s.unit < 10 → s.pkg.links.getLsbD s.unit = true → ∃ t, exec .dieLinkFailure s = .next t ∧
      copyOnly t ∧ t.pkg = { s.pkg with links := t.pkg.links } ∧
      ∀ j, t.pkg.links.getLsbD j = (s.pkg.links.getLsbD j && decide (j ≠ s.unit))) ∧
    exec .unreliablePacketDrop s = .next { s with pkg := { s.pkg with
      telemetry := { s.pkg.telemetry with dropped := s.pkg.telemetry.dropped + 1 } } }) ∧
  (∀ (s : State) (host : HostKind) (addr : BitVec 64) (bs : List Byte) (n : Nat) (op : AmoOp) (wide : Bool) (v : Word),
    s.mem.wf → s.pkg.running ≠ none → addr.getLsbD 63 = false →
    let owner := host = .owner ∧ (s.pkg.owner.key.all (· = 0)) = false ∧ ∃ n, s.pkg.owner.lease = some n ∧ n ≠ 0
    let refusal : Host.Outcome State Fault Refusal := .next { s with pkg := { s.pkg with answer := none } }
    let answer := fun (a : List Byte) (t : State) => t.ctx = s.ctx ∧ t.parts = s.parts ∧
      t.pkg = { s.pkg with answer := some a }
    let size := if wide then 8 else 4
    let ok := owner ∧ inPresent s.pkg.grade addr.toNat size = true ∧ addr.toNat % size = 0
    (owner → inPresent s.pkg.grade addr.toNat bs.length = true → ∃ t, exec (.rmaWrite host addr bs) s = .next t ∧
      answer [] t ∧ StoresBytes s t (.glob addr.toNat) bs) ∧
    (¬ (owner ∧ inPresent s.pkg.grade addr.toNat bs.length = true) → exec (.rmaWrite host addr bs) s = refusal) ∧
    (owner → inPresent s.pkg.grade addr.toNat n = true → ∃ t a, exec (.rmaRead host addr n) s = .next t ∧ answer a t ∧
      SameBytes s t ∧ a.length = n ∧ ∀ i < n, a[i]? = some (s.mem.reads (.glob (addr.toNat + i)))) ∧
    (¬ owner → (∀ p ∈ s.parts, ∀ q ∈ p.2.cfg.queues, addr.toNat < q.compl ∨ q.compl + 16 * 2 ^ q.clog2n < addr.toNat + n) →
      exec (.rmaRead host addr n) s = refusal) ∧
    (ok → ∃ t old, exec (.rmaAtomic host addr op wide v) s = .next t ∧ answer old t ∧ old.length = size ∧
      (∀ i < size, old[i]? = some (s.mem.reads (.glob (addr.toNat + i)))) ∧
      StoresBytes s t (.glob addr.toNat)
        (leBytes size (amoValue op (8 * size) (leNat old) (v.toNat % 2 ^ (8 * size))))) ∧
    (¬ ok → exec (.rmaAtomic host addr op wide v) s = refusal)) ∧
  (∀ (s : State) (host : HostKind) (o n : Nat) (bs : List Byte), o + n ≤ 0x800 → s.pkg.running ≠ none →
    (∃ t, exec (.rmaRead host (BitVec.ofNat 64 (2 ^ 63 + o)) n) s = .next t ∧ t.mem = s.mem ∧
      t.pkg = { s.pkg with answer := some ((s.pkg.enumTable.drop o).take n) }) ∧
    (bs.length = n → 0 < n → exec (.rmaWrite host (BitVec.ofNat 64 (2 ^ 63 + o)) bs) s =
      .next { s with pkg := { s.pkg with answer := none } }) ∧
    (bs.length = 128 → recNat bs 0 1 = 0x10 → exec (.rmaWrite host (BitVec.ofNat 64 (2 ^ 63 + 0x1000)) bs) s =
      exec (.claim bs) { s with pkg := { s.pkg with
        window := cellsWrite s.pkg.window 0x1000 bs, answer := some [] } })) ∧
  (∀ (s : State) (host : HostKind) (addr : BitVec 64) (bs : List Byte) (n : Nat), s.pkg.running ≠ none →
    flashSlotAt addr bs.length = some n →
    let owner := host = .owner ∧ (s.pkg.owner.key.all (· = 0)) = false ∧ ∃ n, s.pkg.owner.lease = some n ∧ n ≠ 0
    (owner → exec (.rmaWrite host addr bs) s = .next { s with pkg := { s.pkg with
      images := s.pkg.images.set n ⟨Config.imageVersion bs, bs⟩, answer := some [] } }) ∧
    (¬ owner → exec (.rmaWrite host addr bs) s = .next { s with pkg := { s.pkg with answer := none } })) ∧
  (∀ (s : State) (host : HostKind) (o : Nat) (op : AmoOp) (wide : Bool) (v : Word), s.pkg.running ≠ none →
    let size := if wide then 8 else 4
    let owner := host = .owner ∧ (s.pkg.owner.key.all (· = 0)) = false ∧ ∃ n, s.pkg.owner.lease = some n ∧ n ≠ 0
    (0x1000 ≤ o ∧ o + size ≤ 0x1080) ∨ (0x8000 ≤ o ∧ o + size ≤ 0x8040) ∨ (0x10000 ≤ o ∧ o + size ≤ 0x12000) →
    let old := cellsRead s.pkg.window o size
    (owner → o % size = 0 → exec (.rmaAtomic host (BitVec.ofNat 64 (2 ^ 63 + o)) op wide v) s =
      .next { s with pkg := { s.pkg with
        window := cellsWrite s.pkg.window o
          (leBytes size (amoValue op (8 * size) (leNat old) (v.toNat % 2 ^ (8 * size))))
        answer := some old } }) ∧
    (¬ (owner ∧ o % size = 0) → exec (.rmaAtomic host (BitVec.ofNat 64 (2 ^ 63 + o)) op wide v) s =
      .next { s with pkg := { s.pkg with answer := none } })) ∧
  ∀ (s : State) (host : HostKind) (addr : BitVec 64) (bs : List Byte) (n : Nat) (op : AmoOp) (wide : Bool) (v : Word)
    (o : RemoteOp), s.pkg.running = none →
    let unanswered := fun (i : Instr) => ∃ name, exec i s = .refused (.notEnabled name)
    unanswered (.claim bs) ∧ unanswered (.handover bs) ∧ unanswered (.heartbeat bs) ∧
    unanswered (.attestationRequest bs) ∧ unanswered (.rmaWrite host addr bs) ∧
    unanswered (.rmaAtomic host addr op wide v) ∧ unanswered (.remoteExpertOp o) ∧
    (∀ k, k + n ≤ 0x1000 → ∃ t a, exec (.rmaRead host (BitVec.ofNat 64 (2 ^ 63 + 0x2000 + k)) n) s = .next t ∧
      t.mem = s.mem ∧ t.pkg = { s.pkg with answer := some a } ∧ a.length = n) ∧
    ((addr.toNat < 2 ^ 63 + 0x2000 ∨ 2 ^ 63 + 0x3000 < addr.toNat + n) → unanswered (.rmaRead host addr n))

/-- R336, R342, R357, R362-R366, R375. What an entry's addresses give is the model's `hostWeave`, `readVirt`, `copySide`.
The model's choices: the order of the checks of an entry (assumption 39); that STEPNO stays over RESET (30); that a bad
registration record answers -9 before a name that is taken answers -7 (28); STATE for a RESET of a partition that is not
configured and for a PARTCFG of one that is, ADDRESS for a COPY of no bytes, and the alignment and the counts that PEERS and
NAMES ask (68). -/
def Obligations.WorkQueueEntries : Prop :=
  (∀ (s : State) (q p : Nat) (d : QueueDesc) (tb : List Byte), s.mem.wf → s.unit = q → s.queue? q = some (some p, d) →
    tb.length = 8 → (∀ i < 8, tb[i]? = some (s.mem.reads (.glob (d.control + i)))) →
    let v := s.getQueue q
    ((v.entry.isSome = true ∨ leNat tb = v.head) → ∃ name, exec .workQueueTail s = .refused (.notEnabled name)) ∧
    (v.entry = none → s.copying q = false → leNat tb ≠ v.head → ∃ (t : State) (e : List Byte),
      exec .workQueueTail s = .next t ∧ t.parts = s.parts ∧ t.ctx = s.ctx ∧ e.length = 128 ∧
      (∀ i < 128, e[i]? = some (s.mem.reads (.glob (d.ring + 128 * (v.head % 2 ^ d.log2n) + i)))) ∧
      StoresBytes s t (.glob (d.control + 8)) (leBytes 8 ((v.head + 1) % 2 ^ 64)) ∧
      let type := recNat e 0 1
      let code : Nat := if s.partState p = some .dumped ∨ s.partState p = some .faulted then 0x24
        else if type = 0 ∨ 4 < type then 0x20
        else if recNat e 1 7 ≠ 0 ∨ recNat e (entryEnd type) (128 - entryEnd type) ≠ 0 then 0x21 else 0
      let w := { v with tail := leNat tb, head := (v.head + 1) % 2 ^ 64 }
      (code = 0 → t.getQueue q = { w with entry := some (v.head, e) }) ∧
      (code ≠ 0 → t.getQueue q = { w with
        entry := none
        records := v.records ++ [(BitVec.ofNat 64 (code * 2 ^ 32 + 0xFF * 2 ^ 48), BitVec.ofNat 64 v.head)] }))) ∧
  (∀ (s : State) (q n : Nat) (own : Option Nat) (d : QueueDesc) (e : List Byte), s.mem.wf → s.unit = q →
    s.queue? q = some (own, d) → (s.getQueue q).entry = some (n, e) →
    let type := recNat e 0 1
    let u := s.setQueue q { s.getQueue q with entry := none }
    let posts := fun (w : Nat) (t : State) => (t.getQueue q).entry = none ∧
      (t.getQueue q).records = (s.getQueue q).records ++ [(BitVec.ofNat 64 w, BitVec.ofNat 64 n)]
    let rejects := fun (i : Instr) (code low : Nat) => ∃ t, exec i s = .next t ∧ t.parts = s.parts ∧ t.ctx = s.ctx ∧
      SameBytes s t ∧ posts (low + code * 2 ^ 32 + 0xFF * 2 ^ 48) t
    (∀ i k, (i, k) ∈ [(Instr.launch, 1), (.copyEntry, 2), (.weave, 3), (.xregEntry, 4), (.preempt, 5), (.resumeEntry, 6),
        (.reset, 7), (.partcfg, 8), (.peers, 9), (.names, 10)] →
      (type ≠ k → s.stoppedFor own = false → ∃ name, exec i s = .refused (.notEnabled name)) ∧
      (type = k → (∃ p, own = some p ∧ (s.partState p = some .dumped ∨ s.partState p = some .faulted)) →
        rejects i 0x24 0)) ∧
    (own = none →
      (let p := recNat e 8 1
       (type = 5 → (∀ v, s.part? p = some v → v.state = .running → ∃ t, exec .preempt s = .next t ∧ posts 0 t ∧
           t.mem = s.mem ∧ t.part? p = some { v with state := .halting, preqCtr := none }) ∧
         (s.partState p ≠ some .running → rejects .preempt 0x24 0)) ∧
       (type = 6 → (∀ v, s.part? p = some v → v.state = .saved → ∃ t, exec .resumeEntry s = .next t ∧ posts 0 t ∧
           t.mem = s.mem ∧ t.part? p = some { v with state := .restoring, resumeCtr := none }) ∧
         (s.partState p ≠ some .saved → rejects .resumeEntry 0x24 0)) ∧
       (type = 7 → (s.part? p = none → rejects .reset 0x24 0) ∧
         ∀ v, s.part? p = some v → 1 ≤ v.cfg.wq0 → ∃ t, exec .reset s = .next t ∧ posts 0 t ∧ t.part? p = none ∧
           (∀ m, m ≠ p → t.part? m = s.part? m) ∧ (∀ c, (t.getCl c).part ≠ some p) ∧
           (∀ c, (s.getCl c.core.cl).part = some p → t.getCtx c = Ctx.init) ∧
           (∀ m, t.ctr m = s.ctr m) ∧ Map.getD t.pkg.steps p 0 = v.stepno)) ∧
      (∀ r qt : List Byte, type = 8 →
        let g := s.pkg.grade
        let a := recNat e 8 8
        let c := partCfgOf g r (queueDescs (recNat r 74 2) qt)
        let p := recNat r 0 1 % 16
        ((a % 64 ≠ 0 ∨ inPresent g a 256 = false) → rejects .partcfg 0x22 0) ∧
        (a % 64 = 0 → inPresent g a 256 = true → r.length = 256 →
          (∀ i < 256, r[i]? = some (s.mem.reads (.glob (a + i)))) →
          (inPresent g (recNat r 88 8) (32 * recNat r 74 2) = false → rejects .partcfg 0x22 0) ∧
          (inPresent g (recNat r 88 8) (32 * recNat r 74 2) = true → qt.length = 32 * recNat r 74 2 →
            (∀ i < qt.length, qt[i]? = some (s.mem.reads (.glob (recNat r 88 8 + i)))) →
            (cfgReserved g r qt c = true → rejects .partcfg 0x21 0) ∧
            (cfgReserved g r qt c = false → cfgAddress g c = true → rejects .partcfg 0x22 0) ∧
            (cfgReserved g r qt c = false → cfgAddress g c = false →
              ((s.part? p).isSome = true → rejects .partcfg 0x24 0) ∧
              (s.part? p = none → s.cfgConflict c = true → rejects .partcfg 0x23 0) ∧
              (s.part? p = none → s.cfgConflict c = false → ∃ t v, exec .partcfg s = .next t ∧ posts p t ∧
                t.part? p = some v ∧ v.state = .running ∧ v.cfg = c ∧ v.waiting = [] ∧ v.logSeq = 0 ∧
                (∀ k ∈ c.clusters, (t.getCl k).part = some p ∧ (t.getCore ⟨k, 0⟩).trapvec = c.trapvec) ∧
                (∀ m, c.ctrs.1 ≤ m → m < c.ctrs.1 + c.ctrs.2 → t.ctr m = 0) ∧
                ∀ i b, s.pkg.enumTable[i]? = some b → t.mem.reads (.glob (c.enumcopy + i)) = b))))) ∧
      (∀ bs : List Byte,
        let a := recNat e 8 8
        let table := fun (i : Instr) (count limit size : Nat) (fine : Prop) (done : State → Prop) =>
          ((count = 0 ∨ limit < count) → rejects i 0x21 0) ∧
          (0 < count → count ≤ limit → (inPresent s.pkg.grade a (size * count) = false ∨ a % 8 ≠ 0) → rejects i 0x22 0) ∧
          (0 < count → count ≤ limit → inPresent s.pkg.grade a (size * count) = true → a % 8 = 0 →
            bs.length = size * count → (∀ i < bs.length, bs[i]? = some (s.mem.reads (.glob (a + i)))) →
            (fine → ∃ t, exec i s = .next t ∧ SameBytes s t ∧ t.parts = s.parts ∧ posts count t ∧ done t) ∧
            (¬ fine → rejects i 0x21 0))
        (type = 9 → table .peers (recNat e 16 2) 4096 32
          (∀ i < recNat e 16 2, ∀ k < 16, bs[32 * i + 16 + k]? = some 0)
          fun t => t.pkg.peers.length = recNat e 16 2 ∧
            ∀ i < recNat e 16 2, t.pkg.peers[i]? = some ((bs.drop (32 * i)).take 16)) ∧
        (type = 10 → table .names (recNat e 16 4) 65536 8 True
          fun t => t.pkg.names.length = recNat e 16 4 ∧ ∀ i < recNat e 16 4, t.pkg.names[i]? =
            some (recNat bs (8 * i) 3, recNat bs (8 * i + 3) 3, recNat bs (8 * i + 6) 2)))) ∧
    (∀ p v, own = some p → s.part? p = some v → v.state = .running →
      (type = 2 →
        let src := recWord e 8
        let dst := recWord e 16
        let len := recNat e 24 4
        let ok := len ≠ 0 ∧ u.copySide p src len = true ∧ u.copySide p dst len = true
        (¬ ok → rejects .copyEntry 0x22 0) ∧
        (ok → ∃ t f, exec .copyEntry s = .next t ∧ t.mem = s.mem ∧ t.pkg.fired = s.pkg.fired ++ [f] ∧ f.data = none ∧
          f.entry.src = src ∧ f.entry.dst = dst ∧ f.entry.len = len ∧ f.entry.part = p ∧ f.entry.reduce = false ∧
          f.entry.trig = none ∧ f.entry.wq = some (q, n))) ∧
      (type = 3 →
        (u.hostWeave p (recWord e 8) = none → rejects .weave 0x22 0) ∧
        (∀ u', u.hostWeave p (recWord e 8) = some (u', none) → rejects .weave 0x25 0xFFFFFFFE) ∧
        (∀ u' w, u.hostWeave p (recWord e 8) = some (u', some w) →
          (v.cfg.convs ≤ s.convCount p → rejects .weave 0x25 0xFFFFFFFF) ∧
          (s.convCount p < v.cfg.convs → s.pkg.convs.length < 65536 → ∃ t id, exec .weave s = .next t ∧ posts id t ∧
            id < 65536 ∧ Map.get? s.pkg.convs id = none ∧
            ∃ c, Map.get? t.pkg.convs id = some c ∧ c.part = p ∧ c.weave = w ∧ c.state = 0))) ∧
      (type = 4 →
        let rec' := if (recWord e 8).toNat % 64 = 0 then u.readVirt p (recWord e 8) 512 else none
        (rec' = none → rejects .xregEntry 0x22 0) ∧
        (∀ u' r, rec' = some (u', r) →
          (u'.xregOk p r = false → rejects .xregEntry 0x25 0xFFFFFFF7) ∧
          (u'.xregOk p r = true → (s.expert? (recNat r 0 3)).isSome = true → rejects .xregEntry 0x25 0xFFFFFFF9) ∧
          (u'.xregOk p r = true → s.expert? (recNat r 0 3) = none → s.namePeer (recNat r 0 3) = none →
            s.pkg.experts.length < 262144 → (s.pkg.experts.filter fun x => x.2.part = p).length < v.cfg.xnames →
            s.groupFree (groupClusters s.pkg.grade (recGroup r 0) (recNat r 4 1)) = true →
            ∃ t x, exec .xregEntry s = .next t ∧ posts 0 t ∧ SameBytes s t ∧ t.expert? (recNat r 0 3) = some x ∧
              x.part = p ∧ (x.rep 0).state = .live)))) ∧
    (∀ p, own = some p → s.running p = false → s.stoppedFor own = false →
      ∃ name, exec .xregEntry s = .refused (.notEnabled name))) ∧
  (∀ (s : State) (q p : Nat) (d : QueueDesc) (w : Word × Word) (rest : List (Word × Word)) (hb : List Byte), s.mem.wf →
    s.unit = q → s.queue? q = some (some p, d) → (s.getQueue q).records = w :: rest → hb.length = 8 →
    (∀ i < 8, hb[i]? = some (s.mem.reads (.glob (d.control + 16 + i)))) →
    let v := s.getQueue q
    let held := (v.ctail + 2 ^ 64 - leNat hb) % 2 ^ 64
    (2 ^ d.clog2n ≤ held → ∃ name, exec .completionRecordPost s = .refused (.notEnabled name)) ∧
    (held < 2 ^ d.clog2n → (d.control + 64 ≤ d.compl ∨ d.compl + 16 * 2 ^ d.clog2n ≤ d.control) →
      ∃ t, exec .completionRecordPost s = .next t ∧ t.ctx = s.ctx ∧
        t.getQueue q = { v with ctail := (v.ctail + 1) % 2 ^ 64, records := rest } ∧
        let at' := d.compl + 16 * (v.ctail % 2 ^ d.clog2n)
        (∀ i b, (leBytes 8 w.1.toNat ++ leBytes 8 w.2.toNat)[i]? = some b → t.mem.reads (.glob (at' + i)) = b) ∧
        (∀ i b, (leBytes 8 ((v.ctail + 1) % 2 ^ 64))[i]? = some b → t.mem.reads (.glob (d.control + 24 + i)) = b) ∧
        ∀ k, (∀ i < 16, k ≠ .glob (at' + i)) → (∀ i < 8, k ≠ .glob (d.control + 24 + i)) →
          t.mem.reads k = s.mem.reads k))

/-- R158-R163, R356. The checks are the model's `launchBad`, in the order of Table 6.3; that bits 7:4 of PART count as
reserved and a SCOPE byte above 7 as no scope is the model's choice (assumption 50). -/
def Obligations.LaunchesStartAndComplete : Prop :=
  (∀ (s : State) (q n p : Nat) (d : QueueDesc) (e : List Byte) (v : Part), s.mem.wf → s.unit = q →
    s.queue? q = some (some p, d) → (s.getQueue q).entry = some (n, e) → recNat e 0 1 = 1 → s.part? p = some v →
    v.state = .running → v.waiting = [] →
    let u := s.setQueue q { s.getQueue q with entry := none }
    let addr := recWord e 8
    let rejects := fun (code : Nat) => ∃ t, exec .launch s = .next t ∧ t.ctx = s.ctx ∧ t.ctxs = s.ctxs ∧
      t.launches = s.launches ∧ t.parts = s.parts ∧ SameBytes s t ∧ t.getQueue q = { s.getQueue q with
        entry := none
        records := (s.getQueue q).records ++ [(BitVec.ofNat 64 (code * 2 ^ 32 + 0xFF * 2 ^ 48), BitVec.ofNat 64 n)] }
    (u.launchRecord p addr = none → rejects 1) ∧
    (∀ u' r, u.launchRecord p addr = some (u', r) →
      (∀ code, launchBad p r = some code → rejects code) ∧
      (launchBad p r = none → place s.pkg.grade (placeLevels r) 1 (s.partCores p) [] = none → rejects 0x0B) ∧
      (launchBad p r = none → placeLevels r = [(1, 1)] →
        (s.partCores p ≠ [] → s.freeCores p = [] → ∃ t, exec .launch s = .next t ∧ t.ctx = s.ctx ∧ t.ctxs = s.ctxs ∧
          t.launches = s.launches ∧ t.part? p = some { v with waiting := [(q, n, addr, r)] } ∧
          (t.getQueue q).records = (s.getQueue q).records) ∧
        (∀ k ks, s.freeCores p = k :: ks → ∃ t, exec .launch s = .next t ∧ SameBytes s t ∧ t.part? p = some v ∧
          (t.getQueue q).records = (s.getQueue q).records ∧
          Map.get? t.launches s.nextLaunch = some ⟨q, n, p, [1], [⟨[], 1, 0⟩]⟩ ∧ (⟨k, 0⟩ : CtxId) ∈ t.pkg.busy ∧
          t.getCtx ⟨k, 0⟩ = ({ Ctx.init with
            pc := recWord r 0, live := true, leaf := some s.nextLeaf }).wx 1 (recWord r 8) ∧
          (∀ c, c ≠ ⟨k, 0⟩ → t.getCtx c = s.getCtx c) ∧ (t.getCore k).trapvec = v.cfg.trapvec ∧
          ∃ l, Map.get? t.leaves s.nextLeaf = some l ∧ l.deadline = recWord r 16 ∧ l.launchptr = addr ∧ l.part = p ∧
            l.launch = some s.nextLaunch ∧ (∀ i : Fin 8, l.levelix.get i = 0) ∧
            ∀ i : Fin 8, l.levelcnt.get i = if i = 0 then 1 else 0)))) ∧
  (∀ (s : State) (x : Nat) (l : Launch) (a b : Word) (j m : Nat), Map.get? s.launches x = some l →
    (l.tree = [⟨[], 0, a⟩] → ∃ t, exec (.completionNodeForward x []) s = .next t ∧ t.mem = s.mem ∧ t.ctx = s.ctx ∧
      Map.get? t.launches x = none ∧
      (t.getQueue l.queue).records = (s.getQueue l.queue).records ++ [(a, BitVec.ofNat 64 l.entry)]) ∧
    (l.tree = [⟨[], m + 1, a⟩, ⟨[j], 0, b⟩] → ∃ t w, exec (.completionNodeForward x [j]) s = .next t ∧ t.mem = s.mem ∧
      t.pkg = s.pkg ∧ Map.get? t.launches x = some { l with tree := [⟨[], m, w⟩] } ∧
      w.extractLsb' 0 32 = a.extractLsb' 0 32 + b.extractLsb' 0 32 ∧
      w.extractLsb' 32 16 = a.extractLsb' 32 16 ||| b.extractLsb' 32 16 ∧
      (w.extractLsb' 48 8).toNat = max (a.extractLsb' 48 8).toNat (b.extractLsb' 48 8).toNat ∧
      w.extractLsb' 56 8 = 0) ∧
    (l.tree = [⟨[], m + 1, a⟩] → ∃ name, exec (.completionNodeForward x []) s = .refused (.notEnabled name))) ∧
  (∀ s : State, s.unit < 8 → (∀ p ∈ s.parts, p.2.waiting = []) → ∃ busy,
    exec .freeCountReport s = .next { s with pkg := { s.pkg with busy := busy } } ∧
    ∀ c, c ∈ busy ↔ c ∈ s.pkg.busy ∧ (c.core.cl.die ≠ s.unit ∨ (s.getCtx c).live = true ∨ s.creatingCtx c = true))

/-- Table 1.1's reset values, R30, R194. The model's choices: what the spec gives no value at module reset (assumption 1),
and the form of the memories (2). -/
def Obligations.ResetState : Prop :=
  State.reset.Inv ∧ State.reset.cycle = 0 ∧ (∀ p, State.reset.part? p = none) ∧ (∀ n, State.reset.ctr n = 0) ∧
  (∀ n, State.reset.expert? n = none) ∧ (∀ q, State.reset.qpList q = []) ∧
  (∀ (c : ClusterId) (b : Fin 16), (State.reset.getCl c).part = none ∧ (State.reset.getCl c).clflags = 0 ∧
    (State.reset.getCl c).modes.get b = if b.val < 8 then .cache else if b.val < 15 then .scratch else .fifo) ∧
  ∀ c : CtxId, let x := State.reset.getCtx c
    x.live = false ∧ x.super = false ∧ x.inh = false ∧ x.fpmode = .rne ∧ x.fpflags = 0 ∧ x.regionid = 0 ∧ x.hdone = 0 ∧
    x.trappc = 0 ∧ x.trapcause = 0 ∧ x.trapaddr = 0 ∧ x.trapinfo = 0 ∧ (∀ r, x.rx r = 0) ∧ (∀ r, x.rf r = 0) ∧
    (∀ (r : VReg) (l : Fin 32), (x.v.get r).get l = 0)

/-- R221 for the partials; the form of a memory is the model's (assumption 2): it has one list. -/
def Obligations.StepKeepsMemoriesCanonical : Prop :=
  ∀ s t : State, s.Inv → step s = .next t → t.Inv

/-- R55-R59, R75, R262. -/
def Obligations.DecodeInvertsEncode : Prop :=
  (∀ (i : Instr) (k : CoreKind) (addr : Nat) (rest : List Byte), WellFormed i = true → encode i ≠ 0 →
    let opc := encode i / 4 % 256
    opcOnCore k opc = true → ¬ (k = .compute ∧ 0xE8 ≤ opc ∧ opc ≤ 0xEF) → addr % 32 + i.len ≤ 32 →
    decodeBytes k addr (encodeBytes i ++ rest) = .ok i) ∧
  (∀ (i : Instr) (k : CoreKind) (addr : Nat) (bs : List Byte), decodeBytes k addr bs = .ok i →
    WellFormed i = true ∧ leNat bs % 2 ^ (8 * i.len) = encode i)

/-- Words of the examples of chapters 3, 4 and 7. -/
def Obligations.ExampleWordsDecode : Prop :=
  decodeWord .compute 0 0x0000040000000009 = .ok (.fence .pkg) ∧
  decodeWord .compute 0 0x0000004400040019 = .ok (.sysrd 4 0x011) ∧
  decodeWord .compute 0 0x0002C800010300AD = .ok (.bfx 3 4 8 11) ∧
  decodeWord .compute 0 0x0000000001000118510700EA = .ok (.mesha .delta 7 4 5 6 0x100) ∧
  decodeWord .compute 0 0x0000004001850141 = .ok (.start 5 6 16) ∧
  decodeWord .compute 0 0x0000010C00C5014D = .ok (.ldf 5 ⟨3, 0, 0, 0⟩ 0) ∧
  decodeWord .compute 0 0x000000000000001851000182 = .ok (.msend 4 5 6)

/-- R19-R21, R77, R153, R154. What a turn adds is `elapse` before and `markIssue` and `requestsAfter` after (assumption 3);
what has performed a part, or waits in a queue, goes on (assumption 16); which granules of a block are old is free, and
here none can be (assumption 10). -/
def Obligations.StepRunsTheDecodedInstruction : Prop :=
  ∀ (s : State) (cycles : Nat) (k : CoreId) (ts : List Turn) (n : Nat) (ns : List Nat),
    s.mem.wf → s.agenda = ⟨cycles, .core k⟩ :: ts →
    let s₁ := { s with agenda := ts }.elapse cycles
    let c := s₁.getCtx ⟨k, n⟩
    let off := c.pc.toNat % 32
    s.dueEvents = [] → s₁.dueEvents = [] → (∀ w ∈ s.waits, w = 0 ∨ cycles ≤ w) →
    s₁.issuedNow k = false → s₁.turns k = n :: ns →
    let done := fun (t : State) => step s = .next (requestsAfter (.core k) (t.markIssue k))
    let waits := fun (t : State) => step s = .next (requestsAfter (.core k) t)
    let stops := fun (i : Instr) (u : State) =>
      (∀ f, exec i u = .fault f → step s = .fault f) ∧ ∀ r, exec i u = .refused r → step s = .refused r
    (∀ i, c.doing = some i →
      let u : State := { s₁.switchTo ⟨k, n⟩ with ctx := { c with waiting := false } }
      let issues := fun (t : State) => t.instrWaits ⟨k, n⟩ = false ∧ (t.getCtx ⟨k, n⟩).lastIssue ≠ c.lastIssue
      (∀ t, exec i u = .next t → issues t → done t) ∧
      (∀ t, exec i u = .next t → ¬ issues t → ns = [] → waits t) ∧ stops i u) ∧
    (∀ i, c.doing = none → c.asked = some i →
      let u : State := { s₁.switchTo ⟨k, n⟩ with ctx := { c with waiting := false } }
      (∀ t, exec i u = .next t → t.instrWaits ⟨k, n⟩ = false → done t) ∧
      (∀ t, exec i u = .next t → t.instrWaits ⟨k, n⟩ = true → ns = [] → waits t) ∧ stops i u) ∧
    (∀ (p : Page) (bs : List Byte), c.doing = none → c.asked = none → c.atHead = none → c.atFrontier = false →
      isMesh c.pc = false → canonical c.pc = true →
      (s₁.switchTo ⟨k, n⟩).xlate ((s₁.switchTo ⟨k, n⟩).partNo) c.super .fetch c.pc = .ok p →
      Map.get? c.fetched (c.pc.toNat - off) = none →
      (∀ j < 4, let a := p.pa c.pc.toNat - off + 8 * j
        s₁.mem.oldValues a (s₁.mem.oldFrom a c.fence c.loaded) = []) → bs.length = 32 - off →
      (∀ j < 32 - off, bs[j]? = some (s₁.mem.reads (.glob (p.pa c.pc.toNat + j)))) →
      ∃ s₂ : State, SameBytes s₁ s₂ ∧ s₂.cur = ⟨k, n⟩ ∧
        (∃ block, s₂.ctx = { c with waiting := false, fetched := Map.put c.fetched (c.pc.toNat - off) block }) ∧
        s₂ = { s₁.switchTo ⟨k, n⟩ with ctx := s₂.ctx, mem := s₂.mem } ∧
        (∀ i, decodeBytes (coreKind k) c.pc.toNat bs = .ok i →
          (∀ t, exec i s₂ = .next t → t.instrWaits ⟨k, n⟩ = false → done t) ∧
          (∀ t, exec i s₂ = .next t → t.instrWaits ⟨k, n⟩ = true → ns = [] → waits t) ∧ stops i s₂) ∧
        (∀ sub, decodeBytes (coreKind k) c.pc.toNat bs = .bad sub → c.windows = [] → TrapReady s₂ = true →
          let info := if sub = .straddle ∨ leNat bs % 4 = 0 then leNat bs % 2 ^ 32 else leNat bs
          done (s₂.trapped ⟨.illegal sub, 0, BitVec.ofNat 64 info⟩)))
end

