-- ==== Sys2Proof/Laws/Enc.lean ====
section
/-!
SUPPORT. Lengths of the formats, and bytes of numbers.
-/
namespace Sys2Proof

@[simp] theorem lenBytes_encR (opc d a b c fn la : Nat) : lenBytes (encR opc d a b c fn la) = 8 := by
  unfold lenBytes encR; omega

@[simp] theorem lenBytes_encI (opc d a fn imm : Nat) : lenBytes (encI opc d a fn imm) = 8 := by
  unfold lenBytes encI; omega

@[simp] theorem lenBytes_encM (opc d : Nat) (m : MemOp) (size ord sc la : Nat) :
    lenBytes (encM opc d m size ord sc la) = 8 := by
  unfold lenBytes encM; omega

@[simp] theorem lenBytes_encB (opc a b cond off : Nat) : lenBytes (encB opc a b cond off) = 8 := by
  unfold lenBytes encB; omega

@[simp] theorem lenBytes_encV (opc d a b c mask ty rnd vfn imm la : Nat) :
    lenBytes (encV opc d a b c mask ty rnd vfn imm la) = 12 := by
  unfold lenBytes encV; omega

@[simp] theorem lenBytes_encJ (opc d a b c efn imm la : Nat) : lenBytes (encJ opc d a b c efn imm la) = 12 := by
  unfold lenBytes encJ; omega

@[simp] theorem lenBytes_encK (opc d a b size ord sc op fmt imm la : Nat) :
    lenBytes (encK opc d a b size ord sc op fmt imm la) = 16 := by
  unfold lenBytes encK; omega

/-- A sequence of bytes is below the power of 256 of its length. -/
theorem leNat_lt (bs : List Byte) : leNat bs < 256 ^ bs.length := by
  induction bs with
  | nil => simp [leNat]
  | cons b bs ih =>
    have hb : b.toNat < 256 := b.isLt
    have : leNat bs + 1 ≤ 256 ^ bs.length := ih
    simp only [leNat, List.length_cons, Nat.pow_succ]
    omega

@[simp] theorem leBytes_length (n w : Nat) : (leBytes n w).length = n := by
  induction n generalizing w with
  | zero => rfl
  | succ n ih => simp [leBytes, ih]

/-- The little-endian bytes of a number stand for its low bits (R4). -/
theorem leNat_leBytes (n w : Nat) : leNat (leBytes n w) = w % 256 ^ n := by
  induction n generalizing w with
  | zero => simp [leBytes, leNat, Nat.mod_one]
  | succ n ih =>
    simp only [leBytes, leNat, ih, BitVec.toNat_ofNat]
    exact (Nat.pow_succ' ▸ Nat.mod_mul).symm

/-- Bytes that follow weigh more than every byte before. -/
theorem leNat_append (as bs : List Byte) : leNat (as ++ bs) = leNat as + 256 ^ as.length * leNat bs := by
  induction as with
  | nil => simp [leNat]
  | cons a as ih =>
    simp only [List.cons_append, leNat, ih, List.length_cons, Nat.pow_succ]
    rw [Nat.mul_add, Nat.mul_comm (256 ^ as.length) 256, ← Nat.mul_assoc]; omega

end Sys2Proof
end

