-- ==== Sys2Proof/Laws/Len.lean ====
section
/-!
SUPPORT. The length of every instruction (03 Table 3.3), one lemma per constructor that has an encoding.
-/
namespace Sys2Proof

@[simp] theorem Instr.len_nop  : (Instr.nop).len = 8 :=
  lenBytes_encR ..
@[simp] theorem Instr.len_rett  : (Instr.rett).len = 8 :=
  lenBytes_encR ..
@[simp] theorem Instr.len_fence (sc : Scope) : (Instr.fence sc).len = 8 :=
  lenBytes_encR ..
@[simp] theorem Instr.len_exit (a : XReg) : (Instr.exit a).len = 8 :=
  lenBytes_encR ..
@[simp] theorem Instr.len_trap (imm : BitVec 30) : (Instr.trap imm).len = 8 :=
  lenBytes_encI ..
@[simp] theorem Instr.len_brk (imm : BitVec 30) : (Instr.brk imm).len = 8 :=
  lenBytes_encI ..
@[simp] theorem Instr.len_sysrd (d : XReg) (num : BitVec 30) : (Instr.sysrd d num).len = 8 :=
  lenBytes_encI ..
@[simp] theorem Instr.len_syswr (a : XReg) (num : BitVec 30) : (Instr.syswr a num).len = 8 :=
  lenBytes_encI ..
@[simp] theorem Instr.len_clflagsWrite (a : XReg) : (Instr.clflagsWrite a).len = 8 :=
  lenBytes_encI ..
@[simp] theorem Instr.len_sleep (a : XReg) (imm : BitVec 30) : (Instr.sleep a imm).len = 8 :=
  lenBytes_encI ..
@[simp] theorem Instr.len_add (d a b : XReg) : (Instr.add d a b).len = 8 :=
  lenBytes_encR ..
@[simp] theorem Instr.len_sub (d a b : XReg) : (Instr.sub d a b).len = 8 :=
  lenBytes_encR ..
@[simp] theorem Instr.len_mul (d a b : XReg) : (Instr.mul d a b).len = 8 :=
  lenBytes_encR ..
@[simp] theorem Instr.len_mulh (d a b : XReg) : (Instr.mulh d a b).len = 8 :=
  lenBytes_encR ..
@[simp] theorem Instr.len_mulhz (d a b : XReg) : (Instr.mulhz d a b).len = 8 :=
  lenBytes_encR ..
@[simp] theorem Instr.len_div (d a b : XReg) : (Instr.div d a b).len = 8 :=
  lenBytes_encR ..
@[simp] theorem Instr.len_divz (d a b : XReg) : (Instr.divz d a b).len = 8 :=
  lenBytes_encR ..
@[simp] theorem Instr.len_rem (d a b : XReg) : (Instr.rem d a b).len = 8 :=
  lenBytes_encR ..
@[simp] theorem Instr.len_remz (d a b : XReg) : (Instr.remz d a b).len = 8 :=
  lenBytes_encR ..
@[simp] theorem Instr.len_and (d a b : XReg) : (Instr.and d a b).len = 8 :=
  lenBytes_encR ..
@[simp] theorem Instr.len_or (d a b : XReg) : (Instr.or d a b).len = 8 :=
  lenBytes_encR ..
@[simp] theorem Instr.len_xor (d a b : XReg) : (Instr.xor d a b).len = 8 :=
  lenBytes_encR ..
@[simp] theorem Instr.len_andn (d a b : XReg) : (Instr.andn d a b).len = 8 :=
  lenBytes_encR ..
@[simp] theorem Instr.len_shl (d a b : XReg) : (Instr.shl d a b).len = 8 :=
  lenBytes_encR ..
@[simp] theorem Instr.len_shr (d a b : XReg) : (Instr.shr d a b).len = 8 :=
  lenBytes_encR ..
@[simp] theorem Instr.len_sha (d a b : XReg) : (Instr.sha d a b).len = 8 :=
  lenBytes_encR ..
@[simp] theorem Instr.len_rot (d a b : XReg) : (Instr.rot d a b).len = 8 :=
  lenBytes_encR ..
@[simp] theorem Instr.len_slt (d a b : XReg) : (Instr.slt d a b).len = 8 :=
  lenBytes_encR ..
@[simp] theorem Instr.len_sltz (d a b : XReg) : (Instr.sltz d a b).len = 8 :=
  lenBytes_encR ..
@[simp] theorem Instr.len_seq (d a b : XReg) : (Instr.seq d a b).len = 8 :=
  lenBytes_encR ..
@[simp] theorem Instr.len_min (d a b : XReg) : (Instr.min d a b).len = 8 :=
  lenBytes_encR ..
@[simp] theorem Instr.len_max (d a b : XReg) : (Instr.max d a b).len = 8 :=
  lenBytes_encR ..
@[simp] theorem Instr.len_minz (d a b : XReg) : (Instr.minz d a b).len = 8 :=
  lenBytes_encR ..
@[simp] theorem Instr.len_maxz (d a b : XReg) : (Instr.maxz d a b).len = 8 :=
  lenBytes_encR ..
@[simp] theorem Instr.len_popc (d a : XReg) : (Instr.popc d a).len = 8 :=
  lenBytes_encR ..
@[simp] theorem Instr.len_clz (d a : XReg) : (Instr.clz d a).len = 8 :=
  lenBytes_encR ..
@[simp] theorem Instr.len_ctz (d a : XReg) : (Instr.ctz d a).len = 8 :=
  lenBytes_encR ..
@[simp] theorem Instr.len_bfx (d a : XReg) (pos : Fin 64) (width1 : Fin 64) : (Instr.bfx d a pos width1).len = 8 :=
  lenBytes_encR ..
@[simp] theorem Instr.len_bfi (d a b : XReg) (pos : Fin 64) (width1 : Fin 64) :
    (Instr.bfi d a b pos width1).len = 8 :=
  lenBytes_encR ..
@[simp] theorem Instr.len_brev (d a : XReg) : (Instr.brev d a).len = 8 :=
  lenBytes_encR ..
@[simp] theorem Instr.len_sel (d a b c : XReg) : (Instr.sel d a b c).len = 8 :=
  lenBytes_encR ..
@[simp] theorem Instr.len_rankx (d a b c : XReg) : (Instr.rankx d a b c).len = 8 :=
  lenBytes_encR ..
@[simp] theorem Instr.len_addi (d a : XReg) (imm : BitVec 30) : (Instr.addi d a imm).len = 8 :=
  lenBytes_encI ..
@[simp] theorem Instr.len_andi (d a : XReg) (imm : BitVec 30) : (Instr.andi d a imm).len = 8 :=
  lenBytes_encI ..
@[simp] theorem Instr.len_ori (d a : XReg) (imm : BitVec 30) : (Instr.ori d a imm).len = 8 :=
  lenBytes_encI ..
@[simp] theorem Instr.len_xori (d a : XReg) (imm : BitVec 30) : (Instr.xori d a imm).len = 8 :=
  lenBytes_encI ..
@[simp] theorem Instr.len_shli (d a : XReg) (n : Fin 64) : (Instr.shli d a n).len = 8 :=
  lenBytes_encI ..
@[simp] theorem Instr.len_shri (d a : XReg) (n : Fin 64) : (Instr.shri d a n).len = 8 :=
  lenBytes_encI ..
@[simp] theorem Instr.len_shai (d a : XReg) (n : Fin 64) : (Instr.shai d a n).len = 8 :=
  lenBytes_encI ..
@[simp] theorem Instr.len_li (d : XReg) (imm : BitVec 30) : (Instr.li d imm).len = 8 :=
  lenBytes_encI ..
@[simp] theorem Instr.len_addpc (d : XReg) (imm : BitVec 30) : (Instr.addpc d imm).len = 8 :=
  lenBytes_encI ..
@[simp] theorem Instr.len_li64 (d : XReg) (imm : BitVec 64) : (Instr.li64 d imm).len = 16 :=
  lenBytes_encK ..
@[simp] theorem Instr.len_mesha (form : MeshaForm) (d a b c : XReg) (off : BitVec 22) :
    (Instr.mesha form d a b c off).len = 12 :=
  lenBytes_encJ ..
@[simp] theorem Instr.len_bcc (cond : BccCond) (a b : XReg) (off : BitVec 32) : (Instr.bcc cond a b off).len = 8 :=
  lenBytes_encB ..
@[simp] theorem Instr.len_bmask (cond : BmaskCond) (a : XReg) (off : BitVec 32) : (Instr.bmask cond a off).len = 8 :=
  lenBytes_encB ..
@[simp] theorem Instr.len_jal (d : XReg) (imm : BitVec 30) : (Instr.jal d imm).len = 8 :=
  lenBytes_encI ..
@[simp] theorem Instr.len_jalr (d a : XReg) (imm : BitVec 30) : (Instr.jalr d a imm).len = 8 :=
  lenBytes_encI ..
@[simp] theorem Instr.len_ld (d : XReg) (m : MemOp) (sz : Fin 4) (sx : Bool) (ord : MemOrd) (sc : Scope) (la : LaCount) :
    (Instr.ld d m sz sx ord sc la).len = 8 :=
  lenBytes_encM ..
@[simp] theorem Instr.len_st (src : XReg) (m : MemOp) (sz : Fin 4) (ord : MemOrd) (sc : Scope) :
    (Instr.st src m sz ord sc).len = 8 :=
  lenBytes_encM ..
@[simp] theorem Instr.len_ldc (d : XReg) (m : MemOp) (sz : Fin 4) (sx : Bool) (la : LaCount) :
    (Instr.ldc d m sz sx la).len = 8 :=
  lenBytes_encM ..
@[simp] theorem Instr.len_pfl (m : MemOp) : (Instr.pfl m).len = 8 :=
  lenBytes_encM ..
@[simp] theorem Instr.len_start (d a : XReg) (imm : BitVec 30) : (Instr.start d a imm).len = 8 :=
  lenBytes_encI ..
@[simp] theorem Instr.len_startW (d a : XReg) (imm : BitVec 30) : (Instr.startW d a imm).len = 8 :=
  lenBytes_encI ..
@[simp] theorem Instr.len_joinh (d a : XReg) : (Instr.joinh d a).len = 8 :=
  lenBytes_encR ..
@[simp] theorem Instr.len_hstat (d : XReg) : (Instr.hstat d).len = 8 :=
  lenBytes_encR ..
@[simp] theorem Instr.len_ldf (d : XReg) (m : MemOp) (la : LaCount) : (Instr.ldf d m la).len = 8 :=
  lenBytes_encM ..
@[simp] theorem Instr.len_ldff (d : XReg) (m : MemOp) (la : LaCount) : (Instr.ldff d m la).len = 8 :=
  lenBytes_encM ..
@[simp] theorem Instr.len_ste (src : XReg) (m : MemOp) : (Instr.ste src m).len = 8 :=
  lenBytes_encM ..
@[simp] theorem Instr.len_stf (src : XReg) (m : MemOp) : (Instr.stf src m).len = 8 :=
  lenBytes_encM ..
@[simp] theorem Instr.len_festat (d : XReg) (m : MemOp) : (Instr.festat d m).len = 8 :=
  lenBytes_encM ..
@[simp] theorem Instr.len_feset (src : XReg) (m : MemOp) : (Instr.feset src m).len = 8 :=
  lenBytes_encM ..
@[simp] theorem Instr.len_barinitInit (d : BSlot) (a b : XReg) : (Instr.barinitInit d a b).len = 8 :=
  lenBytes_encR ..
@[simp] theorem Instr.len_barinitBind (d : BSlot) (a : XReg) : (Instr.barinitBind d a).len = 8 :=
  lenBytes_encR ..
@[simp] theorem Instr.len_bararr (d : XReg) (a : BSlot) : (Instr.bararr d a).len = 8 :=
  lenBytes_encR ..
@[simp] theorem Instr.len_barexp (a : BSlot) (b : XReg) : (Instr.barexp a b).len = 8 :=
  lenBytes_encR ..
@[simp] theorem Instr.len_barwait (d : XReg) (a : BSlot) : (Instr.barwait d a).len = 8 :=
  lenBytes_encR ..
@[simp] theorem Instr.len_waitany (d a : XReg) : (Instr.waitany d a).len = 8 :=
  lenBytes_encR ..
@[simp] theorem Instr.len_bartest (d : XReg) (a : BSlot) : (Instr.bartest d a).len = 8 :=
  lenBytes_encR ..
@[simp] theorem Instr.len_msend (a b c : XReg) : (Instr.msend a b c).len = 12 :=
  lenBytes_encJ ..
@[simp] theorem Instr.len_mrecv (d a : XReg) (la : LaCount) : (Instr.mrecv d a la).len = 8 :=
  lenBytes_encR ..
@[simp] theorem Instr.len_msends (a b c : XReg) : (Instr.msends a b c).len = 12 :=
  lenBytes_encJ ..
@[simp] theorem Instr.len_mbind (d : XReg) (b : StreamIx) (a : XReg) (hi : Bool) (imm : BitVec 48) :
    (Instr.mbind d b a hi imm).len = 12 :=
  lenBytes_encJ ..
@[simp] theorem Instr.len_munbind (a : XReg) : (Instr.munbind a).len = 8 :=
  lenBytes_encR ..
@[simp] theorem Instr.len_cvopen (d a : XReg) : (Instr.cvopen d a).len = 12 :=
  lenBytes_encJ ..
@[simp] theorem Instr.len_cvjoin (d : CvReg) (a b : XReg) (hi : Bool) : (Instr.cvjoin d a b hi).len = 8 :=
  lenBytes_encR ..
@[simp] theorem Instr.len_cvsend (d : CvReg) (c a b : XReg) : (Instr.cvsend d c a b).len = 12 :=
  lenBytes_encJ ..
@[simp] theorem Instr.len_cvchoose (d : CvReg) (c a b : XReg) : (Instr.cvchoose d c a b).len = 12 :=
  lenBytes_encJ ..
@[simp] theorem Instr.len_cvdeleg (a : CvReg) (b : XReg) : (Instr.cvdeleg a b).len = 8 :=
  lenBytes_encR ..
@[simp] theorem Instr.len_cvleave (a : CvReg) : (Instr.cvleave a).len = 8 :=
  lenBytes_encR ..
@[simp] theorem Instr.len_cvstat (d : XReg) (a : CvReg) : (Instr.cvstat d a).len = 8 :=
  lenBytes_encR ..
@[simp] theorem Instr.len_fadd (t : FFmt) (rnd : Rnd) (d a b : FReg) : (Instr.fadd t rnd d a b).len = 8 :=
  lenBytes_encR ..
@[simp] theorem Instr.len_fsub (t : FFmt) (rnd : Rnd) (d a b : FReg) : (Instr.fsub t rnd d a b).len = 8 :=
  lenBytes_encR ..
@[simp] theorem Instr.len_fmul (t : FFmt) (rnd : Rnd) (d a b : FReg) : (Instr.fmul t rnd d a b).len = 8 :=
  lenBytes_encR ..
@[simp] theorem Instr.len_ffma (t : FFmt) (rnd : Rnd) (d a b c : FReg) : (Instr.ffma t rnd d a b c).len = 8 :=
  lenBytes_encR ..
@[simp] theorem Instr.len_fdiv (t : FFmt) (rnd : Rnd) (d a b : FReg) : (Instr.fdiv t rnd d a b).len = 8 :=
  lenBytes_encR ..
@[simp] theorem Instr.len_fsqrt (t : FFmt) (rnd : Rnd) (d a : FReg) : (Instr.fsqrt t rnd d a).len = 8 :=
  lenBytes_encR ..
@[simp] theorem Instr.len_fmin (t : FFmt) (d a b : FReg) : (Instr.fmin t d a b).len = 8 :=
  lenBytes_encR ..
@[simp] theorem Instr.len_fmax (t : FFmt) (d a b : FReg) : (Instr.fmax t d a b).len = 8 :=
  lenBytes_encR ..
@[simp] theorem Instr.len_fcmp (cond : FcmpCond) (t : FFmt) (d : XReg) (a b : FReg) :
    (Instr.fcmp cond t d a b).len = 8 :=
  lenBytes_encR ..
@[simp] theorem Instr.len_fcvt (o : CvtOp) (rnd : Rnd) : (Instr.fcvt o rnd).len = 8 :=
  lenBytes_encR ..
@[simp] theorem Instr.len_fclass (t : FFmt) (d : XReg) (a : FReg) : (Instr.fclass t d a).len = 8 :=
  lenBytes_encR ..
@[simp] theorem Instr.len_fsgn (op : FsgnOp) (t : FFmt) (d a b : FReg) : (Instr.fsgn op t d a b).len = 8 :=
  lenBytes_encR ..
@[simp] theorem Instr.len_fmvx (d : XReg) (a : FReg) : (Instr.fmvx d a).len = 8 :=
  lenBytes_encR ..
@[simp] theorem Instr.len_fmvf (d : FReg) (a : XReg) : (Instr.fmvf d a).len = 8 :=
  lenBytes_encR ..
@[simp] theorem Instr.len_vadd (t : VTy) (sat : Bool) (rnd : Rnd) (d a b : VReg) (m : XReg) :
    (Instr.vadd t sat rnd d a b m).len = 12 :=
  lenBytes_encV ..
@[simp] theorem Instr.len_vsub (t : VTy) (sat : Bool) (rnd : Rnd) (d a b : VReg) (m : XReg) :
    (Instr.vsub t sat rnd d a b m).len = 12 :=
  lenBytes_encV ..
@[simp] theorem Instr.len_vmul (t : VTy) (sat : Bool) (rnd : Rnd) (d a b : VReg) (m : XReg) :
    (Instr.vmul t sat rnd d a b m).len = 12 :=
  lenBytes_encV ..
@[simp] theorem Instr.len_vfma (t : VTy) (rnd : Rnd) (d a b c : VReg) (m : XReg) :
    (Instr.vfma t rnd d a b c m).len = 12 :=
  lenBytes_encV ..
@[simp] theorem Instr.len_vmin (t : VTy) (d a b : VReg) (m : XReg) : (Instr.vmin t d a b m).len = 12 :=
  lenBytes_encV ..
@[simp] theorem Instr.len_vmax (t : VTy) (d a b : VReg) (m : XReg) : (Instr.vmax t d a b m).len = 12 :=
  lenBytes_encV ..
@[simp] theorem Instr.len_vcmp (cond : VcmpCond) (t : VTy) (d : XReg) (a b : VReg) (m : XReg) :
    (Instr.vcmp cond t d a b m).len = 12 :=
  lenBytes_encV ..
@[simp] theorem Instr.len_vsel (t : VTy) (d a b : VReg) (m : XReg) : (Instr.vsel t d a b m).len = 12 :=
  lenBytes_encV ..
@[simp] theorem Instr.len_vand (t : VTy) (d a b : VReg) (m : XReg) : (Instr.vand t d a b m).len = 12 :=
  lenBytes_encV ..
@[simp] theorem Instr.len_vor (t : VTy) (d a b : VReg) (m : XReg) : (Instr.vor t d a b m).len = 12 :=
  lenBytes_encV ..
@[simp] theorem Instr.len_vxor (t : VTy) (d a b : VReg) (m : XReg) : (Instr.vxor t d a b m).len = 12 :=
  lenBytes_encV ..
@[simp] theorem Instr.len_vshl (t : VTy) (d a : VReg) (s : VshSrc) (m : XReg) : (Instr.vshl t d a s m).len = 12 := by
  cases s <;> exact lenBytes_encV ..
@[simp] theorem Instr.len_vshr (t : VTy) (d a : VReg) (s : VshSrc) (m : XReg) : (Instr.vshr t d a s m).len = 12 := by
  cases s <;> exact lenBytes_encV ..
@[simp] theorem Instr.len_vcvt (dst src : LaneFmt) (half : Bool) (rnd : Rnd) (d a : VReg) (m : XReg) :
    (Instr.vcvt dst src half rnd d a m).len = 12 :=
  lenBytes_encV ..
@[simp] theorem Instr.len_vqnt (t : BlkFmt) (rnd : Rnd) (d a : VReg) (c : XReg) (m : XReg) :
    (Instr.vqnt t rnd d a c m).len = 12 :=
  lenBytes_encV ..
@[simp] theorem Instr.len_vdq (t : BlkFmt) (rnd : Rnd) (d a : VReg) (c : XReg) (m : XReg) :
    (Instr.vdq t rnd d a c m).len = 12 :=
  lenBytes_encV ..
@[simp] theorem Instr.len_vred (op : VredOp) (t : VTy) (rnd : Rnd) (d : Fin 64) (a : VReg) (m : XReg) :
    (Instr.vred op t rnd d a m).len = 12 :=
  lenBytes_encV ..
@[simp] theorem Instr.len_vscan (excl : Bool) (t : VTy) (rnd : Rnd) (d a : VReg) (m : XReg) :
    (Instr.vscan excl t rnd d a m).len = 12 :=
  lenBytes_encV ..
@[simp] theorem Instr.len_vsf (fn : VsfFn) (rnd : Rnd) (d a : VReg) (m : XReg) : (Instr.vsf fn rnd d a m).len = 12 :=
  lenBytes_encV ..
@[simp] theorem Instr.len_vperm (t : VTy) (d a b : VReg) (m : XReg) : (Instr.vperm t d a b m).len = 12 :=
  lenBytes_encV ..
@[simp] theorem Instr.len_vbcast (t : VTy) (src : BcastSrc) (d : VReg) (m : XReg) :
    (Instr.vbcast t src d m).len = 12 := by
  cases src <;> exact lenBytes_encV ..
@[simp] theorem Instr.len_vins (t : VTy) (d : VReg) (a : XReg) (n : Fin 32) : (Instr.vins t d a n).len = 12 :=
  lenBytes_encV ..
@[simp] theorem Instr.len_vext (t : VTy) (d : XReg) (a : VReg) (n : Fin 32) : (Instr.vext t d a n).len = 12 :=
  lenBytes_encV ..
@[simp] theorem Instr.len_vld (t : VTy) (rnd : Rnd) (d : VReg) (a : XReg) (off : BitVec 32) (m : XReg) (la : LaCount) :
    (Instr.vld t rnd d a off m la).len = 12 :=
  lenBytes_encV ..
@[simp] theorem Instr.len_vst (t : VTy) (rnd : Rnd) (src : VReg) (a : XReg) (off : BitVec 32) (m : XReg) :
    (Instr.vst t rnd src a off m).len = 12 :=
  lenBytes_encV ..
@[simp] theorem Instr.len_vlds (t : VTy) (rnd : Rnd) (d : VReg) (a b : XReg) (off : BitVec 32) (m : XReg) (la : LaCount) :
    (Instr.vlds t rnd d a b off m la).len = 12 :=
  lenBytes_encV ..
@[simp] theorem Instr.len_vsts (t : VTy) (rnd : Rnd) (src : VReg) (a b : XReg) (off : BitVec 32) (m : XReg) :
    (Instr.vsts t rnd src a b off m).len = 12 :=
  lenBytes_encV ..
@[simp] theorem Instr.len_vgath (t : VTy) (rnd : Rnd) (d : VReg) (a : XReg) (b : VReg) (scale : Fin 4) (off : BitVec 32) (m : XReg) (la : LaCount) :
    (Instr.vgath t rnd d a b scale off m la).len = 12 :=
  lenBytes_encV ..
@[simp] theorem Instr.len_vscat (t : VTy) (rnd : Rnd) (src : VReg) (a : XReg) (b : VReg) (scale : Fin 4) (off : BitVec 32) (m : XReg) :
    (Instr.vscat t rnd src a b scale off m).len = 12 :=
  lenBytes_encV ..
@[simp] theorem Instr.len_vfence  : (Instr.vfence).len = 12 :=
  lenBytes_encV ..
@[simp] theorem Instr.len_vstat (d : XReg) : (Instr.vstat d).len = 12 :=
  lenBytes_encV ..
@[simp] theorem Instr.len_scfgMem (t : VTy) (d : StreamIx) (a b : XReg) : (Instr.scfgMem t d a b).len = 12 :=
  lenBytes_encJ ..
@[simp] theorem Instr.len_scfgMsg (t : VTy) (d : StreamIx) (b : XReg) : (Instr.scfgMsg t d b).len = 12 :=
  lenBytes_encJ ..
@[simp] theorem Instr.len_srep (d : XReg) (n : Fin 65) (mask : BitVec 8) : (Instr.srep d n mask).len = 12 :=
  lenBytes_encJ ..
@[simp] theorem Instr.len_sstop (d : StreamIx) : (Instr.sstop d).len = 8 :=
  lenBytes_encR ..
@[simp] theorem Instr.len_amo (op : AmoOp) (d b a : XReg) (wide : Bool) (sx : Bool) (ord : MemOrd) (sc : Scope) (off : BitVec 64) (la : LaCount) :
    (Instr.amo op d b a wide sx ord sc off la).len = 16 :=
  lenBytes_encK ..
@[simp] theorem Instr.len_cas (d b a : XReg) (wide : Bool) (sx : Bool) (ord : MemOrd) (sc : Scope) (off : BitVec 64) (la : LaCount) :
    (Instr.cas d b a wide sx ord sc off la).len = 16 :=
  lenBytes_encK ..
@[simp] theorem Instr.len_red (op : RedOp) (b a : XReg) (wide : Bool) (ord : MemOrd) (sc : Scope) (off : BitVec 64) :
    (Instr.red op b a wide ord sc off).len = 16 :=
  lenBytes_encK ..
@[simp] theorem Instr.len_redx (src : RedxSrc) (a : XReg) (ord : MemOrd) (sc : Scope) (off : BitVec 64) :
    (Instr.redx src a ord sc off).len = 16 := by
  cases src <;> exact lenBytes_encK ..
@[simp] theorem Instr.len_cvtexa (rnd : Rnd) (d : FReg) (a : XReg) : (Instr.cvtexa rnd d a).len = 8 :=
  lenBytes_encR ..
@[simp] theorem Instr.len_bankcfg (mode : BankMode) (d a : XReg) : (Instr.bankcfg mode d a).len = 8 :=
  lenBytes_encR ..
@[simp] theorem Instr.len_cinv (m : MemOp) : (Instr.cinv m).len = 8 :=
  lenBytes_encM ..
@[simp] theorem Instr.len_cinvAll  : (Instr.cinvAll).len = 8 :=
  lenBytes_encM ..
@[simp] theorem Instr.len_disc (m : MemOp) : (Instr.disc m).len = 8 :=
  lenBytes_encM ..
@[simp] theorem Instr.len_cpjob (d a : XReg) (la : LaCount) : (Instr.cpjob d a la).len = 12 :=
  lenBytes_encJ ..
@[simp] theorem Instr.len_mxjob (d a : XReg) (la : LaCount) : (Instr.mxjob d a la).len = 12 :=
  lenBytes_encJ ..
@[simp] theorem Instr.len_rtjob (d a : XReg) (la : LaCount) : (Instr.rtjob d a la).len = 12 :=
  lenBytes_encJ ..
@[simp] theorem Instr.len_drjob (d a : XReg) (la : LaCount) : (Instr.drjob d a la).len = 12 :=
  lenBytes_encJ ..
@[simp] theorem Instr.len_mgjob (d a : XReg) (la : LaCount) : (Instr.mgjob d a la).len = 12 :=
  lenBytes_encJ ..
@[simp] theorem Instr.len_jwait (d a : XReg) : (Instr.jwait d a).len = 8 :=
  lenBytes_encR ..
@[simp] theorem Instr.len_jpoll (d a : XReg) : (Instr.jpoll d a).len = 8 :=
  lenBytes_encR ..
@[simp] theorem Instr.len_jcancel (d a : XReg) : (Instr.jcancel d a).len = 8 :=
  lenBytes_encR ..
@[simp] theorem Instr.len_shpset (d a : XReg) (entry : Fin 64) : (Instr.shpset d a entry).len = 12 :=
  lenBytes_encJ ..
@[simp] theorem Instr.len_jtake (d : XReg) : (Instr.jtake d).len = 8 :=
  lenBytes_encR ..
@[simp] theorem Instr.len_jdone (a : XReg) : (Instr.jdone a).len = 8 :=
  lenBytes_encR ..
@[simp] theorem Instr.len_mlda (h : Bool) (a b : XReg) (row0 : Fin 64) (rows : BitVec 7) (klen : BitVec 8) (la : LaCount) :
    (Instr.mlda h a b row0 rows klen la).len = 12 :=
  lenBytes_encJ ..
@[simp] theorem Instr.len_mldb (k : Bool) (a b : XReg) (klen : BitVec 8) (nlen : BitVec 9) (la : LaCount) :
    (Instr.mldb k a b klen nlen la).len = 12 :=
  lenBytes_encJ ..
@[simp] theorem Instr.len_mzero (d : AReg) (m1 : Fin 64) : (Instr.mzero d m1).len = 8 :=
  lenBytes_encR ..
@[simp] theorem Instr.len_mma (d : AReg) (h k : Bool) (m1 : Fin 64) (la : LaCount) :
    (Instr.mma d h k m1 la).len = 12 :=
  lenBytes_encJ ..
@[simp] theorem Instr.len_msta (d : AReg) (a b : XReg) (m1 : Fin 64) (n : BitVec 9) :
    (Instr.msta d a b m1 n).len = 12 :=
  lenBytes_encJ ..
@[simp] theorem Instr.len_semv (s : SemReg) : (Instr.semv s).len = 8 :=
  lenBytes_encR ..
@[simp] theorem Instr.len_semp (s : SemReg) : (Instr.semp s).len = 8 :=
  lenBytes_encR ..
@[simp] theorem Instr.len_mprogRd (d : XReg) : (Instr.mprogRd d).len = 8 :=
  lenBytes_encR ..
@[simp] theorem Instr.len_mprogWr (a : XReg) : (Instr.mprogWr a).len = 8 :=
  lenBytes_encR ..
@[simp] theorem Instr.len_ctrset (a b : XReg) : (Instr.ctrset a b).len = 12 :=
  lenBytes_encJ ..
@[simp] theorem Instr.len_ctradd (d a b : XReg) : (Instr.ctradd d a b).len = 12 :=
  lenBytes_encJ ..
@[simp] theorem Instr.len_ctrwait (d a b : XReg) : (Instr.ctrwait d a b).len = 12 :=
  lenBytes_encJ ..
@[simp] theorem Instr.len_qppost (d a b : XReg) : (Instr.qppost d a b).len = 12 :=
  lenBytes_encJ ..
@[simp] theorem Instr.len_qpcancel (d a b : XReg) : (Instr.qpcancel d a b).len = 8 :=
  lenBytes_encR ..
@[simp] theorem Instr.len_xreg (d a : XReg) : (Instr.xreg d a).len = 12 :=
  lenBytes_encJ ..
@[simp] theorem Instr.len_xpol (d a b : XReg) : (Instr.xpol d a b).len = 12 :=
  lenBytes_encJ ..
@[simp] theorem Instr.len_xresv (d a b c : XReg) : (Instr.xresv d a b c).len = 12 :=
  lenBytes_encJ ..
@[simp] theorem Instr.len_xrel (d a : XReg) : (Instr.xrel d a).len = 8 :=
  lenBytes_encR ..
@[simp] theorem Instr.len_xsend (d a b c : XReg) (len : BitVec 8) : (Instr.xsend d a b c len).len = 12 :=
  lenBytes_encJ ..
@[simp] theorem Instr.len_xsendr (d a b c : XReg) (len : BitVec 8) : (Instr.xsendr d a b c len).len = 12 :=
  lenBytes_encJ ..
@[simp] theorem Instr.len_xbatchFwd (d a b c : XReg) : (Instr.xbatchFwd d a b c).len = 12 :=
  lenBytes_encJ ..
@[simp] theorem Instr.len_xbatchBwd (d a b c : XReg) : (Instr.xbatchBwd d a b c).len = 12 :=
  lenBytes_encJ ..
@[simp] theorem Instr.len_xbatchReload (d a : XReg) : (Instr.xbatchReload d a).len = 12 :=
  lenBytes_encJ ..
@[simp] theorem Instr.len_xseal (d a : XReg) : (Instr.xseal d a).len = 8 :=
  lenBytes_encR ..
@[simp] theorem Instr.len_xjoin (d a b : XReg) : (Instr.xjoin d a b).len = 12 :=
  lenBytes_encJ ..
@[simp] theorem Instr.len_xstep (d a : XReg) : (Instr.xstep d a).len = 8 :=
  lenBytes_encR ..
@[simp] theorem Instr.len_xstat (sel : XstatSel) (d a b : XReg) : (Instr.xstat sel d a b).len = 8 :=
  lenBytes_encR ..
@[simp] theorem Instr.len_xspawn (d a b : XReg) : (Instr.xspawn d a b).len = 12 :=
  lenBytes_encJ ..
@[simp] theorem Instr.len_xretire (d a b : XReg) : (Instr.xretire d a b).len = 8 :=
  lenBytes_encR ..
@[simp] theorem Instr.len_pnrule (d a b : XReg) : (Instr.pnrule d a b).len = 12 :=
  lenBytes_encJ ..
@[simp] theorem Instr.len_pnsend (a b c : XReg) (count : BitVec 9) : (Instr.pnsend a b c count).len = 12 :=
  lenBytes_encJ ..
@[simp] theorem Instr.len_pnstep (d a b c : XReg) : (Instr.pnstep d a b c).len = 8 :=
  lenBytes_encR ..
@[simp] theorem Instr.len_pnstat (sel : PnstatSel) (d a : XReg) : (Instr.pnstat sel d a).len = 8 :=
  lenBytes_encR ..
@[simp] theorem Instr.len_preq (d a : XReg) : (Instr.preq d a).len = 8 :=
  lenBytes_encR ..
@[simp] theorem Instr.len_preqCtr (d a b : XReg) : (Instr.preqCtr d a b).len = 8 :=
  lenBytes_encR ..
@[simp] theorem Instr.len_resume (d a : XReg) : (Instr.resume d a).len = 8 :=
  lenBytes_encR ..
@[simp] theorem Instr.len_resumeCtr (d a b : XReg) : (Instr.resumeCtr d a b).len = 8 :=
  lenBytes_encR ..

end Sys2Proof
end

