-- ==== Sys2Proof/Laws/Mem.lean ====
section
/-!
SUPPORT. Memory: a byte reads as it was last written and no other byte changes; every operation keeps the canonical
form.
-/
namespace Sys2Proof.Machine

-- One byte

/-- A byte that was written reads as what was written. -/
theorem cellsGet_set_same (m : List Host.Cell) (a : Nat) (b : Byte) (h : cellsWf m = true) :
    cellsGet (cellsSet m a b) a = b := by
  suffices H : ∀ lo, cellsWfFrom lo m = true → cellsGet (cellsSet m a b) a = b from H 0 h
  clear h
  induction m with
  | nil =>
    intro lo _
    by_cases hb : b = blankByte <;> simp [cellsSet, cellsGet, hb]
  | cons p m ih =>
    intro lo h
    have below : ∀ (l : List Host.Cell) lo, a < lo → cellsWfFrom lo l = true → cellsGet l a = blankByte := by
      intro l
      induction l with
      | nil => intros; rfl
      | cons q l ihl =>
        intro lo hl hw
        simp only [cellsWfFrom, Bool.and_eq_true, decide_eq_true_eq] at hw
        have : q.1 ≠ a := by omega
        simp only [cellsGet, this, if_false]
        exact ihl (q.1 + 1) (by omega) hw.2
    simp only [cellsWfFrom, Bool.and_eq_true, decide_eq_true_eq] at h
    simp only [cellsSet]
    split
    · rename_i hlt
      split
      · rename_i hb
        have hne : p.1 ≠ a := by omega
        simp only [cellsGet, hne, if_false]
        rw [below m (p.1 + 1) (by omega) h.2, hb]
      · simp [cellsGet]
    · split
      · rename_i heq
        split
        · rename_i hb
          rw [below m (p.1 + 1) (by omega) h.2, hb]
        · simp [cellsGet]
      · rename_i hne
        have hne' : p.1 ≠ a := fun hh => hne hh.symm
        simp only [cellsGet, hne', if_false]
        exact ih (p.1 + 1) h.2

/-- Writing one byte leaves every other byte as it was. -/
theorem cellsGet_set_other (m : List Host.Cell) (a c : Nat) (b : Byte) (hc : c ≠ a) (lo : Nat)
    (h : cellsWfFrom lo m = true) : cellsGet (cellsSet m a b) c = cellsGet m c := by
  induction m generalizing lo with
  | nil =>
    by_cases hb : b = blankByte <;> simp [cellsSet, cellsGet, hb, Ne.symm hc]
  | cons p m ih =>
    simp only [cellsWfFrom, Bool.and_eq_true, decide_eq_true_eq] at h
    have below : ∀ (l : List Host.Cell) lo, c < lo → cellsWfFrom lo l = true → cellsGet l c = blankByte := by
      intro l
      induction l with
      | nil => intros; rfl
      | cons q l ihl =>
        intro lo hl hw
        simp only [cellsWfFrom, Bool.and_eq_true, decide_eq_true_eq] at hw
        have : q.1 ≠ c := by omega
        simp only [cellsGet, this, if_false]
        exact ihl (q.1 + 1) (by omega) hw.2
    simp only [cellsSet]
    split
    · split
      · rfl
      · simp [cellsGet, Ne.symm hc]
    · split
      · rename_i heq
        have hpc : p.1 ≠ c := by omega
        split
        · simp [cellsGet, hpc]
        · simp [cellsGet, Ne.symm hc, hpc]
      · by_cases hp : p.1 = c
        · simp [cellsGet, hp]
        · simp only [cellsGet, hp, if_false]
          exact ih (p.1 + 1) h.2

/-- Writing one byte keeps the canonical form from a bound on. -/
theorem cellsSet_wfFrom (m : List Host.Cell) (a : Nat) (b : Byte) (lo : Nat) (h : cellsWfFrom lo m = true)
    (ha : lo ≤ a) : cellsWfFrom lo (cellsSet m a b) = true := by
  have relax : ∀ (l : List Host.Cell) u v, u ≤ v → cellsWfFrom v l = true → cellsWfFrom u l = true := by
    intro l u v huv hl
    cases l with
    | nil => rfl
    | cons q l =>
      simp only [cellsWfFrom, Bool.and_eq_true, decide_eq_true_eq] at hl ⊢
      exact ⟨⟨by omega, hl.1.2⟩, hl.2⟩
  induction m generalizing lo with
  | nil =>
    simp only [cellsSet]
    split
    · rfl
    · rename_i hb
      simp [cellsWfFrom, ha, hb]
  | cons p m ih =>
    simp only [cellsWfFrom, Bool.and_eq_true, decide_eq_true_eq] at h
    simp only [cellsSet]
    split
    · rename_i hlt
      split
      · simp only [cellsWfFrom, Bool.and_eq_true, decide_eq_true_eq]
        exact h
      · rename_i hb
        simp only [cellsWfFrom, Bool.and_eq_true, decide_eq_true_eq]
        exact ⟨⟨ha, by simp [hb]⟩, ⟨by omega, h.1.2⟩, h.2⟩
    · split
      · rename_i heq
        split
        · exact relax m lo (p.1 + 1) (by omega) h.2
        · rename_i hb
          simp only [cellsWfFrom, Bool.and_eq_true, decide_eq_true_eq]
          exact ⟨⟨ha, by simp [hb]⟩, by rw [heq]; exact h.2⟩
      · simp only [cellsWfFrom, Bool.and_eq_true, decide_eq_true_eq]
        exact ⟨h.1, ih (p.1 + 1) h.2 (by omega)⟩

/-- Writing one byte keeps the canonical form. -/
theorem cellsSet_wf (m : List Host.Cell) (a : Nat) (b : Byte) (h : cellsWf m = true) :
    cellsWf (cellsSet m a b) = true := cellsSet_wfFrom m a b 0 h (Nat.zero_le a)

/-- Dropping entries keeps the canonical form from a bound on. -/
theorem cellsFilter_wfFrom (m : List Host.Cell) (f : Host.Cell → Bool) (lo : Nat) (h : cellsWfFrom lo m = true) :
    cellsWfFrom lo (m.filter f) = true := by
  induction m generalizing lo with
  | nil => rfl
  | cons p m ih =>
    simp only [cellsWfFrom, Bool.and_eq_true, decide_eq_true_eq] at h
    simp only [List.filter_cons]
    split
    · simp only [cellsWfFrom, Bool.and_eq_true, decide_eq_true_eq]
      exact ⟨h.1, ih _ h.2⟩
    · have := ih _ h.2
      revert this
      generalize m.filter f = l
      intro hl
      cases l with
      | nil => rfl
      | cons q l =>
        simp only [cellsWfFrom, Bool.and_eq_true, decide_eq_true_eq] at hl ⊢
        exact ⟨⟨by omega, hl.1.2⟩, hl.2⟩

/-- Dropping entries keeps the canonical form. -/
theorem cellsFilter_wf (m : List Host.Cell) (f : Host.Cell → Bool) (h : cellsWf m = true) :
    cellsWf (m.filter f) = true := cellsFilter_wfFrom m f 0 h

-- Several bytes

/-- Writing bytes keeps the canonical form. -/
theorem cellsWrite_wf (m : List Host.Cell) (a : Nat) (bs : List Byte) (h : cellsWf m = true) :
    cellsWf (cellsWrite m a bs) = true := by
  induction bs generalizing m a with
  | nil => exact h
  | cons b bs ih => exact ih _ _ (cellsSet_wf m a b h)

/-- A byte outside the range that is written reads as before. -/
theorem cellsGet_write_other (m : List Host.Cell) (a c : Nat) (bs : List Byte) (h : cellsWf m = true)
    (hc : c < a ∨ a + bs.length ≤ c) : cellsGet (cellsWrite m a bs) c = cellsGet m c := by
  induction bs generalizing m a with
  | nil => rfl
  | cons b bs ih =>
    simp only [List.length_cons] at hc
    have h1 := ih (cellsSet m a b) (a + 1) (cellsSet_wf m a b h) (by omega)
    have h2 := cellsGet_set_other m a c b (by omega) 0 h
    simpa [cellsWrite, h2] using h1

/-- The bytes that were written read as what was written. -/
theorem cellsRead_write_same (m : List Host.Cell) (a : Nat) (bs : List Byte) (h : cellsWf m = true) :
    cellsRead (cellsWrite m a bs) a bs.length = bs := by
  induction bs generalizing m a with
  | nil => rfl
  | cons b bs ih =>
    have hw := cellsSet_wf m a b h
    simp only [cellsWrite, List.length_cons, cellsRead]
    rw [cellsGet_write_other _ _ _ _ hw (Or.inl (Nat.lt_succ_self a)), cellsGet_set_same m a b h, ih _ _ hw]

-- Memory: what keeps the form

/-- A fold of operations that each keep the form keeps it. -/
theorem Mem.foldl_wf {α : Type} (f : Mem → α → Mem) (hf : ∀ m x, m.wf → (f m x).wf) (l : List α) (m : Mem)
    (h : m.wf) : (l.foldl f m).wf := by
  induction l generalizing m with
  | nil => exact h
  | cons x l ih => exact ih _ (hf m x h)

theorem Mem.init_wf : Mem.init.wf := ⟨rfl, rfl⟩

theorem Mem.allocate_wf (m : Mem) (l : Nat) (h : m.wf) : (m.allocate l).wf := by
  unfold Mem.allocate; split <;> exact h

theorem Mem.dirtyLine_wf (m : Mem) (l : Nat) (h : m.wf) : (m.dirtyLine l).wf := by
  unfold Mem.dirtyLine Mem.allocate; split <;> exact h

theorem Mem.keepOld_wf (m : Mem) (pa n : Nat) (f : Nat → List Byte) (h : m.wf) : (m.keepOld pa n f).wf := h

/-- A store keeps the form. -/
theorem Mem.put_wf (m : Mem) (pa : Nat) (bs : List Byte) (h : m.wf) : (m.put pa bs).wf :=
  ⟨cellsWrite_wf _ _ _ h.1, h.2⟩

theorem Mem.dropTlbs_wf (m : Mem) (pa n : Nat) (h : m.wf) : (m.dropTlbs pa n).wf := h

theorem Mem.flushWith_wf (m : Mem) (merge : Mem → Nat → Mem) (hm : ∀ m l, m.wf → (merge m l).wf) (pa n : Nat)
    (h : m.wf) : (m.flushWith merge pa n).wf :=
  Mem.foldl_wf merge hm _ m h

/-- A write of bytes keeps the form. -/
theorem Mem.home_wf (m : Mem) (a : Nat) (bs : List Byte) (h : m.wf) :
    ({ m with home := cellsWrite m.home a bs } : Mem).wf := ⟨cellsWrite_wf _ _ _ h.1, h.2⟩

/-- Merging the partials of a line keeps the form, whatever it remaps. -/
theorem Mem.recallN_wf (k : Nat) (m : Mem) (l : Nat) (f : Partial → Bool) (h : m.wf) : (Mem.recallN k m l f).wf := by
  induction k generalizing m l f with
  | zero => exact h
  | succ k ih =>
    unfold Mem.recallN
    split
    · exact h
    · apply Mem.home_wf
      apply Mem.dirtyLine_wf
      apply Mem.foldl_wf
      · intro m r hm
        exact Mem.flushWith_wf m _ (fun m l hm => ih m l _ hm) r.1 r.2 hm
      · exact Mem.dropTlbs_wf _ _ _ h

theorem Mem.recallIf_wf (m : Mem) (l : Nat) (f : Partial → Bool) (h : m.wf) : (m.recallIf l f).wf :=
  Mem.recallN_wf _ m l f h

theorem Mem.recall_wf (m : Mem) (l : Nat) (h : m.wf) : (m.recall l).wf := m.recallIf_wf l _ h

theorem Mem.recallAll_wf (m : Mem) (f : Partial → Bool) (h : m.wf) : (m.recallAll f).wf :=
  Mem.foldl_wf _ (fun m l hm => m.recallIf_wf l f hm) _ m h

theorem Mem.visit_wf (m : Mem) (l : Nat) (h : m.wf) : (m.visit l).wf := Mem.allocate_wf _ l (m.recall_wf l h)

theorem Mem.visitRange_wf (m : Mem) (pa n : Nat) (h : m.wf) : (m.visitRange pa n).wf :=
  Mem.foldl_wf _ Mem.visit_wf _ m h

theorem Mem.cleanRange_wf (m : Mem) (pa n : Nat) (h : m.wf) : (m.cleanRange pa n).wf :=
  Mem.foldl_wf _ Mem.recall_wf (linesOf pa n) m h

theorem Mem.dropRange_wf (m : Mem) (pa n : Nat) (h : m.wf) : (m.dropRange pa n).wf := h

theorem Mem.flushRange_wf (m : Mem) (pa n : Nat) (h : m.wf) : (m.flushRange pa n).wf :=
  m.flushWith_wf _ Mem.recall_wf pa n h

theorem Mem.walked_wf (m : Mem) (path : List WalkMark) (h : m.wf) : (m.walked path).wf :=
  Mem.foldl_wf _ (fun m k hm => m.visit_wf (lineOf k.pte) hm) path m h

theorem Mem.learn_wf (m : Mem) (p : Page) (h : m.wf) : (m.learn p).wf := by
  unfold Mem.learn; dsimp only; split <;> exact h

theorem Mem.fillTlbs_wf (m : Mem) (c : ClusterId) (t : TlbEntry) (h : m.wf) : (m.fillTlbs c t).wf := h

theorem Mem.endWalk_wf (m : Mem) (w : PageWalk) (h : m.wf) : (m.endWalk w).wf := by
  unfold Mem.endWalk
  dsimp only
  split
  · exact Mem.foldl_wf _ (fun m c hm => m.fillTlbs_wf c _ hm) _ _ h
  · exact h

theorem Mem.freeWalker_wf (m : Mem) (h : m.wf) : m.freeWalker.wf := by
  unfold Mem.freeWalker
  split
  · split
    · exact m.endWalk_wf _ h
    · exact h
  · exact h

theorem Mem.missWalk_wf (m : Mem) (who : Option ClusterId) (part va : Nat) (w : Walk) (h : m.wf) :
    (m.missWalk who part va w).wf := by
  have hw := m.freeWalker.walked_wf w.path (m.freeWalker_wf h)
  unfold Mem.missWalk
  dsimp only
  split
  · exact h
  · cases w with
    | fault l f path => exact hw
    | page p path => exact Mem.learn_wf _ p hw

theorem Mem.noteWalk_wf (m : Mem) (who : Option ClusterId) (part va : Nat) (w : Walk) (h : m.wf) :
    (m.noteWalk who part va w).wf := by
  unfold Mem.noteWalk
  split
  · split
    · exact h
    · split
      · exact h
      · exact m.missWalk_wf _ part va w h
  · exact m.missWalk_wf _ part va w h

theorem Mem.byHost_wf (m : Mem) (n : Nat) (h : m.wf) : (m.byHost n).wf := h

theorem Mem.shootDown_wf (m : Mem) (pa : Nat) (bs : List Byte) (h : m.wf) : (m.shootDown pa bs).wf :=
  Mem.foldl_wf _ (fun m r hm => m.flushRange_wf r.1 r.2 hm) _ _ (m.dropTlbs_wf pa bs.length h)

theorem Mem.write_wf (m : Mem) (pa : Nat) (bs : List Byte) (h : m.wf) : (m.write pa bs).wf :=
  Mem.put_wf _ pa bs (Mem.foldl_wf _ Mem.dirtyLine_wf _ _
    (Mem.shootDown_wf _ pa bs (Mem.foldl_wf _ Mem.recall_wf (linesOf pa bs.length) m h)))

theorem Mem.putBelow_wf (m : Mem) (pa : Nat) (bs : List Byte) (h : m.wf) : (m.putBelow pa bs).wf :=
  Mem.put_wf _ pa bs (m.shootDown_wf pa bs h)

theorem Mem.writeBelow_wf (m : Mem) (pa : Nat) (bs : List Byte) (h : m.wf) : (m.writeBelow pa bs).wf :=
  m.putBelow_wf pa bs h

theorem Mem.log_wf (m : Mem) (a : Access) (h : m.wf) : (m.log a).wf := by
  unfold Mem.log; split <;> exact h

-- The machine's accesses

theorem State.note_wf (s : State) (p : Page) (lo n : Nat) (k : AccKind) (h : s.mem.wf) : (s.note p lo n k).mem.wf := by
  unfold State.note
  split
  · exact s.mem.log_wf _ h
  · exact h

theorem State.noteAccess_wf (s : State) (ea : Word) (h : s.mem.wf) : (s.noteAccess ea).mem.wf := by
  unfold State.noteAccess
  split
  · exact h
  · exact s.mem.noteWalk_wf _ _ _ _ h

theorem State.readHome_wf (s : State) (pa n : Nat) (h : s.mem.wf) : (s.readHome pa n).1.mem.wf :=
  s.mem.visitRange_wf pa n h

theorem State.readVia_wf (s : State) (c : ClusterId) (pa n : Nat) (h : s.mem.wf) : (s.readVia c pa n).1.mem.wf := by
  unfold State.readVia
  split
  · exact h
  · exact s.readHome_wf pa n h

theorem State.loadGlob_wf (s : State) (p : Page) (pa n : Nat) (h : s.mem.wf) : (s.loadGlob p pa n).1.mem.wf := by
  unfold State.loadGlob
  split
  · exact State.note_wf _ p pa n _ (s.readHome_wf pa n h)
  · exact s.readVia_wf _ pa n h

theorem State.load_wf (s : State) (t : Target) (n : Nat) (h : s.mem.wf) : (s.load t n).1.mem.wf := by
  cases t with
  | glob p pa => exact s.loadGlob_wf p pa n h
  | mesh c off => exact h

theorem State.writeHome_wf (s : State) (c : ClusterId) (pa : Nat) (bs : List Byte) (h : s.mem.wf) :
    (s.writeHome c pa bs).mem.wf := s.mem.write_wf pa bs h

theorem State.store_wf (s : State) (t : Target) (bs : List Byte) (h : s.mem.wf) : (s.store t bs).mem.wf := by
  cases t with
  | glob p pa => exact State.note_wf _ p pa _ _ (s.writeHome_wf _ pa bs h)
  | mesh c off => exact ⟨h.1, cellsWrite_wf _ _ _ h.2⟩

theorem State.loadRange_wf (ts : List (Word × Target × Nat)) (s : State) (h : s.mem.wf) :
    (s.loadRange ts).1.mem.wf := by
  induction ts generalizing s with
  | nil => exact h
  | cons t ts ih => exact ih _ (State.load_wf _ _ _ (s.noteAccess_wf _ h))

theorem State.storeRange_wf (ts : List (Word × Target × Nat)) (bs : List Byte) (s : State) (h : s.mem.wf) :
    (s.storeRange ts bs).mem.wf := by
  induction ts generalizing s bs with
  | nil => exact h
  | cons t ts ih => exact ih _ _ (State.store_wf _ _ _ (s.noteAccess_wf _ h))

theorem State.writePhys_wf (s : State) (pa : Nat) (bs : List Byte) (h : s.mem.wf) : (s.writePhys pa bs).mem.wf :=
  s.mem.write_wf pa bs h

/-- The write of a row keeps the form. -/
theorem State.writeRow_wf (ps : List JPiece) (bs : List Byte) (s : State) (h : s.mem.wf) : (s.writeRow ps bs).mem.wf := by
  induction ps generalizing s bs with
  | nil => exact h
  | cons p ps ih =>
    unfold State.writeRow
    apply ih
    split
    · exact h
    · exact Mem.putBelow_wf _ _ _ h

/-- A context may fetch no value that was replaced before its latest FENCE. -/
theorem Mem.le_oldFrom (m : Mem) (pa fence loaded : Nat) : fence ≤ m.oldFrom pa fence loaded := by
  unfold Mem.oldFrom
  generalize m.past.filter _ = l
  induction l generalizing fence with
  | nil => exact Nat.le_refl _
  | cons o l ih => exact (Nat.le_max_left _ _).trans (ih _)

theorem State.readPlace_wf (s : State) (c : ClusterId) (home : Bool) (pl : Place) (n : Nat) (h : s.mem.wf) :
    (s.readPlace c home pl n).1.mem.wf := by
  induction n generalizing s pl with
  | zero => cases pl <;> exact h
  | succ n ih =>
    cases pl with
    | scr k => exact h
    | glob pa =>
      unfold State.readPlace
      split
      · exact s.readHome_wf pa _ h
      · split
        · exact s.readVia_wf c pa _ h
        · exact ih _ _ (s.readVia_wf c pa 1 h)

/-- What an element of a load finds: the bytes as they are, or as they were before a store since a number; nothing but
the index of free values changes beside. -/
theorem State.readSince_cases (s : State) (c : ClusterId) (home : Bool) (since : Nat) (pl : Place) (n : Nat) :
    let r := s.readPlace c home pl n
    let q := s.readSince c home since pl n
    (∃ k, q.1 = { r.1 with fresh := k }) ∧
      (q.2 = r.2 ∨ ∃ pa, pl = .glob pa ∧ ∃ g ∈ s.mem.oldValues (pa / 8 * 8) since, q.2 = (g.drop (pa % 8)).take n) := by
  cases pl with
  | scr k => exact ⟨⟨_, rfl⟩, .inl rfl⟩
  | glob pa =>
    unfold State.readSince
    dsimp only
    split
    · exact ⟨⟨_, rfl⟩, .inl rfl⟩
    · refine ⟨?_, ?_⟩
      · unfold State.pick
        split
        · exact ⟨_, rfl⟩
        · exact ⟨_, rfl⟩
      · rw [List.getD_eq_getElem?_getD]
        rcases he : (_ : List (List Byte))[_]? with _ | b
        · exact .inl rfl
        · have hm := List.mem_of_getElem? he
          rw [List.mem_eraseDups, List.mem_cons, List.mem_map] at hm
          rcases hm with hm | ⟨g, hg, hb⟩
          · exact .inl hm
          · exact .inr ⟨pa, rfl, g, hg, hb.symm⟩

end Sys2Proof.Machine
end

