-- ==== Sys2Proof/Laws/State.lean ====
section
/-!
SUPPORT. What each update of a context or of the machine leaves as it was: one lemma per field per update.
-/
namespace Sys2Proof.Machine

-- A context's registers

@[simp] theorem Ctx.wx_f (c : Ctx) (r : XReg) (v : Word) : (c.wx r v).f = c.f := by
  unfold Ctx.wx; split <;> rfl
@[simp] theorem Ctx.wx_v (c : Ctx) (r : XReg) (v : Word) : (c.wx r v).v = c.v := by
  unfold Ctx.wx; split <;> rfl
@[simp] theorem Ctx.wx_pc (c : Ctx) (r : XReg) (v : Word) : (c.wx r v).pc = c.pc := by
  unfold Ctx.wx; split <;> rfl
@[simp] theorem Ctx.wx_super (c : Ctx) (r : XReg) (v : Word) : (c.wx r v).super = c.super := by
  unfold Ctx.wx; split <;> rfl
@[simp] theorem Ctx.wx_inh (c : Ctx) (r : XReg) (v : Word) : (c.wx r v).inh = c.inh := by
  unfold Ctx.wx; split <;> rfl
@[simp] theorem Ctx.wx_fpmode (c : Ctx) (r : XReg) (v : Word) : (c.wx r v).fpmode = c.fpmode := by
  unfold Ctx.wx; split <;> rfl
@[simp] theorem Ctx.wx_fpflags (c : Ctx) (r : XReg) (v : Word) : (c.wx r v).fpflags = c.fpflags := by
  unfold Ctx.wx; split <;> rfl
@[simp] theorem Ctx.wx_regionid (c : Ctx) (r : XReg) (v : Word) : (c.wx r v).regionid = c.regionid := by
  unfold Ctx.wx; split <;> rfl
@[simp] theorem Ctx.wx_hdone (c : Ctx) (r : XReg) (v : Word) : (c.wx r v).hdone = c.hdone := by
  unfold Ctx.wx; split <;> rfl
@[simp] theorem Ctx.wx_trappc (c : Ctx) (r : XReg) (v : Word) : (c.wx r v).trappc = c.trappc := by
  unfold Ctx.wx; split <;> rfl
@[simp] theorem Ctx.wx_trapcause (c : Ctx) (r : XReg) (v : Word) : (c.wx r v).trapcause = c.trapcause := by
  unfold Ctx.wx; split <;> rfl
@[simp] theorem Ctx.wx_trapaddr (c : Ctx) (r : XReg) (v : Word) : (c.wx r v).trapaddr = c.trapaddr := by
  unfold Ctx.wx; split <;> rfl
@[simp] theorem Ctx.wx_trapinfo (c : Ctx) (r : XReg) (v : Word) : (c.wx r v).trapinfo = c.trapinfo := by
  unfold Ctx.wx; split <;> rfl
@[simp] theorem Ctx.wx_windows (c : Ctx) (r : XReg) (v : Word) : (c.wx r v).windows = c.windows := by
  unfold Ctx.wx; split <;> rfl
@[simp] theorem Ctx.wx_fetched (c : Ctx) (r : XReg) (v : Word) : (c.wx r v).fetched = c.fetched := by
  unfold Ctx.wx; split <;> rfl
@[simp] theorem Ctx.wx_fence (c : Ctx) (r : XReg) (v : Word) : (c.wx r v).fence = c.fence := by
  unfold Ctx.wx; split <;> rfl
@[simp] theorem Ctx.wx_loaded (c : Ctx) (r : XReg) (v : Word) : (c.wx r v).loaded = c.loaded := by
  unfold Ctx.wx; split <;> rfl
@[simp] theorem Ctx.wx_loop (c : Ctx) (r : XReg) (v : Word) : (c.wx r v).loop = c.loop := by
  unfold Ctx.wx; split <;> rfl
@[simp] theorem Ctx.wx_streams (c : Ctx) (r : XReg) (v : Word) : (c.wx r v).streams = c.streams := by
  unfold Ctx.wx; split <;> rfl
@[simp] theorem Ctx.wx_ovr (c : Ctx) (r : XReg) (v : Word) : (c.wx r v).ovr = c.ovr := by
  unfold Ctx.wx; split <;> rfl
@[simp] theorem Ctx.wx_bs (c : Ctx) (r : XReg) (v : Word) : (c.wx r v).bs = c.bs := by
  unfold Ctx.wx; split <;> rfl
@[simp] theorem Ctx.wx_rot (c : Ctx) (r : XReg) (v : Word) : (c.wx r v).rot = c.rot := by
  unfold Ctx.wx; split <;> rfl
@[simp] theorem Ctx.wx_cv (c : Ctx) (r : XReg) (v : Word) : (c.wx r v).cv = c.cv := by
  unfold Ctx.wx; split <;> rfl
@[simp] theorem Ctx.wx_live (c : Ctx) (r : XReg) (v : Word) : (c.wx r v).live = c.live := by
  unfold Ctx.wx; split <;> rfl
@[simp] theorem Ctx.wx_waiting (c : Ctx) (r : XReg) (v : Word) : (c.wx r v).waiting = c.waiting := by
  unfold Ctx.wx; split <;> rfl
@[simp] theorem Ctx.wx_wake (c : Ctx) (r : XReg) (v : Word) : (c.wx r v).wake = c.wake := by
  unfold Ctx.wx; split <;> rfl
@[simp] theorem Ctx.wx_lastIssue (c : Ctx) (r : XReg) (v : Word) : (c.wx r v).lastIssue = c.lastIssue := by
  unfold Ctx.wx; split <;> rfl
@[simp] theorem Ctx.wx_starter (c : Ctx) (r : XReg) (v : Word) : (c.wx r v).starter = c.starter := by
  unfold Ctx.wx; split <;> rfl
@[simp] theorem Ctx.wx_leaf (c : Ctx) (r : XReg) (v : Word) : (c.wx r v).leaf = c.leaf := by
  unfold Ctx.wx; split <;> rfl
@[simp] theorem Ctx.wx_doing (c : Ctx) (r : XReg) (v : Word) : (c.wx r v).doing = c.doing := by
  unfold Ctx.wx; split <;> rfl
@[simp] theorem Ctx.wx_asked (c : Ctx) (r : XReg) (v : Word) : (c.wx r v).asked = c.asked := by
  unfold Ctx.wx; split <;> rfl
@[simp] theorem Ctx.wx_pos (c : Ctx) (r : XReg) (v : Word) : (c.wx r v).pos = c.pos := by
  unfold Ctx.wx; split <;> rfl
@[simp] theorem Ctx.wx_plan (c : Ctx) (r : XReg) (v : Word) : (c.wx r v).plan = c.plan := by
  unfold Ctx.wx; split <;> rfl
@[simp] theorem Ctx.wx_awaits (c : Ctx) (r : XReg) (v : Word) : (c.wx r v).awaits = c.awaits := by
  unfold Ctx.wx; split <;> rfl

@[simp] theorem Ctx.wf_x (c : Ctx) (r : FReg) (v : Word) : (c.wf r v).x = c.x := rfl
@[simp] theorem Ctx.wf_v (c : Ctx) (r : FReg) (v : Word) : (c.wf r v).v = c.v := rfl
@[simp] theorem Ctx.wf_pc (c : Ctx) (r : FReg) (v : Word) : (c.wf r v).pc = c.pc := rfl
@[simp] theorem Ctx.wf_super (c : Ctx) (r : FReg) (v : Word) : (c.wf r v).super = c.super := rfl
@[simp] theorem Ctx.wf_inh (c : Ctx) (r : FReg) (v : Word) : (c.wf r v).inh = c.inh := rfl
@[simp] theorem Ctx.wf_fpmode (c : Ctx) (r : FReg) (v : Word) : (c.wf r v).fpmode = c.fpmode := rfl
@[simp] theorem Ctx.wf_fpflags (c : Ctx) (r : FReg) (v : Word) : (c.wf r v).fpflags = c.fpflags := rfl
@[simp] theorem Ctx.wf_regionid (c : Ctx) (r : FReg) (v : Word) : (c.wf r v).regionid = c.regionid := rfl
@[simp] theorem Ctx.wf_hdone (c : Ctx) (r : FReg) (v : Word) : (c.wf r v).hdone = c.hdone := rfl
@[simp] theorem Ctx.wf_trappc (c : Ctx) (r : FReg) (v : Word) : (c.wf r v).trappc = c.trappc := rfl
@[simp] theorem Ctx.wf_trapcause (c : Ctx) (r : FReg) (v : Word) : (c.wf r v).trapcause = c.trapcause := rfl
@[simp] theorem Ctx.wf_trapaddr (c : Ctx) (r : FReg) (v : Word) : (c.wf r v).trapaddr = c.trapaddr := rfl
@[simp] theorem Ctx.wf_trapinfo (c : Ctx) (r : FReg) (v : Word) : (c.wf r v).trapinfo = c.trapinfo := rfl
@[simp] theorem Ctx.wf_windows (c : Ctx) (r : FReg) (v : Word) : (c.wf r v).windows = c.windows := rfl
@[simp] theorem Ctx.wf_fetched (c : Ctx) (r : FReg) (v : Word) : (c.wf r v).fetched = c.fetched := rfl
@[simp] theorem Ctx.wf_fence (c : Ctx) (r : FReg) (v : Word) : (c.wf r v).fence = c.fence := rfl
@[simp] theorem Ctx.wf_loaded (c : Ctx) (r : FReg) (v : Word) : (c.wf r v).loaded = c.loaded := rfl
@[simp] theorem Ctx.wf_loop (c : Ctx) (r : FReg) (v : Word) : (c.wf r v).loop = c.loop := rfl
@[simp] theorem Ctx.wf_streams (c : Ctx) (r : FReg) (v : Word) : (c.wf r v).streams = c.streams := rfl
@[simp] theorem Ctx.wf_ovr (c : Ctx) (r : FReg) (v : Word) : (c.wf r v).ovr = c.ovr := rfl
@[simp] theorem Ctx.wf_bs (c : Ctx) (r : FReg) (v : Word) : (c.wf r v).bs = c.bs := rfl
@[simp] theorem Ctx.wf_rot (c : Ctx) (r : FReg) (v : Word) : (c.wf r v).rot = c.rot := rfl
@[simp] theorem Ctx.wf_cv (c : Ctx) (r : FReg) (v : Word) : (c.wf r v).cv = c.cv := rfl
@[simp] theorem Ctx.wf_live (c : Ctx) (r : FReg) (v : Word) : (c.wf r v).live = c.live := rfl
@[simp] theorem Ctx.wf_waiting (c : Ctx) (r : FReg) (v : Word) : (c.wf r v).waiting = c.waiting := rfl
@[simp] theorem Ctx.wf_wake (c : Ctx) (r : FReg) (v : Word) : (c.wf r v).wake = c.wake := rfl
@[simp] theorem Ctx.wf_lastIssue (c : Ctx) (r : FReg) (v : Word) : (c.wf r v).lastIssue = c.lastIssue := rfl
@[simp] theorem Ctx.wf_starter (c : Ctx) (r : FReg) (v : Word) : (c.wf r v).starter = c.starter := rfl
@[simp] theorem Ctx.wf_leaf (c : Ctx) (r : FReg) (v : Word) : (c.wf r v).leaf = c.leaf := rfl
@[simp] theorem Ctx.wf_doing (c : Ctx) (r : FReg) (v : Word) : (c.wf r v).doing = c.doing := rfl
@[simp] theorem Ctx.wf_asked (c : Ctx) (r : FReg) (v : Word) : (c.wf r v).asked = c.asked := rfl
@[simp] theorem Ctx.wf_pos (c : Ctx) (r : FReg) (v : Word) : (c.wf r v).pos = c.pos := rfl
@[simp] theorem Ctx.wf_plan (c : Ctx) (r : FReg) (v : Word) : (c.wf r v).plan = c.plan := rfl
@[simp] theorem Ctx.wf_awaits (c : Ctx) (r : FReg) (v : Word) : (c.wf r v).awaits = c.awaits := rfl

@[simp] theorem Ctx.wv_x (c : Ctx) (r : VReg) (v : Lanes) : (c.wv r v).x = c.x := rfl
@[simp] theorem Ctx.wv_f (c : Ctx) (r : VReg) (v : Lanes) : (c.wv r v).f = c.f := rfl
@[simp] theorem Ctx.wv_pc (c : Ctx) (r : VReg) (v : Lanes) : (c.wv r v).pc = c.pc := rfl
@[simp] theorem Ctx.wv_super (c : Ctx) (r : VReg) (v : Lanes) : (c.wv r v).super = c.super := rfl
@[simp] theorem Ctx.wv_inh (c : Ctx) (r : VReg) (v : Lanes) : (c.wv r v).inh = c.inh := rfl
@[simp] theorem Ctx.wv_fpmode (c : Ctx) (r : VReg) (v : Lanes) : (c.wv r v).fpmode = c.fpmode := rfl
@[simp] theorem Ctx.wv_fpflags (c : Ctx) (r : VReg) (v : Lanes) : (c.wv r v).fpflags = c.fpflags := rfl
@[simp] theorem Ctx.wv_regionid (c : Ctx) (r : VReg) (v : Lanes) : (c.wv r v).regionid = c.regionid := rfl
@[simp] theorem Ctx.wv_hdone (c : Ctx) (r : VReg) (v : Lanes) : (c.wv r v).hdone = c.hdone := rfl
@[simp] theorem Ctx.wv_trappc (c : Ctx) (r : VReg) (v : Lanes) : (c.wv r v).trappc = c.trappc := rfl
@[simp] theorem Ctx.wv_trapcause (c : Ctx) (r : VReg) (v : Lanes) : (c.wv r v).trapcause = c.trapcause := rfl
@[simp] theorem Ctx.wv_trapaddr (c : Ctx) (r : VReg) (v : Lanes) : (c.wv r v).trapaddr = c.trapaddr := rfl
@[simp] theorem Ctx.wv_trapinfo (c : Ctx) (r : VReg) (v : Lanes) : (c.wv r v).trapinfo = c.trapinfo := rfl
@[simp] theorem Ctx.wv_windows (c : Ctx) (r : VReg) (v : Lanes) : (c.wv r v).windows = c.windows := rfl
@[simp] theorem Ctx.wv_fetched (c : Ctx) (r : VReg) (v : Lanes) : (c.wv r v).fetched = c.fetched := rfl
@[simp] theorem Ctx.wv_fence (c : Ctx) (r : VReg) (v : Lanes) : (c.wv r v).fence = c.fence := rfl
@[simp] theorem Ctx.wv_loaded (c : Ctx) (r : VReg) (v : Lanes) : (c.wv r v).loaded = c.loaded := rfl
@[simp] theorem Ctx.wv_loop (c : Ctx) (r : VReg) (v : Lanes) : (c.wv r v).loop = c.loop := rfl
@[simp] theorem Ctx.wv_streams (c : Ctx) (r : VReg) (v : Lanes) : (c.wv r v).streams = c.streams := rfl
@[simp] theorem Ctx.wv_ovr (c : Ctx) (r : VReg) (v : Lanes) : (c.wv r v).ovr = c.ovr := rfl
@[simp] theorem Ctx.wv_bs (c : Ctx) (r : VReg) (v : Lanes) : (c.wv r v).bs = c.bs := rfl
@[simp] theorem Ctx.wv_rot (c : Ctx) (r : VReg) (v : Lanes) : (c.wv r v).rot = c.rot := rfl
@[simp] theorem Ctx.wv_cv (c : Ctx) (r : VReg) (v : Lanes) : (c.wv r v).cv = c.cv := rfl
@[simp] theorem Ctx.wv_live (c : Ctx) (r : VReg) (v : Lanes) : (c.wv r v).live = c.live := rfl
@[simp] theorem Ctx.wv_waiting (c : Ctx) (r : VReg) (v : Lanes) : (c.wv r v).waiting = c.waiting := rfl
@[simp] theorem Ctx.wv_wake (c : Ctx) (r : VReg) (v : Lanes) : (c.wv r v).wake = c.wake := rfl
@[simp] theorem Ctx.wv_lastIssue (c : Ctx) (r : VReg) (v : Lanes) : (c.wv r v).lastIssue = c.lastIssue := rfl
@[simp] theorem Ctx.wv_starter (c : Ctx) (r : VReg) (v : Lanes) : (c.wv r v).starter = c.starter := rfl
@[simp] theorem Ctx.wv_leaf (c : Ctx) (r : VReg) (v : Lanes) : (c.wv r v).leaf = c.leaf := rfl
@[simp] theorem Ctx.wv_doing (c : Ctx) (r : VReg) (v : Lanes) : (c.wv r v).doing = c.doing := rfl
@[simp] theorem Ctx.wv_asked (c : Ctx) (r : VReg) (v : Lanes) : (c.wv r v).asked = c.asked := rfl
@[simp] theorem Ctx.wv_pos (c : Ctx) (r : VReg) (v : Lanes) : (c.wv r v).pos = c.pos := rfl
@[simp] theorem Ctx.wv_plan (c : Ctx) (r : VReg) (v : Lanes) : (c.wv r v).plan = c.plan := rfl
@[simp] theorem Ctx.wv_awaits (c : Ctx) (r : VReg) (v : Lanes) : (c.wv r v).awaits = c.awaits := rfl

@[simp] theorem Ctx.wx_zero (c : Ctx) (v : Word) : c.wx 0 v = c := rfl
@[simp] theorem Ctx.rx_zero (c : Ctx) : c.rx 0 = 0 := rfl

/-- A register that was written reads as what was written, x0 as zero. -/
theorem Ctx.rx_wx (c : Ctx) (q r : XReg) (v : Word) :
    (c.wx r v).rx q = if q = r ∧ r ≠ 0 then v else c.rx q := by
  unfold Ctx.wx Ctx.rx
  by_cases hr : r = 0
  · simp [hr]
  · by_cases hq : q = r
    · subst hq; simp [hr, Vector.get]
    · simp only [hr, hq, if_false, false_and]
      split
      · rfl
      · exact Vector.getElem_set_ne r.isLt q.isLt fun h => hq (Fin.ext h.symm)

/-- An f register that was written reads as what was written. -/
theorem Ctx.rf_wf (c : Ctx) (q r : FReg) (v : Word) : (c.wf r v).rf q = if q = r then v else c.rf q := by
  unfold Ctx.wf Ctx.rf
  by_cases hq : q = r
  · subst hq
    rw [if_pos rfl]
    exact Vector.getElem_set_self q.isLt
  · rw [if_neg hq]
    exact Vector.getElem_set_ne r.isLt q.isLt fun h => hq (Fin.ext h.symm)

@[simp] theorem Ctx.rf_wx (c : Ctx) (q : FReg) (r : XReg) (v : Word) : (c.wx r v).rf q = c.rf q := by
  simp [Ctx.rf]
@[simp] theorem Ctx.rx_wf (c : Ctx) (q : XReg) (r : FReg) (v : Word) : (c.wf r v).rx q = c.rx q := by
  simp [Ctx.rx]

-- The machine's parts

@[simp] theorem State.wx_cur (s : State) (r : XReg) (v : Word) : (s.wx r v).cur = s.cur :=
  rfl
@[simp] theorem State.wx_ctxs (s : State) (r : XReg) (v : Word) : (s.wx r v).ctxs = s.ctxs :=
  rfl
@[simp] theorem State.wx_leaves (s : State) (r : XReg) (v : Word) : (s.wx r v).leaves = s.leaves :=
  rfl
@[simp] theorem State.wx_nextLeaf (s : State) (r : XReg) (v : Word) : (s.wx r v).nextLeaf = s.nextLeaf :=
  rfl
@[simp] theorem State.wx_cores (s : State) (r : XReg) (v : Word) : (s.wx r v).cores = s.cores :=
  rfl
@[simp] theorem State.wx_clusters (s : State) (r : XReg) (v : Word) : (s.wx r v).clusters = s.clusters :=
  rfl
@[simp] theorem State.wx_dies (s : State) (r : XReg) (v : Word) : (s.wx r v).dies = s.dies :=
  rfl
@[simp] theorem State.wx_mem (s : State) (r : XReg) (v : Word) : (s.wx r v).mem = s.mem :=
  rfl
@[simp] theorem State.wx_parts (s : State) (r : XReg) (v : Word) : (s.wx r v).parts = s.parts :=
  rfl
@[simp] theorem State.wx_launches (s : State) (r : XReg) (v : Word) : (s.wx r v).launches = s.launches :=
  rfl
@[simp] theorem State.wx_nextLaunch (s : State) (r : XReg) (v : Word) : (s.wx r v).nextLaunch = s.nextLaunch :=
  rfl
@[simp] theorem State.wx_pkg (s : State) (r : XReg) (v : Word) : (s.wx r v).pkg = s.pkg :=
  rfl
@[simp] theorem State.wx_cycle (s : State) (r : XReg) (v : Word) : (s.wx r v).cycle = s.cycle :=
  rfl
@[simp] theorem State.wx_agenda (s : State) (r : XReg) (v : Word) : (s.wx r v).agenda = s.agenda :=
  rfl
@[simp] theorem State.wx_unit (s : State) (r : XReg) (v : Word) : (s.wx r v).unit = s.unit :=
  rfl
@[simp] theorem State.wx_fresh (s : State) (r : XReg) (v : Word) : (s.wx r v).fresh = s.fresh :=
  rfl
@[simp] theorem State.wx_arrivals (s : State) (r : XReg) (v : Word) : (s.wx r v).arrivals = s.arrivals :=
  rfl

@[simp] theorem State.wf_cur (s : State) (r : FReg) (v : Word) : (s.wf r v).cur = s.cur :=
  rfl
@[simp] theorem State.wf_ctxs (s : State) (r : FReg) (v : Word) : (s.wf r v).ctxs = s.ctxs :=
  rfl
@[simp] theorem State.wf_leaves (s : State) (r : FReg) (v : Word) : (s.wf r v).leaves = s.leaves :=
  rfl
@[simp] theorem State.wf_nextLeaf (s : State) (r : FReg) (v : Word) : (s.wf r v).nextLeaf = s.nextLeaf :=
  rfl
@[simp] theorem State.wf_cores (s : State) (r : FReg) (v : Word) : (s.wf r v).cores = s.cores :=
  rfl
@[simp] theorem State.wf_clusters (s : State) (r : FReg) (v : Word) : (s.wf r v).clusters = s.clusters :=
  rfl
@[simp] theorem State.wf_dies (s : State) (r : FReg) (v : Word) : (s.wf r v).dies = s.dies :=
  rfl
@[simp] theorem State.wf_mem (s : State) (r : FReg) (v : Word) : (s.wf r v).mem = s.mem :=
  rfl
@[simp] theorem State.wf_parts (s : State) (r : FReg) (v : Word) : (s.wf r v).parts = s.parts :=
  rfl
@[simp] theorem State.wf_launches (s : State) (r : FReg) (v : Word) : (s.wf r v).launches = s.launches :=
  rfl
@[simp] theorem State.wf_nextLaunch (s : State) (r : FReg) (v : Word) : (s.wf r v).nextLaunch = s.nextLaunch :=
  rfl
@[simp] theorem State.wf_pkg (s : State) (r : FReg) (v : Word) : (s.wf r v).pkg = s.pkg :=
  rfl
@[simp] theorem State.wf_cycle (s : State) (r : FReg) (v : Word) : (s.wf r v).cycle = s.cycle :=
  rfl
@[simp] theorem State.wf_agenda (s : State) (r : FReg) (v : Word) : (s.wf r v).agenda = s.agenda :=
  rfl
@[simp] theorem State.wf_unit (s : State) (r : FReg) (v : Word) : (s.wf r v).unit = s.unit :=
  rfl
@[simp] theorem State.wf_fresh (s : State) (r : FReg) (v : Word) : (s.wf r v).fresh = s.fresh :=
  rfl
@[simp] theorem State.wf_arrivals (s : State) (r : FReg) (v : Word) : (s.wf r v).arrivals = s.arrivals :=
  rfl

@[simp] theorem State.setCore_cur (s : State) (r : CoreId) (v : CoreSt) : (s.setCore r v).cur = s.cur :=
  rfl
@[simp] theorem State.setCore_ctx (s : State) (r : CoreId) (v : CoreSt) : (s.setCore r v).ctx = s.ctx :=
  rfl
@[simp] theorem State.setCore_ctxs (s : State) (r : CoreId) (v : CoreSt) : (s.setCore r v).ctxs = s.ctxs :=
  rfl
@[simp] theorem State.setCore_leaves (s : State) (r : CoreId) (v : CoreSt) : (s.setCore r v).leaves = s.leaves :=
  rfl
@[simp] theorem State.setCore_nextLeaf (s : State) (r : CoreId) (v : CoreSt) : (s.setCore r v).nextLeaf = s.nextLeaf :=
  rfl
@[simp] theorem State.setCore_clusters (s : State) (r : CoreId) (v : CoreSt) : (s.setCore r v).clusters = s.clusters :=
  rfl
@[simp] theorem State.setCore_dies (s : State) (r : CoreId) (v : CoreSt) : (s.setCore r v).dies = s.dies :=
  rfl
@[simp] theorem State.setCore_mem (s : State) (r : CoreId) (v : CoreSt) : (s.setCore r v).mem = s.mem :=
  rfl
@[simp] theorem State.setCore_parts (s : State) (r : CoreId) (v : CoreSt) : (s.setCore r v).parts = s.parts :=
  rfl
@[simp] theorem State.setCore_launches (s : State) (r : CoreId) (v : CoreSt) : (s.setCore r v).launches = s.launches :=
  rfl
@[simp] theorem State.setCore_nextLaunch (s : State) (r : CoreId) (v : CoreSt) : (s.setCore r v).nextLaunch = s.nextLaunch :=
  rfl
@[simp] theorem State.setCore_pkg (s : State) (r : CoreId) (v : CoreSt) : (s.setCore r v).pkg = s.pkg :=
  rfl
@[simp] theorem State.setCore_cycle (s : State) (r : CoreId) (v : CoreSt) : (s.setCore r v).cycle = s.cycle :=
  rfl
@[simp] theorem State.setCore_agenda (s : State) (r : CoreId) (v : CoreSt) : (s.setCore r v).agenda = s.agenda :=
  rfl
@[simp] theorem State.setCore_unit (s : State) (r : CoreId) (v : CoreSt) : (s.setCore r v).unit = s.unit :=
  rfl
@[simp] theorem State.setCore_fresh (s : State) (r : CoreId) (v : CoreSt) : (s.setCore r v).fresh = s.fresh :=
  rfl
@[simp] theorem State.setCore_arrivals (s : State) (r : CoreId) (v : CoreSt) : (s.setCore r v).arrivals = s.arrivals :=
  rfl

@[simp] theorem State.setCl_cur (s : State) (r : ClusterId) (v : Cluster) : (s.setCl r v).cur = s.cur :=
  rfl
@[simp] theorem State.setCl_ctx (s : State) (r : ClusterId) (v : Cluster) : (s.setCl r v).ctx = s.ctx :=
  rfl
@[simp] theorem State.setCl_ctxs (s : State) (r : ClusterId) (v : Cluster) : (s.setCl r v).ctxs = s.ctxs :=
  rfl
@[simp] theorem State.setCl_leaves (s : State) (r : ClusterId) (v : Cluster) : (s.setCl r v).leaves = s.leaves :=
  rfl
@[simp] theorem State.setCl_nextLeaf (s : State) (r : ClusterId) (v : Cluster) : (s.setCl r v).nextLeaf = s.nextLeaf :=
  rfl
@[simp] theorem State.setCl_cores (s : State) (r : ClusterId) (v : Cluster) : (s.setCl r v).cores = s.cores :=
  rfl
@[simp] theorem State.setCl_dies (s : State) (r : ClusterId) (v : Cluster) : (s.setCl r v).dies = s.dies :=
  rfl
@[simp] theorem State.setCl_mem (s : State) (r : ClusterId) (v : Cluster) : (s.setCl r v).mem = s.mem :=
  rfl
@[simp] theorem State.setCl_parts (s : State) (r : ClusterId) (v : Cluster) : (s.setCl r v).parts = s.parts :=
  rfl
@[simp] theorem State.setCl_launches (s : State) (r : ClusterId) (v : Cluster) : (s.setCl r v).launches = s.launches :=
  rfl
@[simp] theorem State.setCl_nextLaunch (s : State) (r : ClusterId) (v : Cluster) : (s.setCl r v).nextLaunch = s.nextLaunch :=
  rfl
@[simp] theorem State.setCl_pkg (s : State) (r : ClusterId) (v : Cluster) : (s.setCl r v).pkg = s.pkg :=
  rfl
@[simp] theorem State.setCl_cycle (s : State) (r : ClusterId) (v : Cluster) : (s.setCl r v).cycle = s.cycle :=
  rfl
@[simp] theorem State.setCl_agenda (s : State) (r : ClusterId) (v : Cluster) : (s.setCl r v).agenda = s.agenda :=
  rfl
@[simp] theorem State.setCl_unit (s : State) (r : ClusterId) (v : Cluster) : (s.setCl r v).unit = s.unit :=
  rfl
@[simp] theorem State.setCl_fresh (s : State) (r : ClusterId) (v : Cluster) : (s.setCl r v).fresh = s.fresh :=
  rfl
@[simp] theorem State.setCl_arrivals (s : State) (r : ClusterId) (v : Cluster) : (s.setCl r v).arrivals = s.arrivals :=
  rfl

@[simp] theorem State.setDie_cur (s : State) (r : Nat) (v : Die) : (s.setDie r v).cur = s.cur :=
  rfl
@[simp] theorem State.setDie_ctx (s : State) (r : Nat) (v : Die) : (s.setDie r v).ctx = s.ctx :=
  rfl
@[simp] theorem State.setDie_ctxs (s : State) (r : Nat) (v : Die) : (s.setDie r v).ctxs = s.ctxs :=
  rfl
@[simp] theorem State.setDie_leaves (s : State) (r : Nat) (v : Die) : (s.setDie r v).leaves = s.leaves :=
  rfl
@[simp] theorem State.setDie_nextLeaf (s : State) (r : Nat) (v : Die) : (s.setDie r v).nextLeaf = s.nextLeaf :=
  rfl
@[simp] theorem State.setDie_cores (s : State) (r : Nat) (v : Die) : (s.setDie r v).cores = s.cores :=
  rfl
@[simp] theorem State.setDie_clusters (s : State) (r : Nat) (v : Die) : (s.setDie r v).clusters = s.clusters :=
  rfl
@[simp] theorem State.setDie_mem (s : State) (r : Nat) (v : Die) : (s.setDie r v).mem = s.mem :=
  rfl
@[simp] theorem State.setDie_parts (s : State) (r : Nat) (v : Die) : (s.setDie r v).parts = s.parts :=
  rfl
@[simp] theorem State.setDie_launches (s : State) (r : Nat) (v : Die) : (s.setDie r v).launches = s.launches :=
  rfl
@[simp] theorem State.setDie_nextLaunch (s : State) (r : Nat) (v : Die) : (s.setDie r v).nextLaunch = s.nextLaunch :=
  rfl
@[simp] theorem State.setDie_pkg (s : State) (r : Nat) (v : Die) : (s.setDie r v).pkg = s.pkg :=
  rfl
@[simp] theorem State.setDie_cycle (s : State) (r : Nat) (v : Die) : (s.setDie r v).cycle = s.cycle :=
  rfl
@[simp] theorem State.setDie_agenda (s : State) (r : Nat) (v : Die) : (s.setDie r v).agenda = s.agenda :=
  rfl
@[simp] theorem State.setDie_unit (s : State) (r : Nat) (v : Die) : (s.setDie r v).unit = s.unit :=
  rfl
@[simp] theorem State.setDie_fresh (s : State) (r : Nat) (v : Die) : (s.setDie r v).fresh = s.fresh :=
  rfl
@[simp] theorem State.setDie_arrivals (s : State) (r : Nat) (v : Die) : (s.setDie r v).arrivals = s.arrivals :=
  rfl

@[simp] theorem State.setPart_cur (s : State) (r : Nat) (v : Part) : (s.setPart r v).cur = s.cur :=
  rfl
@[simp] theorem State.setPart_ctx (s : State) (r : Nat) (v : Part) : (s.setPart r v).ctx = s.ctx :=
  rfl
@[simp] theorem State.setPart_ctxs (s : State) (r : Nat) (v : Part) : (s.setPart r v).ctxs = s.ctxs :=
  rfl
@[simp] theorem State.setPart_leaves (s : State) (r : Nat) (v : Part) : (s.setPart r v).leaves = s.leaves :=
  rfl
@[simp] theorem State.setPart_nextLeaf (s : State) (r : Nat) (v : Part) : (s.setPart r v).nextLeaf = s.nextLeaf :=
  rfl
@[simp] theorem State.setPart_cores (s : State) (r : Nat) (v : Part) : (s.setPart r v).cores = s.cores :=
  rfl
@[simp] theorem State.setPart_clusters (s : State) (r : Nat) (v : Part) : (s.setPart r v).clusters = s.clusters :=
  rfl
@[simp] theorem State.setPart_dies (s : State) (r : Nat) (v : Part) : (s.setPart r v).dies = s.dies :=
  rfl
@[simp] theorem State.setPart_mem (s : State) (r : Nat) (v : Part) : (s.setPart r v).mem = s.mem :=
  rfl
@[simp] theorem State.setPart_launches (s : State) (r : Nat) (v : Part) : (s.setPart r v).launches = s.launches :=
  rfl
@[simp] theorem State.setPart_nextLaunch (s : State) (r : Nat) (v : Part) : (s.setPart r v).nextLaunch = s.nextLaunch :=
  rfl
@[simp] theorem State.setPart_pkg (s : State) (r : Nat) (v : Part) : (s.setPart r v).pkg = s.pkg :=
  rfl
@[simp] theorem State.setPart_cycle (s : State) (r : Nat) (v : Part) : (s.setPart r v).cycle = s.cycle :=
  rfl
@[simp] theorem State.setPart_agenda (s : State) (r : Nat) (v : Part) : (s.setPart r v).agenda = s.agenda :=
  rfl
@[simp] theorem State.setPart_unit (s : State) (r : Nat) (v : Part) : (s.setPart r v).unit = s.unit :=
  rfl
@[simp] theorem State.setPart_fresh (s : State) (r : Nat) (v : Part) : (s.setPart r v).fresh = s.fresh :=
  rfl
@[simp] theorem State.setPart_arrivals (s : State) (r : Nat) (v : Part) : (s.setPart r v).arrivals = s.arrivals :=
  rfl

@[simp] theorem State.setCtx_cur (s : State) (c : CtxId) (v : Ctx) : (s.setCtx c v).cur = s.cur := by
  unfold State.setCtx; split <;> rfl
@[simp] theorem State.setCtx_leaves (s : State) (c : CtxId) (v : Ctx) : (s.setCtx c v).leaves = s.leaves := by
  unfold State.setCtx; split <;> rfl
@[simp] theorem State.setCtx_nextLeaf (s : State) (c : CtxId) (v : Ctx) : (s.setCtx c v).nextLeaf = s.nextLeaf := by
  unfold State.setCtx; split <;> rfl
@[simp] theorem State.setCtx_cores (s : State) (c : CtxId) (v : Ctx) : (s.setCtx c v).cores = s.cores := by
  unfold State.setCtx; split <;> rfl
@[simp] theorem State.setCtx_clusters (s : State) (c : CtxId) (v : Ctx) : (s.setCtx c v).clusters = s.clusters := by
  unfold State.setCtx; split <;> rfl
@[simp] theorem State.setCtx_dies (s : State) (c : CtxId) (v : Ctx) : (s.setCtx c v).dies = s.dies := by
  unfold State.setCtx; split <;> rfl
@[simp] theorem State.setCtx_mem (s : State) (c : CtxId) (v : Ctx) : (s.setCtx c v).mem = s.mem := by
  unfold State.setCtx; split <;> rfl
@[simp] theorem State.setCtx_parts (s : State) (c : CtxId) (v : Ctx) : (s.setCtx c v).parts = s.parts := by
  unfold State.setCtx; split <;> rfl
@[simp] theorem State.setCtx_launches (s : State) (c : CtxId) (v : Ctx) : (s.setCtx c v).launches = s.launches := by
  unfold State.setCtx; split <;> rfl
@[simp] theorem State.setCtx_nextLaunch (s : State) (c : CtxId) (v : Ctx) : (s.setCtx c v).nextLaunch = s.nextLaunch := by
  unfold State.setCtx; split <;> rfl
@[simp] theorem State.setCtx_pkg (s : State) (c : CtxId) (v : Ctx) : (s.setCtx c v).pkg = s.pkg := by
  unfold State.setCtx; split <;> rfl
@[simp] theorem State.setCtx_cycle (s : State) (c : CtxId) (v : Ctx) : (s.setCtx c v).cycle = s.cycle := by
  unfold State.setCtx; split <;> rfl
@[simp] theorem State.setCtx_agenda (s : State) (c : CtxId) (v : Ctx) : (s.setCtx c v).agenda = s.agenda := by
  unfold State.setCtx; split <;> rfl
@[simp] theorem State.setCtx_unit (s : State) (c : CtxId) (v : Ctx) : (s.setCtx c v).unit = s.unit := by
  unfold State.setCtx; split <;> rfl
@[simp] theorem State.setCtx_fresh (s : State) (c : CtxId) (v : Ctx) : (s.setCtx c v).fresh = s.fresh := by
  unfold State.setCtx; split <;> rfl
@[simp] theorem State.setCtx_arrivals (s : State) (c : CtxId) (v : Ctx) : (s.setCtx c v).arrivals = s.arrivals := by
  unfold State.setCtx; split <;> rfl

@[simp] theorem State.switchTo_leaves (s : State) (c : CtxId) : (s.switchTo c).leaves = s.leaves := by
  unfold State.switchTo; split <;> rfl
@[simp] theorem State.switchTo_nextLeaf (s : State) (c : CtxId) : (s.switchTo c).nextLeaf = s.nextLeaf := by
  unfold State.switchTo; split <;> rfl
@[simp] theorem State.switchTo_cores (s : State) (c : CtxId) : (s.switchTo c).cores = s.cores := by
  unfold State.switchTo; split <;> rfl
@[simp] theorem State.switchTo_clusters (s : State) (c : CtxId) : (s.switchTo c).clusters = s.clusters := by
  unfold State.switchTo; split <;> rfl
@[simp] theorem State.switchTo_dies (s : State) (c : CtxId) : (s.switchTo c).dies = s.dies := by
  unfold State.switchTo; split <;> rfl
@[simp] theorem State.switchTo_mem (s : State) (c : CtxId) : (s.switchTo c).mem = s.mem := by
  unfold State.switchTo; split <;> rfl
@[simp] theorem State.switchTo_parts (s : State) (c : CtxId) : (s.switchTo c).parts = s.parts := by
  unfold State.switchTo; split <;> rfl
@[simp] theorem State.switchTo_launches (s : State) (c : CtxId) : (s.switchTo c).launches = s.launches := by
  unfold State.switchTo; split <;> rfl
@[simp] theorem State.switchTo_nextLaunch (s : State) (c : CtxId) : (s.switchTo c).nextLaunch = s.nextLaunch := by
  unfold State.switchTo; split <;> rfl
@[simp] theorem State.switchTo_pkg (s : State) (c : CtxId) : (s.switchTo c).pkg = s.pkg := by
  unfold State.switchTo; split <;> rfl
@[simp] theorem State.switchTo_cycle (s : State) (c : CtxId) : (s.switchTo c).cycle = s.cycle := by
  unfold State.switchTo; split <;> rfl
@[simp] theorem State.switchTo_agenda (s : State) (c : CtxId) : (s.switchTo c).agenda = s.agenda := by
  unfold State.switchTo; split <;> rfl
@[simp] theorem State.switchTo_unit (s : State) (c : CtxId) : (s.switchTo c).unit = s.unit := by
  unfold State.switchTo; split <;> rfl
@[simp] theorem State.switchTo_fresh (s : State) (c : CtxId) : (s.switchTo c).fresh = s.fresh := by
  unfold State.switchTo; split <;> rfl
@[simp] theorem State.switchTo_arrivals (s : State) (c : CtxId) : (s.switchTo c).arrivals = s.arrivals := by
  unfold State.switchTo; split <;> rfl

@[simp] theorem State.endRegion_cur (s : State) : s.endRegion.cur = s.cur := rfl
@[simp] theorem State.endRegion_ctxs (s : State) : s.endRegion.ctxs = s.ctxs := rfl
@[simp] theorem State.endRegion_leaves (s : State) : s.endRegion.leaves = s.leaves := rfl
@[simp] theorem State.endRegion_nextLeaf (s : State) : s.endRegion.nextLeaf = s.nextLeaf := rfl
@[simp] theorem State.endRegion_cores (s : State) : s.endRegion.cores = s.cores := rfl
@[simp] theorem State.endRegion_clusters (s : State) : s.endRegion.clusters = s.clusters := rfl
@[simp] theorem State.endRegion_dies (s : State) : s.endRegion.dies = s.dies := rfl
@[simp] theorem State.endRegion_parts (s : State) : s.endRegion.parts = s.parts := rfl
@[simp] theorem State.endRegion_launches (s : State) : s.endRegion.launches = s.launches := rfl
@[simp] theorem State.endRegion_nextLaunch (s : State) : s.endRegion.nextLaunch = s.nextLaunch := rfl
@[simp] theorem State.endRegion_pkg (s : State) : s.endRegion.pkg = s.pkg := rfl
@[simp] theorem State.endRegion_cycle (s : State) : s.endRegion.cycle = s.cycle := rfl
@[simp] theorem State.endRegion_agenda (s : State) : s.endRegion.agenda = s.agenda := rfl
@[simp] theorem State.endRegion_unit (s : State) : s.endRegion.unit = s.unit := rfl
@[simp] theorem State.endRegion_fresh (s : State) : s.endRegion.fresh = s.fresh := rfl
@[simp] theorem State.endRegion_arrivals (s : State) : s.endRegion.arrivals = s.arrivals := rfl

@[simp] theorem State.retire_cur (s : State) (i : Instr) (t : Option Word) : (s.retire i t).cur = s.cur :=
  rfl
@[simp] theorem State.retire_ctxs (s : State) (i : Instr) (t : Option Word) : (s.retire i t).ctxs = s.ctxs :=
  rfl
@[simp] theorem State.retire_leaves (s : State) (i : Instr) (t : Option Word) : (s.retire i t).leaves = s.leaves :=
  rfl
@[simp] theorem State.retire_nextLeaf (s : State) (i : Instr) (t : Option Word) : (s.retire i t).nextLeaf = s.nextLeaf :=
  rfl
@[simp] theorem State.retire_cores (s : State) (i : Instr) (t : Option Word) : (s.retire i t).cores = s.cores :=
  rfl
@[simp] theorem State.retire_clusters (s : State) (i : Instr) (t : Option Word) : (s.retire i t).clusters = s.clusters :=
  rfl
@[simp] theorem State.retire_dies (s : State) (i : Instr) (t : Option Word) : (s.retire i t).dies = s.dies :=
  rfl
@[simp] theorem State.retire_mem (s : State) (i : Instr) (t : Option Word) : (s.retire i t).mem = s.mem :=
  rfl
@[simp] theorem State.retire_parts (s : State) (i : Instr) (t : Option Word) : (s.retire i t).parts = s.parts :=
  rfl
@[simp] theorem State.retire_launches (s : State) (i : Instr) (t : Option Word) : (s.retire i t).launches = s.launches :=
  rfl
@[simp] theorem State.retire_nextLaunch (s : State) (i : Instr) (t : Option Word) : (s.retire i t).nextLaunch = s.nextLaunch :=
  rfl
@[simp] theorem State.retire_pkg (s : State) (i : Instr) (t : Option Word) : (s.retire i t).pkg = s.pkg :=
  rfl
@[simp] theorem State.retire_cycle (s : State) (i : Instr) (t : Option Word) : (s.retire i t).cycle = s.cycle :=
  rfl
@[simp] theorem State.retire_agenda (s : State) (i : Instr) (t : Option Word) : (s.retire i t).agenda = s.agenda :=
  rfl
@[simp] theorem State.retire_unit (s : State) (i : Instr) (t : Option Word) : (s.retire i t).unit = s.unit :=
  rfl
@[simp] theorem State.retire_fresh (s : State) (i : Instr) (t : Option Word) : (s.retire i t).fresh = s.fresh :=
  rfl
@[simp] theorem State.retire_arrivals (s : State) (i : Instr) (t : Option Word) : (s.retire i t).arrivals = s.arrivals :=
  rfl

@[simp] theorem State.started_cur (s : State) (i : Instr) : (s.started i).cur = s.cur := rfl
@[simp] theorem State.started_ctxs (s : State) (i : Instr) : (s.started i).ctxs = s.ctxs := rfl
@[simp] theorem State.started_leaves (s : State) (i : Instr) : (s.started i).leaves = s.leaves := rfl
@[simp] theorem State.started_nextLeaf (s : State) (i : Instr) : (s.started i).nextLeaf = s.nextLeaf := rfl
@[simp] theorem State.started_cores (s : State) (i : Instr) : (s.started i).cores = s.cores := rfl
@[simp] theorem State.started_clusters (s : State) (i : Instr) : (s.started i).clusters = s.clusters := rfl
@[simp] theorem State.started_dies (s : State) (i : Instr) : (s.started i).dies = s.dies := rfl
@[simp] theorem State.started_mem (s : State) (i : Instr) : (s.started i).mem = s.mem := rfl
@[simp] theorem State.started_parts (s : State) (i : Instr) : (s.started i).parts = s.parts := rfl
@[simp] theorem State.started_launches (s : State) (i : Instr) : (s.started i).launches = s.launches := rfl
@[simp] theorem State.started_nextLaunch (s : State) (i : Instr) : (s.started i).nextLaunch = s.nextLaunch := rfl
@[simp] theorem State.started_pkg (s : State) (i : Instr) : (s.started i).pkg = s.pkg := rfl
@[simp] theorem State.started_cycle (s : State) (i : Instr) : (s.started i).cycle = s.cycle := rfl
@[simp] theorem State.started_agenda (s : State) (i : Instr) : (s.started i).agenda = s.agenda := rfl
@[simp] theorem State.started_unit (s : State) (i : Instr) : (s.started i).unit = s.unit := rfl
@[simp] theorem State.started_fresh (s : State) (i : Instr) : (s.started i).fresh = s.fresh := rfl
@[simp] theorem State.started_arrivals (s : State) (i : Instr) : (s.started i).arrivals = s.arrivals := rfl
@[simp] theorem State.started_ctx (s : State) (i : Instr) :
    (s.started i).ctx = { s.ctx with doing := some i, lastIssue := s.issueCycle } := rfl

@[simp] theorem State.elapse_cur (s : State) (n : Nat) : (s.elapse n).cur = s.cur := rfl
@[simp] theorem State.elapse_ctx (s : State) (n : Nat) : (s.elapse n).ctx = s.ctx := rfl
@[simp] theorem State.elapse_ctxs (s : State) (n : Nat) : (s.elapse n).ctxs = s.ctxs := rfl
@[simp] theorem State.elapse_nextLeaf (s : State) (n : Nat) : (s.elapse n).nextLeaf = s.nextLeaf := rfl
@[simp] theorem State.elapse_cores (s : State) (n : Nat) : (s.elapse n).cores = s.cores := rfl
@[simp] theorem State.elapse_clusters (s : State) (n : Nat) : (s.elapse n).clusters = s.clusters := rfl
@[simp] theorem State.elapse_dies (s : State) (n : Nat) : (s.elapse n).dies = s.dies := rfl
@[simp] theorem State.elapse_mem (s : State) (n : Nat) : (s.elapse n).mem = s.mem := rfl
@[simp] theorem State.elapse_parts (s : State) (n : Nat) : (s.elapse n).parts = s.parts := rfl
@[simp] theorem State.elapse_launches (s : State) (n : Nat) : (s.elapse n).launches = s.launches := rfl
@[simp] theorem State.elapse_nextLaunch (s : State) (n : Nat) : (s.elapse n).nextLaunch = s.nextLaunch := rfl
@[simp] theorem State.elapse_agenda (s : State) (n : Nat) : (s.elapse n).agenda = s.agenda := rfl
@[simp] theorem State.elapse_unit (s : State) (n : Nat) : (s.elapse n).unit = s.unit := rfl
@[simp] theorem State.elapse_fresh (s : State) (n : Nat) : (s.elapse n).fresh = s.fresh := rfl
@[simp] theorem State.elapse_arrivals (s : State) (n : Nat) : (s.elapse n).arrivals = s.arrivals := rfl

@[simp] theorem State.wx_ctx (s : State) (r : XReg) (v : Word) : (s.wx r v).ctx = s.ctx.wx r v := rfl
@[simp] theorem State.wf_ctx (s : State) (r : FReg) (v : Word) : (s.wf r v).ctx = s.ctx.wf r v := rfl

@[simp] theorem State.asks_cur (s : State) (i : Instr) : (s.asks i).cur = s.cur := rfl
@[simp] theorem State.asks_ctxs (s : State) (i : Instr) : (s.asks i).ctxs = s.ctxs := rfl
@[simp] theorem State.asks_leaves (s : State) (i : Instr) : (s.asks i).leaves = s.leaves := rfl
@[simp] theorem State.asks_nextLeaf (s : State) (i : Instr) : (s.asks i).nextLeaf = s.nextLeaf := rfl
@[simp] theorem State.asks_cores (s : State) (i : Instr) : (s.asks i).cores = s.cores := rfl
@[simp] theorem State.asks_clusters (s : State) (i : Instr) : (s.asks i).clusters = s.clusters := rfl
@[simp] theorem State.asks_dies (s : State) (i : Instr) : (s.asks i).dies = s.dies := rfl
@[simp] theorem State.asks_mem (s : State) (i : Instr) : (s.asks i).mem = s.mem := rfl
@[simp] theorem State.asks_parts (s : State) (i : Instr) : (s.asks i).parts = s.parts := rfl
@[simp] theorem State.asks_launches (s : State) (i : Instr) : (s.asks i).launches = s.launches := rfl
@[simp] theorem State.asks_nextLaunch (s : State) (i : Instr) : (s.asks i).nextLaunch = s.nextLaunch := rfl
@[simp] theorem State.asks_pkg (s : State) (i : Instr) : (s.asks i).pkg = s.pkg := rfl
@[simp] theorem State.asks_cycle (s : State) (i : Instr) : (s.asks i).cycle = s.cycle := rfl
@[simp] theorem State.asks_agenda (s : State) (i : Instr) : (s.asks i).agenda = s.agenda := rfl
@[simp] theorem State.asks_unit (s : State) (i : Instr) : (s.asks i).unit = s.unit := rfl
@[simp] theorem State.asks_fresh (s : State) (i : Instr) : (s.asks i).fresh = s.fresh := rfl
@[simp] theorem State.asks_arrivals (s : State) (i : Instr) : (s.asks i).arrivals = s.arrivals := rfl
@[simp] theorem State.asks_ctx (s : State) (i : Instr) : (s.asks i).ctx = { s.ctx with asked := some i } := rfl

@[simp] theorem State.bumpSince_cur (s : State) (c : CtxId) : (s.bumpSince c).cur = s.cur := rfl
@[simp] theorem State.bumpSince_ctxs (s : State) (c : CtxId) : (s.bumpSince c).ctxs = s.ctxs := rfl
@[simp] theorem State.bumpSince_leaves (s : State) (c : CtxId) : (s.bumpSince c).leaves = s.leaves := rfl
@[simp] theorem State.bumpSince_nextLeaf (s : State) (c : CtxId) : (s.bumpSince c).nextLeaf = s.nextLeaf := rfl
@[simp] theorem State.bumpSince_clusters (s : State) (c : CtxId) : (s.bumpSince c).clusters = s.clusters := rfl
@[simp] theorem State.bumpSince_dies (s : State) (c : CtxId) : (s.bumpSince c).dies = s.dies := rfl
@[simp] theorem State.bumpSince_mem (s : State) (c : CtxId) : (s.bumpSince c).mem = s.mem := rfl
@[simp] theorem State.bumpSince_parts (s : State) (c : CtxId) : (s.bumpSince c).parts = s.parts := rfl
@[simp] theorem State.bumpSince_launches (s : State) (c : CtxId) : (s.bumpSince c).launches = s.launches := rfl
@[simp] theorem State.bumpSince_nextLaunch (s : State) (c : CtxId) : (s.bumpSince c).nextLaunch = s.nextLaunch := rfl
@[simp] theorem State.bumpSince_pkg (s : State) (c : CtxId) : (s.bumpSince c).pkg = s.pkg := rfl
@[simp] theorem State.bumpSince_cycle (s : State) (c : CtxId) : (s.bumpSince c).cycle = s.cycle := rfl
@[simp] theorem State.bumpSince_agenda (s : State) (c : CtxId) : (s.bumpSince c).agenda = s.agenda := rfl
@[simp] theorem State.bumpSince_unit (s : State) (c : CtxId) : (s.bumpSince c).unit = s.unit := rfl
@[simp] theorem State.bumpSince_fresh (s : State) (c : CtxId) : (s.bumpSince c).fresh = s.fresh := rfl
@[simp] theorem State.bumpSince_arrivals (s : State) (c : CtxId) : (s.bumpSince c).arrivals = s.arrivals := rfl
@[simp] theorem State.bumpSince_ctx (s : State) (c : CtxId) : (s.bumpSince c).ctx = s.ctx := rfl

@[simp] theorem State.asHost_cur (s t : State) : (s.asHost t).cur = t.cur := rfl
@[simp] theorem State.asHost_ctxs (s t : State) : (s.asHost t).ctxs = t.ctxs := rfl
@[simp] theorem State.asHost_leaves (s t : State) : (s.asHost t).leaves = t.leaves := rfl
@[simp] theorem State.asHost_nextLeaf (s t : State) : (s.asHost t).nextLeaf = t.nextLeaf := rfl
@[simp] theorem State.asHost_cores (s t : State) : (s.asHost t).cores = t.cores := rfl
@[simp] theorem State.asHost_clusters (s t : State) : (s.asHost t).clusters = t.clusters := rfl
@[simp] theorem State.asHost_dies (s t : State) : (s.asHost t).dies = t.dies := rfl
@[simp] theorem State.asHost_parts (s t : State) : (s.asHost t).parts = t.parts := rfl
@[simp] theorem State.asHost_launches (s t : State) : (s.asHost t).launches = t.launches := rfl
@[simp] theorem State.asHost_nextLaunch (s t : State) : (s.asHost t).nextLaunch = t.nextLaunch := rfl
@[simp] theorem State.asHost_pkg (s t : State) : (s.asHost t).pkg = t.pkg := rfl
@[simp] theorem State.asHost_cycle (s t : State) : (s.asHost t).cycle = t.cycle := rfl
@[simp] theorem State.asHost_agenda (s t : State) : (s.asHost t).agenda = t.agenda := rfl
@[simp] theorem State.asHost_unit (s t : State) : (s.asHost t).unit = t.unit := rfl
@[simp] theorem State.asHost_fresh (s t : State) : (s.asHost t).fresh = t.fresh := rfl
@[simp] theorem State.asHost_arrivals (s t : State) : (s.asHost t).arrivals = t.arrivals := rfl
@[simp] theorem State.asHost_ctx (s t : State) : (s.asHost t).ctx = t.ctx := rfl

-- Tables

@[simp] theorem Map.get?_put_same {α β : Type} [DecidableEq α] (m : Map α β) (a : α) (b : β) :
    Map.get? (Map.put m a b) a = some b := by
  induction m with
  | nil => simp [Map.put, Map.get?]
  | cons p m ih => by_cases h : p.1 = a <;> simp [Map.put, Map.get?, h, ih]

theorem Map.get?_put_other {α β : Type} [DecidableEq α] (m : Map α β) (a c : α) (b : β) (h : c ≠ a) :
    Map.get? (Map.put m a b) c = Map.get? m c := by
  induction m with
  | nil => simp [Map.put, Map.get?, Ne.symm h]
  | cons p m ih =>
    by_cases hp : p.1 = a
    · simp [Map.put, Map.get?, hp, Ne.symm h]
    · by_cases hc : p.1 = c
      · simp [Map.put, Map.get?, hc, h]
      · simp [Map.put, Map.get?, hp, hc, ih]

/-- The context that has been replaced holds its new state. -/
@[simp] theorem State.getCtx_setCtx_same (s : State) (c : CtxId) (v : Ctx) : (s.setCtx c v).getCtx c = v := by
  unfold State.setCtx State.getCtx
  split
  · simp
  · simp [Map.getD]

/-- The context that issues is the one switched to. -/
@[simp] theorem State.switchTo_cur (s : State) (c : CtxId) : (s.switchTo c).cur = c := by
  unfold State.switchTo; split
  · rename_i h; exact h.symm
  · rfl

@[simp] theorem State.switchTo_ctx (s : State) (c : CtxId) : (s.switchTo c).ctx = s.getCtx c := by
  unfold State.switchTo State.getCtx; split <;> rfl

end Sys2Proof.Machine
end

