-- ==== Sys2Proof/Laws/Ops.lean ====
section
/-!
SUPPORT. The shared operations of the meanings: what performing an instruction can do, its completion, taking a trap.
-/
namespace Sys2Proof.Machine

/-- What a calm state gives. -/
theorem calm_iff {s : State} {i : Instr} :
    Calm s i = true ↔ s.ctx.loop = none ∧ s.ctx.windows = [] ∧
      ((s.queued s.cur).any fun q => touches i (scalarDests q.instr)) = false := by
  simp only [Calm, Bool.and_eq_true, Option.isNone_iff_eq_none, List.isEmpty_iff, Bool.not_eq_true', and_assoc]

/-- A free choice consumes at most one free value. -/
theorem pick_snd (s : State) (n : Nat) : (s.pick n).2 = s ∨ (s.pick n).2 = { s with fresh := s.fresh + 1 } := by
  unfold State.pick
  split
  · exact .inl rfl
  · exact .inr rfl

/-- Every way in which performing an instruction can end. -/
theorem run_cases (s : State) (i : Instr) (body : State → Res) :
    (∃ t u, s.run i body = .next (u.enterTrap t) ∧ (u = s ∨ u = { s with fresh := s.fresh + 1 })) ∨
      s.run i body = .next { s with ctx := { s.ctx with waiting := true } } ∨
      s.run i body = s.finish i (body s) := by
  unfold State.run
  split
  · exact .inl ⟨_, s, rfl, .inl rfl⟩
  · split
    · exact .inl ⟨_, s, rfl, .inl rfl⟩
    · split
      · rename_i w ws _
        exact .inl ⟨_, (s.pick (ws.length + 1)).2, rfl, pick_snd s _⟩
      · split
        · exact .inr (.inl rfl)
        · exact .inr (.inr rfl)

/-- In a calm state an instruction that its level may execute is performed. -/
theorem run_calm {s : State} {i : Instr} (body : State → Res) (h : Calm s i = true)
    (hs : writesStream s.ctx i = false) (hp : (s.ctx.super || userMay i) = true) :
    s.run i body = s.finish i (body s) := by
  obtain ⟨h1, h2, h3⟩ := calm_iff.mp h
  have hp' : (!s.ctx.super && !userMay i) = false := by
    revert hp; cases s.ctx.super <;> cases userMay i <;> simp
  simp [State.run, loopForbids, h1, hs, hp', hitWindows, h2, State.mustWait, h3]

/-- A privileged instruction traps at USER (01 R24, 03 R76). -/
theorem run_priv {s : State} {i : Instr} (body : State → Res) (h : s.ctx.loop = none)
    (hs : writesStream s.ctx i = false) (hu : s.ctx.super = false) (hp : userMay i = false) :
    s.run i body = .next (s.enterTrap ⟨.priv, 0, instrBits i⟩) := by
  simp [State.run, loopForbids, h, hs, hu, hp]

/-- An instruction that writes no v register is not held back by streams. -/
theorem writesStream_of_dests {c : Ctx} {i : Instr} (h : ∀ v, RegName.v v ∉ dests i) : writesStream c i = false := by
  unfold writesStream
  simp only [List.any_eq_false]
  intro r hr
  cases r with
  | v v => exact absurd hr (h v)
  | x r => simp
  | f r => simp
  | a r => simp

@[simp] theorem finish_done (s t : State) (i : Instr) : s.finish i (.done t) = .next (t.retire i none) := rfl
@[simp] theorem finish_jump (s t : State) (i : Instr) (pc : Word) :
    s.finish i (.jump t pc) = .next (t.retire i (some pc)) := rfl
@[simp] theorem finish_trap (s : State) (i : Instr) (t : Trap) : s.finish i (.trap t) = .next (s.enterTrap t) := rfl
@[simp] theorem finish_wait (s t : State) (i : Instr) :
    s.finish i (.wait t) = .next { t with ctx := { t.ctx with waiting := true } } := rfl
@[simp] theorem finish_gone (s t : State) (i : Instr) : s.finish i (.gone t) = .next t := rfl

/-- Completion without an open window and outside a loop. -/
theorem retire_calm {s : State} (i : Instr) (t : Option Word) (h1 : s.ctx.loop = none) (h2 : s.ctx.windows = []) :
    s.retire i t = { s with ctx := { s.ctx with
      pc := t.getD (s.ctx.pc + word i.len), lastIssue := s.issueCycle, waiting := false, doing := none, asked := none,
      pos := 0, plan := [], awaits := [] } } := by
  simp [State.retire, State.issueCycle, Ctx.tick, Ctx.advance, h1, h2]

/-- A trap that is taken at once, no window being open. -/
theorem enterTrap_ready {s : State} (t : Trap) (h : TrapReady s = true) (hw : s.ctx.windows = []) :
    s.enterTrap t = s.trapped t := by
  simp only [TrapReady, Bool.and_eq_true, List.isEmpty_iff, Bool.not_eq_true'] at h
  simp [State.enterTrap, h.1, h.2, State.trapped, Ctx.trapEntry, Ctx.settle, hw]

/-- Taking a trap changes no memory. -/
@[simp] theorem enterTrap_mem (s : State) (t : Trap) : (s.enterTrap t).mem = s.mem := by
  unfold State.enterTrap State.doubleTrap
  repeat' split
  all_goals rfl

/-- Performing an instruction keeps what traps, waiting and completion keep, if its body does. -/
theorem run_preserves {P : State → Prop} (s : State) (i : Instr) (body : State → Res) (t : State)
    (h : s.run i body = .next t)
    (htrap : ∀ u tr, (u = s ∨ u = { s with fresh := s.fresh + 1 }) → P (u.enterTrap tr))
    (hwait : P { s with ctx := { s.ctx with waiting := true } })
    (hbody : ∀ v, s.finish i (body s) = .next v → P v) : P t := by
  rcases run_cases s i body with ⟨tr, u, he, hu⟩ | he | he
  · rw [he] at h
    injection h with h
    exact h ▸ htrap u tr hu
  · rw [he] at h
    injection h with h
    exact h ▸ hwait
  · exact hbody t (he ▸ h)

/-- Rewriting fields of the enumeration table's copies changes memory only (20 R357). -/
theorem rewriteFields_eq (s : State) (fs : List (Nat × Nat)) :
    s.rewriteFields fs = { s with mem := (s.rewriteFields fs).mem } := by
  have one : ∀ (l : Map Nat Part) (t : State) (off : Nat) (bs : List Byte),
      let u := l.foldl (fun s p => s.writePhys (p.2.cfg.enumcopy + off) bs) t
      u = { t with mem := u.mem } := by
    intro l
    induction l with
    | nil => intros; rfl
    | cons p l ih => intro t off bs; simpa [State.writePhys] using ih (t.writePhys (p.2.cfg.enumcopy + off) bs) off bs
  unfold State.rewriteFields
  induction fs generalizing s with
  | nil => rfl
  | cons f fs ih =>
    rw [List.foldl_cons, ih, show s.rewriteField f.1 f.2 = { s with mem := (s.rewriteField f.1 f.2).mem } from one _ s _ _]

@[simp] theorem rewriteFields_pkg (s : State) (fs : List (Nat × Nat)) : (s.rewriteFields fs).pkg = s.pkg := by
  rw [rewriteFields_eq]

end Sys2Proof.Machine
end

