-- ==== Sys2Proof/Laws/PerInstr.lean ====
section
/-!
SUPPORT. Facts about every instruction as syntax, one lemma per constructor. Header: the header of an instruction's word
says its length (03 R55, R73, Table 3.3), and the word fits in it; an event has the word 0.
-/
namespace Sys2Proof.Laws

theorem scope_code_lt (c : Scope) : c.code < 6 := by cases c <;> decide
theorem memord_code_lt (c : MemOrd) : c.code < 8 := by cases c <;> decide
theorem rnd_code_lt (c : Rnd) : c.code < 6 := by cases c <;> decide
theorem ffmt_code_lt (c : FFmt) : c.code < 12 := by cases c <;> decide
theorem cvtty_code_lt (c : CvtTy) : c.code < 128 := by cases c <;> decide
theorem vty_code_lt (c : VTy) : c.code < 128 := by cases c <;> decide
theorem laneFmt_code_lt (c : LaneFmt) : c.code < 128 := by
  cases c with
  | ty t => cases t <;> decide
  | _ => decide
theorem blkfmt_code_lt (c : BlkFmt) : c.code < 64 := by cases c <;> decide
theorem amoop_code_lt (c : AmoOp) : c.code < 16 := by cases c <;> decide
theorem redop_code_lt (c : RedOp) : c.code < 16 := by cases c <;> decide
theorem bcccond_code_lt (c : BccCond) : c.code < 16 := by cases c <;> decide
theorem bmaskcond_code_lt (c : BmaskCond) : c.code < 16 := by cases c <;> decide
theorem fcmpcond_code_lt (c : FcmpCond) : c.code < 4 := by cases c <;> decide
theorem fsgnop_code_lt (c : FsgnOp) : c.code < 4 := by cases c <;> decide
theorem vcmpcond_code_lt (c : VcmpCond) : c.code < 128 := by cases c <;> decide
theorem vredop_code_lt (c : VredOp) : c.code < 128 := by cases c <;> decide
theorem vsffn_code_lt (c : VsfFn) : c.code < 128 := by cases c <;> decide
theorem meshaform_code_lt (c : MeshaForm) : c.code < 16 := by cases c <;> decide
theorem bankmode_code_lt (c : BankMode) : c.code < 16 := by cases c <;> decide
theorem xstatsel_code_lt (c : XstatSel) : c.code < 16 := by cases c <;> decide
theorem pnstatsel_code_lt (c : PnstatSel) : c.code < 16 := by cases c <;> decide

/-- The word fits its length, and its opcode has the length that its LEN code gives; the filler and the events stand
apart. -/
def Header.Statement (i : Instr) : Prop :=
  encode i < 2 ^ (8 * i.len) ∧ (encode i = 0 ∨ encode i = 4 ∨ opcLen (encode i / 4 % 256) = some (encode i % 4))

namespace Header

theorem ofEvent {i : Instr} (h : encode i = 0) : Statement i := by
  refine ⟨?_, .inl h⟩
  rw [h]; exact Nat.two_pow_pos _

theorem ofR {i : Instr} {opc d a b c fn la : Nat} (h : encode i = encR opc d a b c fn la) (ho : opcLen opc = some 1)
    (hopc : opc < 256) (hb : d < 64 ∧ a < 64 ∧ b < 64 ∧ c < 64 ∧ fn < 2 ^ 24 ∧ la < 16) : Statement i := by
  unfold Statement Instr.len
  rw [h, lenBytes_encR]
  refine ⟨by unfold encR; omega, .inr (.inr ?_)⟩
  have h1 : encR opc d a b c fn la / 4 % 256 = opc := by unfold encR; omega
  have h2 : encR opc d a b c fn la % 4 = 1 := by unfold encR; omega
  rw [h1, h2, ho]

theorem ofI {i : Instr} {opc d a fn imm : Nat} (h : encode i = encI opc d a fn imm) (ho : opcLen opc = some 1)
    (hopc : opc < 256) (hb : d < 64 ∧ a < 64 ∧ fn < 64 ∧ imm < 2 ^ 30) : Statement i := by
  unfold Statement Instr.len
  rw [h, lenBytes_encI]
  refine ⟨by unfold encI; omega, .inr (.inr ?_)⟩
  have h1 : encI opc d a fn imm / 4 % 256 = opc := by unfold encI; omega
  have h2 : encI opc d a fn imm % 4 = 1 := by unfold encI; omega
  rw [h1, h2, ho]

theorem ofM {i : Instr} {opc d : Nat} {m : MemOp} {size ord sc la : Nat} (h : encode i = encM opc d m size ord sc la)
    (ho : opcLen opc = some 1) (hopc : opc < 256) (hb : d < 64 ∧ size < 16 ∧ ord < 16 ∧ sc < 8 ∧ la < 16) :
    Statement i := by
  unfold Statement Instr.len
  rw [h, lenBytes_encM]
  have h3 := m.base.isLt
  have h4 := m.index.isLt
  have h5 := m.scale.isLt
  have h6 := m.off.isLt
  refine ⟨by unfold encM; omega, .inr (.inr ?_)⟩
  have h1 : encM opc d m size ord sc la / 4 % 256 = opc := by unfold encM; omega
  have h2 : encM opc d m size ord sc la % 4 = 1 := by unfold encM; omega
  rw [h1, h2, ho]

theorem ofB {i : Instr} {opc a b cond off : Nat} (h : encode i = encB opc a b cond off) (ho : opcLen opc = some 1)
    (hopc : opc < 256) (hb : a < 64 ∧ b < 64 ∧ cond < 16 ∧ off < 2 ^ 32) : Statement i := by
  unfold Statement Instr.len
  rw [h, lenBytes_encB]
  refine ⟨by unfold encB; omega, .inr (.inr ?_)⟩
  have h1 : encB opc a b cond off / 4 % 256 = opc := by unfold encB; omega
  have h2 : encB opc a b cond off % 4 = 1 := by unfold encB; omega
  rw [h1, h2, ho]

theorem ofV {i : Instr} {opc d a b c mask ty rnd vfn imm la : Nat}
    (h : encode i = encV opc d a b c mask ty rnd vfn imm la) (ho : opcLen opc = some 2) (hopc : opc < 256)
    (hb : d < 64 ∧ a < 64 ∧ b < 64 ∧ c < 64 ∧ mask < 64 ∧ ty < 128 ∧ rnd < 16 ∧ vfn < 128 ∧ imm < 2 ^ 32 ∧ la < 16) :
    Statement i := by
  unfold Statement Instr.len
  rw [h, lenBytes_encV]
  refine ⟨by unfold encV; omega, .inr (.inr ?_)⟩
  have h1 : encV opc d a b c mask ty rnd vfn imm la / 4 % 256 = opc := by unfold encV; omega
  have h2 : encV opc d a b c mask ty rnd vfn imm la % 4 = 2 := by unfold encV; omega
  rw [h1, h2, ho]

theorem ofJ {i : Instr} {opc d a b c efn imm la : Nat} (h : encode i = encJ opc d a b c efn imm la)
    (ho : opcLen opc = some 2) (hopc : opc < 256)
    (hb : d < 64 ∧ a < 64 ∧ b < 64 ∧ c < 64 ∧ efn < 256 ∧ imm < 2 ^ 48 ∧ la < 16) : Statement i := by
  unfold Statement Instr.len
  rw [h, lenBytes_encJ]
  refine ⟨by unfold encJ; omega, .inr (.inr ?_)⟩
  have h1 : encJ opc d a b c efn imm la / 4 % 256 = opc := by unfold encJ; omega
  have h2 : encJ opc d a b c efn imm la % 4 = 2 := by unfold encJ; omega
  rw [h1, h2, ho]

theorem ofK {i : Instr} {opc d a b size ord sc op fmt imm la : Nat}
    (h : encode i = encK opc d a b size ord sc op fmt imm la) (ho : opcLen opc = some 3) (hopc : opc < 256)
    (hb : d < 64 ∧ a < 64 ∧ b < 64 ∧ size < 16 ∧ ord < 16 ∧ sc < 8 ∧ op < 16 ∧ fmt < 64 ∧ imm < 2 ^ 64 ∧ la < 16) :
    Statement i := by
  unfold Statement Instr.len
  rw [h, lenBytes_encK]
  refine ⟨by unfold encK; omega, .inr (.inr ?_)⟩
  have h1 : encK opc d a b size ord sc op fmt imm la / 4 % 256 = opc := by unfold encK; omega
  have h2 : encK opc d a b size ord sc op fmt imm la % 4 = 3 := by unfold encK; omega
  rw [h1, h2, ho]

theorem pad32 : Statement .pad32 := ⟨by decide, .inr (.inl rfl)⟩
theorem nop : Statement .nop :=
  ofR rfl (by decide) (by decide) (by omega)
theorem rett : Statement .rett :=
  ofR rfl (by decide) (by decide) (by omega)
theorem fence (sc : Scope) : Statement (.fence sc) := by
  have := scope_code_lt sc
  exact ofR rfl (by decide) (by decide) (by omega)
theorem exit (a : XReg) : Statement (.exit a) :=
  ofR rfl (by decide) (by decide) (by omega)
theorem trap (imm : BitVec 30) : Statement (.trap imm) :=
  ofI rfl (by decide) (by decide) (by omega)
theorem brk (imm : BitVec 30) : Statement (.brk imm) :=
  ofI rfl (by decide) (by decide) (by omega)
theorem sysrd (d : XReg) (num : BitVec 30) : Statement (.sysrd d num) :=
  ofI rfl (by decide) (by decide) (by omega)
theorem syswr (a : XReg) (num : BitVec 30) : Statement (.syswr a num) :=
  ofI rfl (by decide) (by decide) (by omega)
theorem clflagsWrite (a : XReg) : Statement (.clflagsWrite a) :=
  ofI rfl (by decide) (by decide) (by omega)
theorem sleep (a : XReg) (imm : BitVec 30) : Statement (.sleep a imm) :=
  ofI rfl (by decide) (by decide) (by omega)
theorem sleepExpiry (c : CtxId) : Statement (.sleepExpiry c) :=
  ofEvent rfl
theorem add (d a b : XReg) : Statement (.add d a b) :=
  ofR rfl (by decide) (by decide) (by omega)
theorem sub (d a b : XReg) : Statement (.sub d a b) :=
  ofR rfl (by decide) (by decide) (by omega)
theorem mul (d a b : XReg) : Statement (.mul d a b) :=
  ofR rfl (by decide) (by decide) (by omega)
theorem mulh (d a b : XReg) : Statement (.mulh d a b) :=
  ofR rfl (by decide) (by decide) (by omega)
theorem mulhz (d a b : XReg) : Statement (.mulhz d a b) :=
  ofR rfl (by decide) (by decide) (by omega)
theorem div (d a b : XReg) : Statement (.div d a b) :=
  ofR rfl (by decide) (by decide) (by omega)
theorem divz (d a b : XReg) : Statement (.divz d a b) :=
  ofR rfl (by decide) (by decide) (by omega)
theorem rem (d a b : XReg) : Statement (.rem d a b) :=
  ofR rfl (by decide) (by decide) (by omega)
theorem remz (d a b : XReg) : Statement (.remz d a b) :=
  ofR rfl (by decide) (by decide) (by omega)
theorem and (d a b : XReg) : Statement (.and d a b) :=
  ofR rfl (by decide) (by decide) (by omega)
theorem or (d a b : XReg) : Statement (.or d a b) :=
  ofR rfl (by decide) (by decide) (by omega)
theorem xor (d a b : XReg) : Statement (.xor d a b) :=
  ofR rfl (by decide) (by decide) (by omega)
theorem andn (d a b : XReg) : Statement (.andn d a b) :=
  ofR rfl (by decide) (by decide) (by omega)
theorem shl (d a b : XReg) : Statement (.shl d a b) :=
  ofR rfl (by decide) (by decide) (by omega)
theorem shr (d a b : XReg) : Statement (.shr d a b) :=
  ofR rfl (by decide) (by decide) (by omega)
theorem sha (d a b : XReg) : Statement (.sha d a b) :=
  ofR rfl (by decide) (by decide) (by omega)
theorem rot (d a b : XReg) : Statement (.rot d a b) :=
  ofR rfl (by decide) (by decide) (by omega)
theorem slt (d a b : XReg) : Statement (.slt d a b) :=
  ofR rfl (by decide) (by decide) (by omega)
theorem sltz (d a b : XReg) : Statement (.sltz d a b) :=
  ofR rfl (by decide) (by decide) (by omega)
theorem seq (d a b : XReg) : Statement (.seq d a b) :=
  ofR rfl (by decide) (by decide) (by omega)
theorem min (d a b : XReg) : Statement (.min d a b) :=
  ofR rfl (by decide) (by decide) (by omega)
theorem max (d a b : XReg) : Statement (.max d a b) :=
  ofR rfl (by decide) (by decide) (by omega)
theorem minz (d a b : XReg) : Statement (.minz d a b) :=
  ofR rfl (by decide) (by decide) (by omega)
theorem maxz (d a b : XReg) : Statement (.maxz d a b) :=
  ofR rfl (by decide) (by decide) (by omega)
theorem popc (d a : XReg) : Statement (.popc d a) :=
  ofR rfl (by decide) (by decide) (by omega)
theorem clz (d a : XReg) : Statement (.clz d a) :=
  ofR rfl (by decide) (by decide) (by omega)
theorem ctz (d a : XReg) : Statement (.ctz d a) :=
  ofR rfl (by decide) (by decide) (by omega)
theorem bfx (d a : XReg) (pos : Fin 64) (width1 : Fin 64) : Statement (.bfx d a pos width1) :=
  ofR rfl (by decide) (by decide) (by omega)
theorem bfi (d a b : XReg) (pos : Fin 64) (width1 : Fin 64) : Statement (.bfi d a b pos width1) :=
  ofR rfl (by decide) (by decide) (by omega)
theorem brev (d a : XReg) : Statement (.brev d a) :=
  ofR rfl (by decide) (by decide) (by omega)
theorem sel (d a b c : XReg) : Statement (.sel d a b c) :=
  ofR rfl (by decide) (by decide) (by omega)
theorem rankx (d a b c : XReg) : Statement (.rankx d a b c) :=
  ofR rfl (by decide) (by decide) (by omega)
theorem addi (d a : XReg) (imm : BitVec 30) : Statement (.addi d a imm) :=
  ofI rfl (by decide) (by decide) (by omega)
theorem andi (d a : XReg) (imm : BitVec 30) : Statement (.andi d a imm) :=
  ofI rfl (by decide) (by decide) (by omega)
theorem ori (d a : XReg) (imm : BitVec 30) : Statement (.ori d a imm) :=
  ofI rfl (by decide) (by decide) (by omega)
theorem xori (d a : XReg) (imm : BitVec 30) : Statement (.xori d a imm) :=
  ofI rfl (by decide) (by decide) (by omega)
theorem shli (d a : XReg) (n : Fin 64) : Statement (.shli d a n) :=
  ofI rfl (by decide) (by decide) (by omega)
theorem shri (d a : XReg) (n : Fin 64) : Statement (.shri d a n) :=
  ofI rfl (by decide) (by decide) (by omega)
theorem shai (d a : XReg) (n : Fin 64) : Statement (.shai d a n) :=
  ofI rfl (by decide) (by decide) (by omega)
theorem li (d : XReg) (imm : BitVec 30) : Statement (.li d imm) :=
  ofI rfl (by decide) (by decide) (by omega)
theorem addpc (d : XReg) (imm : BitVec 30) : Statement (.addpc d imm) :=
  ofI rfl (by decide) (by decide) (by omega)
theorem li64 (d : XReg) (imm : BitVec 64) : Statement (.li64 d imm) :=
  ofK rfl (by decide) (by decide) (by omega)
theorem mesha (form : MeshaForm) (d a b c : XReg) (off : BitVec 22) : Statement (.mesha form d a b c off) := by
  have := meshaform_code_lt form
  exact ofJ rfl (by decide) (by decide) (by omega)
theorem bcc (cond : BccCond) (a b : XReg) (off : BitVec 32) : Statement (.bcc cond a b off) := by
  have := bcccond_code_lt cond
  exact ofB rfl (by decide) (by decide) (by omega)
theorem bmask (cond : BmaskCond) (a : XReg) (off : BitVec 32) : Statement (.bmask cond a off) := by
  have := bmaskcond_code_lt cond
  exact ofB rfl (by decide) (by decide) (by omega)
theorem jal (d : XReg) (imm : BitVec 30) : Statement (.jal d imm) :=
  ofI rfl (by decide) (by decide) (by omega)
theorem jalr (d a : XReg) (imm : BitVec 30) : Statement (.jalr d a imm) :=
  ofI rfl (by decide) (by decide) (by omega)
theorem ld (d : XReg) (m : MemOp) (sz : Fin 4) (sx : Bool) (ord : MemOrd) (sc : Scope) (la : LaCount) :
    Statement (.ld d m sz sx ord sc la) := by
  have := memord_code_lt ord
  have := scope_code_lt sc
  have := sx.toNat_lt
  exact ofM rfl (by decide) (by decide) (by simp only [sizeCode]; omega)
theorem st (src : XReg) (m : MemOp) (sz : Fin 4) (ord : MemOrd) (sc : Scope) : Statement (.st src m sz ord sc) := by
  have := memord_code_lt ord
  have := scope_code_lt sc
  exact ofM rfl (by decide) (by decide) (by omega)
theorem ldc (d : XReg) (m : MemOp) (sz : Fin 4) (sx : Bool) (la : LaCount) : Statement (.ldc d m sz sx la) := by
  have := sx.toNat_lt
  exact ofM rfl (by decide) (by decide) (by simp only [sizeCode]; omega)
theorem pfl (m : MemOp) : Statement (.pfl m) :=
  ofM rfl (by decide) (by decide) (by omega)
theorem longLatencyComplete (c : CtxId) : Statement (.longLatencyComplete c) :=
  ofEvent rfl
theorem start (d a : XReg) (imm : BitVec 30) : Statement (.start d a imm) :=
  ofI rfl (by decide) (by decide) (by omega)
theorem startW (d a : XReg) (imm : BitVec 30) : Statement (.startW d a imm) :=
  ofI rfl (by decide) (by decide) (by omega)
theorem joinh (d a : XReg) : Statement (.joinh d a) :=
  ofR rfl (by decide) (by decide) (by omega)
theorem hstat (d : XReg) : Statement (.hstat d) :=
  ofR rfl (by decide) (by decide) (by omega)
theorem ldf (d : XReg) (m : MemOp) (la : LaCount) : Statement (.ldf d m la) :=
  ofM rfl (by decide) (by decide) (by omega)
theorem ldff (d : XReg) (m : MemOp) (la : LaCount) : Statement (.ldff d m la) :=
  ofM rfl (by decide) (by decide) (by omega)
theorem ste (src : XReg) (m : MemOp) : Statement (.ste src m) :=
  ofM rfl (by decide) (by decide) (by omega)
theorem stf (src : XReg) (m : MemOp) : Statement (.stf src m) :=
  ofM rfl (by decide) (by decide) (by omega)
theorem festat (d : XReg) (m : MemOp) : Statement (.festat d m) :=
  ofM rfl (by decide) (by decide) (by omega)
theorem feset (src : XReg) (m : MemOp) : Statement (.feset src m) :=
  ofM rfl (by decide) (by decide) (by omega)
theorem barinitInit (d : BSlot) (a b : XReg) : Statement (.barinitInit d a b) :=
  ofR rfl (by decide) (by decide) (by omega)
theorem barinitBind (d : BSlot) (a : XReg) : Statement (.barinitBind d a) :=
  ofR rfl (by decide) (by decide) (by omega)
theorem bararr (d : XReg) (a : BSlot) : Statement (.bararr d a) :=
  ofR rfl (by decide) (by decide) (by omega)
theorem barexp (a : BSlot) (b : XReg) : Statement (.barexp a b) :=
  ofR rfl (by decide) (by decide) (by omega)
theorem barwait (d : XReg) (a : BSlot) : Statement (.barwait d a) :=
  ofR rfl (by decide) (by decide) (by omega)
theorem waitany (d a : XReg) : Statement (.waitany d a) :=
  ofR rfl (by decide) (by decide) (by omega)
theorem bartest (d : XReg) (a : BSlot) : Statement (.bartest d a) :=
  ofR rfl (by decide) (by decide) (by omega)
theorem msend (a b c : XReg) : Statement (.msend a b c) :=
  ofJ rfl (by decide) (by decide) (by omega)
theorem sendBufferRetry (k : CoreId) (n : Nat) : Statement (.sendBufferRetry k n) :=
  ofEvent rfl
theorem mailboxDelivery (k : CoreId) (n : Nat) : Statement (.mailboxDelivery k n) :=
  ofEvent rfl
theorem mrecv (d a : XReg) (la : LaCount) : Statement (.mrecv d a la) :=
  ofR rfl (by decide) (by decide) (by omega)
theorem msends (a b c : XReg) : Statement (.msends a b c) :=
  ofJ rfl (by decide) (by decide) (by omega)
theorem streamChunkArrival (k : CoreId) : Statement (.streamChunkArrival k) :=
  ofEvent rfl
theorem endOfStream (k : CoreId) : Statement (.endOfStream k) :=
  ofEvent rfl
theorem mbind (d : XReg) (b : StreamIx) (a : XReg) (hi : Bool) (imm : BitVec 48) :
    Statement (.mbind d b a hi imm) := by
  have := hi.toNat_lt
  exact ofJ rfl (by decide) (by decide) (by omega)
theorem munbind (a : XReg) : Statement (.munbind a) :=
  ofR rfl (by decide) (by decide) (by omega)
theorem cvopen (d a : XReg) : Statement (.cvopen d a) :=
  ofJ rfl (by decide) (by decide) (by omega)
theorem cvjoin (d : CvReg) (a b : XReg) (hi : Bool) : Statement (.cvjoin d a b hi) := by
  have := hi.toNat_lt
  exact ofR rfl (by decide) (by decide) (by omega)
theorem cvsend (d : CvReg) (c a b : XReg) : Statement (.cvsend d c a b) :=
  ofJ rfl (by decide) (by decide) (by omega)
theorem cvchoose (d : CvReg) (c a b : XReg) : Statement (.cvchoose d c a b) :=
  ofJ rfl (by decide) (by decide) (by omega)
theorem convHeldDelivery (conv : Nat) (n : Nat) : Statement (.convHeldDelivery conv n) :=
  ofEvent rfl
theorem cvdeleg (a : CvReg) (b : XReg) : Statement (.cvdeleg a b) :=
  ofR rfl (by decide) (by decide) (by omega)
theorem cvleave (a : CvReg) : Statement (.cvleave a) :=
  ofR rfl (by decide) (by decide) (by omega)
theorem cvstat (d : XReg) (a : CvReg) : Statement (.cvstat d a) :=
  ofR rfl (by decide) (by decide) (by omega)
theorem fadd (t : FFmt) (rnd : Rnd) (d a b : FReg) : Statement (.fadd t rnd d a b) := by
  have := ffmt_code_lt t
  have := rnd_code_lt rnd
  exact ofR rfl (by decide) (by decide) (by simp only [fpFn]; omega)
theorem fsub (t : FFmt) (rnd : Rnd) (d a b : FReg) : Statement (.fsub t rnd d a b) := by
  have := ffmt_code_lt t
  have := rnd_code_lt rnd
  exact ofR rfl (by decide) (by decide) (by simp only [fpFn]; omega)
theorem fmul (t : FFmt) (rnd : Rnd) (d a b : FReg) : Statement (.fmul t rnd d a b) := by
  have := ffmt_code_lt t
  have := rnd_code_lt rnd
  exact ofR rfl (by decide) (by decide) (by simp only [fpFn]; omega)
theorem ffma (t : FFmt) (rnd : Rnd) (d a b c : FReg) : Statement (.ffma t rnd d a b c) := by
  have := ffmt_code_lt t
  have := rnd_code_lt rnd
  exact ofR rfl (by decide) (by decide) (by simp only [fpFn]; omega)
theorem fdiv (t : FFmt) (rnd : Rnd) (d a b : FReg) : Statement (.fdiv t rnd d a b) := by
  have := ffmt_code_lt t
  have := rnd_code_lt rnd
  exact ofR rfl (by decide) (by decide) (by simp only [fpFn]; omega)
theorem fsqrt (t : FFmt) (rnd : Rnd) (d a : FReg) : Statement (.fsqrt t rnd d a) := by
  have := ffmt_code_lt t
  have := rnd_code_lt rnd
  exact ofR rfl (by decide) (by decide) (by simp only [fpFn]; omega)
theorem fmin (t : FFmt) (d a b : FReg) : Statement (.fmin t d a b) := by
  have := ffmt_code_lt t
  exact ofR rfl (by decide) (by decide) (by simp only [fpFn]; omega)
theorem fmax (t : FFmt) (d a b : FReg) : Statement (.fmax t d a b) := by
  have := ffmt_code_lt t
  exact ofR rfl (by decide) (by decide) (by simp only [fpFn]; omega)
theorem fcmp (cond : FcmpCond) (t : FFmt) (d : XReg) (a b : FReg) : Statement (.fcmp cond t d a b) := by
  have := fcmpcond_code_lt cond
  have := ffmt_code_lt t
  exact ofR rfl (by decide) (by decide) (by simp only [fpFn]; omega)
theorem fcvt (o : CvtOp) (rnd : Rnd) : Statement (.fcvt o rnd) := by
  have := cvtty_code_lt o.dst
  have := cvtty_code_lt o.src
  have := rnd_code_lt rnd
  exact ofR rfl (by decide) (by decide) (by simp only [fpFn]; omega)
theorem fclass (t : FFmt) (d : XReg) (a : FReg) : Statement (.fclass t d a) := by
  have := ffmt_code_lt t
  exact ofR rfl (by decide) (by decide) (by simp only [fpFn]; omega)
theorem fsgn (op : FsgnOp) (t : FFmt) (d a b : FReg) : Statement (.fsgn op t d a b) := by
  have := fsgnop_code_lt op
  have := ffmt_code_lt t
  exact ofR rfl (by decide) (by decide) (by simp only [fpFn]; omega)
theorem fmvx (d : XReg) (a : FReg) : Statement (.fmvx d a) :=
  ofR rfl (by decide) (by decide) (by omega)
theorem fmvf (d : FReg) (a : XReg) : Statement (.fmvf d a) :=
  ofR rfl (by decide) (by decide) (by omega)
theorem vadd (t : VTy) (sat : Bool) (rnd : Rnd) (d a b : VReg) (m : XReg) :
    Statement (.vadd t sat rnd d a b m) := by
  have := vty_code_lt t
  have := rnd_code_lt rnd
  have := sat.toNat_lt
  exact ofV rfl (by decide) (by decide) (by omega)
theorem vsub (t : VTy) (sat : Bool) (rnd : Rnd) (d a b : VReg) (m : XReg) :
    Statement (.vsub t sat rnd d a b m) := by
  have := vty_code_lt t
  have := rnd_code_lt rnd
  have := sat.toNat_lt
  exact ofV rfl (by decide) (by decide) (by omega)
theorem vmul (t : VTy) (sat : Bool) (rnd : Rnd) (d a b : VReg) (m : XReg) :
    Statement (.vmul t sat rnd d a b m) := by
  have := vty_code_lt t
  have := rnd_code_lt rnd
  have := sat.toNat_lt
  exact ofV rfl (by decide) (by decide) (by omega)
theorem vfma (t : VTy) (rnd : Rnd) (d a b c : VReg) (m : XReg) : Statement (.vfma t rnd d a b c m) := by
  have := vty_code_lt t
  have := rnd_code_lt rnd
  exact ofV rfl (by decide) (by decide) (by omega)
theorem vmin (t : VTy) (d a b : VReg) (m : XReg) : Statement (.vmin t d a b m) := by
  have := vty_code_lt t
  exact ofV rfl (by decide) (by decide) (by omega)
theorem vmax (t : VTy) (d a b : VReg) (m : XReg) : Statement (.vmax t d a b m) := by
  have := vty_code_lt t
  exact ofV rfl (by decide) (by decide) (by omega)
theorem vcmp (cond : VcmpCond) (t : VTy) (d : XReg) (a b : VReg) (m : XReg) : Statement (.vcmp cond t d a b m) := by
  have := vcmpcond_code_lt cond
  have := vty_code_lt t
  exact ofV rfl (by decide) (by decide) (by omega)
theorem vsel (t : VTy) (d a b : VReg) (m : XReg) : Statement (.vsel t d a b m) := by
  have := vty_code_lt t
  exact ofV rfl (by decide) (by decide) (by omega)
theorem vand (t : VTy) (d a b : VReg) (m : XReg) : Statement (.vand t d a b m) := by
  have := vty_code_lt t
  exact ofV rfl (by decide) (by decide) (by omega)
theorem vor (t : VTy) (d a b : VReg) (m : XReg) : Statement (.vor t d a b m) := by
  have := vty_code_lt t
  exact ofV rfl (by decide) (by decide) (by omega)
theorem vxor (t : VTy) (d a b : VReg) (m : XReg) : Statement (.vxor t d a b m) := by
  have := vty_code_lt t
  exact ofV rfl (by decide) (by decide) (by omega)
theorem vshl (t : VTy) (d a : VReg) (s : VshSrc) (m : XReg) : Statement (.vshl t d a s m) := by
  have := vty_code_lt t
  cases s <;> exact ofV rfl (by decide) (by decide) (by omega)
theorem vshr (t : VTy) (d a : VReg) (s : VshSrc) (m : XReg) : Statement (.vshr t d a s m) := by
  have := vty_code_lt t
  cases s <;> exact ofV rfl (by decide) (by decide) (by omega)
theorem vcvt (dst src : LaneFmt) (half : Bool) (rnd : Rnd) (d a : VReg) (m : XReg) :
    Statement (.vcvt dst src half rnd d a m) := by
  have := laneFmt_code_lt dst
  have := laneFmt_code_lt src
  have := rnd_code_lt rnd
  have := half.toNat_lt
  exact ofV rfl (by decide) (by decide) (by omega)
theorem vqnt (t : BlkFmt) (rnd : Rnd) (d a : VReg) (c : XReg) (m : XReg) : Statement (.vqnt t rnd d a c m) := by
  have := blkfmt_code_lt t
  have := rnd_code_lt rnd
  exact ofV rfl (by decide) (by decide) (by omega)
theorem vdq (t : BlkFmt) (rnd : Rnd) (d a : VReg) (c : XReg) (m : XReg) : Statement (.vdq t rnd d a c m) := by
  have := blkfmt_code_lt t
  have := rnd_code_lt rnd
  exact ofV rfl (by decide) (by decide) (by omega)
theorem vred (op : VredOp) (t : VTy) (rnd : Rnd) (d : Fin 64) (a : VReg) (m : XReg) :
    Statement (.vred op t rnd d a m) := by
  have := vredop_code_lt op
  have := vty_code_lt t
  have := rnd_code_lt rnd
  exact ofV rfl (by decide) (by decide) (by omega)
theorem vscan (excl : Bool) (t : VTy) (rnd : Rnd) (d a : VReg) (m : XReg) :
    Statement (.vscan excl t rnd d a m) := by
  have := vty_code_lt t
  have := rnd_code_lt rnd
  have := excl.toNat_lt
  exact ofV rfl (by decide) (by decide) (by omega)
theorem vsf (fn : VsfFn) (rnd : Rnd) (d a : VReg) (m : XReg) : Statement (.vsf fn rnd d a m) := by
  have := vsffn_code_lt fn
  have := rnd_code_lt rnd
  exact ofV rfl (by decide) (by decide) (by omega)
theorem vperm (t : VTy) (d a b : VReg) (m : XReg) : Statement (.vperm t d a b m) := by
  have := vty_code_lt t
  exact ofV rfl (by decide) (by decide) (by omega)
theorem vbcast (t : VTy) (src : BcastSrc) (d : VReg) (m : XReg) : Statement (.vbcast t src d m) := by
  have := vty_code_lt t
  cases src <;> exact ofV rfl (by decide) (by decide) (by omega)
theorem vins (t : VTy) (d : VReg) (a : XReg) (n : Fin 32) : Statement (.vins t d a n) := by
  have := vty_code_lt t
  exact ofV rfl (by decide) (by decide) (by omega)
theorem vext (t : VTy) (d : XReg) (a : VReg) (n : Fin 32) : Statement (.vext t d a n) := by
  have := vty_code_lt t
  exact ofV rfl (by decide) (by decide) (by omega)
theorem vld (t : VTy) (rnd : Rnd) (d : VReg) (a : XReg) (off : BitVec 32) (m : XReg) (la : LaCount) :
    Statement (.vld t rnd d a off m la) := by
  have := vty_code_lt t
  have := rnd_code_lt rnd
  exact ofV rfl (by decide) (by decide) (by omega)
theorem vst (t : VTy) (rnd : Rnd) (src : VReg) (a : XReg) (off : BitVec 32) (m : XReg) :
    Statement (.vst t rnd src a off m) := by
  have := vty_code_lt t
  have := rnd_code_lt rnd
  exact ofV rfl (by decide) (by decide) (by omega)
theorem vlds (t : VTy) (rnd : Rnd) (d : VReg) (a b : XReg) (off : BitVec 32) (m : XReg) (la : LaCount) :
    Statement (.vlds t rnd d a b off m la) := by
  have := vty_code_lt t
  have := rnd_code_lt rnd
  exact ofV rfl (by decide) (by decide) (by omega)
theorem vsts (t : VTy) (rnd : Rnd) (src : VReg) (a b : XReg) (off : BitVec 32) (m : XReg) :
    Statement (.vsts t rnd src a b off m) := by
  have := vty_code_lt t
  have := rnd_code_lt rnd
  exact ofV rfl (by decide) (by decide) (by omega)
theorem vgath (t : VTy) (rnd : Rnd) (d : VReg) (a : XReg) (b : VReg) (scale : Fin 4) (off : BitVec 32) (m : XReg) (la : LaCount) :
    Statement (.vgath t rnd d a b scale off m la) := by
  have := vty_code_lt t
  have := rnd_code_lt rnd
  exact ofV rfl (by decide) (by decide) (by omega)
theorem vscat (t : VTy) (rnd : Rnd) (src : VReg) (a : XReg) (b : VReg) (scale : Fin 4) (off : BitVec 32) (m : XReg) :
    Statement (.vscat t rnd src a b scale off m) := by
  have := vty_code_lt t
  have := rnd_code_lt rnd
  exact ofV rfl (by decide) (by decide) (by omega)
theorem vectorCommandComplete (c : CtxId) : Statement (.vectorCommandComplete c) :=
  ofEvent rfl
theorem vfence : Statement .vfence :=
  ofV rfl (by decide) (by decide) (by omega)
theorem vstat (d : XReg) : Statement (.vstat d) :=
  ofV rfl (by decide) (by decide) (by omega)
theorem scfgMem (t : VTy) (d : StreamIx) (a b : XReg) : Statement (.scfgMem t d a b) := by
  have := vty_code_lt t
  exact ofJ rfl (by decide) (by decide) (by omega)
theorem scfgMsg (t : VTy) (d : StreamIx) (b : XReg) : Statement (.scfgMsg t d b) := by
  have := vty_code_lt t
  exact ofJ rfl (by decide) (by decide) (by omega)
theorem memoryStreamRead (c : CtxId) (j : StreamIx) : Statement (.memoryStreamRead c j) :=
  ofEvent rfl
theorem srep (d : XReg) (n : Fin 65) (mask : BitVec 8) : Statement (.srep d n mask) :=
  ofJ rfl (by decide) (by decide) (by omega)
theorem sstop (d : StreamIx) : Statement (.sstop d) :=
  ofR rfl (by decide) (by decide) (by omega)
theorem amo (op : AmoOp) (d b a : XReg) (wide : Bool) (sx : Bool) (ord : MemOrd) (sc : Scope) (off : BitVec 64) (la : LaCount) :
    Statement (.amo op d b a wide sx ord sc off la) := by
  have := amoop_code_lt op
  have := memord_code_lt ord
  have := scope_code_lt sc
  have := wide.toNat_lt
  have := sx.toNat_lt
  exact ofK rfl (by decide) (by decide) (by simp only [amoSize]; omega)
theorem cas (d b a : XReg) (wide : Bool) (sx : Bool) (ord : MemOrd) (sc : Scope) (off : BitVec 64) (la : LaCount) :
    Statement (.cas d b a wide sx ord sc off la) := by
  have := memord_code_lt ord
  have := scope_code_lt sc
  have := wide.toNat_lt
  have := sx.toNat_lt
  exact ofK rfl (by decide) (by decide) (by simp only [amoSize]; omega)
theorem red (op : RedOp) (b a : XReg) (wide : Bool) (ord : MemOrd) (sc : Scope) (off : BitVec 64) :
    Statement (.red op b a wide ord sc off) := by
  have := redop_code_lt op
  have := memord_code_lt ord
  have := scope_code_lt sc
  have := wide.toNat_lt
  exact ofK rfl (by decide) (by decide) (by simp only [amoSize, Bool.toNat_false]; omega)
theorem redx (src : RedxSrc) (a : XReg) (ord : MemOrd) (sc : Scope) (off : BitVec 64) :
    Statement (.redx src a ord sc off) := by
  have := memord_code_lt ord
  have := scope_code_lt sc
  cases src <;> exact ofK rfl (by decide) (by decide) (by omega)
theorem cvtexa (rnd : Rnd) (d : FReg) (a : XReg) : Statement (.cvtexa rnd d a) := by
  have := rnd_code_lt rnd
  exact ofR rfl (by decide) (by decide) (by omega)
theorem bankcfg (mode : BankMode) (d a : XReg) : Statement (.bankcfg mode d a) := by
  have := bankmode_code_lt mode
  exact ofR rfl (by decide) (by decide) (by omega)
theorem bankZeroingDone (cl : ClusterId) (bank : Fin 16) : Statement (.bankZeroingDone cl bank) :=
  ofEvent rfl
theorem cinv (m : MemOp) : Statement (.cinv m) :=
  ofM rfl (by decide) (by decide) (by omega)
theorem cinvAll : Statement .cinvAll :=
  ofM rfl (by decide) (by decide) (by omega)
theorem disc (m : MemOp) : Statement (.disc m) :=
  ofM rfl (by decide) (by decide) (by omega)
theorem cacheFill (cl : ClusterId) (bank : Fin 16) : Statement (.cacheFill cl bank) :=
  ofEvent rfl
theorem pageWalk (part : Nat) (va : BitVec 64) : Statement (.pageWalk part va) :=
  ofEvent rfl
theorem cpjob (d a : XReg) (la : LaCount) : Statement (.cpjob d a la) :=
  ofJ rfl (by decide) (by decide) (by omega)
theorem mxjob (d a : XReg) (la : LaCount) : Statement (.mxjob d a la) :=
  ofJ rfl (by decide) (by decide) (by omega)
theorem rtjob (d a : XReg) (la : LaCount) : Statement (.rtjob d a la) :=
  ofJ rfl (by decide) (by decide) (by omega)
theorem drjob (d a : XReg) (la : LaCount) : Statement (.drjob d a la) :=
  ofJ rfl (by decide) (by decide) (by omega)
theorem mgjob (d a : XReg) (la : LaCount) : Statement (.mgjob d a la) :=
  ofJ rfl (by decide) (by decide) (by omega)
theorem jwait (d a : XReg) : Statement (.jwait d a) :=
  ofR rfl (by decide) (by decide) (by omega)
theorem jpoll (d a : XReg) : Statement (.jpoll d a) :=
  ofR rfl (by decide) (by decide) (by omega)
theorem jcancel (d a : XReg) : Statement (.jcancel d a) :=
  ofR rfl (by decide) (by decide) (by omega)
theorem copy (j : JobRef) : Statement (.copy j) :=
  ofEvent rfl
theorem gather (j : JobRef) : Statement (.gather j) :=
  ofEvent rfl
theorem scatter (j : JobRef) : Statement (.scatter j) :=
  ofEvent rfl
theorem fill (j : JobRef) : Statement (.fill j) :=
  ofEvent rfl
theorem copyChunkDelivery (j : JobRef) : Statement (.copyChunkDelivery j) :=
  ofEvent rfl
theorem routingJob (j : JobRef) : Statement (.routingJob j) :=
  ofEvent rfl
theorem routingToken (j : JobRef) : Statement (.routingToken j) :=
  ofEvent rfl
theorem rcopy (j : JobRef) : Statement (.rcopy j) :=
  ofEvent rfl
theorem rfill0 (j : JobRef) : Statement (.rfill0 j) :=
  ofEvent rfl
theorem rfill1 (j : JobRef) : Statement (.rfill1 j) :=
  ofEvent rfl
theorem rnot (j : JobRef) : Statement (.rnot j) :=
  ofEvent rfl
theorem rand (j : JobRef) : Statement (.rand j) :=
  ofEvent rfl
theorem ror (j : JobRef) : Statement (.ror j) :=
  ofEvent rfl
theorem rxor (j : JobRef) : Statement (.rxor j) :=
  ofEvent rfl
theorem rmaj (j : JobRef) : Statement (.rmaj j) :=
  ofEvent rfl
theorem dramRow (j : JobRef) : Statement (.dramRow j) :=
  ofEvent rfl
theorem demote (j : JobRef) : Statement (.demote j) :=
  ofEvent rfl
theorem promote (j : JobRef) : Statement (.promote j) :=
  ofEvent rfl
theorem expand (j : JobRef) : Statement (.expand j) :=
  ofEvent rfl
theorem migrationPage (j : JobRef) (slots : Nat) : Statement (.migrationPage j slots) :=
  ofEvent rfl
theorem jobComplete (j : JobRef) : Statement (.jobComplete j) :=
  ofEvent rfl
theorem shpset (d a : XReg) (entry : Fin 64) : Statement (.shpset d a entry) :=
  ofJ rfl (by decide) (by decide) (by omega)
theorem jtake (d : XReg) : Statement (.jtake d) :=
  ofR rfl (by decide) (by decide) (by omega)
theorem jdone (a : XReg) : Statement (.jdone a) :=
  ofR rfl (by decide) (by decide) (by omega)
theorem mlda (h : Bool) (a b : XReg) (row0 : Fin 64) (rows : BitVec 7) (klen : BitVec 8) (la : LaCount) :
    Statement (.mlda h a b row0 rows klen la) := by
  have := h.toNat_lt
  exact ofJ rfl (by decide) (by decide) (by omega)
theorem mldb (k : Bool) (a b : XReg) (klen : BitVec 8) (nlen : BitVec 9) (la : LaCount) :
    Statement (.mldb k a b klen nlen la) := by
  have := k.toNat_lt
  exact ofJ rfl (by decide) (by decide) (by omega)
theorem mzero (d : AReg) (m1 : Fin 64) : Statement (.mzero d m1) :=
  ofR rfl (by decide) (by decide) (by omega)
theorem mma (d : AReg) (h k : Bool) (m1 : Fin 64) (la : LaCount) : Statement (.mma d h k m1 la) := by
  have := h.toNat_lt
  have := k.toNat_lt
  exact ofJ rfl (by decide) (by decide) (by omega)
theorem msta (d : AReg) (a b : XReg) (m1 : Fin 64) (n : BitVec 9) : Statement (.msta d a b m1 n) :=
  ofJ rfl (by decide) (by decide) (by omega)
theorem semv (s : SemReg) : Statement (.semv s) :=
  ofR rfl (by decide) (by decide) (by omega)
theorem semp (s : SemReg) : Statement (.semp s) :=
  ofR rfl (by decide) (by decide) (by omega)
theorem mprogRd (d : XReg) : Statement (.mprogRd d) :=
  ofR rfl (by decide) (by decide) (by omega)
theorem mprogWr (a : XReg) : Statement (.mprogWr a) :=
  ofR rfl (by decide) (by decide) (by omega)
theorem ctrset (a b : XReg) : Statement (.ctrset a b) :=
  ofJ rfl (by decide) (by decide) (by omega)
theorem ctradd (d a b : XReg) : Statement (.ctradd d a b) :=
  ofJ rfl (by decide) (by decide) (by omega)
theorem ctrwait (d a b : XReg) : Statement (.ctrwait d a b) :=
  ofJ rfl (by decide) (by decide) (by omega)
theorem qppost (d a b : XReg) : Statement (.qppost d a b) :=
  ofJ rfl (by decide) (by decide) (by omega)
theorem qpcancel (d a b : XReg) : Statement (.qpcancel d a b) :=
  ofR rfl (by decide) (by decide) (by omega)
theorem xreg (d a : XReg) : Statement (.xreg d a) :=
  ofJ rfl (by decide) (by decide) (by omega)
theorem xpol (d a b : XReg) : Statement (.xpol d a b) :=
  ofJ rfl (by decide) (by decide) (by omega)
theorem xresv (d a b c : XReg) : Statement (.xresv d a b c) :=
  ofJ rfl (by decide) (by decide) (by omega)
theorem xrel (d a : XReg) : Statement (.xrel d a) :=
  ofR rfl (by decide) (by decide) (by omega)
theorem xsend (d a b c : XReg) (len : BitVec 8) : Statement (.xsend d a b c len) :=
  ofJ rfl (by decide) (by decide) (by omega)
theorem xsendr (d a b c : XReg) (len : BitVec 8) : Statement (.xsendr d a b c len) :=
  ofJ rfl (by decide) (by decide) (by omega)
theorem xbatchFwd (d a b c : XReg) : Statement (.xbatchFwd d a b c) :=
  ofJ rfl (by decide) (by decide) (by omega)
theorem xbatchBwd (d a b c : XReg) : Statement (.xbatchBwd d a b c) :=
  ofJ rfl (by decide) (by decide) (by omega)
theorem xbatchReload (d a : XReg) : Statement (.xbatchReload d a) :=
  ofJ rfl (by decide) (by decide) (by omega)
theorem weightReloadDone (name : Nat) (r : Fin 16) : Statement (.weightReloadDone name r) :=
  ofEvent rfl
theorem xseal (d a : XReg) : Statement (.xseal d a) :=
  ofR rfl (by decide) (by decide) (by omega)
theorem xjoin (d a b : XReg) : Statement (.xjoin d a b) :=
  ofJ rfl (by decide) (by decide) (by omega)
theorem xstep (d a : XReg) : Statement (.xstep d a) :=
  ofR rfl (by decide) (by decide) (by omega)
theorem xstat (sel : XstatSel) (d a b : XReg) : Statement (.xstat sel d a b) := by
  have := xstatsel_code_lt sel
  exact ofR rfl (by decide) (by decide) (by omega)
theorem xspawn (d a b : XReg) : Statement (.xspawn d a b) :=
  ofJ rfl (by decide) (by decide) (by omega)
theorem xretire (d a b : XReg) : Statement (.xretire d a b) :=
  ofR rfl (by decide) (by decide) (by omega)
theorem replicaPublish (name : Nat) (r : Fin 16) : Statement (.replicaPublish name r) :=
  ofEvent rfl
theorem snapshotArrival (die : Nat) (name : Nat) : Statement (.snapshotArrival die name) :=
  ofEvent rfl
theorem remoteExpertOp (op : RemoteOp) : Statement (.remoteExpertOp op) :=
  ofEvent rfl
theorem pnrule (d a b : XReg) : Statement (.pnrule d a b) :=
  ofJ rfl (by decide) (by decide) (by omega)
theorem pnsend (a b c : XReg) (count : BitVec 9) : Statement (.pnsend a b c count) :=
  ofJ rfl (by decide) (by decide) (by omega)
theorem pnstep (d a b c : XReg) : Statement (.pnstep d a b c) :=
  ofR rfl (by decide) (by decide) (by omega)
theorem pnstat (sel : PnstatSel) (d a : XReg) : Statement (.pnstat sel d a) := by
  have := pnstatsel_code_lt sel
  exact ofR rfl (by decide) (by decide) (by omega)
theorem pnRuleChunk (node : Fin 8) (fuel : Nat) : Statement (.pnRuleChunk node fuel) :=
  ofEvent rfl
theorem pnBlockDone (node : Fin 8) (block : Nat) : Statement (.pnBlockDone node block) :=
  ofEvent rfl
theorem preq (d a : XReg) : Statement (.preq d a) :=
  ofR rfl (by decide) (by decide) (by omega)
theorem preqCtr (d a b : XReg) : Statement (.preqCtr d a b) :=
  ofR rfl (by decide) (by decide) (by omega)
theorem resume (d a : XReg) : Statement (.resume d a) :=
  ofR rfl (by decide) (by decide) (by omega)
theorem resumeCtr (d a b : XReg) : Statement (.resumeCtr d a b) :=
  ofR rfl (by decide) (by decide) (by omega)
theorem faultDetected (p : Fin 16) (unit : BitVec 8) (loc : BitVec 32) (addr : BitVec 64) :
    Statement (.faultDetected p unit loc addr) :=
  ofEvent rfl
theorem faultMasked (p : Fin 16) (unit : BitVec 8) (loc : BitVec 32) (addr : BitVec 64) :
    Statement (.faultMasked p unit loc addr) :=
  ofEvent rfl
theorem sharedUnitFault (parts : BitVec 16) (unit : BitVec 8) (loc : BitVec 32) (addr : BitVec 64) :
    Statement (.sharedUnitFault parts unit loc addr) :=
  ofEvent rfl
theorem portLinkChange (port : Fin 16) (up : Bool) : Statement (.portLinkChange port up) :=
  ofEvent rfl
theorem completionNodeForward (launch : Nat) (path : List Nat) :
    Statement (.completionNodeForward launch path) :=
  ofEvent rfl
theorem rmaWrite (host : HostKind) (addr : BitVec 64) (bytes : List (BitVec 8)) :
    Statement (.rmaWrite host addr bytes) :=
  ofEvent rfl
theorem rmaRead (host : HostKind) (addr : BitVec 64) (len : Nat) : Statement (.rmaRead host addr len) :=
  ofEvent rfl
theorem rmaAtomic (host : HostKind) (addr : BitVec 64) (op : AmoOp) (wide : Bool) (v : BitVec 64) :
    Statement (.rmaAtomic host addr op wide v) :=
  ofEvent rfl
theorem claim (req : List (BitVec 8)) : Statement (.claim req) :=
  ofEvent rfl
theorem handover (req : List (BitVec 8)) : Statement (.handover req) :=
  ofEvent rfl
theorem heartbeat (req : List (BitVec 8)) : Statement (.heartbeat req) :=
  ofEvent rfl
theorem attestationRequest (challenge : List (BitVec 8)) : Statement (.attestationRequest challenge) :=
  ofEvent rfl
theorem workQueueTail : Statement .workQueueTail :=
  ofEvent rfl
theorem launch : Statement .launch :=
  ofEvent rfl
theorem copyEntry : Statement .copyEntry :=
  ofEvent rfl
theorem weave : Statement .weave :=
  ofEvent rfl
theorem xregEntry : Statement .xregEntry :=
  ofEvent rfl
theorem preempt : Statement .preempt :=
  ofEvent rfl
theorem resumeEntry : Statement .resumeEntry :=
  ofEvent rfl
theorem reset : Statement .reset :=
  ofEvent rfl
theorem partcfg : Statement .partcfg :=
  ofEvent rfl
theorem peers : Statement .peers :=
  ofEvent rfl
theorem names : Statement .names :=
  ofEvent rfl
theorem completionRecordPost : Statement .completionRecordPost :=
  ofEvent rfl
theorem haltComplete : Statement .haltComplete :=
  ofEvent rfl
theorem saveComplete : Statement .saveComplete :=
  ofEvent rfl
theorem restoreComplete : Statement .restoreComplete :=
  ofEvent rfl
theorem dumpComplete : Statement .dumpComplete :=
  ofEvent rfl
theorem thermalAlarm : Statement .thermalAlarm :=
  ofEvent rfl
theorem thermalShutdown : Statement .thermalShutdown :=
  ofEvent rfl
theorem freeCountReport : Statement .freeCountReport :=
  ofEvent rfl
theorem homeCoreSchedule : Statement .homeCoreSchedule :=
  ofEvent rfl
theorem dueRefresh : Statement .dueRefresh :=
  ofEvent rfl
theorem patrolScrub : Statement .patrolScrub :=
  ofEvent rfl
theorem pnContribution : Statement .pnContribution :=
  ofEvent rfl
theorem pnCommit : Statement .pnCommit :=
  ofEvent rfl
theorem pnStepDeadline : Statement .pnStepDeadline :=
  ofEvent rfl
theorem qpSourceReadsDone : Statement .qpSourceReadsDone :=
  ofEvent rfl
theorem write : Statement .write :=
  ofEvent rfl
theorem writeReduce : Statement .writeReduce :=
  ofEvent rfl
theorem tokenDelivery : Statement .tokenDelivery :=
  ofEvent rfl
theorem windowBoundary : Statement .windowBoundary :=
  ofEvent rfl
theorem deadlineExpiry : Statement .deadlineExpiry :=
  ofEvent rfl
theorem clflagsUpdate : Statement .clflagsUpdate :=
  ofEvent rfl
theorem mstaStoresPerformed : Statement .mstaStoresPerformed :=
  ofEvent rfl
theorem matrixJobStart : Statement .matrixJobStart :=
  ofEvent rfl
theorem dieLinkFailure : Statement .dieLinkFailure :=
  ofEvent rfl
theorem managementCoreFault : Statement .managementCoreFault :=
  ofEvent rfl
theorem unreliablePacketDrop : Statement .unreliablePacketDrop :=
  ofEvent rfl
theorem moduleReset : Statement .moduleReset :=
  ofEvent rfl
theorem leaseLapse : Statement .leaseLapse :=
  ofEvent rfl

end Header

end Sys2Proof.Laws
end

