-- ==== Sys2Proof/Tests/Slice0.lean ====
section
/-!
SUPPORT. Tests. Words written out bit by bit from the spec's encodings decode to their instructions; ill-formed terms and
words are refused; and for each statement with hypotheses a witness: states and operands that meet them, each run for one
instruction, with results computed by hand from the spec.
-/
-- One theorem at a time: a thread for each would need more memory than a check has.
set_option Elab.async false
open Sys2Proof Sys2Proof.Machine

/-- Every word of a list decodes, on a kind of core, to the instruction beside it. -/
def decodesAll (k : CoreKind) (l : List (Nat × Instr)) : Bool := l.all fun p => decodeWord k 0 p.1 = .ok p.2

theorem test_decode_system :
    decodesAll .compute [
      (0x00000004, .pad32),
      (0x0000000000000001, .nop),
      (0x0000000000000005, .rett),
      (0x0000040000000009, .fence .pkg),
      (0x0000000000C0000D, .exit 3),
      (0xFFFFFFEC00000011, .trap (-5)),
      (0x0000001C00000015, .brk 7),
      (0x0000004400040019, .sysrd 4 0x011),
      (0x0000010000C0001D, .syswr 3 0x040),
      (0x0000004800C0001D, .clflagsWrite 3),
      (0x0000019000C00021, .sleep 3 100)] = true := by
  decide +kernel

theorem test_decode_integer_1 :
    decodesAll .compute [
      (0x0000000020C40041, .add 4 3 2),
      (0x0000000020C40045, .sub 4 3 2),
      (0x0000000020C40049, .mul 4 3 2),
      (0x0000000020C4004D, .mulh 4 3 2),
      (0x0000000020C40051, .mulhz 4 3 2),
      (0x0000000020C40055, .div 4 3 2),
      (0x0000000020C40059, .divz 4 3 2),
      (0x0000000020C4005D, .rem 4 3 2),
      (0x0000000020C40061, .remz 4 3 2),
      (0x0000000020C40065, .and 4 3 2),
      (0x0000000020C40069, .or 4 3 2),
      (0x0000000020C4006D, .xor 4 3 2),
      (0x0000000020C40071, .andn 4 3 2),
      (0x0000000020C40075, .shl 4 3 2),
      (0x0000000020C40079, .shr 4 3 2),
      (0x0000000020C4007D, .sha 4 3 2),
      (0x0000000020C40081, .rot 4 3 2),
      (0x0000000020C40085, .slt 4 3 2),
      (0x0000000020C40089, .sltz 4 3 2),
      (0x0000000020C4008D, .seq 4 3 2),
      (0x0000000020C40091, .min 4 3 2),
      (0x0000000020C40095, .max 4 3 2),
      (0x0000000020C40099, .minz 4 3 2),
      (0x0000000020C4009D, .maxz 4 3 2)] = true := by
  decide +kernel

theorem test_decode_integer_2 :
    decodesAll .compute [
      (0x0000000000C400A1, .popc 4 3),
      (0x0000000000C400A5, .clz 4 3),
      (0x0000000000C400A9, .ctz 4 3),
      (0x0002C800010300AD, .bfx 3 4 8 11),
      (0x0002C80020C400B1, .bfi 4 3 2 8 11),
      (0x0000000000C400B5, .brev 4 3),
      (0x0000000420C400B9, .sel 4 3 2 1),
      (0x0000000420C400BD, .rankx 4 3 2 1),
      (0xFFFFFFDC00C400C1, .addi 4 3 (-9)),
      (0xFFFFFFDC00C400C5, .andi 4 3 (-9)),
      (0xFFFFFFDC00C400C9, .ori 4 3 (-9)),
      (0xFFFFFFDC00C400CD, .xori 4 3 (-9)),
      (0x000000FC00C400D1, .shli 4 3 63),
      (0x000000FC00C400D5, .shri 4 3 63),
      (0x000000FC00C400D9, .shai 4 3 63),
      (0xFFFFFFFC000400DD, .li 4 (-1)),
      (0x00000100000400E1, .addpc 4 64),
      (0x123456789ABCDEF000000000000400E7, .li64 4 0x123456789ABCDEF0),
      (0x0000000001000118510700EA, .mesha .delta 7 4 5 6 0x100)] = true := by
  decide +kernel

theorem test_decode_control :
    decodesAll .compute [
      (0xFFFFFFFE50830101, .bcc .gez 3 2 (-2)),
      (0x0000000320030105, .bmask .none 3 3),
      (0xFFFFFFF000040109, .jal 4 (-4)),
      (0x0000002000C4010D, .jalr 4 3 8)] = true := by
  decide +kernel

theorem test_decode_memory :
    decodesAll .compute [
      (0xFFF87048A2450121, .ld 5 ⟨9, 10, 3, 0x1FFF0⟩ 2 false .acq .pkg 0),
      (0xFFF8201020C40D21, .ld 4 ⟨3, 2, 1, 0x1FFF0⟩ 0 true .plain .ctx 3),
      (0xFFF8248C20C40125, .st 4 ⟨3, 2, 1, 0x1FFF0⟩ 3 .rel .core),
      (0xFFF8201420C40529, .ldc 4 ⟨3, 2, 1, 0x1FFF0⟩ 1 true 1),
      (0xFFF8200020C0012D, .pfl ⟨3, 2, 1, 0x1FFF0⟩)] = true := by
  decide +kernel

theorem test_decode_helper :
    decodesAll .compute [
      (0x0000004001850141, .start 5 6 16),
      (0xFFFFFFC011850141, .startW 5 6 (-16)),
      (0x0000000000C40145, .joinh 4 3),
      (0x0000000000040149, .hstat 4)] = true := by
  decide +kernel

theorem test_decode_full :
    decodesAll .compute [
      (0xFFF8210C20C4094D, .ldf 4 ⟨3, 2, 1, 0x1FFF0⟩ 2),
      (0xFFF8218C20C4014D, .ldff 4 ⟨3, 2, 1, 0x1FFF0⟩ 0),
      (0xFFF8214C20C40151, .ste 4 ⟨3, 2, 1, 0x1FFF0⟩),
      (0xFFF8200C20C40151, .stf 4 ⟨3, 2, 1, 0x1FFF0⟩),
      (0xFFF8200C20C40155, .festat 4 ⟨3, 2, 1, 0x1FFF0⟩),
      (0xFFF8200C20C40159, .feset 4 ⟨3, 2, 1, 0x1FFF0⟩)] = true := by
  decide +kernel

theorem test_decode_barrier :
    decodesAll .compute [
      (0x0000000020C4015D, .barinitInit 4 3 2),
      (0x0000010000C4015D, .barinitBind 4 3),
      (0x0000000000C40161, .bararr 4 3),
      (0x0000000020C00165, .barexp 3 2),
      (0x0000000000C40169, .barwait 4 3),
      (0x0000000000C4016D, .waitany 4 3),
      (0x0000000000C40171, .bartest 4 3)] = true := by
  decide +kernel

theorem test_decode_message :
    decodesAll .compute [
      (0x000000000000000420C00182, .msend 3 2 1),
      (0x000000000000000420C00186, .msends 3 2 1),
      (0x0000000000C41589, .mrecv 4 3 5),
      (0xFFFFFFFFFFC00101F0C4018E, .mbind 4 7 3 true (-64)),
      (0x0000000000C00191, .munbind 3),
      (0x000000000000000000C401A2, .cvopen 4 3),
      (0x00000100108301A5, .cvjoin 3 2 1 true),
      (0x0000000000000010614301AA, .cvsend 3 4 5 6),
      (0x0000000000000010614301AE, .cvchoose 3 4 5 6),
      (0x0000000020C001B1, .cvdeleg 3 2),
      (0x0000000000C001B5, .cvleave 3),
      (0x0000000000C401B9, .cvstat 4 3)] = true := by
  decide +kernel

theorem test_decode_float :
    decodesAll .compute [
      (0x00008B0020C401C1, .fadd .fp64 .rtz 4 3 2),
      (0x00008B0020C401C5, .fsub .fp64 .rtz 4 3 2),
      (0x00008B0020C401C9, .fmul .fp64 .rtz 4 3 2),
      (0x00008B0020C401D1, .fdiv .fp64 .rtz 4 3 2),
      (0x00000A00308101C1, .fadd .fp32 .ctx 1 2 3),
      (0x0000C90420C401CD, .ffma .bf16 .rup 4 3 2 1),
      (0x0001080000C401D5, .fsqrt .fp16 .rdn 4 3),
      (0x00000A0020C401D9, .fmin .fp32 4 3 2),
      (0x00000A0020C401DD, .fmax .fp32 4 3 2),
      (0x000C0B0020C401E1, .fcmp .un .fp64 4 3 2),
      (0x00008400A08501E5, .fcvt ⟨.i32, .f32, 5, 2⟩ .rtz),
      (0x00084B005A0501E5, .fcvt ⟨.f64, .z64, 5, 40⟩ .rne),
      (0x0000090000C401E9, .fclass .bf16 4 3),
      (0x00080A0020C401ED, .fsgn .xor .fp32 4 3 2),
      (0x0000000000C401F1, .fmvx 4 3),
      (0x0000000000C401F5, .fmvf 4 3)] = true := by
  decide +kernel

theorem test_decode_vector_1 :
    decodesAll .compute [
      (0x000000000022890030810202, .vadd .f32 false .rtz 1 2 3 9),
      (0x000000008100C90020C40206, .vsub .z16 true .ctx 4 3 2 9),
      (0x000000000000890020C4020A, .vmul .z8 false .ctx 4 3 2 9),
      (0x000000000052C90420C4020E, .vfma .f64 .rmm 4 3 2 1 9),
      (0x000000000000490020C40212, .vmin .i8 4 3 2 9),
      (0x000000008001090020C40216, .vmax .z32 4 3 2 9),
      (0x000000000602090020C4021A, .vcmp .un .f16 4 3 2 9),
      (0x000000000002890020C4021E, .vsel .f32 4 3 2 9),
      (0x000000000001090020C40222, .vand .i32 4 3 2 9),
      (0x000000000001090020C40226, .vor .i32 4 3 2 9),
      (0x000000000001090020C4022A, .vxor .i32 4 3 2 9),
      (0x000000000001090020C4022E, .vshl .i32 4 3 (.reg 2) 9),
      (0x0000001F0100C90000C40232, .vshr .i16 4 3 (.imm 31) 9),
      (0x000000440112C90000C40236, .vcvt (.ty .f64) (.ty .z32) true .rne 4 3 9),
      (0x000000100012890000C40236, .vcvt (.ty .f32) .fp8e4m3 false .rne 4 3 9),
      (0x000000000018490400C4023A, .vqnt .dxb8 .rne 4 3 1 9),
      (0x000000000016090400C4023E, .vdq .mxfp8e4m3 .rne 4 3 1 9),
      (0x000000000501090000C40242, .vred .xor .i32 .ctx 4 3 9),
      (0x000000000142890000C40246, .vscan true .f32 .rdn 4 3 9),
      (0x000000000612890000C4024A, .vsf .sigmoid .rne 4 3 9),
      (0x000000000002890020C4024E, .vperm .f32 4 3 2 9),
      (0x0000001F0201090000C40252, .vbcast .i32 (.lane 3 31) 4 9),
      (0x800000010301090000040252, .vbcast .i32 (.imm 0x80000001) 4 9),
      (0x00000000000109000A040252, .vbcast .i32 (.x 40) 4 9)] = true := by
  decide +kernel

theorem test_decode_vector_2 :
    decodesAll .compute [
      (0x000000000101090000C40252, .vbcast .i32 (.f 3) 4 9),
      (0x0000001F000100000A040256, .vins .i32 4 40 31),
      (0x000000078001000000E8025A, .vext .z32 40 3 7)] = true := by
  decide +kernel

theorem test_decode_vecmem :
    decodesAll .compute [
      (0xFFFFFF80001289000A043E82, .vld .f32 .rne 4 40 (-128) 9 15),
      (0x00000080001289000A040286, .vst .f32 .rne 4 40 128 9),
      (0x00000004000249029A04068A, .vlds .bf16 .ctx 4 40 41 4 9 1),
      (0x00000004000249029A04028E, .vsts .bf16 .ctx 4 40 41 4 9),
      (0x00000004030109002A040692, .vgath .i32 .ctx 4 40 2 3 4 9 1),
      (0x00000004820109002A040296, .vscat .z32 .ctx 4 40 2 2 4 9),
      (0x0000000000000000000002BA, .vfence),
      (0x0000000000000000002802BE, .vstat 40),
      (0x00000000000A010040D802C2, .scfgMem .f32 0 3 4),
      (0x0000000000430000401F02C2, .scfgMsg .z16 7 4),
      (0x0000000081400000000402C6, .srep 4 64 0x81),
      (0x00000000001902C9, .sstop 1)] = true := by
  decide +kernel

theorem test_decode_atomic :
    decodesAll .compute [
      (0x000000000000004000000CCC708402D3, .amo .add 4 7 2 true false .ar .die 64 0),
      (0xFFFFFFFFFFFFFFF8000415D870840AD3, .amo .swap 4 7 2 false true .far .sys (-8) 2),
      (0x00000000000000080000000C608502D7, .cas 5 6 2 true false .plain .ctx 8 0),
      (0x00000000000000000000000C708002DB, .red .add 7 2 true .plain .ctx 0),
      (0x000000000000000400038848708002DB, .red .maxz 7 2 false .acq .clu 4),
      (0x00000000000000000180000020C002DF, .redx (.f 2) 3 .plain .ctx 0),
      (0x00000000000000400180908280C002DF, .redx (.exa 40) 3 .rel .pkg 64),
      (0x0000010000C102E1, .cvtexa .rne 1 3),
      (0x00000100018502E5, .bankcfg .scratch 5 6),
      (0xFFF8200020C002E9, .cinv ⟨3, 2, 1, 0x1FFF0⟩),
      (0x00000004000002E9, .cinvAll),
      (0x0040000000C002ED, .disc ⟨3, 0, 0, 128⟩)] = true := by
  decide +kernel

theorem test_decode_job :
    decodesAll .compute [
      (0x0000000001440301, .jwait 4 5),
      (0x0000000001440305, .jpoll 4 5),
      (0x0000000001440309, .jcancel 4 5),
      (0x00000000000000000185130E, .cpjob 5 6 4),
      (0x000000000000000001851312, .mxjob 5 6 4),
      (0x00000000000000000185131A, .rtjob 5 6 4),
      (0x00000000000000000185131E, .drjob 5 6 4),
      (0x000000000000000001851322, .mgjob 5 6 4),
      (0x00000000003F000001850316, .shpset 5 6 63)] = true := by
  decide +kernel

theorem test_decode_job_stager :
    decodesAll .stager [
      (0x00000000000103A1, .jtake 1),
      (0x00000100014003A1, .jdone 5),
      (0x00000000000203AD, .semv 2),
      (0x00000100000703AD, .semp 7),
      (0x0000008001FD0000510007A6, .mlda true 4 5 63 1 128 1)] = true := by
  decide +kernel

theorem test_decode_job_issuer :
    decodesAll .issuer [
      (0x00000000000103A1, .jtake 1),
      (0x00000100014003A1, .jdone 5),
      (0x00000000000203AD, .semv 2),
      (0x00000100000703AD, .semp 7),
      (0x0000010010010000718003AA, .mldb true 6 7 16 256 0),
      (0x00000F00000803B1, .mzero 8 15),
      (0x000000000F02000000080FB6, .mma 8 false true 15 3),
      (0x00000000100F0000B28803BA, .msta 8 10 11 15 16),
      (0x00000000000703BD, .mprogRd 7),
      (0x0000010001C003BD, .mprogWr 7)] = true := by
  decide +kernel

theorem test_decode_base_1 :
    decodesAll .compute [
      (0x000000000000000020C00326, .ctrset 3 2),
      (0x000000000000000020C4032A, .ctradd 4 3 2),
      (0x000000000000000081C6032E, .ctrwait 6 7 8),
      (0x000000000000000071850332, .qppost 5 6 7),
      (0x0000000020C40335, .qpcancel 4 3 2),
      (0x000000000000000000C40342, .xreg 4 3),
      (0x000000000000000020C40346, .xpol 4 3 2),
      (0x000000000000000420C4034A, .xresv 4 3 2 1),
      (0x0000000000C4034D, .xrel 4 3),
      (0x0000000000100000B2850352, .xsend 5 10 11 0 16),
      (0x0000000000F80004B2850356, .xsendr 5 10 11 1 248),
      (0x000000000000002480C7035A, .xbatchFwd 7 3 8 9),
      (0x000000000000012480C7035A, .xbatchBwd 7 3 8 9),
      (0x000000000000020000C7035A, .xbatchReload 7 3),
      (0x0000000000C4035D, .xseal 4 3),
      (0x000000000000000020C40362, .xjoin 4 3 2),
      (0x0000000000C40365, .xstep 4 3),
      (0x0000040020C40369, .xstat .window 4 3 2),
      (0x000000000000000020C4036E, .xspawn 4 3 2),
      (0x0000000020C40371, .xretire 4 3 2),
      (0x000000000000000020C40382, .pnrule 4 3 2),
      (0x000000000100001851000386, .pnsend 4 5 6 256),
      (0x0000002071850389, .pnstep 5 6 7 8),
      (0x0000020000C4038D, .pnstat .steperr 4 3)] = true := by
  decide +kernel

theorem test_decode_base_2 :
    decodesAll .compute [
      (0x00000000018503C1, .preq 5 6),
      (0x00000100718503C1, .preqCtr 5 6 7),
      (0x00000000018503C5, .resume 5 6),
      (0x00000100718503C5, .resumeCtr 5 6 7)] = true := by
  decide +kernel

-- WellFormed: an ill-formed term for each check, which the check refuses

/-- Every instruction of a list is refused by WellFormed. -/
def refusesAll (l : List Instr) : Bool := l.all fun i => !WellFormed i

/-- Table 1.1 has no register 0x006; a write never names CLFLAGS as `syswr` (its row is CLFLAGS write). -/
theorem test_illformed_system : refusesAll [.sysrd 4 0x006, .sysrd 4 0x038, .syswr 4 0x006, .syswr 4 0x012] = true := by
  decide +kernel

/-- R102: a field past bit 63; R148: MBIND's handler address is 4-byte aligned. -/
theorem test_illformed_fields :
    refusesAll [.bfx 4 3 60 4, .bfi 4 3 2 63 1, .mbind 4 0 3 false 2, .srep 4 0 1] = true := by decide +kernel

/-- R63, R64, Table 3.1: SCALE without INDEX, sign extension of 8 bytes, order and scope codes. -/
theorem test_illformed_loads :
    refusesAll [.ld 4 ⟨3, 0, 1, 0⟩ 2 false .plain .ctx 0, .ld 4 ⟨3, 0, 0, 0⟩ 3 true .plain .ctx 0,
      .ld 4 ⟨3, 0, 0, 0⟩ 2 false .rel .ctx 0, .ld 4 ⟨3, 0, 0, 0⟩ 2 false .plain .clu 0,
      .ldc 4 ⟨3, 0, 1, 0⟩ 2 false 0, .ldc 4 ⟨3, 0, 0, 0⟩ 3 true 0, .pfl ⟨3, 0, 1, 0⟩, .ldf 4 ⟨3, 0, 1, 0⟩ 0,
      .ldff 4 ⟨3, 0, 1, 0⟩ 0, .festat 4 ⟨3, 0, 1, 0⟩] = true := by decide +kernel

theorem test_illformed_stores :
    refusesAll [.st 4 ⟨3, 0, 1, 0⟩ 2 .plain .ctx, .st 4 ⟨3, 0, 0, 0⟩ 2 .acq .ctx, .st 4 ⟨3, 0, 0, 0⟩ 2 .plain .pkg,
      .ste 4 ⟨3, 0, 1, 0⟩, .stf 4 ⟨3, 0, 1, 0⟩, .feset 4 ⟨3, 0, 1, 0⟩, .cinv ⟨3, 0, 1, 0⟩, .disc ⟨3, 0, 1, 0⟩] =
      true := by decide +kernel

/-- R125: f32 does not exist. R119, R121, R130-R137: element types and rounding fields. -/
theorem test_illformed_floating :
    refusesAll [.fcvt ⟨.f32, .i32, 32, 3⟩ .ctx, .fcvt ⟨.i32, .f32, 4, 32⟩ .ctx, .vadd .f32 true .ctx 1 2 3 0,
      .vsub .i32 false .rtz 1 2 3 0, .vmul .f16 true .ctx 1 2 3 0, .vfma .i32 .ctx 1 2 3 4 0,
      .vcmp .un .i32 4 2 3 0, .vsel .i8 1 2 3 0, .vand .f64 1 2 3 0, .vor .f16 1 2 3 0, .vxor .z16 1 2 3 0,
      .vperm .bf16 1 2 3 0, .vbcast .i8 (.imm 1) 1 0, .vins .f64 1 3 0, .vext .i16 4 3 0, .vshl .f32 1 2 (.reg 3) 0,
      .vshr .f16 1 2 (.imm 3) 0] = true := by decide +kernel

theorem test_illformed_conversions_and_reductions :
    refusesAll [.vcvt (.ty .i32) (.ty .f32) true .ctx 1 2 0, .vcvt (.ty .f64) (.ty .f64) true .ctx 1 2 0,
      .vred .and .f32 .ctx 4 2 0, .vred .min .f32 .rtz 4 2 0, .vred .sum .f32 .ctx 32 2 0,
      .vscan false .i32 .rne 1 2 0, .scfgMem .f64 0 1 2, .scfgMsg .f64 0 2] = true := by decide +kernel

/-- R224-R228: sign extension of the wide form, a scope on a plain access. R268: accumulators and tiles. -/
theorem test_illformed_atomics_and_matrix :
    refusesAll [.amo .add 4 3 2 true true .plain .ctx 0 0, .amo .add 4 3 2 true false .plain .pkg 0 0,
      .cas 4 3 2 true true .plain .ctx 0 0, .cas 4 3 2 true false .plain .clu 0 0,
      .red .add 3 2 true .plain .pkg 0, .redx (.f 3) 2 .plain .pkg 0,
      .mlda false 3 2 0 0 1 0, .mlda false 3 2 0 65 1 0, .mlda false 3 2 1 64 1 0, .mlda false 3 2 0 1 0 0,
      .mlda false 3 2 0 1 129 0, .mldb false 3 2 0 1 0, .mldb false 3 2 129 1 0, .mldb false 3 2 1 0 0,
      .mldb false 3 2 1 257 0, .mzero 63 1, .mma 60 false false 4 0, .msta 63 3 2 1 1, .msta 0 3 2 0 0,
      .msta 0 3 2 0 257] = true := by decide +kernel

/-- R316, R322: an inline token of 1 to 248 bytes, 1 to 256 elements. -/
theorem test_illformed_sends :
    refusesAll [.xsend 4 3 2 1 0, .xsend 4 3 2 1 249, .xsendr 4 3 2 1 0, .xsendr 4 3 2 1 249, .pnsend 3 2 1 0,
      .pnsend 3 2 1 257] = true := by decide +kernel

/-- R55, R56, R75, R57, R262: a pad word other than 4, a block crossed, an opcode without an instruction, a wrong
length code, a control-core instruction on a compute core, a reserved bit. -/
theorem test_decode_rejects :
    decodeWord .compute 0 0x00000008 = .bad .length ∧
    decodeWord .compute 28 0x0000000020C40041 = .bad .straddle ∧
    decodeWord .compute 0 (0xFF * 4 + 1) = .bad .unassigned ∧
    decodeWord .compute 0 0x0000000020C40042 = .bad .length ∧
    decodeWord .stager 0 0x0000000C00C5014D = .bad .unassigned ∧
    decodeWord .compute 0 0x000003A1 = .bad .matrixOnly ∧
    decodeWord .compute 0 (0x0000000020C40041 + 2 ^ 63) = .bad .reserved := by decide +kernel

-- Witnesses: for each statement with hypotheses, states and operands that meet them; each runs one instruction

/-- A partition with one cluster, whose first GiB of virtual addresses maps to itself; context 0 of core 0 runs. -/
def tb : State := State.reset.placeInstr []

/-- Registers of the issuing context. -/
def withX (s : State) (l : List (XReg × Word)) : State :=
  { s with ctx := l.foldl (fun (c : Ctx) (p : XReg × Word) => c.wx p.1 p.2) s.ctx }

/-- Bytes of physical memory. -/
def withBytes (s : State) (a : Nat) (bs : List Byte) : State :=
  { s with mem := { s.mem with home := cellsWrite s.mem.home a bs } }

/-- The context runs at SUPER. -/
def atSuper (s : State) : State := { s with ctx := { s.ctx with super := true } }

/-- The instruction answers a next state of which something holds. -/
def nexts (i : Instr) (s : State) (f : State → Bool) : Bool := match exec i s with | .next t => f t | _ => false

/-- The same in a calm state. -/
def gives (i : Instr) (s : State) (f : State → Bool) : Bool := Calm s i && nexts i s f

/-- In a calm, trap-ready state the instruction traps, with a cause and a subcode of Table 18.1. -/
def trapsAs (i : Instr) (s : State) (cause sub : Nat) : Bool :=
  Calm s i && TrapReady s && nexts i s fun t =>
    t.ctx.trapcause.toNat % 2 ^ 16 = cause + sub * 2 ^ 8 && t.ctx.trappc = s.ctx.pc && t.ctx.inh && t.ctx.super

/-- The instruction waits. -/
def waitsOn (i : Instr) (s : State) : Bool := Calm s i && nexts i s fun t => t.ctx.waiting && t.ctx.pc = s.ctx.pc

/-- The event's agent cannot take its step. -/
def refuses (i : Instr) (s : State) : Bool := match exec i s with | .refused (.notEnabled _) => true | _ => false

/-- A list of instructions, each with the value it leaves in x4. -/
def leave4 (s : State) (l : List (Instr × Word)) : Bool := l.all fun p => gives p.1 s fun t => t.ctx.rx 4 = p.2

/-- Values by Table 4.1 of -5 and 3, computed by hand. -/
theorem witness_IntegerOperationsWriteTheirValue :
    leave4 (withX tb [(3, -5), (2, 3), (1, 1)])
      [(.add 4 3 2, -2), (.sub 4 3 2, -8), (.mul 4 3 2, -15), (.mulh 4 3 2, -1), (.mulhz 4 3 2, 2), (.and 4 3 2, 3),
        (.or 4 3 2, -5), (.xor 4 3 2, -8), (.andn 4 3 2, -8), (.slt 4 3 2, 1), (.sltz 4 3 2, 0), (.seq 4 3 2, 0),
        (.seq 4 2 2, 1), (.min 4 3 2, -5), (.max 4 3 2, 3), (.minz 4 3 2, 3), (.maxz 4 3 2, -5), (.sel 4 3 2 1, -5),
        (.sel 4 3 2 0, 3)] = true := by decide +kernel

/-- R101, Table 4.2: -5 by 3, by zero, and the overflow case. -/
theorem witness_DivisionTruncatesAndNeverTraps :
    leave4 (withX tb [(3, -5), (2, 3), (5, 2 ^ 63), (6, -1)])
      [(.div 4 3 2, -1), (.rem 4 3 2, -2), (.divz 4 3 2, 0x5555555555555553), (.remz 4 3 2, 2), (.div 4 3 0, -1),
        (.rem 4 3 0, -5), (.divz 4 3 0, -1), (.remz 4 3 0, -5), (.div 4 5 6, 2 ^ 63), (.rem 4 5 6, 0)] = true := by
  decide +kernel

theorem witness_ShiftsMoveEachBit :
    leave4 (withX tb [(3, -5), (2, 63), (5, 64)])
      [(.shl 4 3 2, 2 ^ 63), (.shr 4 3 2, 1), (.sha 4 3 2, -1), (.rot 4 3 2, -9), (.shl 4 3 5, -5), (.rot 4 3 5, -5),
        (.shli 4 3 63, 2 ^ 63), (.shri 4 3 63, 1), (.shai 4 3 0, -5)] = true := by decide +kernel

/-- Fields at both ends of the register; zero and a power of two. -/
theorem witness_BitCountsAndFields :
    leave4 (withX tb [(3, 0xF0), (2, 5)])
      [(.popc 4 3, 4), (.clz 4 3, 56), (.ctz 4 3, 4), (.clz 4 0, 64), (.ctz 4 0, 64), (.brev 4 2, 0xA000000000000000),
        (.bfx 4 3 4 3, 15), (.bfx 4 3 0 63, 0xF0), (.bfi 4 2 3 63 0, 0x80000000000000F0), (.bfi 4 2 3 0 2, 0xF5)] =
      true := by decide +kernel

theorem witness_ImmediatesWriteTheirValue :
    leave4 (withX tb [(3, 0xF0)])
      [(.addi 4 3 (-1), 0xEF), (.andi 4 3 (-16), 0xF0), (.ori 4 3 1, 0xF1), (.xori 4 3 (-1), -0xF1), (.li 4 (-3), -3),
        (.addpc 4 8, 0x1008), (.li64 4 0x123456789ABCDEF0, 0x123456789ABCDEF0)] = true := by decide +kernel

/-- R105: of seven ranks, 2^L = 4: rank 5 folds into rank 1 before the exchange and has no partner in it. R107: the last
position of the grid, and one past it. -/
theorem witness_RanksAndMeshAddresses :
    leave4 (withX tb [(1, 5), (2, 7), (3, -1), (5, 1), (6, 8), (7, 9)])
      [(.rankx 4 1 2 3, 1), (.rankx 4 5 2 3, 5), (.rankx 4 5 2 5, 3), (.rankx 4 1 2 5, -1), (.rankx 4 5 2 2, -1),
        (.rankx 4 2 2 5, -1), (.mesha .abs 4 2 6 2 0x10, 0xFE3A0E0000000010), (.mesha .abs 4 6 6 2 0, 0xFD00000000000000),
        (.mesha .delta 4 3 3 3 0, 0xFEFFFE0000000000), (.mesha .delta 4 6 3 3 0, 0xFD00000000000000),
        (.mesha .resolve 4 2 6 2 0x10, 0xFE3A0E0000000010), (.mesha .resolve 4 3 0 0 0, 0xFD00000000000000)] = true := by
  decide +kernel

/-- Table 4.5, each condition taken and not; a jump to a multiple of 4 and one elsewhere. -/
theorem witness_BranchesAndJumps :
    (let s := withX tb [(3, -5), (2, 3), (5, 0xFFFFFFFF), (6, 0x2002)]
     let at' := fun (i : Instr) (pc : Word) => gives i s fun t => t.ctx.pc = pc
     at' (.bcc .eq 3 3 (-4)) 0xFF0 && at' (.bcc .eq 3 2 (-4)) 0x1008 && at' (.bcc .ne 3 2 4) 0x1010 &&
     at' (.bcc .lt 3 2 4) 0x1010 && at' (.bcc .ge 3 2 4) 0x1008 && at' (.bcc .ltz 3 2 4) 0x1008 &&
     at' (.bcc .gez 3 2 4) 0x1010 && at' (.bmask .any 2 4) 0x1010 && at' (.bmask .all 5 4) 0x1010 &&
     at' (.bmask .all 2 4) 0x1008 && at' (.bmask .none 0 4) 0x1010 && at' (.bmask .none 2 4) 0x1008 &&
     (gives (.jal 4 (-2)) s fun t => t.ctx.pc = 0xFF8 && t.ctx.rx 4 = 0x1008) &&
     (gives (.jalr 6 6 2) s fun t => t.ctx.pc = 0x2004 && t.ctx.rx 6 = 0x1008) &&
     (trapsAs (.jalr 6 6 0) s 0x04 0 && gives (.jalr 6 6 0) s fun t => t.ctx.trapaddr = 0x2002)) = true := by
  decide +kernel

theorem witness_FillersOnlyAdvancePc :
    ((nexts .pad32 tb fun t => t.ctx.pc = 0x1004) && gives .nop tb fun t => t.ctx.pc = 0x1008) = true := by
  decide +kernel

/-- A queued vector command of a context. -/
def cmdOf (c : Nat) (i : Instr) : VCmd :=
  ⟨0, c, i, -1, 0, 0, .rne, BitVec.allOnes 32, [], [], 0⟩

def queue (s : State) (c : VCmd) : State := s.setCore s.cur.core { s.core with vq := s.core.vq ++ [c] }

/-- A trap, a double trap, and one that waits for a queued command. -/
theorem witness_SoftwareTrapsEnterTheHandler :
    (let d := { tb with ctx := { tb.ctx with inh := true, trappc := 9 } }
     trapsAs (.trap (-5)) tb 0x0C 0 && trapsAs (.brk 7) (atSuper tb) 0x0B 0 &&
     (gives (.trap (-5)) tb fun t => t.ctx.trapinfo = -5 && t.ctx.pc = 0) &&
     waitsOn (.trap 0) (queue tb (cmdOf 0 (.vand .i32 1 2 3 0))) &&
     gives (.brk 7) d fun t => t.ctx.trappc = 9 && t.ctx.pc = 0x1000 && (t.part? 0).map (fun v => v.state) = some .dumping &&
       (t.part? 0).bind (fun v => v.dumpRec) = some (2, 0, 0, leBytes 8 0x0B ++ leBytes 8 0x1000, 0)) = true := by decide +kernel

/-- PPRIV 0, 1 and 2; RETT at USER. -/
theorem witness_TrapReturnRestoresLevelAndPc :
    (let s := fun (cause : Word) => { atSuper tb with ctx := { (atSuper tb).ctx with trapcause := cause, trappc := 0x2000 } }
     (gives .rett (s 0x0000C) fun t => t.ctx.pc = 0x2000 && !t.ctx.super) &&
     (gives .rett (s 0x1000C) fun t => t.ctx.pc = 0x2000 && t.ctx.super) &&
     trapsAs .rett (s 0x2000C) 0x02 0 && trapsAs .rett tb 0x02 0) = true := by decide +kernel

theorem witness_PrivilegedInstructionsTrapAtUser :
    ([Instr.rett, .preq 4 3, .preqCtr 4 3 2, .resume 4 3, .resumeCtr 4 3 2, .sysrd 4 0x003, .sysrd 4 0x012,
      .syswr 3 0x040, .syswr 3 0x044, .clflagsWrite 3].all fun i => trapsAs i tb 0x02 0) = true := by decide +kernel

/-- A leaf for the context. -/
def leafed (s : State) : State :=
  { s with
    ctx := { s.ctx with leaf := some 0 }
    leaves := [(0, ⟨100, 0x8000, Vector.replicate 8 2, Vector.replicate 8 5, 0, s.cur, some 0⟩)]
    nextLeaf := 1
    launches := [(0, ⟨1, 7, 0, [1], [⟨[], 1, 0⟩]⟩)]
    nextLaunch := 1 }

theorem witness_SystemRegisterReads :
    (leave4 (leafed (atSuper tb))
      [(.sysrd 4 0x000, 0), (.sysrd 4 0x001, 0), (.sysrd 4 0x002, 1), (.sysrd 4 0x003, 0), (.sysrd 4 0x004, 0),
        (.sysrd 4 0x005, 0), (.sysrd 4 0x010, 0), (.sysrd 4 0x013, 0), (.sysrd 4 0x020, 100), (.sysrd 4 0x021, 0x8000),
        (.sysrd 4 0x028, 2), (.sysrd 4 0x02F, 2), (.sysrd 4 0x030, 5), (.sysrd 4 0x037, 5), (.sysrd 4 0x044, 0)] &&
     leave4 (withX tb [(4, 9)]) [(.sysrd 4 0x020, 0), (.sysrd 4 0x028, 0), (.sysrd 4 0x037, 0)]) = true := by decide +kernel

/-- R97: RMM is mode 4 and 5 is reserved; HDONE is written 1 to clear; TRAPCAUSE.PPRIV 3 is reserved. -/
theorem witness_SystemRegisterWrites :
    (let s := withX (leafed (atSuper tb)) [(3, 4), (2, 5), (5, 0x3000C), (6, 0x2003)]
     (gives (.syswr 3 0x010) s fun t => t.ctx.fpmode = .rmm) && trapsAs (.syswr 2 0x010) s 0x01 4 &&
     (gives (.syswr 2 0x011) s fun t => t.ctx.fpflags = 5) &&
     (gives (.syswr 3 0x019) { s with ctx := { s.ctx with hdone := 6 } } fun t => t.ctx.hdone = 2) &&
     (gives (.syswr 3 0x000) s fun t => t.ctx.pc = 0x1008) && (gives (.syswr 3 0x037) s fun t => t.ctx.pc = 0x1008) &&
     (gives (.syswr 3 0x020) (leafed (withX tb [(3, 4)])) fun t =>
       (Map.get? t.leaves 0).map (fun l => l.deadline) = some 100) &&
     (gives (.syswr 3 0x020) s fun t => (Map.get? t.leaves 0).map (fun l => l.deadline) = some 4) &&
     (gives (.syswr 6 0x040) s fun t => t.core.trapvec = 0x2000) &&
     (gives (.syswr 6 0x041) s fun t => t.ctx.trappc = 0x2000) &&
     (gives (.syswr 6 0x042) s fun t => t.ctx.trapcause = 0x2003) && trapsAs (.syswr 5 0x042) s 0x01 4 &&
     (gives (.syswr 6 0x043) s fun t => t.ctx.trapaddr = 0x2003) &&
     (gives (.syswr 6 0x044) s fun t => t.ctx.trapinfo = 0x2003) &&
     (gives (.clflagsWrite 6) s fun t => t.clflagsRead t.cl = 0)) = true := by decide +kernel

theorem witness_FenceAndSleep :
    (let s := withX tb [(3, 10)]
     let z := { s with ctx := { s.ctx with wake := some 10 } }
     (!s.vecMemBusy && gives (.fence .pkg) s fun t => t.ctx.regionid = 1) &&
     (gives (.fence .ctx) s fun t => t.ctx.regionid = 0) &&
     (gives (.sleep 3 (-10)) s fun t => t.ctx.pc = 0x1008) &&
     (gives (.sleep 3 0) s fun t => t.ctx.wake = some 10 && t.ctx.waiting) &&
     waitsOn (.sleep 3 0) z && refuses (.sleepExpiry z.cur) z &&
     refuses (.sleepExpiry z.cur) (({ z with cycle := 10 } : State).setPart 0 { benchPart with state := .halting }) &&
     (gives (.sleep 3 0) { z with cycle := 10 } fun t => t.ctx.pc = 0x1008) &&
     nexts (.sleepExpiry z.cur) { z with cycle := 10 } fun t => t.ctx.pc = 0x1008) = true := by decide +kernel

/-- Helper 1 of the core, started by context 0, as the issuing context. -/
def helper (s : State) : State :=
  let t := s.switchTo ⟨s.cur.core, 1⟩
  { t with ctx := { t.ctx with live := true, pc := 0x1000, leaf := some 0, starter := some s.cur } }

theorem witness_ExitEndsTheContext :
    (let s := leafed tb
     let h := helper s
     waitsOn (.exit 3) (queue s (cmdOf 0 (.vand .i32 1 2 3 0))) && (h.core.firstStart = none) &&
     (gives (.exit 3) h fun t => (t.getCtx s.cur).hdone = 2 && !t.ctx.live) &&
     waitsOn (.exit 3) (h.switchTo s.cur) &&
     gives (.exit 3) s fun t => !t.ctx.live && t.leaves = [] &&
       (Map.get? t.launches 0).map (fun l => l.tree.map fun n => n.missing) = some [0]) = true := by decide +kernel

/-- The state after instructions that answer next states. -/
def chain (s : State) (l : List Instr) : State :=
  l.foldl (fun s i => match exec i s with | .next t => t | _ => s) s

/-- A check passes. -/
def passes {α : Type} : Chk α → Bool
  | .ok _ => true
  | _ => false

/-- A place of the scratchpad of the context's cluster, as an absolute mesh-space address: bank 8 is SCRATCH. -/
def pad (n : Nat) : Word := BitVec.ofNat 64 (0xFE00000000200000 + n)

/-- [x3] -/
def at3 : MemOp := ⟨3, 0, 0, 0⟩

/-- R110: a byte sign-extended from its home, the cluster's own copy, and the scratchpad; with a window, and an acquire. -/
theorem witness_LoadsReadMemory :
    (let s := withBytes (withX tb [(3, 0x2000)]) 0x2000 [0xFE, 1]
     let w := s.setCl s.cl { s.getCl s.cl with ways := [⟨0x40, 0, List.replicate 128 7⟩] }
     let p := chain (withX tb [(3, pad 8), (5, 0x80)]) [.st 5 at3 0 .plain .ctx]
     passes (s.access .load 0x2000 1 1) && passes (p.access .load (pad 8) 1 1) &&
     leave4 s [(.ld 4 at3 0 true .plain .ctx 0, -2), (.ld 4 at3 3 false .acq .pkg 0, 0x1FE), (.ldc 4 at3 1 false 0, 0x1FE)]
     && leave4 w [(.ld 4 at3 0 false .plain .ctx 0, 7), (.ld 4 at3 0 false .acq .pkg 0, 0xFE)] &&
     leave4 p [(.ld 4 at3 0 true .plain .ctx 0, -128), (.ldc 4 at3 3 false 0, 0x80)] &&
     gives (.ld 4 at3 0 false .plain .ctx 15) s fun t => t.ctx.rx 4 = 0 && t.ctx.windows.map (fun v => v.left) = [15]) =
      true := by decide +kernel

/-- The last byte of the mapped GiB, and the scratchpad. -/
theorem witness_StoresWriteTheirBytesOnly :
    (let s := withX tb [(3, 0x3FFFFFF8), (5, 0x8877665544332211)]
     let p := withX s [(3, pad 0)]
     passes (s.access .store 0x3FFFFFF8 8 8) &&
     (gives (.st 5 at3 3 .plain .ctx) s fun t => cellsRead t.mem.home 0x3FFFFFF8 8 = leBytes 8 0x8877665544332211) &&
     (gives (.st 5 at3 1 .rel .pkg) s fun t => cellsRead t.mem.home 0x3FFFFFF8 3 = [0x11, 0x22, 0] &&
       t.ctx.regionid = 1) &&
     gives (.st 5 at3 2 .plain .ctx) p fun t => cellsRead t.mem.sram 0x200000 5 = [0x11, 0x22, 0x33, 0x44, 0]) = true := by
  decide +kernel

/-- R26, R112: not canonical; misaligned; past the mapped GiB. -/
theorem witness_TrappingAccessesChangeNothing :
    (let i : Instr := .ld 4 at3 3 false .plain .ctx 0
     let j : Instr := .st 4 at3 3 .plain .ctx
     trapsAs i (withX tb [(3, 0x0100000000000000)]) 0x05 1 && trapsAs j (withX tb [(3, 0xFD00000000000000)]) 0x05 1 &&
     trapsAs i (withX tb [(3, 0x2004)]) 0x04 0 && trapsAs j (withX tb [(3, pad 4)]) 0x04 0 &&
     trapsAs i (withX tb [(3, 0x40000000)]) 0x05 1 && trapsAs j (withX tb [(3, 0x40000000)]) 0x05 1) = true := by
  decide +kernel

theorem witness_PrefetchAndEarlyCompletion :
    (let s := withX tb [(3, 0x2000)]
     let w := chain s [.ld 4 at3 3 false .plain .ctx 15]
     let l := withBytes w 0x2000 [9]
     (gives (.pfl at3) s fun t => (t.getCl t.cl).fills = [0x40]) &&
     (gives (.pfl at3) (withX tb [(3, pad 0)]) fun t => (t.getCl t.cl).fills = []) &&
     (gives (.pfl at3) (withX tb [(3, 0x40000000)]) fun t => (t.getCl t.cl).fills = [] && t.ctx.pc = 0x1008) &&
     nexts (.longLatencyComplete l.cur) l fun t =>
       t.ctx.rx 4 = 0 && t.ctx.windows.map (fun v => (v.left, v.pend)) = [(15, [])]) = true := by decide +kernel

/-- The ten helper slots of the core are in use. -/
def fullCore (s : State) : State :=
  (List.range 10).foldl (fun (s : State) (n : Nat) => s.setCtx ⟨s.cur.core, n + 1⟩ { Ctx.init with live := true }) s

/-- R171, R172: a free slot, no free slot; HDONE with and without the bits asked for. -/
theorem witness_HelpersStartAndJoin :
    (let s := withX tb [(3, 77), (5, 6)]
     let h := { s with ctx := { s.ctx with hdone := 0x406 } }
     (gives (.start 4 3 16) s fun t => t.ctx.rx 4 = 1 && (t.getCtx ⟨t.cur.core, 1⟩).pc = 0x1040 &&
       (t.getCtx ⟨t.cur.core, 1⟩).rx 1 = 77 && (t.getCtx ⟨t.cur.core, 1⟩).rx 2 = 1) &&
     (gives (.startW 4 3 (-16)) s fun t => t.ctx.rx 4 = 1 && (t.getCtx ⟨t.cur.core, 1⟩).pc = 0xFC0) &&
     (gives (.start 4 3 16) (fullCore s) fun t => t.ctx.rx 4 = -1) &&
     (waitsOn (.startW 4 3 16) (fullCore s) && gives (.startW 4 3 16) (fullCore s) fun t => t.core.startW = [0]) &&
     (gives (.joinh 4 5) h fun t => t.ctx.rx 4 = 6 && t.ctx.hdone = 0x400) && waitsOn (.joinh 4 5) s &&
     gives (.hstat 4) (chain h [.start 0 3 16]) fun t => t.ctx.rx 4 = 0x20406) = true := by decide +kernel

/-- R174 on an empty and on a full word. -/
theorem witness_FullEmptyOperations :
    (let s := withX tb [(3, pad 8), (5, 0x55)]
     let f := chain s [.stf 5 at3]
     passes (s.feAccess (pad 8)) &&
     waitsOn (.ldf 4 at3 0) s && waitsOn (.ldff 4 at3 0) s && waitsOn (.ste 5 at3) f &&
     (gives (.ldf 4 at3 0) f fun t => t.ctx.rx 4 = 0x55 && t.mem.full = [] && t.ctx.regionid = 2) &&
     (gives (.ldff 4 at3 0) f fun t => t.ctx.rx 4 = 0x55 && t.mem.full = [0x40001]) &&
     (gives (.ste 5 at3) s fun t => t.mem.full = [0x40001] && cellsGet t.mem.sram 0x200008 = 0x55) &&
     (gives (.stf 5 at3) f fun t => t.mem.full = [0x40001]) &&
     leave4 f [(.festat 4 at3, 1)] && leave4 s [(.festat 4 at3, 0)] &&
     (gives (.feset 5 at3) s fun t => t.mem.full = [0x40001]) && gives (.feset 0 at3) f fun t => t.mem.full = []) =
      true := by decide +kernel

/-- R174: an LDFF and an LDF wait for a word that becomes full; an STE waits for one that becomes empty. -/
theorem witness_BankServesInArrivalOrder :
    (let s := chain (withX tb [(3, pad 8), (5, 0x55)]) [.stf 5 at3]
     let put := fun (s : State) (l : List FeWait) => s.setCl s.cl { s.getCl s.cl with feWaits := l }
     let keep : FeWait := ⟨⟨s.cur.core, 1⟩, 0x40001, none, true, none⟩
     let take : FeWait := ⟨⟨s.cur.core, 2⟩, 0x40001, none, false, none⟩
     let store : FeWait := ⟨⟨s.cur.core, 3⟩, 0x40001, some 9, false, none⟩
     (let t := (put s [keep, take]).wakeFe s.cl 0x40001
      (t.getCl s.cl).feWaits.map (fun w => w.answer) = [some 0x55, some 0x55] && t.mem.full = []) &&
     (let e := { s with mem := { s.mem with full := [] } }
      let t := (put e [store]).wakeFe s.cl 0x40001
      (t.getCl s.cl).feWaits.map (fun w => w.answer) = [some 9] && t.mem.full = [0x40001])) = true := by decide +kernel

/-- Table 7.4: a barrier of two arrivals and 2^10 bytes; one whose phase ends; a BROKEN one (BARINIT.INIT of n = 0); one
of zeros, where ARRIVE is 0; sums of 2^63 - 1 and 2^63; contexts that wait, one of which learns that it is BROKEN. -/
theorem witness_BarrierInstructions :
    (let s := withX tb [(3, pad 0), (5, 2), (6, 1), (7, 1024), (8, 0x81), (9, pad 64),
       (10, 2 ^ 63 - 1), (11, 2 ^ 63)]
     let b := chain s [.barinitInit 0 3 5]
     let one := chain s [.barinitInit 0 3 6]
     let passed := chain one [.bararr 0 0, .barinitInit 7 9 6]
     let last := { passed with ctx := { passed.ctx with rot := 7 } }
     let broken := chain s [.barinitInit 0 3 0]
     let bar := fun (t : State) => t.barrier t.cl 0x200000
     passes (s.barAccess (pad 0)) &&
     (gives (.barinitInit 0 3 5) s fun t => bar t = ⟨0, 2, 0, 2, 0, 0⟩) &&
     (gives (.barinitInit 0 3 0) s fun t => decide ((bar t).state ≠ 0)) &&
     (gives (.barinitBind 1 3) passed fun t => t.ctx.bs.get 1 = ⟨pad 0, 1⟩) &&
     (gives (.bararr 4 0) b fun t => t.ctx.rx 4 = 0 && bar t = ⟨0, 1, 0, 2, 0, 0⟩) &&
     (gives (.bararr 4 0) one fun t => bar t = ⟨1, 1, 0, 1, 0, 0⟩) &&
     (gives (.bararr 4 0) broken fun t => t.ctx.pc = s.ctx.pc + 16) &&
     (gives (.barexp 0 7) b fun t => bar t = ⟨0, 2, 1024, 2, 0, 0⟩) && (gives (.barexp 0 7) broken fun t => bar t = bar broken)
     && leave4 passed [(.barwait 4 0, 1), (.bartest 4 0, 1), (.waitany 4 8, 0x100), (.waitany 4 0, 0)] &&
     leave4 broken [(.barwait 4 0, 2), (.bartest 4 0, 2), (.waitany 4 6, 0x200)] &&
     waitsOn (.barwait 4 0) b && leave4 b [(.bartest 4 0, 0)] && leave4 last [(.waitany 4 8, 0x100)] &&
     (let slotted := fun (s : State) => { s with ctx := { s.ctx with bs := s.ctx.bs.set 0 ⟨pad 0, 0⟩ } }
      let other : CtxId := ⟨⟨benchCluster, 1⟩, 0⟩
      let await : BarAwait := ⟨2, benchCluster, 0x200000, false⟩
      let waits := fun (s : State) => s.setCtx other { s.getCtx other with awaits := [await] }
      let logged := fun (s : State) => s.setPart 0 { benchPart with cfg := { benchPart.cfg with flog := 0x20000 } }
      let told := { b with ctx := { b.ctx with awaits := [{ await with slot := 0, broken := true }] } }
      (gives (.bararr 4 0) (logged (waits (slotted s))) fun t => t.ctx.rx 4 = 0 && bar t = ⟨0, 0, 0, 0, 1, 2⟩ &&
        (t.getCtx other).awaits = [{ await with broken := true }] &&
        cellsRead t.mem.home 0x20040 8 = [1, 0, 0, 0, 0, 0, 0, 0] && cellsRead t.mem.home 0x20058 9 = leBytes 8 (pad 0).toNat ++ [2]) &&
      (gives (.barexp 0 10) b fun t => bar t = ⟨0, 2, 2 ^ 63 - 1, 2, 0, 0⟩) &&
      (gives (.barexp 0 11) b fun t => bar t = ⟨0, 2, 0, 2, 1, 1⟩) &&
      leave4 told [(.barwait 4 0, 2), (.bartest 4 0, 2)] &&
      (gives (.barwait 4 0) b fun t => t.ctx.awaits = [⟨0, benchCluster, 0x200000, false⟩]) && waitsOn (.waitany 4 6) b)) =
      true := by
  decide +kernel

/-- A message of 8 bytes in the high mailbox of the issuing core, for its context 0. -/
def msg8 : Message := ⟨0, 8, [1, 2, 3, 4, 5, 6, 7, 8], some benchCluster⟩

/-- R180-R183: to core 1, context 0, high priority; a full send buffer; a full mailbox; a message behind an earlier one. -/
theorem witness_MessagesBetweenCores :
    (let s := withBytes (withX tb [(3, pad 0x201 - 0x200100), (1, 0x2000), (2, 8), (6, 0x3000)]) 0x2000 [1, 2, 3]
     let s := withX s [(3, 0xFE00000000000101)]
     let k : CoreId := ⟨benchCluster, 1⟩
     let sent := chain s [.msend 3 1 2]
     let e : SendEntry := ⟨k, true, msg8, 0, true, 0⟩
     let four := s.setCore s.cur.core { s.core with sendBuf := (List.range 4).map fun n => { e with order := n } }
     let full := sent.setCore k { sent.getCore k with hi := List.replicate 32 msg8 }
     let retry := four
     let got := s.setCore s.cur.core { s.core with hi := [{ msg8 with ctx := 1 }, msg8] }
     (gives (.msend 3 1 2) s fun t => t.core.sendBuf.map (fun e => (e.dst, e.hi, e.msg.payload)) =
       [(k, true, [1, 2, 3, 0, 0, 0, 0, 0])]) && waitsOn (.msend 3 1 2) four &&
     (nexts (.mailboxDelivery s.cur.core 0) sent fun t => (t.getCore k).hi.length = 1 && t.core.sendBuf = []) &&
     (nexts (.mailboxDelivery s.cur.core 0) full fun t => t.core.sendBuf.map (fun e => e.retry) = [true]) &&
     (nexts (.sendBufferRetry s.cur.core 0) retry fun t => (t.getCore k).hi.length = 1 && t.core.sendBuf.length = 3) &&
     refuses (.sendBufferRetry s.cur.core 1) retry && waitsOn (.mrecv 4 6 0) s && (s.getCl s.cl).ways.isEmpty &&
     (match s.checkRange .load 0x2000 8 8 with | .ok _ => true | _ => false) &&
     trapsAs (.mrecv 4 6 0) (withX s [(6, 0x0100000000000003)]) 0x05 1 && trapsAs (.mrecv 4 6 0) (withX s [(6, 0x3004)]) 0x04 0 &&
     (let turned := s.setCore s.cur.core { s.core with sendBuf := [{ e with retry := false, order := 1 }, { e with retry := false }] }
      refuses (.mailboxDelivery s.cur.core 0) turned &&
      nexts (.mailboxDelivery s.cur.core 1) turned fun t => t.core.sendBuf.map (fun e => e.order) = [1]) &&
     gives (.mrecv 4 6 0) got fun t => t.ctx.rx 4 = 0x208 && cellsRead t.mem.home 0x3000 8 = msg8.payload &&
       t.core.hi = [{ msg8 with ctx := 1 }]) = true := by decide +kernel

/-- The stream table of the issuing core is full. -/
def fullTable (s : State) : State :=
  let entry := fun (n : Fin 16) => some (⟨BitVec.ofNat 8 (100 + n.val), 3, 7, 0, false, true, none, none, 0⟩ : TableEntry)
  s.setCore s.cur.core { s.core with table := Vector.ofFn entry }

/-- R184-R186: a bound register 0 with tag 5; 68 bytes go as two chunks and an end-of-stream word. -/
theorem witness_StreamsBetweenCores :
    (let s := withBytes (withX tb [(5, 5), (3, 0xFE00000000000A00), (1, 0x2000), (2, 68), (6, 64)]) 0x2000 [1, 2, 3]
     let conf := chain s [.scfgMsg .i32 0 0]
     let bound := chain conf [.mbind 4 0 5 false 0x40]
     let part := chain bound [.msends 3 1 2, .streamChunkArrival s.cur.core]
     let sent := chain bound [.msends 3 1 6]
     let arrived := chain sent [.streamChunkArrival s.cur.core]
     (gives (.mbind 4 0 5 false 0x40) conf fun t => t.ctx.rx 4 = 0 && t.core.table.get 0 =
       some ⟨5, 0, 0, conf.ctx.pc + 0x40, false, true, none, none, 0⟩) &&
     leave4 (fullTable bound) [(.mbind 4 1 5 false 0, -1)] && leave4 bound [(.mbind 4 1 5 false 0, -2)] &&
     leave4 (withX bound [(5, 6)]) [(.mbind 4 1 5 false 0, -3), (.mbind 4 0 5 false 0, -3)] &&
     (gives (.munbind 5) bound fun t => t.core.table.get 0 = none) &&
     (gives (.msends 3 1 2) bound fun t => t.ctx.waiting && t.ctx.pos = 1 && t.core.inbox.length = 1 &&
       t.ctx.doing = some (.msends 3 1 2) && t.ctx.lastIssue = some 0) &&
     (gives (.msends 3 1 2) part fun t => t.core.inbox.map (fun c => (c.bytes.length, c.eos)) =
       [(4, none), (0, some 68)]) &&
     (gives (.msends 3 1 6) bound fun t => t.core.inbox.map (fun c => (c.bytes.length, c.eos)) =
       [(64, none), (0, some 64)]) &&
     trapsAs (.msends 3 1 2) (withX bound [(1, 0x3FFFFFC0)]) 0x05 1 &&
     (let begun := chain (withX bound [(1, pad 0)]) [.msends 3 1 2, .streamChunkArrival s.cur.core]
      let k := begun.getCl begun.cl
      trapsAs (.msends 3 1 2) (begun.setCl begun.cl { k with modes := k.modes.set 8 .cache }) 0x05 2) &&
     (gives (.msends 3 1 0) bound fun t => t.core.inbox.map (fun c => (c.bytes.length, c.eos)) = [(0, some 0)]) &&
     (nexts (.streamChunkArrival s.cur.core) sent fun t => t.core.inbox.length = 1 &&
       (t.ctx.streams.get 0).map (fun st => st.rest.length) = some 64) &&
     nexts (.endOfStream s.cur.core) (fullCore arrived) fun t => t.core.inbox = [] &&
       (t.ctx.streams.get 0).map (fun st => (st.ended, st.groups.map fun g => g.n)) = some (true, [16])) = true := by
  decide +kernel

/-- A weave of two states and two roles: role 0 sends kind 0 to role 1 and the state becomes 1. -/
def weave2 : Weave := ⟨2, 2, 1, 0, [⟨0, 0, 0, 1, 1⟩]⟩

/-- Its image (Table 7.6). -/
def weaveBytes : List Byte := [1, 0, 2, 2, 1, 0, 1, 0] ++ List.replicate 56 0 ++ leBytes 4 (2 ^ 14 + 2 ^ 20)

/-- The partition may hold n conversations. -/
def allotConvs (s : State) (n : Nat) : State := s.setPart 0 { benchPart with cfg := { benchCfg with convs := n } }

/-- Conversation 9 of the partition; its roles as given. -/
def conv9 (s : State) (w : Weave) (roles : Vector (Option RoleMap) 8) : State :=
  { allotConvs s 1 with pkg := { s.pkg with convs := [(9, ⟨0, w, 0, 0, roles, [], [], false⟩)] } }

/-- The roles of a conversation: the issuing context has the given ones, context 0 of core 1 the others below n. -/
def rolesOf (mine : List Nat) (n : Nat) : Vector (Option RoleMap) 8 :=
  Vector.ofFn fun i => if mine.contains i.val then some ⟨tb.cur, false⟩
    else if (i.val) < n then some ⟨⟨⟨benchCluster, 1⟩, 0⟩, true⟩ else none

/-- With delegations recorded in conversation 9. -/
def delegating (s : State) (l : List (Nat × RoleMap)) : State :=
  { s with pkg := { s.pkg with convs := s.pkg.convs.map fun c => (c.1, { c.2 with delegs := l }) } }

/-- cv0 of a context: role 0 of conversation 9. -/
def joined (s : State) : State := { s with ctx := { s.ctx with cv := s.ctx.cv.set 0 (2 ^ 63 + 9) } }

theorem witness_ConversationsOpenJoinLeave :
    (let s := withBytes (withX tb [(3, 0x2000), (5, 9), (6, 1), (7, 2), (8, 0xFE00000000000011)]) 0x2000 weaveBytes
     let free := conv9 s weave2 (rolesOf [] 0)
     let taken := conv9 s weave2 (rolesOf [] 2)
     let both := joined (conv9 s weave2 (rolesOf [0] 2))
     let alone := joined (conv9 s weave2 (rolesOf [0] 1))
     leave4 (allotConvs (withX s [(3, 0x3000)]) 1) [(.cvopen 4 3, -2)] && leave4 s [(.cvopen 4 3, -1)] &&
     leave4 free [(.cvopen 4 3, -1)] && trapsAs (.cvopen 4 3) (withX s [(3, 0x0100000000000001)]) 0x04 0 &&
     (gives (.cvopen 4 3) (allotConvs s 1) fun t => t.pkg.convs.map (fun c => c.2.weave) = [weave2]) &&
     trapsAs (.cvjoin 0 6 0 false) free 0x08 1 && trapsAs (.cvjoin 0 5 7 false) free 0x08 2 &&
     trapsAs (.cvjoin 0 5 6 false) taken 0x08 3 &&
     (gives (.cvjoin 0 5 6 true) free fun t => t.ctx.cv.get 0 = 0x8000000000090009) &&
     (gives (.cvdeleg 0 8) both fun t => t.ctx.cv.get 0 = 9 && (Map.get? t.pkg.convs 9).map (fun c => c.delegs) =
       some [(0, ⟨⟨⟨benchCluster, 1⟩, 1⟩, false⟩)]) &&
     (gives (.cvleave 0) both fun t => t.ctx.cv.get 0 = 0 && (Map.get? t.pkg.convs 9).isSome) &&
     (gives (.cvleave 0) alone fun t => t.pkg.convs = []) &&
     (gives (.cvleave 0) (joined free) fun t => t.ctx.cv.get 0 = 0 && t.pkg.convs.length = 1) &&
     (gives (.cvleave 0) (delegating both [(0, ⟨⟨⟨benchCluster, 1⟩, 1⟩, false⟩)]) fun t => t.ctx.cv.get 0 = 0 &&
       (Map.get? t.pkg.convs 9).map (fun c => (c.mapOf 0, c.delegs.length)) = some (none, 1)) &&
     (gives (.cvleave 0) (delegating (joined taken) [(0, ⟨tb.cur, false⟩)]) fun t => t.ctx.cv.get 0 = 0 &&
       (Map.get? t.pkg.convs 9).map (fun c => (c.mapOf 0, c.delegs)) = some (none, [])) &&
     leave4 both [(.cvstat 4 0, 0x8000090000000300), (.cvstat 4 1, 0)]) = true := by decide +kernel

/-- R190: a turn, a kind that is not one, a CHOICE sent as no choice; delivered at once, held, and delivered later; with
a third role; not bound, unbound; a delegation to the sender and one of the receiver's role; behind an earlier message. -/
theorem witness_ConversationsSend :
    (let s := withX tb [(1, 0), (2, 0), (3, 0)]
     let c := joined (conv9 s weave2 (rolesOf [0] 2))
     let ch := joined (conv9 s { weave2 with choice := 1 } (rolesOf [0] 2))
     let k : CoreId := ⟨benchCluster, 1⟩
     let full := c.setCore k { c.getCore k with hi := List.replicate 32 msg8 }
     let held := { c with pkg := { c.pkg with convs := [(9, ⟨0, weave2, 1, 1, rolesOf [0] 2, [], [⟨k, true, msg8, tb.cur, 0⟩], false⟩)] } }
     (gives (.cvsend 0 1 2 3) c fun t => (t.getCore k).hi.map (fun m => m.hdr) = [0x10000090400] &&
       (Map.get? t.pkg.convs 9).map (fun c => (c.state, c.seq)) = some (1, 1)) &&
     (gives (.cvchoose 0 1 2 3) ch fun t => (t.getCore k).hi.length = 1) &&
     trapsAs (.cvsend 0 1 2 3) (withX c [(1, 1)]) 0x07 0 && trapsAs (.cvsend 0 1 2 3) ch 0x07 0 &&
     trapsAs (.cvchoose 0 1 2 3) c 0x07 0 &&
     (gives (.cvsend 0 1 2 3) full fun t => (Map.get? t.pkg.convs 9).map (fun c => c.held.length) = some 1) &&
     (gives (.cvchoose 0 1 2 3) (joined (conv9 s { weave2 with nroles := 3, choice := 1 } (rolesOf [0] 3))) fun t =>
       (t.getCore k).hi.map (fun m => m.hdr) = [0x10000090400, 0x10000090400]) &&
     trapsAs (.cvsend 0 1 2 3) (joined (conv9 s weave2 (rolesOf [1] 2))) 0x08 4 &&
     trapsAs (.cvsend 0 1 2 3) (joined (conv9 s weave2 (rolesOf [0] 1))) 0x08 5 &&
     (gives (.cvsend 0 1 2 3) (delegating (joined (conv9 s weave2 (rolesOf [] 2)))
         [(0, ⟨tb.cur, false⟩), (1, ⟨⟨⟨benchCluster, 2⟩, 0⟩, false⟩)]) fun t => (t.getCore k).hi = [] &&
       (t.getCore ⟨benchCluster, 2⟩).lo.length = 1 && (Map.get? t.pkg.convs 9).map (fun c => c.delegs) = some []) &&
     (let behind := { c.setCore c.cur.core { c.core with sendBuf := [⟨k, true, msg8, 0, false, 0⟩] } with arrivals := 1 }
      gives (.cvsend 0 1 2 3) behind fun t => (t.getCore k).hi = [] &&
        (Map.get? t.pkg.convs 9).map (fun c => c.held.length) = some 1) &&
     nexts (.convHeldDelivery 9 0) held fun t => (t.getCore k).hi = [msg8]) = true := by decide +kernel

/-- f registers of the issuing context. -/
def withF (s : State) (l : List (FReg × Word)) : State :=
  { s with ctx := l.foldl (fun (c : Ctx) (p : FReg × Word) => c.wf p.1 p.2) s.ctx }

/-- A list of instructions, each with the bits it leaves in f4 and the flags it raises. -/
def leaveF (s : State) (l : List (Instr × Word × BitVec 5)) : Bool :=
  l.all fun p => gives p.1 s fun t => t.ctx.rf 4 = p.2.1 && t.ctx.fpflags = p.2.2

/-- FP32 values: f1 = 1, f2 = 2, f3 = 3, f5 = -1, f6 = +inf, f7 = -inf, f8 = quiet NaN, f9 = signalling NaN, f10 = -0,
f11 = 2^-25, f12 = 4, f13 = 2.5. -/
def fvals : State :=
  withF tb [(1, 0x3F800000), (2, 0x40000000), (3, 0x40400000), (5, 0xBF800000), (6, 0x7F800000), (7, 0xFF800000),
    (8, 0x7FC00000), (9, 0x7FA00000), (10, 0x80000000), (11, 0x33000000), (12, 0x40800000), (13, 0x40200000)]

/-- IEEE 754 results by hand; NX is bit 4, DZ bit 1, NV bit 0. -/
theorem witness_FloatArithmeticRoundsOnce :
    leaveF fvals
      [(.fadd .fp32 .ctx 4 1 2, 0x40400000, 0), (.fadd .fp32 .rup 4 1 11, 0x3F800001, 0x10),
        (.fsub .fp32 .ctx 4 1 2, 0xBF800000, 0), (.fmul .fp32 .ctx 4 2 3, 0x40C00000, 0),
        (.fdiv .fp32 .ctx 4 1 2, 0x3F000000, 0), (.ffma .fp32 .ctx 4 2 3 1, 0x40E00000, 0),
        (.fsqrt .fp32 .ctx 4 12, 0x40000000, 0), (.fadd .fp32 .ctx 4 1 5, 0, 0), (.fadd .fp32 .rdn 4 1 5, 0x80000000, 0),
        (.fadd .fp32 .ctx 4 10 10, 0x80000000, 0), (.fmul .fp32 .ctx 4 8 1, 0x7FC00000, 0),
        (.fsub .fp32 .ctx 4 9 1, 0x7FC00000, 1), (.fsqrt .fp32 .ctx 4 9, 0x7FC00000, 1),
        (.ffma .fp32 .ctx 4 1 8 1, 0x7FC00000, 0), (.fsub .fp32 .ctx 4 6 6, 0x7FC00000, 1),
        (.fadd .fp32 .ctx 4 6 7, 0x7FC00000, 1), (.fmul .fp32 .ctx 4 6 10, 0x7FC00000, 1),
        (.fdiv .fp32 .ctx 4 6 7, 0x7FC00000, 1), (.fdiv .fp32 .ctx 4 1 10, 0xFF800000, 2),
        (.fdiv .fp32 .ctx 4 10 10, 0x7FC00000, 1), (.fsqrt .fp32 .ctx 4 5, 0x7FC00000, 1),
        (.fsqrt .fp32 .ctx 4 10, 0x80000000, 0), (.fdiv .fp32 .ctx 4 1 3, 0x3EAAAAAB, 0x10),
        (.fdiv .fp32 .rdn 4 1 3, 0x3EAAAAAA, 0x10), (.fsqrt .fp32 .ctx 4 2, 0x3FB504F3, 0x10), (.fsub .fp32 .ctx 4 1 1, 0, 0),
        (.fsub .fp32 .rdn 4 1 1, 0x80000000, 0), (.fadd .fp32 .ctx 4 6 5, 0x7F800000, 0), (.fsub .fp32 .ctx 4 1 6, 0xFF800000, 0),
        (.fmul .fp32 .ctx 4 6 5, 0xFF800000, 0), (.fdiv .fp32 .ctx 4 5 6, 0x80000000, 0), (.fdiv .fp32 .ctx 4 6 5, 0xFF800000, 0),
        (.fsqrt .fp32 .ctx 4 6, 0x7F800000, 0), (.fsqrt .fp32 .ctx 4 7, 0x7FC00000, 1), (.ffma .fp32 .ctx 4 6 1 7, 0x7FC00000, 1),
        (.ffma .fp32 .ctx 4 6 1 2, 0x7F800000, 0), (.ffma .fp32 .ctx 4 6 1 8, 0x7FC00000, 0),
        (.ffma .fp32 .ctx 4 6 0 8, 0x7FC00000, 1), (.ffma .fp32 .ctx 4 1 2 7, 0xFF800000, 0),
        (.ffma .fp32 .ctx 4 1 2 9, 0x7FC00000, 1)] = true := by decide +kernel

/-- A list of instructions, each with the value it leaves in x4 and the flags it raises. -/
def leaveX (s : State) (l : List (Instr × Word × BitVec 5)) : Bool :=
  l.all fun p => gives p.1 s fun t => t.ctx.rx 4 = p.2.1 && t.ctx.fpflags = p.2.2

theorem witness_FloatSelectsComparesConverts :
    (let s := withX fvals [(1, -3), (2, 300)]
     leaveF s [(.fmin .fp32 4 1 2, 0x3F800000, 0), (.fmax .fp32 4 2 1, 0x40000000, 0),
       (.fmin .fp32 4 10 0, 0x80000000, 0), (.fmax .fp32 4 10 0, 0, 0), (.fmin .fp32 4 9 1, 0x3F800000, 1),
       (.fmax .fp32 4 1 8, 0x3F800000, 0), (.fmin .fp32 4 8 8, 0x7FC00000, 0),
       (.fmin .fp32 4 6 1, 0x3F800000, 0), (.fmax .fp32 4 6 1, 0x7F800000, 0), (.fmin .fp32 4 6 7, 0xFF800000, 0),
       (.fmin .fp32 4 1 1, 0x3F800000, 0), (.fmax .fp32 4 6 6, 0x7F800000, 0), (.fsgn .cp .fp32 4 1 5, 0xBF800000, 0), (.fsgn .neg .fp32 4 1 5, 0x3F800000, 0),
       (.fsgn .xor .fp32 4 5 5, 0x3F800000, 0), (.fmvf 4 1, -3, 0), (.fcvt ⟨.f16, .f32, 4, 1⟩ .ctx, 0x3C00, 0),
       (.fcvt ⟨.f32, .i64, 4, 1⟩ .ctx, 0xC0400000, 0)] &&
     leaveX s [(.fcmp .eq .fp32 4 1 1, 1, 0), (.fcmp .lt .fp32 4 1 2, 1, 0), (.fcmp .le .fp32 4 2 1, 0, 0),
       (.fcmp .lt .fp32 4 8 1, 0, 1), (.fcmp .un .fp32 4 8 1, 1, 0), (.fcmp .eq .fp32 4 9 1, 0, 1),
       (.fclass .fp32 4 7, 1, 0), (.fclass .fp32 4 5, 2, 0), (.fclass .fp32 4 10, 8, 0), (.fclass .fp32 4 0, 16, 0),
       (.fclass .fp32 4 1, 64, 0), (.fclass .fp32 4 6, 128, 0), (.fclass .fp32 4 9, 256, 0), (.fclass .fp32 4 8, 512, 0),
       (.fmvx 4 1, 0x3F800000, 0), (.fcvt ⟨.i32, .f32, 4, 3⟩ .ctx, 3, 0), (.fcvt ⟨.i32, .f32, 4, 8⟩ .ctx, 0, 1),
       (.fcvt ⟨.i8, .f32, 4, 7⟩ .ctx, -128, 1), (.fcvt ⟨.z8, .f32, 4, 5⟩ .ctx, 0, 1), (.fcvt ⟨.z8, .i64, 4, 2⟩ .ctx, 255, 1),
       (.fcvt ⟨.i8, .i64, 4, 1⟩ .ctx, -3, 0), (.fcmp .lt .fp32 4 7 1, 1, 0), (.fcmp .eq .fp32 4 6 6, 1, 0),
       (.fcmp .le .fp32 4 6 7, 0, 0), (.fcvt ⟨.i32, .f32, 4, 13⟩ .ctx, 2, 0x10), (.fcvt ⟨.i32, .f32, 4, 13⟩ .rmm, 3, 0x10),
       (.fcvt ⟨.i32, .f32, 4, 13⟩ .rup, 3, 0x10), (.fcvt ⟨.i32, .f32, 4, 13⟩ .rtz, 2, 0x10)]) = true := by decide +kernel

/-- FP16: 2049 lies between 2048 and 2050; the smallest subnormal; a normal number is kept; from 65520 on RNE overflows, and from 65536 on RTZ; half and
three halves of the smallest subnormal; two numbers that round to the smallest normal number, one with UF. -/
theorem witness_RoundingIsCorrect :
    (let F := ffmtSpec .fp16
     F.decode 0x3C00 = .fin false 1024 (-10) ∧ F.encode .rne (.fin false 1024 (-10)) = (0x3C00, 0) ∧
     F.encode .rne (.fin false 2049 0) = (0x6800, 0x10) ∧ F.encode .rtz (.fin false 2049 0) = (0x6800, 0x10) ∧
     F.encode .rup (.fin false 2049 0) = (0x6801, 0x10) ∧ F.encode .rdn (.fin false 2049 0) = (0x6800, 0x10) ∧
     F.encode .rmm (.fin false 2049 0) = (0x6801, 0x10) ∧ F.encode .rdn (.fin true 2049 0) = (0xE801, 0x10) ∧
     F.encode .rne (.fin false 1 (-24)) = (1, 0) ∧
     F.encode .rne (.fin false 65520 0) = (0x7C00, 0x14) ∧ F.encode .rtz (.fin false 65535 0) = (0x7BFF, 0x10) ∧
     F.encode .rtz (.fin false 65536 0) = (0x7BFF, 0x14) ∧
     F.encode .rup (.fin true 65536 0) = (0xFBFF, 0x14) ∧ F.encode .rdn (.fin true 65520 0) = (0xFC00, 0x14) ∧
     F.encode .rne (.fin false 1 (-25)) = (0, 0x18) ∧ F.encode .rmm (.fin false 1 (-25)) = (1, 0x18) ∧
     F.encode .rne (.fin true 3 (-25)) = (0x8002, 0x18) ∧ F.encode .rne (.fin false 4095 (-26)) = (0x400, 0x10) ∧
     F.encode .rne (.fin false 2047 (-25)) = (0x400, 0x18) ∧ F.encode .rdn (.inf true) = (0xFC00, 0)) := by decide +kernel

/-- A further page of 2 MiB at VA 2^30 is CHECKED (R209); x3 is an address of it, x5 = 3, x6 = 64. -/
def checkedBench : State :=
  withX (withBytes (withBytes tb 0x12008 (leBytes 8 0x13001)) 0x13000 (leBytes 8 0x600000009F)) [(3, 0x40000008), (5, 3), (6, 64)]

/-- Another core's context has stored 4 bytes at x3, in its region 0. -/
def racedBench : State :=
  { checkedBench with mem := checkedBench.mem.log ⟨.ctx ⟨⟨benchCluster, 1⟩, 0⟩, 0, 0x600008, 4, true, false⟩ }

/-- One instruction of each vector row, masks in x5. -/
def vectorRows : List Instr :=
  [.vadd .i32 false .ctx 1 2 3 5, .vsub .f32 false .rtz 1 2 3 5, .vmul .i8 true .ctx 1 2 3 0, .vfma .bf16 .ctx 1 2 3 4 5,
    .vmin .z8 1 2 3 0, .vmax .f64 1 2 3 5, .vcmp .un .f32 4 2 3 5, .vsel .i32 1 2 3 5, .vand .i32 1 2 3 5,
    .vor .f32 1 2 3 0, .vxor .z32 1 2 3 5, .vshl .i16 1 2 (.reg 3) 0, .vshr .i32 1 2 (.imm 31) 5,
    .vcvt (.ty .f32) .fp8e4m3 false .ctx 1 2 5, .vqnt .mxfp4 .ctx 1 2 4 5, .vdq .dxb8 .ctx 1 2 4 0,
    .vred .sum .f32 .rne 4 2 5, .vscan true .i32 .ctx 1 2 5, .vsf .exp2 .ctx 1 2 5, .vperm .i32 1 2 3 0,
    .vbcast .i32 (.x 5) 1 0, .vins .i32 1 5 31, .vext .i32 4 2 31]

theorem witness_VectorIssue :
    (let s := withX tb [(5, 0xFF)]
     let full := (List.replicate 16 (cmdOf 1 .nop)).foldl queue s
     let conf := chain s [.scfgMsg .i32 7 0]
     (vectorRows.all fun i => (maskReg i).isSome && gives i s fun t => t.core.vq.map (fun q => q.instr) = [i]) &&
     waitsOn (.vadd .i32 false .ctx 1 2 3 5) full && (gives .vfence s fun t => t.ctx.pc = 0x100C) &&
     waitsOn .vfence (queue s (cmdOf 0 (.vand .i32 1 2 3 0))) && leave4 s [(.vstat 4, 0)] &&
     leave4 conf [(.vstat 4, 0x80)]) = true := by decide +kernel

/-- v2 holds 10 and v3 holds 3 in every lane, v6 holds -1. -/
def vvals (s : State) : State :=
  { s with ctx := ((s.ctx.wv 2 (Vector.replicate 32 10)).wv 3 (Vector.replicate 32 3)).wv 6 (Vector.replicate 32 (-1)) }

/-- A queued command is performed, and lane 1 of v1 and lane 31 of v1 are as given; the mask is 0x7FFFFFFF. -/
def lanes1 (l : List (Instr × Lane)) : Bool :=
  l.all fun p =>
    let q : VCmd := ⟨0, 0, p.1, 0x7FFFFFFF, 5, 0, .rne, BitVec.allOnes 32, [], [], 0⟩
    nexts (.vectorCommandComplete tb.cur) (queue (vvals tb) q) fun t =>
      (t.ctx.rv 1).get 1 = p.2 && (t.ctx.rv 1).get 31 = 0 && t.core.vq = []

/-- Table 5.3 on 10, 3 and -1. The sum of 31 active lanes of 10 is 310; the sum up to lane 1 is 20. -/
theorem witness_VectorCommandEffects :
    (lanes1 [(.vadd .i32 false .ctx 1 2 3 5, 13), (.vsub .i32 false .ctx 1 3 2 5, -7), (.vmul .z32 false .ctx 1 2 6 5, -10),
        (.vshl .i32 1 2 (.reg 3) 5, 80), (.vmin .z32 1 6 2 5, 10), (.vmax .i32 1 6 2 5, 10), (.vshr .z32 1 6 (.imm 31) 5, 1),
        (.vshr .i32 1 6 (.imm 31) 5, -1), (.vand .i32 1 2 3 5, 2), (.vor .i32 1 2 3 5, 11), (.vxor .i32 1 2 3 5, 9),
        (.vperm .i32 1 2 6 5, 10), (.vbcast .i32 (.imm 7) 1 5, 7), (.vbcast .i32 (.lane 6 31) 1 5, -1),
        (.vins .i32 1 5 1, 5), (.vscan false .i32 .ctx 1 2 5, 20), (.vmin .i32 1 6 2 5, -1), (.vmax .z32 1 6 2 5, -1)] &&
     (let run := fun (i : Instr) (f : State → Bool) =>
        nexts (.vectorCommandComplete tb.cur)
          (queue (vvals tb) ⟨0, 0, i, 0x7FFFFFFF, 5, 0, .rne, BitVec.allOnes 32, [], [], 0⟩) f
      (run (.vsel .i32 1 2 3 5) fun t => (t.ctx.rv 1).get 0 = 10 && (t.ctx.rv 1).get 31 = 3) &&
      (run (.vcmp .eq .i32 4 2 2 5) fun t => t.ctx.rx 4 = 0x7FFFFFFF) &&
      (run (.vred .sum .i32 .ctx 4 2 5) fun t => t.ctx.rx 4 = 310) && (run (.vext .i32 4 6 0) fun t => t.ctx.rx 4 = -1) &&
      run (.vext .z32 4 6 0) fun t => t.ctx.rx 4 = 0xFFFFFFFF) &&
     (let f := fun (i : Instr) (r : Lane) (fl : BitVec 5) =>
        let c := (tb.ctx.wv 2 (Vector.replicate 32 0x3F800000)).wv 3 (Vector.replicate 32 0x40400000)
        let s := { tb with ctx := c.wv 6 (Vector.replicate 32 0xB3000000) }
        nexts (.vectorCommandComplete tb.cur)
          (queue s ⟨0, 0, i, 0x7FFFFFFF, 5, 0, .rdn, BitVec.allOnes 32, [], [], 0⟩) fun t =>
          (t.ctx.rv 1).get 1 = r && (t.ctx.rv 1).get 31 = 0 && t.ctx.fpflags = fl
      f (.vadd .f32 false .ctx 1 2 3 5) 0x40800000 0 && f (.vadd .f32 false .ctx 1 2 6 5) 0x3F7FFFFF 0x10 &&
      f (.vsub .f32 false .ctx 1 2 3 5) 0xC0000000 0 && f (.vmul .f32 false .ctx 1 3 3 5) 0x41100000 0 &&
      f (.vfma .f32 .ctx 1 3 3 2 5) 0x41200000 0 && f (.vmin .f32 1 3 6 5) 0xB3000000 0 && f (.vmax .f32 1 3 6 5) 0x40400000 0 &&
      nexts (.vectorCommandComplete tb.cur) (queue (vvals tb) ⟨0, 0, .vins .i32 1 5 1, -1, 5, 0, .rne, 1, [], [], 0⟩) fun t =>
        (t.ctx.rv 1).get 1 = 0) &&
     nexts (.vectorCommandComplete tb.cur) (queue (vvals tb) ⟨0, 0, .vst .i32 .ctx 2 3 0 5, 1, 0, 0, .rne,
       BitVec.allOnes 32, [], [⟨0, .glob 0x2000, 0, none, none, false⟩], 0⟩) fun t => cellsRead t.mem.home 0x2000 5 = [10, 0, 0, 0, 0]) =
      true := by decide +kernel

/-- A queued command on v2 with all lanes alike, in lanes 0-30, x operand 125: what holds afterwards. -/
def onV2 (i : Instr) (v2 : Fin 32 → Lane) (f : State → Bool) : Bool :=
  nexts (.vectorCommandComplete tb.cur) (queue { tb with ctx := tb.ctx.wv 2 (Vector.ofFn v2) }
    ⟨0, 0, i, 0x7FFFFFFF, 125, 0, .rne, BitVec.allOnes 32, [], [], 0⟩) f

/-- R130, R132, R133, R136: 100 + 100 saturates; 1 + 1 in three formats; 1.5 to an integer; MXFP4 of 1.0, whose scale is
2^-2 and whose elements are 4, and back; functions of 2.0, 3.0, 4.0 and 8.0; a sum of the lanes before. -/
theorem witness_VectorConversions :
    (let v1 := fun (l : Lane) (t : State) => (t.ctx.rv 1).get 1 = l && (t.ctx.rv 1).get 31 = 0
     let all := fun (l : Lane) (_ : Fin 32) => l
     onV2 (.vadd .i8 true .ctx 1 2 2 5) (all 100) (v1 127) && onV2 (.vadd .i8 false .ctx 1 2 2 5) (all 100) (v1 (-56)) &&
     onV2 (.vadd .f16 false .ctx 1 2 2 5) (all 0x3C00) (v1 0x4000) && onV2 (.vadd .bf16 false .ctx 1 2 2 5) (all 0x3F80) (v1 0x4000) &&
     (onV2 (.vadd .f64 false .ctx 1 2 2 5) (fun j => if j.val % 2 = 1 then 0x3FF00000 else 0) fun t =>
       (t.ctx.rv 1).get 0 = 0 && (t.ctx.rv 1).get 1 = 0x40000000) &&
     (onV2 (.vcvt (.ty .i32) (.ty .f32) false .ctx 1 2 5) (all 0x3FC00000) fun t => v1 2 t && t.ctx.fpflags = 0x10) &&
     onV2 (.vcvt (.ty .f32) (.ty .i32) false .ctx 1 2 5) (all (-3)) (v1 0xC0400000) &&
     onV2 (.vcvt (.ty .i8) (.ty .i32) false .ctx 1 2 5) (all 1000) (v1 127) &&
     (onV2 (.vqnt .mxfp4 .ctx 1 2 4 5) (all 0x3F800000) fun t => v1 0x66666666 t && (t.ctx.rv 1).get 3 = 0x06666666 &&
       (t.ctx.rv 1).get 4 = 0 && t.ctx.rx 4 = 125) &&
     onV2 (.vdq .mxfp4 .ctx 1 2 4 5) (all 0x66666666) (v1 0x3F800000) &&
     onV2 (.vsf .rcp .ctx 1 2 5) (all 0x40000000) (v1 0x3F000000) && onV2 (.vsf .exp2 .ctx 1 2 5) (all 0x40400000) (v1 0x41000000) &&
     onV2 (.vsf .log2 .ctx 1 2 5) (all 0x41000000) (v1 0x40400000) && onV2 (.vsf .rsqrt .ctx 1 2 5) (all 0x40800000) (v1 0x3F000000) &&
     onV2 (.vsf .rcp .ctx 1 2 5) (all 0) (v1 0x7F800000) && onV2 (.vscan true .i32 .ctx 1 2 5) (all 10) (v1 10)) = true := by
  decide +kernel

/-- Two active elements at 0x2000, at an address that is not mapped, and on a CHECKED page, with a race and without. -/
theorem witness_VectorMemoryIssue :
    (let s := withX tb [(3, 0x2000), (5, 3), (6, 64)]
     let bad := withX s [(3, 0x40000000)]
     [Instr.vld .i32 .ctx 1 3 0 5 0, .vst .i32 .ctx 1 3 0 5, .vlds .i32 .ctx 1 3 6 0 5 15, .vsts .i32 .ctx 1 3 6 0 5,
      .vgath .i32 .ctx 1 3 2 2 0 5 0, .vscat .i32 .ctx 1 3 2 2 0 5].all fun i =>
       (gives i s fun t => t.core.vq.map (fun q => q.plan.length) = [2]) && trapsAs i bad 0x05 1 &&
       (gives i checkedBench fun t => t.core.vq = [] && t.ctx.pc = 0x1000 + BitVec.ofNat 64 i.len) &&
       trapsAs i racedBench 0x06 0) = true := by decide +kernel

/-- R145-R147: a register bound to two elements; a loop body of one NOP, passed over in three ways, entered, and ended
once; an SREP that awaits a message stream; a body on a page that is not mapped. -/
theorem witness_StreamRegisters :
    (let s := withBytes (withX tb [(3, 0x2000), (5, 2)]) 0x100C [1]
     let s := withBytes s 0x2000 [7, 0, 0, 0, 8]
     let conf := chain s [.scfgMem .i32 0 3 5]
     let busy := queue s (cmdOf 0 (.vand .i32 1 2 3 0))
     let loaded := chain conf [.memoryStreamRead s.cur 0]
     let at' := fun (t : State) => { t with ctx := { t.ctx with pc := 0x1000 } }
     (gives (.scfgMem .i32 0 3 5) s fun t => (t.ctx.streams.get 0).map (fun x => x.bound) = some 2) &&
     (gives (.scfgMsg .i8 7 0) conf fun t => (t.ctx.streams.get 7).map (fun x => x.src) = some .msg) &&
     (gives (.sstop 0) conf fun t => t.ctx.streams.get 0 = none) && (gives (.sstop 1) conf fun t => t.ctx.pc = 0x1014) &&
     waitsOn (.scfgMem .i32 0 3 5) busy && waitsOn (.scfgMsg .i32 0 5) busy && waitsOn (.sstop 0) busy &&
     (nexts (.memoryStreamRead s.cur 0) conf fun t => (t.ctx.streams.get 0).map (fun x =>
       (x.ended, x.groups.map fun g => (g.n, g.lanes.get 0, g.lanes.get 1))) = some (true, [(2, 7, 8)])) &&
     (gives (.srep 4 1 0) s fun t => t.ctx.pc = 0x1014 && t.ctx.loop = none) &&
     (gives (.srep 4 1 2) (at' loaded) fun t => t.ctx.pc = 0x1014) &&
     (gives (.srep 4 1 1) (at' loaded) fun t => t.ctx.pc = 0x100C &&
       t.ctx.loop.map (fun l => (l.stop, l.lanes)) = some (0x1014, 3)) &&
     (let mixed := at' (chain loaded [.scfgMsg .i32 1 5])
      let empty := at' (chain s [.scfgMem .i32 0 3 0])
      let far := withBytes s 0x3FFFFFF4 [1]
      let body : LoopSt := ⟨0x0FF4, 0x1000, 0x1008, 0, 1, 1, 4, 6, 3, false⟩
      let within := { loaded with ctx := { loaded.ctx with pc := 0x1000, loop := some body } }
      let handled := atSuper { within with ctx := { within.ctx with pc := 0x2000, inh := true, trappc := 0x1008 } }
      (nexts .rett handled fun t => t.ctx.pc = 0x0FF4 && !t.ctx.inh && !t.ctx.super &&
        t.ctx.loop.map (fun l => (l.head, l.count)) = some (true, 7)) &&
      (gives (.srep 4 1 0xFF) (at' loaded) fun t => t.ctx.pc = 0x1014) && (gives (.srep 4 1 1) empty fun t => t.ctx.pc = 0x1014) &&
      (gives (.srep 4 1 3) mixed fun t => t.ctx.pc = 0x1000 && t.ctx.loop.map (fun l => (l.head, l.stop)) = some (true, 0x1014)) &&
      trapsAs (.srep 4 2 0) { far with ctx := { far.ctx with pc := 0x3FFFFFE8 } } 0x05 1 &&
      nexts (.addi 4 0 7) within fun t => t.ctx.pc = 0x0FF4 && t.ctx.rx 4 = 7 &&
        t.ctx.loop.map (fun l => (l.head, l.count)) = some (true, 7) &&
        (t.ctx.streams.get 0).map (fun x => x.groups.length) = some 0)) = true := by decide +kernel

/-- R225, R226 on the word 0xFFFFFFFE (-2) and x5 = 3, in memory and in a scratchpad. -/
theorem witness_AtomicsReadModifyWrite :
    (let s := withBytes (withX tb [(3, 0x2000), (5, 3), (4, 0xFFFFFFFE)]) 0x2000 [0xFE, 0xFF, 0xFF, 0xFF]
     let p := withX tb [(3, pad 0), (5, 3)]
     let amo := fun (op : AmoOp) (v : Nat) => gives (.amo op 4 5 3 false true .plain .ctx 0 0) s fun t =>
       t.ctx.rx 4 = -2 && leNat (cellsRead t.mem.home 0x2000 4) = v
     amo .add 1 && amo .and 2 && amo .or 0xFFFFFFFF && amo .xor 0xFFFFFFFD && amo .min 0xFFFFFFFE && amo .max 3 &&
     amo .minz 3 && amo .maxz 0xFFFFFFFE && amo .swap 3 &&
     (gives (.cas 4 5 3 false false .ar .pkg 0 0) s fun t => t.ctx.rx 4 = 0xFFFFFFFE &&
       leNat (cellsRead t.mem.home 0x2000 4) = 3 && t.ctx.regionid = 1) &&
     (gives (.cas 6 5 3 false false .plain .ctx 0 0) s fun t => leNat (cellsRead t.mem.home 0x2000 4) = 0xFFFFFFFE) &&
     gives (.amo .add 4 5 3 true false .plain .ctx 0 15) p fun t => t.ctx.rx 4 = 0 && cellsGet t.mem.sram 0x200000 = 3) =
      true := by decide +kernel

/-- R227-R229: 1 + 2 in an EXA value at 0x2000; a partial read back through its home. -/
theorem witness_ReductionsCombine :
    (let s := withX fvals [(3, 0x2000), (5, 3)]
     let once := chain s [.redx (.f 1) 3 .ar .pkg 0]
     let p := withX fvals [(3, pad 64), (5, 3)]
     let read := fun (t : State) => leNat ((List.range 8).map fun i => t.mem.reads (.glob (0x2000 + i)))
     (gives (.red .add 5 3 true .plain .ctx 0) s fun t => read t = 3) &&
     (gives (.red .maxz 5 3 true .far .pkg 0) s fun t => read t = 3) &&
     (gives (.red .add 5 3 true .rel .pkg 0) p fun t => cellsGet t.mem.sram 0x200040 = 3) &&
     (gives (.redx (.f 2) 3 .ar .pkg 0) once fun t => gives (.cvtexa .ctx 4 3) t fun u => u.ctx.rf 4 = 0x40400000) &&
     (gives (.redx (.f 2) 3 .plain .ctx 0) once fun t => t.ctx.pc = 0x1020 && t.mem.partials.map (fun p => p.line) = [0x40] &&
       gives (.cvtexa .ctx 4 3) t fun u => u.ctx.rf 4 = 0x40400000) &&
     (once.mem.marks.all fun k => once.mem.partials.all fun p => p.line ≠ k.line) &&
     (gives (.cvtexa .rup 4 3) once fun t => t.ctx.rf 4 = 0x3F800000) &&
     gives (.cvtexa .ctx 4 3) p fun t => t.ctx.rf 4 = 0) = true := by decide +kernel

theorem witness_BankModeChanges :
    (let s := withX tb [(3, 16), (5, 15), (6, 8)]
     let i : Instr := .bankcfg .cache 4 6
     let busy := chain s [i]
     let later := chain busy [.bankZeroingDone s.cl 8]
     leave4 s [(.bankcfg .cache 4 3, -1), (.bankcfg .cache 4 5, 2), (.bankcfg .scratch 4 6, 1)] && waitsOn i s &&
     (gives i s fun t => (t.getCl t.cl).changing = [⟨8, .cache⟩]) && waitsOn i busy && leave4 later [(i, 1)] &&
     (nexts (.bankZeroingDone s.cl 8) (chain (withX busy [(3, pad 0)]) [.stf 5 at3]) fun t =>
       (t.getCl t.cl).modes.get 8 = .cache && t.mem.sram = [] && t.mem.full = []) &&
     refuses (.bankZeroingDone s.cl 8) (queue busy { cmdOf 0 (.vst .i32 .ctx 2 3 0 0) with
       plan := [⟨0, .scr (scrKey s.cl 0x200004), 0, none, none, false⟩] })) = true := by decide +kernel

theorem witness_CacheMaintenance :
    (let s := withX (withBytes tb 0x2000 [9]) [(3, 0x2008), (6, 1)]
     let w := s.setCl s.cl { s.getCl s.cl with ways := [⟨0x40, 0, List.replicate 128 7⟩, ⟨0x41, 0, []⟩] }
     let f := chain s [.pfl at3]
     let d := { s with mem := { s.mem with dirty := [(0x40, [List.replicate 128 5])], l2 := [0x40] } }
     (gives .cinvAll w fun t => (t.getCl t.cl).ways = []) &&
     (gives (.cinv at3) w fun t => (t.getCl t.cl).ways.map (fun w => w.line) = [0x41]) &&
     trapsAs (.disc at3) (withX s [(3, pad 0)]) 0x05 2 && trapsAs (.disc at3) racedBench 0x06 0 &&
     (gives (.disc at3) checkedBench fun t => t.mem.accesses.map (fun a => (a.lo, a.len, a.write)) = [(0x600000, 128, true)]) &&
     (gives (.disc at3) w fun t => (t.getCl t.cl).ways.map (fun w => w.line) = [0x41] && !t.mem.l2.contains 0x40) &&
     (gives (.disc at3) d fun t => t.ctx.pc = 0x1008) &&
     (nexts (.cacheFill s.cl 0) f fun t => (t.getCl t.cl).fills = [] &&
       (t.getCl t.cl).ways.map (fun w => (w.line, w.bank, w.bytes.headD 0)) = [(0x40, 0, 9)]) &&
     refuses (.pageWalk 0 0x2000) s &&
     (let w := s.walk 0 0x2000
      let m := (s.mem.noteWalk (some ⟨0, 0, 0⟩) 0 0x2000 w).noteWalk (some ⟨1, 0, 0⟩) 0 0x2008 w
      decide (m.walks.length = 1) && decide (m.ctlb = []) &&
      nexts (.pageWalk 0 0x2010) { s with mem := m } fun t => t.mem.walks = [] &&
        t.mem.ctlb.map (fun d => d.2.map fun e => (e.va, e.level)) = [[(0, 2)], [(0, 2)]] &&
        t.mem.dtlb.map (fun d => (d.1, d.2.map fun e => (e.va, e.level))) = [(0, [(0, 2)]), (1, [(0, 2)])])) = true := by
  decide +kernel

/-- A list of bytes with zeros after it, n long. -/
def zeroPad (n : Nat) (l : List Byte) : List Byte := l ++ List.replicate (n - l.length) 0

/-- A job card (Table 11.1): engine, operation, flags, read and write footprints, parameters. -/
def cardBytes (engine op fl : Nat) (reads writes : List (Nat × Nat)) (params : List Byte) : List Byte :=
  zeroPad 16 [BitVec.ofNat 8 engine, BitVec.ofNat 8 op, BitVec.ofNat 8 fl, 0, BitVec.ofNat 8 (reads.length + 16 * writes.length)]
    ++ zeroPad 96 (((reads ++ writes).map fun p => leBytes 8 p.1 ++ leBytes 8 p.2).flatten) ++ zeroPad 144 params

/-- The bench with two more pages: 2 MiB at VA 2^30, COMPUTE and PINNED, and 2 MiB after it, PINNED; an entry 0 of the shape
table: one token, two experts, FP32 scores at 0x5000; x3 names a card at 0x2000. -/
def tm : State :=
  let s := withBytes tb 0x12008 (leBytes 8 0x13001)
  let s := withBytes s 0x13000 (leBytes 8 0x200000015F ++ leBytes 8 0x400000005F)
  let s := withBytes s 0x4000 (leBytes 8 0x5000 ++ leBytes 4 1 ++ [2, 0, 0x0A, 0] ++ leBytes 8 8 ++ leBytes 8 4)
  let s := chain (withX s [(3, 0x4000)]) [.shpset 0 3 0]
  withX s [(3, 0x2000)]

/-- A card at 0x2000. -/
def withCard (bs : List Byte) : State := withBytes tm 0x2000 bs

/-- Copies of 16 bytes from 0x3000 to 0x3100, a gather and a scatter of one element, a FILL of 16 bytes. -/
def copyCard (op : Nat) : List Byte :=
  cardBytes 1 op 0 (if op = 0 then [(0x3000, 16)] else if op = 3 then [] else [(0x3000, 16), (0x3200, 16)]) [(0x3100, 16)]
    ((leBytes 4 (if op = 1 ∨ op = 2 then 1 else 16) ++ leBytes 4 1 ++ leBytes 4 1 ++ leBytes 4 1) ++ List.replicate 48 0 ++ [1])

def matrixCard : List Byte :=
  cardBytes 2 0 0 [(0x6000, 64), (0x6100, 64)] [(0x7000, 64)]
    (leBytes 8 0x1000 ++ leBytes 8 0x1020 ++ [9, 9, 10, 0] ++ leBytes 4 1 ++ leBytes 4 1 ++ leBytes 4 1)

def routingCard : List Byte := cardBytes 3 0 0 [(0x5000, 8)] [(0x5100, 4), (0x5200, 4), (0x5300, 8)] [0, 1]

/-- One row to VA 2^30 + 0x1800, from as many rows before it as the operation reads. -/
def dramCard (op : Nat) (base : Nat) : List Byte :=
  cardBytes 4 op 0 ((List.range (dramSources op)).map fun k => (base + 0x800 * k, 0x800)) [(base + 0x1800, 0x800)]
    (leBytes 4 1)

def migrateCard (op base : Nat) : List Byte := cardBytes 5 op 0 [] [(base, 0x200000)] []

/-- The job in slot 0 of the bench's cluster. -/
def job0 : JobRef := ⟨benchCluster, 0⟩

/-- Change the job of slot 0. -/
def editJob0 (s : State) (f : JobSt → JobSt) : State :=
  match s.job? job0 with
  | some j => s.setJob job0 (f j)
  | none => s

/-- Slots 0 to 31 hold jobs. -/
def fullQueue (s : State) : State :=
  match s.job? job0 with
  | none => s
  | some j => s.setCl s.cl { s.getCl s.cl with jobs := (List.range 32).map fun n => (n, j) }

/-- A job is queued with an id, and its slot and phase are as given. -/
def queues (i : Instr) (s : State) (r : JobRef) (ph : JobPhase) : Bool :=
  gives i s fun t => (t.job? r).map (fun j => j.phase) = some ph

/-- R307 for each engine; a misaligned card; a full queue; a second card that depends on the first; core 5 has entered a
job in this cycle, its turn being later. -/
theorem witness_JobsAreSubmitted :
    (queues (.cpjob 4 3 0) (withCard (copyCard 0)) job0 .ready && queues (.mxjob 4 3 0) (withCard matrixCard) job0 .ready &&
     queues (.rtjob 4 3 0) (withCard routingCard) job0 .ready &&
     queues (.drjob 4 3 15) (withCard (dramCard 3 0x40000000)) job0 .ready &&
     queues (.mgjob 4 3 0) (withCard (migrateCard 0 0x40200000)) job0 .ready &&
     trapsAs (.cpjob 4 3 0) (withCard ((cardBytes 1 0 0 [(0x3FFFFFF0000, 16)] [(0x3100, 16)] []).set 192 1)) 0x01 5 &&
     ([Instr.cpjob 4 5 0, .mxjob 4 5 0, .rtjob 4 5 0, .drjob 4 5 0, .mgjob 4 5 0].all fun i =>
       trapsAs i (withX tm [(5, 0x2001)]) 0x04 0) &&
     (let one := chain (withCard (copyCard 0)) [.cpjob 4 3 0]
      queues (.cpjob 4 3 0) one ⟨benchCluster, 1⟩ .queued && leave4 one [(.cpjob 4 3 0, 33)] &&
      waitsOn (.cpjob 4 3 0) (fullQueue one)) &&
     (let s := withCard (copyCard 0)
      waitsOn (.cpjob 4 3 0) (s.setCl s.cl { s.getCl s.cl with subCycle := 0, subCore := some 5 }))) = true := by decide +kernel

/-- R308, R309: a pending job, a completed one, an id that names none, a detached job; completions with a counter and
flags, and with a barrier that is OPEN or not; a running matrix job. -/
theorem witness_JobsAreReported :
    (let one := chain (withCard (copyCard 0)) [.cpjob 5 3 0]
     let ended := editJob0 one fun j => { j with phase := .ending, code := 1, detail := 16 }
     let done := editJob0 one fun j => { j with phase := .done, code := 1, detail := 16 }
     let loose := editJob0 one fun j => { j with card := { j.card with detach := true } }
     leave4 (withX one [(5, 32)]) [(.jwait 4 5, 0xFF), (.jpoll 4 5, 0xFF), (.jcancel 4 5, -1)] &&
     leave4 loose [(.jwait 4 5, 0xFF), (.jpoll 4 5, 0xFF)] && waitsOn (.jwait 4 5) one &&
     leave4 one [(.jpoll 4 5, 0x10000), (.jcancel 4 5, 1)] && leave4 done [(.jcancel 4 5, 0)] &&
     ([Instr.jwait 4 5, .jpoll 4 5].all fun i => gives i done fun t => t.job? job0 = none) &&
     (nexts (.jobComplete job0) ended fun t => (t.job? job0).map (fun j => (j.phase, j.code, j.detail)) =
       some (.done, 1, 16)) &&
     (let counted := editJob0 ended fun j => { j with flags := 5, card := { j.card with ctr := some 3, detach := true } }
      let fails := editJob0 ended fun j => { j with code := 5, card := { j.card with bar := some (pad 0) } }
      let bound := chain (withX fails [(3, pad 0), (5, 2)]) [.barinitInit 0 3 5]
      let matrix := chain (withCard matrixCard) [.mxjob 5 3 0, .matrixJobStart]
      (nexts (.jobComplete job0) counted fun t => t.ctr 3 = 1 && t.job? job0 = none && (5, 0) ∈ (t.getCl t.cl).clPend) &&
      (nexts (.jobComplete job0) bound fun t => t.barrier t.cl 0x200000 = ⟨0, 2, 0, 2, 1, 3⟩) &&
      (nexts (.jobComplete job0) (chain (withX fails [(3, pad 0)]) [.barinitInit 0 3 0]) fun t =>
        t.barrier t.cl 0x200000 = ⟨0, 0, 0, 0, 1, 2⟩) &&
      (gives (.jcancel 4 5) (editJob0 matrix fun j => { j with phase := .ending, code := 1, detail := 9 }) fun t =>
        (t.job? job0).map (fun j => (j.code, j.detail)) = some (2, 0)) &&
      gives (.jcancel 4 5) matrix fun t => t.ctx.rx 4 = 1 && (t.job? job0).map (fun j => (j.phase, j.code)) =
        some (.ending, 2) && !(t.getCtx ⟨⟨benchCluster, 8⟩, 0⟩).live && !(t.mx benchCluster).issuer.running)) = true := by decide +kernel

/-- An event of the job in slot 0 leaves it in a phase. -/
def phase (i : Instr) (s : State) (ph : JobPhase) (code : Nat) : Bool :=
  nexts i s fun t => (t.job? job0).map (fun j => (j.phase, j.code)) = some (ph, code)

/-- The bench with a job in slot 0, ready. -/
def readyJob (engine op : Nat) (reads writes : List Footprint) (params : List Byte) : State :=
  let card : Card := ⟨0x2000, engine, op, false, 0, reads, writes, .rne, false, none, none, params⟩
  tm.setJob job0 ⟨0, card, 0, false, [], .ready, 0, 0, 0, 0, 0, 0, 0, none, 0, 0⟩

/-- A job of one row on the 2 MiB page at an address. -/
def readyRow (op base : Nat) : State :=
  let at' := fun (n : Nat) => (⟨BitVec.ofNat 64 (base + 0x800 * n), 0x800, 0⟩ : Footprint)
  readyJob 4 op ((List.range (dramSources op)).map at') [at' 3] (leBytes 4 1)

/-- R240, R297: the operations of each engine; an in-DRAM job on a page without COMPUTE ends with status 7. -/
theorem witness_EnginesStartJobs :
    (([(Instr.copy job0, 0), (.gather job0, 1), (.scatter job0, 2), (.fill job0, 3)].all fun p =>
       phase p.1 (readyJob 1 p.2 [] [] []) .running 0) &&
     ([(Instr.rcopy job0, 0), (.rfill0 job0, 1), (.rfill1 job0, 2), (.rnot job0, 3), (.rand job0, 4), (.ror job0, 5),
        (.rxor job0, 6), (.rmaj job0, 7)].all fun p =>
       phase p.1 (readyRow p.2 0x40000000) .running 0 && phase p.1 (readyRow p.2 0x40200000) .ending 7) &&
     ([(Instr.demote job0, 0), (.promote job0, 1), (.expand job0, 2)].all fun p =>
       phase p.1 (readyJob 5 p.2 [] [⟨0x40200000, 0x200000, 0⟩] []) .running 0) &&
     phase (.routingJob job0) (readyJob 3 0 [⟨0x5000, 8, 0⟩] [⟨0x5100, 4, 0⟩, ⟨0x5200, 4, 0⟩, ⟨0x5300, 8, 0⟩] [0, 1])
       .running 0) = true := by decide +kernel

/-- The bench with a page of 2 MiB at VA 2^30 + 2^22, neither PINNED nor CHECKED, one free slot range, and a DEMOTE job. -/
def demoting : State :=
  let s := readyJob 5 0 [] [⟨0x40400000, 0x200000, 0⟩] []
  let s := withBytes (withBytes s 0x13010 (leBytes 8 0x600000001F)) 0x600005 [7]
  editJob0 (s.setPart 0 { benchPart with slots := [(0, 512)] }) fun j => { j with phase := .running }

/-- Copied bytes, as chunks and as elements of each operation; a chunk that completes, adds to or breaks its barrier, and
one that finds it BROKEN; of two scores the larger wins; a row copied; a PINNED page skipped, and a page that may be moved;
shape records. -/
theorem witness_EnginesWork :
    (let ones := leBytes 4 16 ++ leBytes 4 1 ++ leBytes 4 1 ++ leBytes 4 1 ++ List.replicate 48 0 ++ [1]
     let copying := chain (withBytes (readyJob 1 0 [⟨0x3000, 16, 0⟩] [⟨0x3100, 16, 0⟩] ones) 0x3000 [1, 2, 3]) [.copy job0]
     let routing := chain (withBytes (readyJob 3 0 [⟨0x5000, 8, 0⟩] [⟨0x5100, 4, 0⟩, ⟨0x5200, 4, 0⟩, ⟨0x5300, 8, 0⟩] [0, 1])
       0x5004 [0, 0, 0x80, 0x3F]) [.routingJob job0]
     let row := chain (readyRow 0 0x40000000) [.rcopy job0]
     let moving := chain (readyJob 5 0 [] [⟨0x40200000, 0x200000, 0⟩] []) [.demote job0]
     let other := tm.setDie 0 ⟨[(63, ⟨1, 0x5000, 1, 2, 8, 4, false⟩)]⟩
     (nexts (.copyChunkDelivery job0) copying fun t => cellsRead t.mem.home 0x3100 4 = [1, 2, 3, 0] &&
       (t.job? job0).map (fun j => j.phase) = some .ending) &&
     (nexts (.routingToken job0) routing fun t => cellsRead t.mem.home 0x5100 4 = [1, 0, 0, 0] &&
       cellsRead t.mem.home 0x5300 8 = [0, 0, 0, 0, 1, 0, 0, 0]) && decide ((routeToken 1 false [0, 0]).1 = [0]) &&
     (match row.job? job0 with
      | some j => match row.newRow job0 j with | (_, .ok _) => true | _ => false
      | none => false) &&
     phase (.dramRow job0) row .ending 1 &&
     (nexts (.migrationPage job0 0) moving fun t => (t.job? job0).map (fun j => (j.skipped, j.detail)) = some (1, 0)) &&
     (let v := (demoting.part? 0).getD benchPart
      match demoting.walk 0 0x40400000 with
      | .page g path => !g.pinned && g.level = 3 && migrates 0 (leafTier g.e) && (path.getLast?.map WalkMark.pte) = some 0x13010 &&
          (match demoting.newPlace v 0 0 g with | some n => !demoting.moveRaces (.job 5 0 0) g n.1 | none => false)
      | _ => false) &&
     (let unit := fun (op : Nat) (b : Byte) =>
        let s := readyJob 1 op (if op = 3 then [] else [⟨0x3000, 16, 0⟩, ⟨0x3200, 16, 0⟩]) [⟨0x3100, 16, 0⟩]
          (ones.take 72 ++ List.replicate 7 0 ++ [9])
        let s := withBytes (withBytes s 0x3000 [1, 2, 3]) 0x3200 [2, 0, 0, 0, 1]
        match s.job? job0 with
        | some j => match s.copyUnit job0 j (s.copyPlan 0 j.card) [] 1 with
          | .ok (t, _) => cellsRead t.mem.home 0x3100 3 = [0, b, 0]
          | _ => false
        | none => false
      unit 0 2 && unit 1 2 && unit 2 2 && unit 3 9) &&
     (let bound := fun (s : State) => editJob0 s fun j => { j with card := { j.card with bar := some (pad 0) } }
      let s := withX copying [(3, pad 0), (5, 1), (6, 16)]
      let exact' := bound (chain s [.barinitInit 0 3 5, .barexp 0 6, .bararr 4 0])
      let more := bound (chain s [.barinitInit 0 3 5, .barexp 0 6, .barexp 0 6])
      let broken := bound (chain s [.barinitInit 0 3 0])
      let bar := fun (t : State) => t.barrier t.cl 0x200000
      (nexts (.copyChunkDelivery job0) exact' fun t => bar t = ⟨1, 1, 0, 1, 0, 0⟩) &&
      (nexts (.copyChunkDelivery job0) more fun t => bar t = ⟨0, 1, 16, 1, 0, 0⟩ &&
        (t.job? job0).map (fun j => j.detail) = some 16) &&
      (nexts (.copyChunkDelivery job0) (bound (chain s [.barinitInit 0 3 5])) fun t => bar t = ⟨0, 1, 0, 1, 1, 1⟩) &&
      phase (.copyChunkDelivery job0) broken .ending 8) &&
     (let s := withX (withBytes tm 0x4100 [1]) [(3, 0x4000), (5, 0x4100)]
      leave4 s [(.shpset 4 3 63, 0), (.shpset 4 5 63, -1)]) &&
     leave4 (withX other [(3, 0x4000)]) [(.shpset 4 3 63, -2)]) = true := by decide +kernel

/-- The bench's matrix engine has started the job of slot 0; the issuing context is a control core's. -/
def onEngine (core : Nat) : State :=
  let s := withBytes (withBytes (withCard matrixCard) 0x6000 [0, 0x40]) 0x6100 [0x40, 0x40]
  let s := chain s [.mxjob 5 3 0, .matrixJobStart]
  withX (s.switchTo ⟨⟨benchCluster, core⟩, 0⟩) [(3, 0x6000), (5, 0x6100), (6, 0x7000), (7, 0x30002)]

/-- Change the matrix engine of the bench. -/
def editMx (s : State) (f : MatrixSt → MatrixSt) : State := s.setMx benchCluster (f (s.mx benchCluster))

/-- R259, R260, R263, R269, R314; a further job that JTAKE takes, waits for or leaves; EXIT of a control core. -/
theorem witness_MatrixJobControl :
    (let ready := chain (withCard matrixCard) [.mxjob 5 3 0]
     let s := onEngine 8
     let q := onEngine 9
     let gone := editMx s fun m => { m with stager := { m.stager with holds := false } }
     let idle := editMx gone fun m => { m with held := none }
     let stored := editMx q fun m => { m with stores := [(.glob 0x7000, [1])] }
     let last := editMx q fun m => { m with stager := { m.stager with holds := false } }
     let given := editMx s fun m => { m with stager := { m.stager with given := some 0x2000 } }
     let high := editMx s fun m => { m with sem := m.sem.set 0 255 }
     let low := editMx s fun m => { m with sem := m.sem.set 0 254, kstep := 7, row := 3 }
     (nexts .matrixJobStart ready fun t => (t.getCtx ⟨⟨benchCluster, 9⟩, 0⟩).pc = 0x1020 &&
       (t.getCtx ⟨⟨benchCluster, 8⟩, 0⟩).rx 1 = 0x2000) &&
     leave4 given [(.jtake 4, 0x2000)] && leave4 s [(.jtake 4, 0)] && (gives (.jdone 7) gone fun t => t.ctx.pc = 0x1008) &&
     waitsOn (.jdone 7) stored && (gives (.jdone 7) q fun t => (t.job? job0).map (fun j => j.detail) = some 0x30002) &&
     (gives (.jdone 7) last fun t => (t.job? job0).map (fun j => (j.phase, j.code)) = some (.ending, 1)) &&
     (gives (.semv 0) low fun t => (t.mx benchCluster).sem.get 0 = 255) && waitsOn (.semv 0) high && waitsOn (.semp 0) s &&
     (gives (.semp 0) high fun t => (t.mx benchCluster).sem.get 0 = 254) && trapsAs (.mprogRd 4) idle 0x01 5 &&
     trapsAs (.mprogWr 7) idle 0x01 5 && leave4 low [(.mprogRd 4, 0x30007)] &&
     (gives (.mprogWr 7) s fun t => (t.mx benchCluster).kstep = 2 && (t.mx benchCluster).row = 3) &&
     (let next := fun (f : JobSt → JobSt) (other : Bool) =>
        let t := editMx gone fun m => { m with held := none, issuer := { m.issuer with holds := false, atTake := other } }
        match t.job? job0 with
        | some j => (t.setJob job0 { j with phase := .ending }).setJob ⟨benchCluster, 1⟩ (f { j with phase := .ready, seq := 1 })
        | none => t
      let alone := editMx (editJob0 gone fun j => { j with phase := .done }) fun m => { m with held := none }
      leave4 alone [(.jtake 4, 0)] && waitsOn (.jtake 4) (next (fun j => { j with phase := .queued }) true) &&
      waitsOn (.jtake 4) (next id false) &&
      leave4 (next (fun j => { j with card := { j.card with params := leBytes 8 0x1004 ++ leBytes 8 0x1020 } }) true) [(.jtake 4, 0)] &&
      gives (.jtake 4) (next id true) fun t => t.ctx.rx 4 = 0x2000 && (t.mx benchCluster).held = some 1 &&
        (t.mx benchCluster).issuer.given = some 0x2000) &&
     waitsOn (.exit 7) stored && (gives (.exit 7) gone fun t => !t.ctx.live && (t.mx benchCluster).issuer.running) &&
     (gives (.exit 7) q fun t => !(t.mx benchCluster).issuer.running && (t.mx benchCluster).held = some 0) &&
     gives (.exit 7) last fun t => (t.mx benchCluster).held = none &&
       (t.job? job0).map (fun j => (j.phase, j.code, j.detail)) = some (.ending, 1, 0x30002)) = true := by
  decide +kernel

/-- BF16 operands 2 and 3: the K-step adds 6 to accumulator 0; MSTA stores it as FP32. -/
theorem witness_MatrixDataInstructions :
    (let s := onEngine 8
     let q := onEngine 9
     let loaded := editMx q fun m => { m with a0 := [[.fin false 2 0]], b0 := [[.fin false 3 0]] }
     let six := editMx q fun m => { m with acc := [(0, 0x40C00000 :: List.replicate 255 0)] }
     let first := fun (t : State) (n : Nat) => (Map.getD (t.mx benchCluster).acc n zeroAcc).headD 0
     (gives (.mlda false 3 0 0 1 1 15) s fun t => (((t.mx benchCluster).a0.headD []).headD (.inf true)) = .fin false 128 (-6))
     && (gives (.mldb false 5 0 1 1 0) s fun t => (((t.mx benchCluster).b0.headD []).headD (.inf true)) = .fin false 192 (-6))
     && (gives (.mzero 0 63) six fun t => first t 0 = 0) && (gives (.mma 0 false false 0 15) loaded fun t =>
       first t 0 = 0x40C00000 && (t.mx benchCluster).kstep = 1) &&
     (gives (.mma 0 false false 1 0) loaded fun t => t.ctx.waiting && (t.mx benchCluster).row = 1) &&
     (gives (.msta 0 6 0 0 1) six fun t => (t.mx benchCluster).stores = [(.glob 0x7000, [0, 0, 0xC0, 0x40])]) &&
     (nexts .mstaStoresPerformed (chain six [.msta 0 6 0 0 1]) fun t => cellsRead t.mem.home 0x7000 4 = [0, 0, 0xC0, 0x40])
     && decide ((kstepSum .rne [.fin false 3 1, .fin false 1 95]).1 = (specFp32.encode .rne (.fin false (2 ^ 95 + 6) 0)).1)) =
      true := by decide +kernel

/-- A partition with resources: counters 0-63, queue pairs 0-63, every node, work queue 1, conversations, names, and a
fault log of 64 records. -/
def fullCfg : PartCfg :=
  { benchCfg with
    ctrs := (0, 64), qps := (0, 64), nodes := 0xFF, wq0 := 1, nwq := 1, cfgq := 1, convs := 8, xnames := 8
    ctrlset := 1, flog := 0x20000, queues := [⟨0x21000, 0x22000, 0x23000, 2, 2⟩] }

/-- The bench with them. -/
def tr : State := tb.setPart 0 { benchPart with cfg := fullCfg }

/-- A queue-pair entry at 0x2000 (Table 11.8): 4 bytes from one scratchpad word to another; `fl` has the bits of byte
39 (trigger on counter 5 at 2, LCTR 6, RCTR 7), `op` those of bytes 36 to 38. -/
def entryBytes (fl : Byte) (op : List Byte) : List Byte :=
  leBytes 8 (pad 0).toNat ++ leBytes 8 (pad 64).toNat ++ leBytes 4 4 ++ [5, 0, 6, 0] ++ leBytes 8 2 ++ [7, 0, 0, 0] ++ op
    ++ [fl] ++ List.replicate 24 0

/-- R250, R253, R324, R325; two armed entries, of which a halted partition fires none; sides that are no places. -/
theorem witness_CountersAndQueuePairs :
    (let s := withX tr [(3, 63), (5, 64), (6, 2), (1, 0x2000), (7, 0)]
     let trig := withBytes s 0x2000 (entryBytes 1 [0, 0, 0])
     let free := withBytes s 0x2000 (entryBytes 0 [0, 0, 0])
     let armed := chain trig [.qppost 7 3 1]
     let some5 := chain s [.ctrset 3 5]
     let full := chain trig [.qppost 7 3 1]
     let many := { full with pkg := { full.pkg with
       qps := full.pkg.qps.map fun q => (q.1, (q.2.map fun e => (List.range 256).map fun n => { e with pos := n }).flatten) } }
     ([Instr.ctrset 5 6, .ctradd 4 5 6, .ctrwait 4 5 6, .qppost 4 5 1, .qpcancel 4 5 6].all fun i =>
       trapsAs i s 0x05 1 && gives i s fun t => t.ctx.trapinfo = 64) &&
     (gives (.ctrset 3 6) s fun t => t.ctr 63 = 2) && (gives (.ctradd 4 3 6) some5 fun t => t.ctr 63 = 66 && t.ctx.rx 4 = 64)
     && waitsOn (.ctrwait 4 3 6) s && leave4 some5 [(.ctrwait 4 3 6, 64), (.ctrwait 4 3 5, 64)] &&
     leave4 s [(.qpcancel 4 3 6, 0)] && (gives (.qpcancel 4 3 7) armed fun t => t.ctx.rx 4 = 1 && t.qpList 63 = []) &&
     (gives (.ctrset 0 6) armed fun t => (t.qpList 63).length = 1) &&
     (gives (.ctradd 4 3 6) (chain armed [.ctrset 6 5]) fun t => (t.qpList 63).length = 1) &&
     (gives (.ctrset 3 6) (withX armed [(3, 5)]) fun t => t.qpList 63 = [] && t.pkg.fired.length = 1) &&
     (gives (.qppost 4 3 1) trig fun t => (t.qpList 63).length = 1 && t.pkg.fired = []) &&
     (gives (.qppost 4 3 1) free fun t => t.qpList 63 = [] && t.pkg.fired.length = 1) &&
     (let two := withX (chain armed [.qppost 7 3 1]) [(3, 5)]
      let still := two.setPart 0 { benchPart with cfg := fullCfg, state := .dumping }
      (gives (.ctrset 3 6) two fun t => t.qpList 63 = [] && t.pkg.fired.map (fun f => f.entry) = two.qpList 63) &&
      (gives (.ctrset 3 6) still fun t => t.qpList 63 = two.qpList 63 && t.pkg.fired = [])) &&
     trapsAs (.qppost 4 3 1) (withBytes trig 0x2000 (leBytes 8 0x0100000000000000)) 0x05 1 &&
     leave4 many [(.qppost 4 3 1, -1)]) = true := by decide +kernel

/-- R252-R254; an entry whose source is no place; one that an earlier entry of its queue pair precedes. -/
theorem witness_FiredEntriesMoveData :
    (let put := fun (op : List Byte) => chain (withX (withBytes tr 0x2000 (entryBytes 6 op))
       [(3, 63), (1, 0x2000), (5, 0x04030201), (6, pad 0), (8, pad 64), (9, 16)])
       [.st 5 ⟨6, 0, 0, 0⟩ 2 .plain .ctx, .st 9 ⟨8, 0, 0, 0⟩ 2 .plain .ctx, .qppost 7 3 1]
     let w := put [0, 0, 0]
     let r := put [1, 0, 4]
     (nexts .qpSourceReadsDone w fun t => t.ctr 6 = 1 && t.pkg.fired.map (fun f => f.data) = [some [1, 2, 3, 4]]) &&
     (let edit := fun (s : State) (f : QpFired → QpFired) => { s with pkg := { s.pkg with fired := s.pkg.fired.map f } }
      let bad := edit w fun f => { f with entry := { f.entry with src := 0x0100000000000000 } }
      let later := (edit w fun f => { f with entry := { f.entry with seq := f.entry.seq + 1 } }).pkg.fired
      let twice := { w with pkg := { w.pkg with fired := w.pkg.fired ++ later } }
      (nexts .qpSourceReadsDone bad fun t => t.ctr 6 = 0 && t.pkg.fired = []) &&
      (twice.pkg.fired[1]?.map twice.startsLater) = some true && refuses .qpSourceReadsDone { twice with unit := 1 }) &&
     (nexts .write (chain w [.qpSourceReadsDone]) fun t => cellsRead t.mem.sram 0x200040 4 = [1, 2, 3, 4] && t.ctr 7 = 1 &&
       t.pkg.fired = []) &&
     (let read := chain w [.qpSourceReadsDone]
      let k := read.getCl read.cl
      nexts .write (read.setCl read.cl { k with modes := k.modes.set 8 .cache }) fun t => t.ctr 7 = 0 && t.pkg.fired = []) &&
     (let page := withBytes (withBytes w 0x12008 (leBytes 8 0x13001)) 0x13000 (leBytes 8 0x60000000DF)
      let there := { page with pkg := { page.pkg with
        fired := page.pkg.fired.map fun f => { f with entry := { f.entry with dst := 0x40000008 } } } }
      let read := chain there [.qpSourceReadsDone]
      let raced := { read with mem := read.mem.log ⟨.ctx ⟨⟨benchCluster, 1⟩, 0⟩, 0, 0x600008, 4, true, false⟩ }
      (nexts .write read fun t => cellsRead t.mem.home 0x600008 4 = [1, 2, 3, 4] && t.ctr 7 = 1) &&
      nexts .write raced fun t => t.ctr 7 = 0 && t.pkg.fired = []) &&
     nexts .writeReduce (chain r [.qpSourceReadsDone]) fun t => cellsRead t.mem.sram 0x200040 4 = [17, 2, 3, 4] &&
       t.ctr 7 = 1) = true := by decide +kernel

/-- The second cluster of the bench's partition. -/
def cluster1 : ClusterId := ⟨0, 1, 0⟩

/-- The partition with resources, a second cluster, step 1, and BF16 weight pages at VA 2^30 + 2^22. -/
def te : State :=
  let s := withBytes tm 0x13010 (leBytes 8 0x600009005F)
  let s := s.setPart 0 { benchPart with cfg := fullCfg, stepno := 1 }
  s.setCl cluster1 { s.getCl cluster1 with part := some 0 }

/-- Expert 5: replica 0 is LIVE on the bench's cluster, with weights of version 1; cluster 1 is spare. -/
def expert5 : Expert :=
  { expertOf 0 1 (zeroPad 512 ([5, 0, 0, 0, 1, 1, 0, 0, 0xFF, 0xFF, 0, 0, 1])) with
    groups := [(benchCluster, 0x40401000), (cluster1, 0x40402000)]
    weights := 0x40400000, wbytes := 128, ectr := 7, dctr := Vector.replicate 8 3, policy := ⟨1024, 100, 0, 2, 7, 3⟩
    reps := (Vector.replicate 16 Replica.init).set 0 { Replica.init with state := .live, version := some 1 } }

/-- The bench with an expert 5, its snapshot at the selector of die 0. -/
def withExpert (e : Expert) : State :=
  { te with pkg := { te.pkg with experts := [(5, e)], selectors := [⟨0, 5, 1, 1⟩] } }

/-- Another step number. -/
def stepAs (s : State) (n : Nat) : State := s.setPart 0 { benchPart with cfg := fullCfg, stepno := n }

/-- A token of one byte. -/
def token1 : Token := ⟨[9], 0, 0xFFFF⟩

/-- What holds of expert 5 afterwards. -/
def ofExpert (t : State) (f : Expert → Bool) : Bool := match t.expert? 5 with | some e => f e | none => false

/-- Permits 7 at the expert and 3 at the die; step 0; the seal; a replica that is not there, and a stale one; a late token. -/
theorem witness_ExpertAdmission :
    (let pol := zeroPad 64 (leBytes 8 1024 ++ leBytes 4 2 ++ leBytes 4 1 ++ leBytes 8 1 ++ leBytes 4 1 ++ leBytes 4 1)
     let regs := [((1 : XReg), (0x2000 : Word)), (3, 5), (5, 0x3000), (6, 7), (7, 8), (8, 0x6000005), (9, 0x4000)]
     let put := fun (s : State) => withX (withBytes (withBytes s 0x2000 pol) 0x4000 [5, 0, 0, 0, 1, 0, 0, 0, 1]) regs
     let s := put (withExpert expert5)
     let zero := put (stepAs (withExpert expert5) 0)
     let sealed := put (withExpert { expert5 with sealed := true })
     let poor := put (withExpert { expert5 with dctr := Vector.replicate 8 0 })
     let rep := fun (r : Replica) => put (withExpert { expert5 with reps := expert5.reps.set 0 r })
     let two : Replica := { Replica.init with state := .live, version := some 1, queue := [token1], bqueue := [token1], out := 1 }
     let held := put (withExpert { expert5 with handles := [⟨1, 1, 4⟩] })
     let deliver := fun (b : Bool) => { s with pkg := { s.pkg with deliveries := [⟨5, 0, token1, 1, b⟩] } }
     leave4 s [(.xpol 4 3 1, 0), (.xpol 4 3 5, -9), (.xresv 4 3 7 5, -1), (.xresv 4 3 0 5, -1), (.xsend 4 3 1 0 248, 0),
       (.xsendr 4 3 1 0 1, 0), (.xsendr 4 3 1 7 1, -5), (.xbatchFwd 4 8 5 0, -5), (.xbatchBwd 4 8 5 0, -5),
       (.xbatchReload 4 8, -5), (.xbatchReload 4 3, 0)] &&
     leave4 zero [(.xresv 4 3 6 5, -10), (.xsend 4 3 1 0 1, -10)] && leave4 sealed [(.xresv 4 3 6 5, -2), (.xsend 4 3 1 0 1, -2)]
     && leave4 poor [(.xsend 4 3 1 0 1, -1)] && (gives (.xresv 4 3 6 5) s fun t => t.ctx.rx 4 = 7 &&
       cellsRead t.mem.home 0x3000 16 = [5, 0, 0, 0, 0, 0, 0, 0, 1, 0, 0, 0, 7, 0, 0, 0] && ofExpert t fun e => e.ectr = 0) &&
     (gives (.xsend 4 3 1 0 1) s fun t => t.pkg.deliveries.length = 1 && ofExpert t fun e =>
       e.ectr = 6 && e.dctr.get 0 = 2 && e.count = 1 && (e.rep 0).out = 1) &&
     (gives (.xpol 4 3 1) s fun t => ofExpert t fun e => e.nextPolicy = ⟨1024, 2, 1, 1, 1, 1⟩) &&
     leave4 (rep { two with version := none }) [(.xbatchFwd 4 3 5 6, -3)] && (s.namePeer 5).isNone &&
     waitsOn (.xbatchReload 4 3) (rep { two with version := none, reloading := true }) &&
     leave4 s [(.xsend 4 3 1 9 1, -12)] && leave4 zero [(.xsend 4 3 1 9 1, -10)] && leave4 sealed [(.xsend 4 3 1 9 1, -2)] &&
     leave4 (put (withExpert { expert5 with handles := [⟨1, 1, 0⟩] })) [(.xsend 4 3 1 9 1, -1)] &&
     (gives (.xsend 4 3 1 9 1) held fun t => t.ctx.rx 4 = 0 && t.pkg.deliveries.length = 1 && ofExpert t fun e =>
       e.ectr = 7 && e.handles = [⟨1, 1, 3⟩]) &&
     (gives (.xbatchReload 4 3) (rep { two with version := none }) fun t => t.ctx.waiting && ofExpert t fun e =>
       (e.rep 0).reloading) &&
     (gives (.xbatchFwd 4 3 5 6) (rep two) fun t => t.ctx.rx 4 = 1 && cellsRead t.mem.home 0x3000 9 =
       [1, 0, 0, 0, 0xFF, 0xFF, 0, 0, 9] && ofExpert t fun e => (e.rep 0).fwd = 1 && (e.rep 0).out = 0) &&
     (gives (.xbatchBwd 4 3 5 6) (rep two) fun t => t.ctx.rx 4 = 1 && ofExpert t fun e => (e.rep 0).bqueue = []) &&
     (gives (.xrel 4 9) held fun t => t.ctx.rx 4 = 4 && ofExpert t fun e => e.ectr = 11 && e.handles = []) &&
     (let late := { s with pkg := { s.pkg with deliveries := [⟨5, 0, token1, 0, false⟩] } }
      nexts .tokenDelivery late fun t => t.pkg.deliveries = [] && (t.getCore s.cur.core).lo.map (fun m => (m.hdr, m.payload)) =
        [(0xFFFF0009, leBytes 8 0x4000005 ++ [9])]) &&
     (nexts .tokenDelivery (deliver false) fun t => t.pkg.deliveries = [] && ofExpert t fun e => (e.rep 0).queue = [token1])
     && nexts .tokenDelivery (deliver true) fun t => ofExpert t fun e => (e.rep 0).bqueue = [token1] && (e.rep 0).bwd = 1) =
      true := by decide +kernel

/-- A registration record of expert 6 on cluster 1 (Table 13.2). -/
def xregBytes : List Byte :=
  zeroPad 512 ([6, 0, 0, 0, 1, 1, 0, 0, 0xFF, 0xFF, 0, 0, 1, 0, 0, 0] ++ leBytes 8 0x40400000 ++ leBytes 8 128 ++ leBytes 8 0x1000
    ++ leBytes 8 77 ++ leBytes 8 1 ++ leBytes 8 0 ++ [0x10, 0, 0, 0, 0, 0, 0, 0] ++ leBytes 8 0x40402000)

/-- R272-R288; an XJOIN of one segment, and of two, begun and ended; the words of Tables 15.7 to 15.9. -/
theorem witness_ExpertReplicas :
    (let regs := [((1 : XReg), (0x2000 : Word)), (3, 5), (5, 0x3000), (6, 1), (7, 0x40200040), (8, 2), (9, 0x2200)]
     let put := fun (s : State) => withX (withBytes s 0x2000 xregBytes) regs
     let of := fun (e : Expert) => put (withExpert e)
     let s := of expert5
     let sealed := of { expert5 with sealed := true }
     let rep := fun (r : Replica) => { expert5 with reps := expert5.reps.set 0 r }
     let six := { s with pkg := { s.pkg with experts := s.pkg.experts ++ [(6, expert5)] } }
     let pair := { expert5 with reps := expert5.reps.set 1 { Replica.init with state := .live, group := 1 } }
     let creating := { expert5 with wbytes := 4, reps := expert5.reps.set 1 { Replica.init with state := .creating, group := 1 } }
     let remote : RemoteOp := ⟨1, 3, 0xD7, 0, 0, 5, 0, 0, []⟩
     (gives (.xreg 4 1) s fun t => t.ctx.rx 4 = 0 && (t.expert? 6).isSome && (t.getCtx ⟨⟨cluster1, 0⟩, 0⟩).live &&
       (t.getCtx ⟨⟨cluster1, 0⟩, 0⟩).rx 1 = 77 && (t.getCtx ⟨⟨cluster1, 0⟩, 0⟩).rx 3 = 6) &&
     leave4 s [(.xreg 4 9, -9), (.xseal 4 3, 0), (.xjoin 4 3 7, -11), (.xretire 4 3 6, -5), (.xretire 4 3 0, -6),
       (.xstat .permits 4 3 0, 7 * 2 ^ 32 + 3), (.xstat .window 4 3 0, 0), (.xstep 4 8, -6), (.xstep 4 6, -6)] &&
     leave4 { s with pkg := { s.pkg with names := [(6, 1, 0)] } } [(.xreg 4 1, -7)] &&
     leave4 (s.setPart 0 { benchPart with cfg := { fullCfg with xnames := 1 }, stepno := 1 }) [(.xreg 4 1, -8)] &&
     leave4 (s.setCtx ⟨⟨cluster1, 0⟩, 0⟩ { Ctx.init with live := true }) [(.xreg 4 1, -6)] &&
     (let block : BlockDesc := ⟨1, 1, 0, 0x40400000⟩
      let node := { Node.init with part := some 0, loaded := true, nelem := 1, blocks := [block], sts := [block.start] }
      let open' := { expert5 with nblk := 1 }
      let on := fun (e : Expert) => (of e).setNode 0 node
      let away := { open' with module := 0 }
      let known := fun (s : State) => { s with pkg := { s.pkg with peers := [List.replicate 16 1] } }
      (gives (.xseal 4 3) (on { open' with join := 3 }) fun t => (t.node 0).sts.map (fun x => x.mask) = [3]) &&
      (gives (.xseal 4 3) (of away) fun t => t.pkg.outbox = []) &&
      (gives (.xseal 4 3) (known (of away)) fun t => t.pkg.outbox = [.joinMask 0 0 0 0 1 away.join]) &&
      gives (.xjoin 4 3 7) (on { open' with sealed := true }) fun t =>
        (t.node 0).inbox.map (fun c => (c.step, c.block, c.elems)) = [(1, 0, [0])]) &&
     leave4 six [(.xreg 4 1, -7)] && leave4 (put (stepAs (withExpert expert5) 0)) [(.xseal 4 3, -10)] &&
     leave4 sealed [(.xseal 4 3, 0), (.xjoin 4 3 7, 0), (.xspawn 4 3 0, -2)] &&
     leave4 (of { rep { expert5.rep 0 with joined := true } with sealed := true }) [(.xjoin 4 3 7, -5), (.xstep 4 8, 0)] &&
     (gives (.xseal 4 3) s fun t => ofExpert t fun e => e.sealed) &&
     (gives (.xjoin 4 3 7) sealed fun t => ofExpert t fun e => (e.rep 0).joined) &&
     (let two := of { rep { expert5.rep 0 with out := 4, fwd := 2, bwd := 3 } with sealed := true, nblk := 2 }
      let begun := fun (n : Nat) => { two with ctx := { two.ctx with pos := n } }
      (gives (.xjoin 4 3 7) two fun t => t.ctx.pos = 2 && t.ctx.waiting && ofExpert t fun e => (e.rep 0).joined) &&
      (gives (.xjoin 4 3 7) (begun 1) fun t => t.ctx.pos = 2 && t.ctx.waiting) && leave4 (begun 2) [(.xjoin 4 3 7, 0)] &&
      leave4 two [(.xstat .expert 4 3 0, 2), (.xstat .replica 4 3 0, 2 ^ 32 + 2 ^ 18 + 2 ^ 17 + 4),
        (.xstat .counts 4 3 0, 2 * 2 ^ 32 + 3), (.xstat .window 4 3 0, BitVec.twoPow 64 63)]) &&
     (gives (.xspawn 4 3 0) s fun t => t.ctx.rx 4 = 1 && ofExpert t fun e => decide ((e.rep 1).state = .creating)) &&
     (gives (.xretire 4 3 0) (of pair) fun t => t.ctx.rx 4 = 0 && ofExpert t fun e =>
       decide ((e.rep 0).state = .draining) && e.snap = 1) &&
     (gives (.xstep 4 8) (of (rep { expert5.rep 0 with joined := true, out := 4 })) fun t =>
       (t.part? 0).map (fun v => v.stepno) = some 2 && ofExpert t fun e => (e.rep 0).out = 0 && e.join = 1) &&
     (nexts (.replicaPublish 5 1) (of creating) fun t => ofExpert t fun e => decide ((e.rep 1).state = .live) && e.join = 3) &&
     (nexts (.weightReloadDone 5 0) (of { rep { expert5.rep 0 with reloading := true, version := none } with wbytes := 4 }) fun t =>
       ofExpert t fun e => (e.rep 0).version = some 1 && !(e.rep 0).reloading) &&
     (nexts .windowBoundary { of { expert5 with windowLeft := some 0, count := 9 } with unit := 5 } fun t =>
       ofExpert t fun e => e.count = 0 && e.windowLeft = some (2 ^ 20)) &&
     (nexts (.snapshotArrival 0 5) { s with pkg := { s.pkg with inFlight := [⟨0, 5, 2, 3⟩] } } fun t =>
       t.selector 0 5 = 3 && t.pkg.inFlight = []) &&
     nexts (.remoteExpertOp { remote with name := 9 }) s fun t => t.pkg.outbox = [.answer 1 3 none []]) = true := by
  decide +kernel

/-- Node 0 with one block of one element and one contributor; three arrays in a PINNED page; C is 7. -/
def node0 : Node :=
  { Node.init with
    part := some 0, loaded := true, code := 0x40200000, hyper := 0x40200200, store := 0x40201000, nelem := 1
    ctr := some 5, blocks := [⟨1, 1, 0, 0x40400000⟩], committed := 7, sts := [⟨0, 1, [], false, 0, false, false⟩] }

/-- The bench with it. -/
def withNode (d : Node) : State := te.setNode 0 d

/-- R326, R327: a node that is not owned, a record that is not one, a table that is not, blocks that hold contributions. -/
theorem witness_NodeInstructions :
    (let record := leBytes 8 0x40200000 ++ leBytes 8 0x40200100 ++ leBytes 8 1 ++ leBytes 8 0x40200200 ++ leBytes 8 0x40201000
       ++ leBytes 4 1 ++ leBytes 4 0x10005 ++ leBytes 8 7 ++ leBytes 8 0
     let block := fun (n : Byte) => [1, 0, n, 0, 0, 0, 0, 0] ++ leBytes 8 0x40400000
     let regs := [((1 : XReg), (0x2000 : Word)), (5, 9), (6, 8), (7, 0x3000), (8, 0xFFFF), (9, 0x3000000000008), (10, 3)]
     let put := fun (s : State) (n : Byte) => withX (withBytes (withBytes s 0x2000 record) 0x400100 (block n)) regs
     let s := put (withNode { node0 with dup := 1, steperr := 2, stray := 3, sts := [⟨0, 1, [], true, 1, true, false⟩] }) 1
     let holds := put (withNode { node0 with sts := [⟨1, 1, [], false, 0, false, false⟩] }) 1
     let some0 := s.setPart 0 { benchPart with cfg := { fullCfg with nodes := 1 } }
     let peers := { s with pkg := { s.pkg with peers := [List.replicate 16 1] } }
     ([Instr.pnrule 4 10 1, .pnstep 4 10 6 0, .pnstat .dup 4 10].all fun i => trapsAs i some0 0x05 1) &&
     leave4 holds [(.pnrule 4 0 1, -6)] && leave4 s [(.pnrule 4 0 7, -9), (.pnstep 4 0 5 0, -6), (.pnstat .dup 4 0, 1),
       (.pnstat .steperr 4 0, 2), (.pnstat .stray 4 0, 3), (.pnstat .status 4 0, 0x780080000)] &&
     leave4 (put (withNode node0) 65) [(.pnrule 4 0 1, -9)] &&
     (gives (.pnrule 4 0 1) s fun t => t.ctx.rx 4 = 0 && (t.node 0).committed = 7 && (t.node 0).ctr = some 5 &&
       (t.node 0).blocks = [⟨1, 1, 0, 0x40400000⟩] && (t.node 0).dup = 0) &&
     (gives (.pnstep 4 0 6 0) s fun t => t.ctx.rx 4 = 0 && (t.node 0).armed && (t.node 0).left = none && (t.node 0).met) &&
     (gives (.pnstep 4 0 6 10) s fun t => (t.node 0).left = some 3) && trapsAs (.pnsend 7 9 8 1) some0 0x05 1 &&
     (gives (.pnsend 7 9 8 1) s fun t => (t.node 3).inbox.map (fun c => (c.step, c.block, c.elems)) = [(8, 0, [0])]) &&
     trapsAs (.pnsend 7 9 0 256) s 0x09 0 &&
     (gives (.pnsend 7 9 0 256) peers fun t => t.pkg.outbox.length = 1 && t.pkg.sent = [(0, 0, 0)])) = true := by
  decide +kernel

/-- R290-R293; commits that have one element left to copy, and none. -/
theorem witness_NodeEvents :
    (let one := 0x3F800000
     let send := fun (c : Contribution) (d : Node) => { withNode { d with inbox := [c] } with unit := 0 }
     let c : Contribution := ⟨8, 0, 0, false, [one], some 6⟩
     let got := { node0 with sts := [⟨1, 1, [], true, 0, false, false⟩], order := [0] }
     let ran := { got with sts := [⟨1, 1, [], true, 1, false, false⟩] }
     let done := { got with sts := [⟨1, 1, [], true, 1, true, false⟩], order := [], armed := true, met := true }
     let core : RuleCore := ⟨0x40200000, Vector.replicate 64 0, [], 0, []⟩
     let lost := { got with rule := some { core with pc := 0x50000000 } }
     let exiting := withBytes (withNode { got with rule := some core }) 0x400000 [0x0D]
     let late := { got with armed := true, left := some 0 }
     let n0 := fun (i : Instr) (s : State) (f : Node → Bool) => nexts i s fun t => f (t.node 0)
     (n0 .pnContribution (send { c with step := 7 } node0) fun d => d.steperr = 1 && d.inbox = []) &&
     (n0 .pnContribution (send { c with block := 1 } node0) fun d => d.stray = 1) &&
     (n0 .pnContribution (send { c with contrib := 1 } node0) fun d => d.stray = 1) &&
     (n0 .pnContribution (send c got) fun d => d.dup = 1) &&
     (nexts .pnContribution (send c node0) fun t => t.ctr 6 = 1 && (t.node 0).order = [0] &&
       (t.node 0).sts.map (fun b => b.bitmap) = [1]) &&
     (n0 (.pnRuleChunk 0 0) (withNode got) fun d => d.rule.map (fun c => (c.pc, c.rx 1, c.rx 3, c.rx 9, c.rx 11)) =
       some (0x40200000, 1, 0x40201000, 0x40400000, 8)) &&
     (n0 (.pnRuleChunk 0 1) exiting fun d => d.rule = none && d.sts.map (fun b => b.chunks) = [1]) &&
     (n0 (.pnRuleChunk 0 1) (withNode lost) fun d => d.order = [] && d.sts.map (fun b => b.failed) = [true]) &&
     (nexts (.pnBlockDone 0 0) (withNode ran) fun t => t.ctr 5 = 1 && (t.node 0).order = [] &&
       (t.node 0).sts.map (fun b => b.done) = [true]) &&
     (nexts .pnCommit (withBytes (withNode done) 0x401000 [7]) fun t => t.ctr 5 = 1 && (t.node 0).committed = 8 &&
       (t.node 0).curB && cellsRead t.mem.home 0x40100C 2 = [7, 0]) &&
     (let partly := fun (l : List (Nat × Nat)) => withBytes (withNode { done with written := l }) 0x401000 [7, 7, 7, 7, 8, 8, 8, 8, 9]
      (nexts .pnCommit (partly [(0, 0), (2, 0)]) fun t => cellsRead t.mem.home 0x40100C 12 = [0, 0, 0, 0, 8, 8, 8, 8, 0, 0, 0, 0]) &&
      nexts .pnCommit (partly [(0, 0), (1, 0), (2, 0)]) fun t => t.mem.home = (partly []).mem.home && (t.node 0).curB) &&
     (let page := withBytes (withNode done) 0x13008 (leBytes 8 0x40000000DF)
      let raced := { page with mem := page.mem.log ⟨.ctx ⟨⟨benchCluster, 1⟩, 0⟩, 0, 0x401000, 4, true, false⟩ }
      nexts .pnCommit raced fun t => (t.node 0).failed && !(t.node 0).armed && !(t.node 0).curB && (t.node 0).committed = 7) &&
     nexts .pnStepDeadline (withNode late) fun t => (t.node 0).failed && (t.node 0).committed = 7 &&
       (t.part? 0).map (fun v => v.logSeq) = some 1) = true := by decide +kernel

-- Preemption

/-- The bench's partition in a state, with resources; another, in a state, that it controls; x3 holds 1. -/
def pair (a b : PartState) : State :=
  let cfg := { fullCfg with ctrlset := 2 }
  let s := tb.setPart 0 { benchPart with cfg := cfg, state := a, preqCtr := some 4, resumeCtr := some 5 }
  atSuper (withX (s.setPart 1 { benchPart with cfg := { benchCfg with clusters := [] }, state := b }) [(3, 1), (5, 64), (6, 7)])

/-- R336-R346; a running in-DRAM job of the partition that resumes arrives again; a dump is logged, and a record holds the cycle that it is given. -/
theorem witness_PreemptionSavesAndRestores :
    (let s := pair .running .running
     let v := pair .running .saved
     let at1 := fun (i : Instr) (s : State) (st : PartState) (f : Part → Bool) => gives i s fun t => t.ctx.rx 4 = 0 &&
       match t.part? 1 with | some p => decide (p.state = st) && f p | none => false
     let act := fun (i : Instr) (s : State) (st : PartState) => nexts i { s with unit := 0 } fun t =>
       (t.part? 0).map (fun p => p.state) = some st
     let dumping := (pair .dumping .running).setPart 0 { benchPart with
       cfg := fullCfg, state := .dumping, dumpRec := some (1, 0, 0, [], 77) }
     let halting := pair .halting .running
     let ends := fun (d : Word) => { halting.setPart 0 { benchPart with cfg := fullCfg } with
       leaves := [(0, ⟨d, 0x8000, Vector.replicate 8 0, Vector.replicate 8 1, 0, halting.cur, some 0⟩)] }
     ([Instr.preqCtr 4 3 5, .resumeCtr 4 3 5].all fun i => trapsAs i s 0x05 1) &&
     leave4 s [(.preq 4 5, -1), (.preqCtr 4 5 6, -1), (.resume 4 5, -1), (.resumeCtr 4 5 6, -1), (.resume 4 0, -1),
       (.resume 4 3, -2), (.resumeCtr 4 3 6, -2)] && leave4 v [(.preq 4 3, -2), (.preqCtr 4 3 6, -2)] &&
     at1 (.preq 4 3) s .halting (fun p => p.preqCtr = none) && at1 (.preqCtr 4 3 6) s .halting (fun p => p.preqCtr = some 7) &&
     at1 (.resume 4 3) v .restoring (fun p => p.resumeCtr = none) &&
     at1 (.resumeCtr 4 3 6) v .restoring (fun p => p.resumeCtr = some 7) &&
     (gives (.preq 4 0) s fun t => (t.part? 0).map (fun p => p.state) = some .halting) &&
     (let held := (v.setCl ⟨0, 1, 0⟩ { v.getCl ⟨0, 1, 0⟩ with part := some 1 }).setJob ⟨⟨0, 1, 0⟩, 0⟩ ⟨0,
        ⟨0x2000, 4, 0, false, 0, [], [], .rne, false, none, none, []⟩, 1, false, [], .running, 3, 0, 0, 0, 0, 0, 0, none, 0, 0⟩
      gives (.resume 4 3) { held with arrivals := 5 } fun t =>
        (t.job? ⟨⟨0, 1, 0⟩, 0⟩).map (fun j => (j.phase, j.arrival)) = some (.ready, 8)) &&
     (nexts .dumpComplete { dumping with unit := 0 } fun t =>
       (t.part? 0).map (fun p => (p.logSeq, p.dumpRec.isNone)) = some (1, true)) &&
     (let r : FaultRec := { kind := .deadline, cls := 1 }
      cellsRead (dumping.logFaultAt 0 r 77).mem.home 0x20040 16 = leBytes 8 1 ++ leBytes 8 77) &&
     act .saveComplete (pair .saving .running) .saved && act .dumpComplete dumping .dumped &&
     act .haltComplete halting .saving && ([Instr.bankcfg .cache 0 0, .jdone 0].all fun i => refuses .haltComplete { halting with ctx := { halting.ctx with doing := some i } }) &&
     act .deadlineExpiry (ends 0) .dumping && refuses .deadlineExpiry (ends 1)) = true := by decide +kernel

/-- A partition without clusters that is being restored. -/
def restoringPart : Part := { benchPart with cfg := { benchCfg with clusters := [] }, state := .restoring }

/-- With it: its saved header is as it was written, or is not. -/
def restoring (bs : List Byte) : State :=
  let s := { State.reset with mem := { Mem.init with home := cellsWrite [] 0 bs } }
  s.setPart 0 restoringPart

theorem recalls_keep (l : List Nat) (m : Mem) (h : m.partials = []) : l.foldl Mem.recall m = m := by
  induction l with
  | nil => rfl
  | cons a l ih => simpa [Mem.recall, Mem.recallIf, Mem.recallN, h] using ih

theorem restoring_holds (bs l : List Byte) : (restoring bs).holds 0 l = decide (cellsRead (cellsWrite [] 0 bs) 0 l.length = l) := by
  unfold State.holds Mem.peek
  rw [recalls_keep _ _ rfl]
  rfl

/-- The header of its save: no clusters, halted in cycle 0. -/
def emptyHeader : List Byte := recorded [0, 0] slotBase

theorem restoring_clusters (bs : List Byte) : (restoring bs).partClusters 0 = [] := by
  have h : ∀ c, (restoring bs).getCl c = Cluster.init := fun _ => rfl
  have g : (restoring bs).pkg.grade = .fq576 := rfl
  simp only [State.partClusters, h, g]
  decide +kernel

theorem restoring_intact (bs : List Byte) : (restoring bs).saveIntact 0 restoringPart = (restoring bs).holds 0 emptyHeader := by
  simp only [State.saveIntact, State.slots, State.saveHeader, restoring_clusters, List.mapIdx_nil, List.all_nil, Bool.and_true]
  rfl

theorem witness_restoringKept : (restoring emptyHeader).part? 0 = some restoringPart ∧
    (restoring emptyHeader).saveIntact 0 restoringPart = true := by
  refine ⟨rfl, (restoring_intact _).trans ?_⟩
  rw [restoring_holds, cellsRead_write_same [] 0 _ rfl]
  simp

theorem witness_restoringAltered : (restoring [Config.recordByte [0, 0] 0 + 1]).part? 0 = some restoringPart ∧
    (restoring [Config.recordByte [0, 0] 0 + 1]).saveIntact 0 restoringPart = false := by
  refine ⟨rfl, (restoring_intact _).trans ?_⟩
  rw [restoring_holds, decide_eq_false_iff_not]
  intro e
  have h : cellsGet (cellsWrite [] 0 [Config.recordByte [0, 0] 0 + 1]) 0 = Config.recordByte [0, 0] 0 + 1 :=
    cellsGet_set_same [] 0 _ rfl
  have e := congrArg List.head? e
  have hl : emptyHeader.length = 65536 := by simp [emptyHeader, recorded, slotBase]
  have hh : emptyHeader.head? = some (Config.recordByte [0, 0] 0) := by
    simp only [emptyHeader, recorded, List.head?_map, List.head?_range, slotBase]
    rfl
  rw [hl, hh] at e
  have e : cellsGet (cellsWrite [] 0 [Config.recordByte [0, 0] 0 + 1]) 0 = Config.recordByte [0, 0] 0 := Option.some.inj e
  rw [h] at e
  bv_omega

-- Faults and the module's hardware

/-- The bench with two images of the same bytes, versions 1 and 0. -/
def imaged (bs : List Byte) : State := { tr with pkg := { tr.pkg with images := [⟨1, bs⟩, ⟨0, bs⟩] } }

/-- R372: what the images' check answers is free. -/
theorem witness_ModuleResets (bs : List Byte) :
    exec .moduleReset (imaged bs) =
      .next ((imaged bs).afterReset (if Config.imageVerifies bs then some 0 else none)) := by
  cases h : Config.imageVerifies bs <;>
    simp [exec, execModuleReset, imaged, bootSlot, List.range, List.range.loop, h]

/-- R349, R372: the same of a management-core fault. -/
theorem witness_ManagementCoreFault (bs : List Byte) :
    ∃ t, exec .managementCoreFault (imaged bs) = .next t ∧ t.pkg.running = (if Config.imageVerifies bs then some 0 else none) := by
  have h : ((imaged bs).faultAll unitManagement).pkg.images = (imaged bs).pkg.images := rfl
  cases h' : Config.imageVerifies bs <;>
    exact ⟨_, rfl, by simp [bootSlot, imaged, List.range, List.range.loop, h', State.resetAround, State.afterReset]⟩

/-- R372: a module that runs no image, and what it answers. -/
theorem witness_ModuleHeld :
    (let s := tr.afterReset none
     let answers := fun (o : Nat) => nexts (.rmaRead .other (BitVec.ofNat 64 (2 ^ 63 + o)) 8) s fun t => t.pkg.answer.isSome
     answers 0x2000 && answers 0x2ff8 && refuses (.rmaRead .other (BitVec.ofNat 64 (2 ^ 63)) 8) s &&
     refuses (.rmaRead .other (BitVec.ofNat 64 (2 ^ 63 + 0x2ff9)) 8) s && refuses (.claim []) s &&
     refuses (.rmaWrite .owner (BitVec.ofNat 64 (2 ^ 63 + 0x1000)) [0]) s) = true := by
  decide +kernel

/-- A read of a line that a home core serves: line, row of bank 0, latest-service cycle, arrival. -/
def asks (line row : Nat) (due : Option Nat) (arrived : Nat) : HomeReq := ⟨.slice .fetch, line, 0, 0, row, due, false, arrived⟩

/-- A home core 0 with requests, row 3 open. -/
def homed (l : List HomeReq) : State :=
  { tr with cycle := 10000, pkg := { tr.pkg with homes := [(0, ⟨l, [(0, (0, 3))], 2, []⟩)] } }

/-- R278, R348: what a fault discards of an expert publishes nothing. -/
theorem test_discardKeepsVersion :
    ofExpert ((withExpert { expert5 with snap := 7 }).discardExperts 0) (fun e => decide (e.snap = 7)) = true := by
  decide +kernel

/-- R348: a fault of the partition, and of none; Table 8.3: an older request of class 4, a younger of class 1, of two
of class 1 the one that is due first, two to one line; CLFLAGS on their way. -/
theorem witness_FaultsAndHardwareEvents :
    (let s := leafed tr
     let st := fun (i : Instr) (s : State) (f : PartState) => nexts i s fun t => (t.part? 0).map (fun p => p.state) = some f
     let down := tr.setPart 0 { benchPart with cfg := fullCfg, state := .faulted }
     let first := fun (l : List HomeReq) (n : Nat) => nexts .homeCoreSchedule (homed l) fun t =>
       (t.homeCore 0).reqs.map (fun r => r.line) = [n] && (t.homeCore 0).openRows.length = 1
     let hot := { tr with unit := 7 }
     let flags := tr.setCl benchCluster { tr.getCl benchCluster with clPend := [(5, 1)] }
     (nexts (.faultDetected 0 3 9 16) { s with pkg := { s.pkg with incoming := [.late 3 (coreIdBits s.cur) []] } } fun t =>
       t.pkg.incoming = []) &&
     st (.faultDetected 0 3 9 16) s .faulted && (nexts (.faultDetected 0 3 9 16) s fun t => !t.ctx.live && t.launches = [] &&
       cellsRead t.mem.home 0x20040 8 = [1, 0, 0, 0, 0, 0, 0, 0] && cellsRead t.mem.home 0x20050 8 = [6, 4, 3, 0, 9, 0, 0, 0]) &&
     refuses (.faultDetected 1 3 9 16) s && refuses (.faultDetected 0 3 9 16) down && st (.faultMasked 0 3 9 16) down .faulted &&
     (nexts (.faultMasked 0 3 9 16) s fun t => t.ctx.live && cellsRead t.mem.home 0x20050 2 = [7, 0]) &&
     st (.sharedUnitFault 1 3 9 16) s .faulted && refuses (.sharedUnitFault 2 3 9 16) s &&
     (nexts .thermalAlarm hot fun t => t.pkg.telemetry.alarms = 0x80) && st .thermalShutdown hot .faulted &&
     first [asks 8 4 none 9000, asks 9 5 (some 11999) 9500] 8 && first [asks 8 4 none 9000, asks 9 5 (some 12000) 9500] 9 &&
     first [asks 8 4 (some 11000) 9000, asks 9 5 (some 10999) 9500] 8 && first [asks 8 4 none 1999, asks 9 3 none 9500] 9 &&
     first [asks 8 4 none 2000, asks 9 3 none 9500] 8 && first [asks 8 4 none 2000, asks 8 3 none 9500] 8 &&
     (nexts .homeCoreSchedule (homed [asks 8 4 (some 9999) 9000]) fun t => (t.homeCore 0).reqs = [] &&
       t.pkg.telemetry.late = [(0, 1)]) && refuses .homeCoreSchedule (homed []) &&
     (nexts .patrolScrub (homed []) fun t => (t.homeCore 0).openRows = []) &&
     (nexts .dueRefresh (homed []) fun t => t.homeCore 0 = ⟨[], [], 0, []⟩) &&
     nexts .clflagsUpdate flags fun t => (t.getCl benchCluster).clflags = 5 && (t.getCl benchCluster).clPend = []) = true := by
  decide +kernel

-- Hosts and links

/-- The public keys of the first two tests of RFC 8032, 7.1, and the seed of the first. -/
def key1 : List Byte := leBytes 32 0x1A5107F7681A02AF2523A6DAF372E10E3A0764C9D3FE4BD5B70AB18201985AD7
def key2 : List Byte := leBytes 32 0x0C66F42AF155CDC08C96C42ECF2C989CBC7E1B4DA70AB7925A8943E8C317403D
def seed1 : List Byte := leBytes 32 0x607FAE1C03AC3B701969327B69C54944C42CEC92F44A84BA605AFDEF9DB1619D

/-- A request of 128 bytes: type, nonce, key, signature, count. -/
def request (type nonce : Nat) (key : List Byte) (sig count : Nat) : List Byte :=
  leBytes 8 type ++ leBytes 8 nonce ++ key ++ leBytes 64 sig ++ leBytes 8 count ++ leBytes 8 0

/-- The bench with an owner of a key; the nonce is 5, OWNSEQ 1. -/
def owned (key : List Byte) (lease : Option Nat) : State :=
  { tr with pkg := { tr.pkg with owner := ⟨key, 5, 1, lease, 3⟩ } }

/-- Requests for nonce 5 and serial number 0, signed with the first seed. -/
def claim1 : List Byte := request 0x10 5 key1
  0x0DA62F071CC80A43B8446EDFD7228F4D00D3CC015FED06A0D6E6CD2EB11082C20D35E43E1802AB50D8C0F09F41E24A5A63C54BCA87F5DFA0F21D5AD7512B17B6 0
def handover2 : List Byte := request 0x11 5 key2
  0x0BEB8BA56672944505A8DA2F29F261D81296AF3BB6051F87CEA3649E12061A237F790F8D86524B34BBB9407D4D75918A89D9E8825D54541F12706243AB17C987 0
def beat4 : List Byte := request 0x12 5 key1
  0x0DF7AF75661778BCD3C9F91405587A02D02787409AF1C34EE8A5C341E3FBCF1266FA6DE700E330E55BFE8009A0F0C3FE40E229D431B18853255E3C2F3487AA1E 4

/-- What becomes of the owner. -/
def owns (k : List Byte) (count : Nat) (s : State) : Bool :=
  decide (s.pkg.owner.key = k) && decide (s.pkg.owner.lease = some 510000000) && decide (s.pkg.owner.lastCount = count)

/-- FIPS 180-4, SHA-512 of "abc". -/
theorem test_sha512 : beNat (sha512 [0x61, 0x62, 0x63]) =
    0xDDAF35A193617ABACC417349AE20413112E6FA4E89A97EA20A9EEEE64B55D39A2192992A274FC1A836BA3C23A3FEEBBD454D4423643CE80E2A9AC94FA54CA49F := by
  decide +kernel

/-- RFC 8032, 7.1, test 1: the public key of a seed, and the signature of no bytes. -/
theorem test_ed25519 : ed25519Public seed1 = key1 ∧ leNat (ed25519Sign seed1 []) =
    0x0B107A8E4341516524BE5B59F0F55BD26BB4F91C70391EC6AC3BA3901582B85F5501492265E073D874D9E5B81E7F87848A826E80CCE2869072AC60C3004356E5 := by
  decide +kernel

/-- The reset module's identity key is the public key of its seed. -/
theorem test_identityKey : ed25519Public State.reset.pkg.idseed = State.reset.pkg.idkey := by decide +kernel

/-- R367, R368: signed requests are accepted, and one with a changed byte is not. -/
theorem witness_RequestsThatVerify :
    (nexts (.claim claim1) (owned noKey none) (owns key1 0) &&
     nexts (.handover handover2) (owned key1 (some 9)) (owns key2 0) &&
     nexts (.heartbeat beat4) (owned key1 (some 9)) (owns key1 4) &&
     nexts (.claim (claim1.set 112 1)) (owned noKey none) fun t => t.pkg.owner.key = noKey) = true := by decide +kernel

/-- R372: where the flash window lies is free. -/
theorem witness_FlashWindow (k : Nat) (h : Config.flashSlot 0x4000 4 = some k) :
    flashSlotAt 0x8000000000004000 4 = some (k % 2) := by
  have e : flashSlotAt 0x8000000000004000 4 = (Config.flashSlot 0x4000 4).map (· % 2) := rfl
  rw [e, h, Option.map_some]

/-- R354-R374; HANDOVER without a lease that runs; atomics on memory and on the claim window. -/
theorem witness_HostsAndLinks :
    (let s := tr
     let o := owned key1 (some 1)
     let none' := owned noKey none
     let same := fun (i : Instr) (s : State) => nexts i s fun t => t.pkg.owner = s.pkg.owner
     let hears := fun (i : Instr) (s : State) (a : Option (List Byte)) => nexts i s fun t => t.pkg.answer = a
     let at' : Word := 0x3000
     let w := withBytes o 0x3000 [1, 2, 3, 4]
     same (.claim claim1) o && same (.claim (request 0x10 6 key1 0 0)) none' && same (.claim handover2) none' &&
     same (.claim [0x10]) none' && same (.handover handover2) (owned key1 none) &&
     same (.handover handover2) (owned key1 (some 0)) && same (.heartbeat (request 0x12 5 key2 0 4)) o && refuses .leaseLapse s && refuses .leaseLapse o &&
     (nexts .leaseLapse (owned key1 (some 0)) fun t => t.pkg.owner.key = noKey && t.pkg.owner.seq = 2 && t.pkg.owner.lease = none) &&
     (nexts (.portLinkChange 3 true) s fun t => t.pkg.ports = 8 && cellsRead t.mem.home 0x12 2 = [8, 0]) &&
     (nexts .dieLinkFailure { s with unit := 9 } fun t => t.pkg.links = 0x1FF && cellsRead t.mem.home 0xE 2 = [0xFF, 1]) &&
     refuses (.portLinkChange 3 false) s && refuses .dieLinkFailure { s with unit := 10 } &&
     (nexts .unreliablePacketDrop s fun t => t.pkg.telemetry.dropped = 1) &&
     (nexts (.attestationRequest (List.replicate 32 7)) s fun t => t.pkg.telemetry.request = List.replicate 32 7) &&
     (nexts (.rmaWrite .owner at' [9, 8]) o fun t => cellsRead t.mem.home 0x3000 2 = [9, 8] && t.pkg.answer = some []) &&
     hears (.rmaWrite .other at' [9, 8]) o none && hears (.rmaWrite .owner at' [9, 8]) s none &&
     hears (.rmaWrite .owner 0x7000000000000000 [9]) o none && hears (.rmaRead .owner at' 4) w (some [1, 2, 3, 4]) &&
     hears (.rmaRead .other at' 4) w none && hears (.rmaRead .other 0x23000 2) w (some [0, 0]) &&
     hears (.rmaAtomic .owner at' .add false 1) w (some [1, 2, 3, 4]) &&
     (nexts (.rmaAtomic .owner at' .add false 1) w fun t => cellsRead t.mem.home 0x3000 4 = [2, 2, 3, 4]) &&
     (nexts (.rmaAtomic .owner 0x8000000000001000 .add false 7) o fun t => t.pkg.answer = some [0, 0, 0, 0] &&
       cellsRead t.pkg.window 0x1000 4 = [7, 0, 0, 0]) && hears (.rmaAtomic .other 0x8000000000001000 .add false 7) o none &&
     hears (.rmaAtomic .owner 0x8000000000001002 .add false 7) o none &&
     hears (.rmaAtomic .owner 0x3002 .add false 1) w none && hears (.rmaAtomic .other at' .add true 1) w none &&
     hears (.rmaRead .other 0x8000000000000004 4) s (some [0, 0xFF, 9, 8]) &&
     hears (.rmaWrite .owner 0x8000000000000004 [1]) o none &&
     nexts (.rmaWrite .other 0x8000000000001000 (request 0x10 6 key1 0 0)) none' fun t =>
       t.pkg.answer = some [] && cellsRead t.pkg.window 0x1000 2 = [0x10, 0]) = true := by decide +kernel

-- Work queues

/-- A state with an entry of 128 bytes that queue q has read as its entry 7; the queue's unit acts. -/
def entered (s : State) (q : Nat) (e : List Byte) : State :=
  { s.setQueue q { s.getQueue q with entry := some (7, zeroPad 128 e) } with unit := q }

/-- An entry's first bytes: type, and a word at byte 8. -/
def typed (type a : Nat) : List Byte := leBytes 8 type ++ leBytes 8 a

/-- The record that is posted: bits 31:0, with a reject code or without. -/
def posts (i : Instr) (s : State) (result code : Nat) (f : State → Bool) : Bool :=
  nexts i s fun t =>
    let v := t.getQueue s.unit
    v.records = [(BitVec.ofNat 64 (result + if code = 0 then 0 else code * 2 ^ 32 + 0xFF * 2 ^ 48), 7)] && v.entry = none && f t

/-- Rejected with a code. -/
def bars (i : Instr) (s : State) (code : Nat) : Bool := posts i s 0 code fun _ => true

/-- A configuration record for partition 1: one cluster, one queue, its areas in the near tier. -/
def cfgBytes (p reserved trap cluster : Nat) (ctr0 : Nat) : List Byte :=
  leBytes 8 p ++ leBytes 8 0x10000 ++ leBytes 8 trap ++ leBytes 8 0x1000000 ++ leBytes 8 0x2000000 ++ leBytes 8 0x3000000
    ++ leBytes 8 0x100000010 ++ leBytes 8 0 ++ leBytes 4 (ctr0 + 4 * 2 ^ 16) ++ leBytes 4 (64 + 4 * 2 ^ 16) ++ leBytes 2 2 ++ leBytes 2 1
    ++ leBytes 2 2 ++ [0, BitVec.ofNat 8 reserved] ++ leBytes 2 1 ++ leBytes 2 4 ++ leBytes 4 4 ++ leBytes 8 0x24000
    ++ leBytes 72 (2 ^ cluster) ++ leBytes 8 0x28000 ++ leBytes 8 0x40000000 ++ List.replicate 72 0

/-- A queue descriptor of 16 entries and 16 records. -/
def descBytes : List Byte := leBytes 8 0x25000 ++ leBytes 8 0x26000 ++ leBytes 8 0x27000 ++ [4, 4, 0, 0, 0, 0, 0, 0]

/-- With a record at 0x4000 and its descriptor, the entry that names it. -/
def withCfg (r : List Byte) : State := entered (withBytes (withBytes tr 0x4000 r) 0x24000 descBytes) 0 (typed 8 0x4000)

/-- R363, R364, Table 20.6: an entry that is read, and one of each kind that is rejected. -/
theorem witness_WorkQueuesReadAndPost :
    (let ring := fun (s : State) (e : List Byte) =>
       { withBytes (withBytes s 0x21000 (zeroPad 128 e)) 0x22000 [1] with unit := 1 }
     let turn := fun (s : State) (code : Nat) => nexts .workQueueTail s fun t =>
       let v := t.getQueue 1
       cellsRead t.mem.home 0x22008 2 = [1, 0] && v.head = 1 && v.tail = 1 && v.entry.isSome = decide (code = 0) &&
         v.records = if code = 0 then [] else [(BitVec.ofNat 64 (code * 2 ^ 32 + 0xFF * 2 ^ 48), 0)]
     let down := tr.setPart 0 { benchPart with cfg := fullCfg, state := .faulted }
     let held := fun (h : List Byte) =>
       { (withBytes tr 0x22010 h).setQueue 1 ⟨0, 0, 4, none, [(9, 3), (8, 2)]⟩ with unit := 1 }
     turn (ring tr (typed 1 0x4000)) 0 && turn (ring tr (typed 1 0x4000 ++ [1])) 0x21 && turn (ring tr (typed 5 0)) 0x20 &&
     turn (ring tr (typed 0x101 0)) 0x21 && turn (ring down (typed 1 0)) 0x24 && refuses .workQueueTail { tr with unit := 1 } &&
     refuses .workQueueTail (entered (ring tr (typed 1 0)) 1 (typed 1 0)) && refuses .completionRecordPost (held []) &&
     nexts .completionRecordPost (held [1]) fun t => cellsRead t.mem.home 0x23000 16 = leBytes 8 9 ++ leBytes 8 3 &&
       cellsRead t.mem.home 0x22018 8 = leBytes 8 5 && t.getQueue 1 = ⟨0, 0, 5, none, [(8, 2)]⟩) = true := by
  decide +kernel

/-- Table 20.5 and Table 20.6: each entry performed, and rejected. -/
theorem witness_WorkQueueEntries :
    (let one := fun (e : List Byte) => entered te 1 e
     let zero := fun (s : State) (type p : Nat) => entered s 0 (typed type p)
     let down := te.setPart 0 { benchPart with cfg := fullCfg, state := .dumped }
     let none' := te.setPart 0 { benchPart with cfg := { fullCfg with convs := 0 } }
     let saved := tr.setPart 0 { benchPart with cfg := fullCfg, state := .saved }
     let st := fun (i : Instr) (s : State) (f : PartState) => posts i s 0 0 fun t => (t.part? 0).map (fun p => p.state) = some f
     let copy := fun (a b n : Nat) => one (leBytes 8 2 ++ leBytes 8 a ++ leBytes 8 b ++ leBytes 8 n)
     let table := fun (type a n : Nat) => entered (withBytes te 0x4000 (zeroPad 32 (List.replicate 16 9))) 0 (typed type a ++ leBytes 4 n)
     let xreg := fun (s : State) (bs : List Byte) (a : Nat) => entered (withBytes s 0x4000 bs) 1 (typed 4 a)
     ([(Instr.launch, 2), (.copyEntry, 1), (.weave, 1), (.xregEntry, 1)].all fun p => refuses p.1 (one (typed p.2 0))) &&
     ([(Instr.launch, 1), (.copyEntry, 2), (.weave, 3), (.xregEntry, 4)].all fun p => bars p.1 (entered down 1 (typed p.2 0)) 0x24) &&
     ([Instr.preempt, .resumeEntry, .reset, .partcfg, .peers, .names].all fun i => refuses i (zero te 1 0)) &&
     st .preempt (zero tr 5 0) .halting && bars .preempt (zero saved 5 0) 0x24 && st .resumeEntry (zero saved 6 0) .restoring &&
     bars .resumeEntry (zero tr 6 0) 0x24 && bars .reset (zero tr 7 1) 0x24 &&
     (posts .reset (zero te 7 0) 0 0 fun t => t.part? 0 = none && !t.ctx.live && t.pkg.steps = [(0, 1)]) &&
     bars .copyEntry (copy (pad 0).toNat (pad 64).toNat 0) 0x22 && bars .copyEntry (copy 0x3000 (pad 64).toNat 8) 0x22 &&
     (nexts .copyEntry (copy (pad 0).toNat 0x40200000 8) fun t => t.pkg.fired.length = 1 && (t.getQueue 1).records = []) &&
     bars .weave (one (typed 3 0x4001)) 0x22 && (posts .weave (one (typed 3 0x4000)) 0xFFFFFFFE 0x25 fun _ => true) &&
     (posts .weave (entered (withBytes none' 0x4000 weaveBytes) 1 (typed 3 0x4000)) 0xFFFFFFFF 0x25 fun _ => true) &&
     (nexts .weave (entered (withBytes te 0x4000 weaveBytes) 1 (typed 3 0x4000)) fun t => t.pkg.convs.map (fun c => c.2.weave) =
       [weave2] && (t.getQueue 1).records.length = 1) &&
     bars .xregEntry (xreg te xregBytes 0x4020) 0x22 && (posts .xregEntry (xreg te [] 0x4000) 0xFFFFFFF7 0x25 fun _ => true) &&
     (posts .xregEntry (xreg (withExpert expert5) (5 :: xregBytes.drop 1) 0x4000) 0xFFFFFFF9 0x25 fun _ => true) &&
     (posts .xregEntry (xreg te xregBytes 0x4000) 0 0 fun t => (t.expert? 6).isSome) &&
     refuses .xregEntry (xreg (te.setPart 0 { benchPart with cfg := fullCfg, state := .saving }) xregBytes 0x4000) &&
     bars .peers (table 9 0x4000 0) 0x21 && bars .peers (table 9 0x4001 1) 0x22 &&
     (posts .peers (table 9 0x4000 1) 1 0 fun t => t.pkg.peers = [List.replicate 16 9]) && bars .peers (table 9 0x3FF8 1) 0x21 &&
     bars .names (table 10 0x4000 65537) 0x21 && bars .names (table 10 0x4004 1) 0x22 &&
     posts .names (table 10 0x4000 2) 2 0 fun t => t.pkg.names = [(0x90909, 0x90909, 0x909), (0x90909, 0x90909, 0x909)]) = true := by
  decide +kernel

/-- Table 20.7: a record with a reserved byte, a misaligned one, one that is configured, one whose counters another holds. -/
theorem witness_PartitionsAreConfigured :
    (let s := withCfg (cfgBytes 1 0 0x4000 3 64)
     bars .partcfg (entered tr 0 (typed 8 0x4020)) 0x22 && bars .partcfg (withCfg (cfgBytes 1 1 0x4000 3 64)) 0x21 &&
     bars .partcfg (withBytes s 0x4008 [1]) 0x22 && bars .partcfg (withBytes s 0x405F [0xFF]) 0x22 &&
     bars .partcfg (withCfg (cfgBytes 0 0 0x4000 3 64)) 0x24 && bars .partcfg (withCfg (cfgBytes 1 0 0x4000 3 60)) 0x23 &&
     bars .partcfg (withCfg (cfgBytes 1 0 0x4000 0 64)) 0x23 &&
     posts .partcfg s 1 0 fun t => (t.part? 1).map (fun p => (p.state, p.cfg.clusters)) = some (.running, [⟨0, 3, 0⟩]) &&
       (t.getCl ⟨0, 3, 0⟩).part = some 1 && (t.getCore ⟨⟨0, 3, 0⟩, 0⟩).trapvec = 0x4000) = true := by decide +kernel

/-- A launch record of one level at 0x4000 that passes every check, but for one byte; the entry that names it. -/
def withLaunch (s : State) (at' : Nat) (b : Byte) : State :=
  let r := leBytes 8 0x1000 ++ leBytes 8 77 ++ leBytes 8 1 ++ [0, 1] ++ List.replicate 38 0 ++ leBytes 4 1 ++ [1, 5]
  entered (withBytes (withBytes s 0x4000 r) (0x4000 + at') [b]) 1 (typed 1 0x4000)

/-- Table 6.3 code by code; a launch that fits, and one that waits; the tree of R163. -/
theorem witness_LaunchesStartAndComplete :
    (let idle := { te with ctx := Ctx.init }
     let full := (allClusters te.pkg.grade).take 2 |>.foldl (fun s c => (List.range 8).foldl (fun s n =>
       s.setCtx ⟨⟨c, n⟩, 0⟩ { Ctx.init with live := true }) s) te
     let tree := fun (l : List TreeNode) => { tr with launches := [(3, ⟨1, 7, 0, [2, 2], l⟩)] }
     let w : Word := 0x0005000300000002
     ([(26, 1, 2), (25, 9, 3), (64, 0, 4), (68, 6, 5), (69, 3, 7), (0, 2, 8), (16, 0, 9), (24, 1, 10), (64, 17, 11)].all
       fun (p : Nat × Nat × Nat) => bars .launch (withLaunch idle p.1 (BitVec.ofNat 8 p.2.1)) p.2.2) &&
     bars .launch (entered idle 1 (typed 1 0x4001)) 1 &&
     bars .launch (withBytes (withLaunch idle 25 2) 0x4048 [1, 0, 0, 0, 0, 5]) 6 &&
     (nexts .launch (withLaunch idle 25 1) fun t => t.ctx.live && t.ctx.pc = 0x1000 && t.ctx.rx 1 = 77 &&
       t.launches.keys = [0] && t.pkg.busy = [ctx0]) &&
     (nexts .launch (withLaunch full 25 1) fun t => t.launches = [] && (t.part? 0).map (fun p => p.waiting.length) = some 1) &&
     (nexts (.completionNodeForward 3 []) (tree [⟨[], 0, w⟩]) fun t => t.launches = [] && (t.getQueue 1).records = [(w, 7)]) &&
     (nexts (.completionNodeForward 3 [1]) (tree [⟨[], 2, w⟩, ⟨[1], 0, 0x0007000400000001⟩]) fun t =>
       t.launches.map (fun l => l.2.tree) = [[⟨[], 1, 0x0007000700000003⟩]]) &&
     refuses (.completionNodeForward 3 []) (tree [⟨[], 2, w⟩]) &&
     nexts .freeCountReport { idle with pkg := { idle.pkg with busy := [ctx0, ⟨⟨⟨1, 0, 0⟩, 0⟩, 0⟩] } } fun t =>
       t.pkg.busy = [⟨⟨⟨1, 0, 0⟩, 0⟩, 0⟩]) = true := by decide +kernel

-- The machine

/-- The bench with an instruction's bytes at its program counter. -/
def placed (bs : List Byte) : State := State.reset.placeInstr bs

/-- addi x4, x0, 5 at 0x1000 on a compute core, in its place in memory. -/
theorem witness_DecodeInvertsEncode :
    (let i : Instr := .addi 4 0 5
     WellFormed i && encode i ≠ 0 && opcOnCore .compute (encode i / 4 % 256) && decide (0x1000 % 32 + i.len ≤ 32) &&
     decide (decodeBytes .compute 0x1000 (encodeBytes i ++ [1, 2, 3]) = .ok i)) = true := by decide +kernel

/-- The hypotheses of the last statement hold for a state, whose next turn is core k's. -/
def fetchesNow (s : State) : Bool :=
  let k := s.cur.core
  let s₁ := { s with agenda := [] }.elapse 0
  let c := s₁.getCtx ⟨k, 0⟩
  decide (s.agenda = [⟨0, .core k⟩]) && s.dueEvents.isEmpty && s₁.dueEvents.isEmpty && s.waits.isEmpty && !s₁.issuedNow k &&
    decide (s₁.turns k = [0]) && c.doing.isNone && c.asked.isNone && c.atHead.isNone && !c.atFrontier && !isMesh c.pc && canonical c.pc &&
    decide (Map.get? c.fetched c.pc.toNat = none) && decide (c.pc.toNat % 32 = 0) &&
    ((List.range 4).all fun j =>
      (s₁.mem.oldValues (0x1000 + 8 * j) (s₁.mem.oldFrom (0x1000 + 8 * j) c.fence c.loaded)).isEmpty) &&
    match (s₁.switchTo ⟨k, 0⟩).xlate (s₁.switchTo ⟨k, 0⟩).partNo c.super .fetch c.pc with
      | .ok p => decide (p.pa c.pc.toNat = 0x1000)
      | .error _ => false

/-- An instruction that completes, and one that waits: the core has issued, or has not. What a host had loaded before the
launch is what is fetched. -/
theorem witness_StepRunsTheDecodedInstruction :
    (let s := placed (encodeBytes (.addi 4 0 5))
     let w := placed (encodeBytes (.mrecv 4 3 0))
     let past := fun (host : Bool) => { s with
       mem := { s.mem with past := [⟨0, 0x1000, List.replicate 8 0, host⟩], stores := 1 }, ctx := { s.ctx with loaded := 1 } }
     fetchesNow s && fetchesNow w && fetchesNow (past true) && !fetchesNow (past false) &&
     (match step (past true) with | .next t => t.ctx.rx 4 = 5 | _ => false) &&
     (match step s with | .next t => t.ctx.rx 4 = 5 && t.ctx.pc = 0x1008 && t.core.lastIssue = some 0 | _ => false) &&
     match step w with | .next t => t.ctx.waiting && t.core.lastIssue = none | _ => false) = true := by decide +kernel

/-- A context goes on with an instruction that it has begun, and which is not fetched again: one that completes has not
issued now, one that traps has, and so has one that waited in a queue. -/
theorem witness_StepGoesOn :
    (let s := placed (encodeBytes .nop)
     let d := fun (i : Instr) => { s with ctx := { s.ctx with doing := some i } }
     (match step { s with ctx := { s.ctx with asked := some (.addi 4 0 9) } } with
      | .next t => t.ctx.rx 4 = 9 && t.ctx.asked = none && t.core.lastIssue = some 0
      | _ => false) &&
     (match step (d (.addi 4 0 9)) with
      | .next t => t.ctx.rx 4 = 9 && t.ctx.pc = 0x1008 && t.ctx.doing = none && t.core.lastIssue = none
      | _ => false) &&
     match step (d (.trap 0)) with
     | .next t => t.ctx.super && t.ctx.trappc = 0x1000 && t.ctx.doing = none && t.core.lastIssue = some 0
     | _ => false) = true := by decide +kernel

/-- A word that is no instruction: the step enters ILLEGAL. -/
theorem witness_StepTrapsOnAnIllegalWord :
    (let s := placed [0xFD, 3, 0, 0, 0, 0, 0, 0]
     fetchesNow s && TrapReady s && match step s with
     | .next t => t.ctx.trapcause.toNat % 2 ^ 16 = 0x101 && t.ctx.trappc = 0x1000 && t.ctx.super
     | _ => false) = true := by decide +kernel

/-- A state with cells in both memories and a partial, and its step: a store. -/
def storing : State :=
  let s := withX (placed (encodeBytes (.st 5 ⟨3, 0, 0, 0⟩ 0 .plain .ctx))) [(3, 0x2000), (5, 7)]
  { s with mem := { (chain s [.red .add 5 3 true .plain .ctx 8]).mem with sram := [(0x200000, 1)] } }

theorem witness_StepKeepsMemoriesCanonical : storing.Inv ∧ (storing.mem.partials.length = 1 && match step storing with | .next t => cellsRead t.mem.home 0x2000 2 = [7, 0] | _ => false) = true := by
  unfold State.Inv Mem.PartialsOk Mem.wf
  decide +kernel
end

/-! PROOFS. Every step keeps the memories in canonical form (O57). Each operation of the model has one rule: it keeps
`State.Inv` where it starts from it. A rule is found by the operation's name, and the rule of an operation that is a
chain of others is the chain of their rules. For an operation that touches neither a memory nor the window nor a
partition the invariant of the new state is, by definition, that of the old: its rule is the hypothesis. -/

namespace Sys2Proof.Machine

/-! The memories: what each operation on them keeps of their canonical form and of the partials (R4, R199,
R221, R304). -/

-- Cells of a page (R304)

/-- The canonical form from a bound on, entry by entry: strictly rising addresses, and no blank entry. -/
theorem cellsWfFrom_iff (lo : Nat) (m : List Host.Cell) :
    cellsWfFrom lo m = true ↔
      (∀ c ∈ m, lo ≤ c.1 ∧ c.2 ≠ blankByte) ∧ m.Pairwise fun c d => c.1 < d.1 := by
  induction m generalizing lo with
  | nil => simp [cellsWfFrom]
  | cons c m ih =>
    obtain ⟨a, v⟩ := c
    simp only [cellsWfFrom, Bool.and_eq_true, decide_eq_true_eq, bne_iff_ne, ih, List.forall_mem_cons,
      List.pairwise_cons]
    constructor
    · rintro ⟨⟨hlo, hv⟩, hm, hp⟩
      exact ⟨⟨⟨hlo, hv⟩, fun d hd => ⟨by have := (hm d hd).1; omega, (hm d hd).2⟩⟩, fun d hd => (hm d hd).1, hp⟩
    · rintro ⟨⟨⟨hlo, hv⟩, hm⟩, hlt, hp⟩
      exact ⟨⟨hlo, hv⟩, fun d hd => ⟨hlt d hd, (hm d hd).2⟩, hp⟩

/-- The canonical form, entry by entry. -/
theorem cellsWf_iff (m : List Host.Cell) :
    cellsWf m = true ↔ (∀ c ∈ m, c.2 ≠ blankByte) ∧ m.Pairwise fun c d => c.1 < d.1 := by
  simp [cellsWf, cellsWfFrom_iff]

/-- The cells of a range, numbered from its start, are in canonical form. -/
theorem cellsCut_wf (m : List Host.Cell) (lo n : Nat) (h : cellsWf m = true) : cellsWf (cellsCut m lo n) = true := by
  obtain ⟨hv, hp⟩ := (cellsWf_iff m).1 h
  refine (cellsWf_iff _).2 ⟨?_, ?_⟩
  · rintro c hc
    obtain ⟨d, hd, rfl⟩ := List.mem_map.1 hc
    exact hv d (List.mem_filter.1 hd).1
  · refine List.pairwise_map.2 ((hp.filter _).imp_of_mem fun {c d} hc _ hcd => ?_)
    have := (List.mem_filter.1 hc).2
    simp only [Bool.and_eq_true, decide_eq_true_eq] at this
    show c.1 - lo < d.1 - lo
    omega

/-- Replacing the cells of a range keeps the canonical form. -/
theorem cellsPaste_wf (m : List Host.Cell) (lo n : Nat) (cs : List Host.Cell) (h : cellsWf m = true)
    (hc : cellsWf cs = true) : cellsWf (cellsPaste m lo n cs) = true := by
  obtain ⟨hmv, hmp⟩ := (cellsWf_iff m).1 h
  obtain ⟨hcv, hcp⟩ := (cellsWf_iff cs).1 hc
  have below : ∀ c ∈ m.filter (fun c => decide (c.1 < lo)), c.1 < lo := fun c hc => by
    simpa using (List.mem_filter.1 hc).2
  have above : ∀ c ∈ m.filter (fun c => decide (lo + n ≤ c.1)), lo + n ≤ c.1 := fun c hc => by
    simpa using (List.mem_filter.1 hc).2
  have within : ∀ c ∈ (cs.filter fun c => decide (c.1 < n)).map (fun c => (lo + c.1, c.2)),
      lo ≤ c.1 ∧ c.1 < lo + n := by
    rintro c hc
    obtain ⟨d, hd, rfl⟩ := List.mem_map.1 hc
    have := (List.mem_filter.1 hd).2
    simp only [decide_eq_true_eq] at this
    exact ⟨Nat.le_add_right .., by simpa using this⟩
  unfold cellsPaste
  refine (cellsWf_iff _).2 ⟨?_, ?_⟩
  · intro c hc
    rcases List.mem_append.1 hc with hc | hc
    · rcases List.mem_append.1 hc with hc | hc
      · exact hmv c (List.mem_filter.1 hc).1
      · obtain ⟨d, hd, rfl⟩ := List.mem_map.1 hc
        exact hcv d (List.mem_filter.1 hd).1
    · exact hmv c (List.mem_filter.1 hc).1
  · refine List.pairwise_append.2 ⟨List.pairwise_append.2 ⟨hmp.filter _, ?_, ?_⟩, hmp.filter _, ?_⟩
    · exact List.pairwise_map.2 ((hcp.filter _).imp fun h => Nat.add_lt_add_left h lo)
    · intro c hc d hd
      exact Nat.lt_of_lt_of_le (below c hc) (within d hd).1
    · intro c hc d hd
      rcases List.mem_append.1 hc with hc | hc
      · exact Nat.lt_of_lt_of_le (below c hc) (Nat.le_trans (Nat.le_add_right ..) (above d hd))
      · exact Nat.lt_of_lt_of_le (within c hc).2 (above d hd)

-- The memories and the partials

/-- The part of the invariant that is about the module's memory. -/
def Mem.Ok (m : Mem) : Prop := m.wf ∧ m.PartialsOk

/-- Fewer partials are still those of R221. -/
theorem Mem.PartialsOk.sublist {m n : Mem} (h : m.PartialsOk) (hs : n.partials.Sublist m.partials) : n.PartialsOk := by
  obtain ⟨hlen, hnd, hcls⟩ := h
  exact ⟨fun p hp => hlen p (hs.subset hp), hnd.sublist (hs.map _),
    fun p hp q hq => hcls p (hs.subset hp) q (hs.subset hq)⟩

/-- A memory in canonical form whose partials are among those of a memory of the invariant. -/
theorem Mem.Ok.fewer {m n : Mem} (h : m.Ok) (hw : n.wf) (hs : n.partials.Sublist m.partials) : n.Ok :=
  ⟨hw, h.2.sublist hs⟩

/-- A fold of operations that each only drop partials only drops partials. -/
theorem Mem.foldl_partials {α : Type} {f : Mem → α → Mem} (hf : ∀ m x, (f m x).partials.Sublist m.partials)
    (l : List α) (m : Mem) : (l.foldl f m).partials.Sublist m.partials :=
  List.foldlRecOn (motive := fun n => n.partials.Sublist m.partials) l f (.refl _) fun n hn x _ => (hf n x).trans hn

theorem Mem.flushWith_partials (m : Mem) {merge : Mem → Nat → Mem}
    (hm : ∀ m l, (merge m l).partials.Sublist m.partials) (pa n : Nat) :
    (m.flushWith merge pa n).partials.Sublist m.partials :=
  Mem.foldl_partials hm _ m

@[simp] theorem Mem.dirtyLine_partials (m : Mem) (l : Nat) : (m.dirtyLine l).partials = m.partials := by
  dsimp only [Mem.dirtyLine, Mem.allocate]; split <;> rfl

theorem insertPartial_length (p : Partial) (ps : List Partial) : (insertPartial p ps).length = ps.length + 1 := by
  induction ps with
  | nil => rfl
  | cons q ps ih => unfold insertPartial; split <;> simp [ih]

/-- A line without partials of a condition has none in order. -/
theorem Mem.partialsOf_length (m : Mem) (l : Nat) (f : Partial → Bool) :
    (m.partialsOf l f).length = (m.partials.filter fun p => decide (p.line = l) && f p).length := by
  have fold : ∀ (ps acc : List Partial),
      (ps.foldl (fun l p => insertPartial p l) acc).length = acc.length + ps.length := by
    intro ps
    induction ps with
    | nil => simp
    | cons p ps ih => intro acc; simp [ih, insertPartial_length]; omega
  simp [Mem.partialsOf, fold]

/-- Merging the partials of a line drops them, and nothing of the merge adds one, if that holds of the merges that it
brings about. -/
theorem Mem.recallN_step {k : Nat} (ih : ∀ m l f, (Mem.recallN k m l f).partials.Sublist m.partials) (m : Mem) (l : Nat)
    (f : Partial → Bool) :
    (Mem.recallN (k + 1) m l f).partials.Sublist (m.partials.filter fun p => !(decide (p.line = l) && f p)) := by
  unfold Mem.recallN
  split
  · next hnone =>
    have hempty : ∀ p ∈ m.partials, ¬(decide (p.line = l) && f p) = true := by
      simpa [hnone, @eq_comm _ 0] using m.partialsOf_length l f
    rw [List.filter_eq_self.2 fun p hp => by simpa [Decidable.imp_iff_not_or] using hempty p hp]
  · dsimp only
    rw [Mem.dirtyLine_partials]
    exact @Mem.foldl_partials _ (fun m (r : Nat × Nat) => m.flushWith _ r.1 r.2)
      (fun m r => m.flushWith_partials (fun m l => ih m l _) r.1 r.2) _ _

theorem Mem.recallN_partials (k : Nat) (m : Mem) (l : Nat) (f : Partial → Bool) :
    (Mem.recallN k m l f).partials.Sublist m.partials := by
  induction k generalizing m l f with
  | zero => exact .refl _
  | succ k ih => exact (Mem.recallN_step ih m l f).trans List.filter_sublist

theorem Mem.recallIf_partials (m : Mem) (l : Nat) (f : Partial → Bool) :
    (m.recallIf l f).partials.Sublist m.partials := Mem.recallN_partials _ m l f

/-- After a merge no partial of the line that satisfies the condition is left. -/
theorem Mem.recallIf_drops {m : Mem} {l : Nat} {f : Partial → Bool} {p : Partial} (hp : p ∈ (m.recallIf l f).partials) :
    ¬(p.line = l ∧ f p = true) := by
  have hm : p ∈ m.partials := (m.recallIf_partials l f).subset hp
  unfold Mem.recallIf at hp
  obtain ⟨k, hk⟩ := Nat.exists_eq_succ_of_ne_zero (Nat.ne_of_gt (List.length_pos_of_mem hm))
  rw [hk] at hp
  simpa [Decidable.imp_iff_not_or] using
    (List.mem_filter.1 ((Mem.recallN_step (Mem.recallN_partials k) m l f).subset hp)).2

/-- A fold of operations that each keep the invariant keeps it. -/
theorem Mem.Ok.foldl {α : Type} {f : Mem → α → Mem} {m : Mem} (h : m.Ok) (l : List α)
    (hf : ∀ m x, m.Ok → (f m x).Ok) : (l.foldl f m).Ok :=
  List.foldlRecOn l f h fun m hm x _ => hf m x hm

section
variable {m : Mem}

theorem Mem.Ok.allocate (h : m.Ok) (l : Nat) : (m.allocate l).Ok := by
  unfold Mem.allocate; split <;> exact h

theorem Mem.Ok.dirtyLine (h : m.Ok) (l : Nat) : (m.dirtyLine l).Ok := h.allocate l

/-- The home memory takes another canonical form. -/
theorem Mem.Ok.setHome (h : m.Ok) {cs : List Host.Cell} (hc : cellsWf cs = true) : ({ m with home := cs } : Mem).Ok :=
  ⟨⟨hc, h.1.2⟩, h.2⟩

theorem Mem.Ok.writeHome (h : m.Ok) (a : Nat) (bs : List Byte) :
    ({ m with home := cellsWrite m.home a bs } : Mem).Ok := h.setHome (cellsWrite_wf _ _ _ h.1.1)

/-- The scratchpads take another canonical form. -/
theorem Mem.Ok.setSram (h : m.Ok) {cs : List Host.Cell} (hc : cellsWf cs = true) : ({ m with sram := cs } : Mem).Ok :=
  ⟨⟨h.1.1, hc⟩, h.2⟩

theorem Mem.Ok.writeSram (h : m.Ok) (k : Nat) (bs : List Byte) :
    ({ m with sram := cellsWrite m.sram k bs } : Mem).Ok := h.setSram (cellsWrite_wf _ _ _ h.1.2)

theorem Mem.Ok.put (h : m.Ok) (pa : Nat) (bs : List Byte) : (m.put pa bs).Ok :=
  h.writeHome pa bs

theorem Mem.Ok.dropTlbs (h : m.Ok) (pa n : Nat) : (m.dropTlbs pa n).Ok := h

/-- A merge of the partials of a line keeps the invariant: it keeps the form, and drops partials. -/
theorem Mem.Ok.recallIf (h : m.Ok) (l : Nat) (f : Partial → Bool) : (m.recallIf l f).Ok :=
  h.fewer (m.recallIf_wf l f h.1) (m.recallIf_partials l f)

theorem Mem.Ok.recall (h : m.Ok) (l : Nat) : (m.recall l).Ok := h.recallIf l _

theorem Mem.Ok.recallAll (h : m.Ok) (f : Partial → Bool) : (m.recallAll f).Ok :=
  Mem.Ok.foldl h _ fun _ l hm => hm.recallIf l f

theorem Mem.Ok.visit (h : m.Ok) (l : Nat) : (m.visit l).Ok := (h.recall l).allocate l

theorem Mem.Ok.visitRange (h : m.Ok) (pa n : Nat) : (m.visitRange pa n).Ok :=
  Mem.Ok.foldl h _ fun _ l hm => hm.visit l

theorem Mem.Ok.flushRange (h : m.Ok) (pa n : Nat) : (m.flushRange pa n).Ok :=
  h.fewer (m.flushRange_wf pa n h.1) (m.flushWith_partials (fun m l => m.recallIf_partials l _) pa n)

theorem Mem.Ok.walked (h : m.Ok) (path : List WalkMark) : (m.walked path).Ok :=
  Mem.Ok.foldl h path fun _ k hm => hm.visit (lineOf k.pte)

theorem Mem.Ok.learn (h : m.Ok) (p : Page) : (m.learn p).Ok := by
  dsimp only [Mem.learn]; split <;> exact h

theorem Mem.Ok.endWalk (h : m.Ok) (w : PageWalk) : (m.endWalk w).Ok := by
  unfold Mem.endWalk
  split
  · exact @Mem.Ok.foldl _ _ { m with walks := m.walks.erase w } h _ fun _ _ hm => hm
  · exact h

theorem Mem.Ok.freeWalker (h : m.Ok) : m.freeWalker.Ok := by
  unfold Mem.freeWalker
  split
  · split
    · exact h.endWalk _
    · exact h
  · exact h

theorem Mem.Ok.missWalk (h : m.Ok) (who : Option ClusterId) (part va : Nat) (w : Walk) :
    (m.missWalk who part va w).Ok := by
  dsimp only [Mem.missWalk]
  split
  · exact h
  · split
    · exact (h.freeWalker.walked _).learn _
    · exact h.freeWalker.walked _

theorem Mem.Ok.noteWalk (h : m.Ok) (who : Option ClusterId) (part va : Nat) (w : Walk) :
    (m.noteWalk who part va w).Ok := by
  unfold Mem.noteWalk
  split
  · split
    · exact h
    · split
      · exact h
      · exact h.missWalk ..
  · exact h.missWalk ..

theorem Mem.Ok.shootDown (h : m.Ok) (pa : Nat) (bs : List Byte) : (m.shootDown pa bs).Ok :=
  Mem.Ok.foldl (h.dropTlbs pa bs.length) _ fun _ r hm => hm.flushRange r.1 r.2

theorem Mem.Ok.write (h : m.Ok) (pa : Nat) (bs : List Byte) : (m.write pa bs).Ok :=
  (Mem.Ok.foldl ((Mem.Ok.foldl h (linesOf pa bs.length) fun _ l hm => hm.recall l).shootDown pa bs)
    (linesOf pa bs.length) fun _ l hm => hm.dirtyLine l).put pa bs

theorem Mem.Ok.putBelow (h : m.Ok) (pa : Nat) (bs : List Byte) : (m.putBelow pa bs).Ok :=
  (h.shootDown pa bs).put pa bs

theorem Mem.Ok.writeBelow (h : m.Ok) (pa : Nat) (bs : List Byte) : (m.writeBelow pa bs).Ok := h.putBelow pa bs

theorem Mem.Ok.writeKeep (h : m.Ok) (pa : Nat) (bs : List Byte) : (m.writeKeep pa bs).Ok :=
  ((h.shootDown pa bs).dirtyLine (lineOf pa)).put pa bs

theorem Mem.Ok.prepare (h : m.Ok) (pa : Nat) (p : HomePlace) : (m.prepare pa p).Ok := by
  cases p with
  | keep => exact h.allocate _
  | l2 => exact h.visit _
  | below => exact h

theorem Mem.Ok.writeAt (h : m.Ok) (pa : Nat) (bs : List Byte) (p : HomePlace) : (m.writeAt pa bs p).Ok := by
  cases p with
  | keep => exact h.writeKeep pa bs
  | l2 => exact h.write pa bs
  | below => exact h.writeBelow pa bs

theorem Mem.Ok.log (h : m.Ok) (a : Access) : (m.log a).Ok := by
  unfold Mem.log; split <;> exact h

theorem Mem.Ok.cleanRange (h : m.Ok) (pa n : Nat) : (m.cleanRange pa n).Ok :=
  Mem.Ok.foldl h (linesOf pa n) fun _ l hm => hm.recall l

theorem Mem.Ok.dropRange (h : m.Ok) (pa n : Nat) : (m.dropRange pa n).Ok :=
  h.fewer h.1 List.filter_sublist

end

end Sys2Proof.Machine

namespace Sys2Proof.Machine

/-! The invariant as a rule for each operation on the state: what a check, an answer and an outcome may hold, traps,
flags, accesses, fetches. -/

-- What an answer, a check and an outcome may hold

/-- The state of an instruction's answer meets the invariant. -/
def Res.Inv : Res → Prop
  | .done s | .jump s _ | .wait s | .gone s => s.Inv
  | .trap _ => True

/-- The next state of an outcome meets the invariant. -/
def OutInv : Out → Prop
  | .next s => s.Inv
  | .fault _ | .refused _ => True

/-- The result of a check that passes has a property. -/
def Chk.Holds {α : Type} (P : α → Prop) : Chk α → Prop
  | .ok a => P a
  | .trap _ | .hold => True

section
variable {α β : Type}

theorem Chk.holds_true (c : Chk α) : c.Holds fun _ => True := by cases c <;> trivial

/-- A check that goes on with a further check. -/
theorem Chk.Holds.bind {P : α → Prop} {Q : β → Prop} {c : Chk α} {f : α → Chk β} (hc : c.Holds P)
    (hf : ∀ a, P a → (f a).Holds Q) : (c.bind f).Holds Q := by
  cases c with
  | ok a => exact hf a hc
  | trap t => trivial
  | hold => trivial

/-- A further check behind one whose result does not matter. -/
theorem Chk.holds_bind {Q : β → Prop} {c : Chk α} {f : α → Chk β} (hf : ∀ a, (f a).Holds Q) : (c.bind f).Holds Q :=
  c.holds_true.bind fun a _ => hf a

/-- A check that goes on with an effect. -/
theorem Chk.Holds.res {P : α → Prop} {c : Chk α} {f : α → Res} {s : State} (hc : c.Holds P) (h : s.Inv)
    (hf : ∀ a, P a → (f a).Inv) : (c.res s f).Inv := by
  cases c with
  | ok a => exact hf a hc
  | trap t => trivial
  | hold => exact h

end

/-- What an option holds, if anything, has a property. -/
def IfSome {α : Type} (P : α → Prop) : Option α → Prop
  | some a => P a
  | none => True

section
variable {α β : Type} {P : α → Prop} {Q : β → Prop} {o : Option α}

theorem IfSome.of_eq {a : α} (h : IfSome P o) (ho : o = some a) : P a := by
  subst ho
  exact h

theorem IfSome.map {f : α → β} (h : IfSome P o) (hf : ∀ a, P a → Q (f a)) : IfSome Q (o.map f) := by
  cases o with
  | none => trivial
  | some a => exact hf a h

theorem IfSome.bind {f : α → Option β} (h : IfSome P o) (hf : ∀ a, P a → IfSome Q (f a)) : IfSome Q (o.bind f) := by
  cases o with
  | none => trivial
  | some a => exact hf a h

/-- A further step behind an option whose value does not matter. -/
theorem ifSome_bind {f : α → Option β} (hf : ∀ a, IfSome Q (f a)) : IfSome Q (o.bind f) := by
  cases o with
  | none => trivial
  | some a => exact hf a

theorem ifSome_ite {c : Prop} [Decidable c] {a b : Option α} (ha : IfSome P a) (hb : IfSome P b) :
    IfSome P (if c then a else b) := by
  split
  · exact ha
  · exact hb

end

theorem Res.inv_ite {c : Prop} [Decidable c] {a b : Res} (ha : a.Inv) (hb : b.Inv) : (if c then a else b).Inv := by
  split
  · exact ha
  · exact hb

theorem State.inv_ite {c : Prop} [Decidable c] {a b : State} (ha : a.Inv) (hb : b.Inv) : (if c then a else b).Inv := by
  split
  · exact ha
  · exact hb

/-- A choice between two states, each with an answer. -/
theorem State.fst_inv_ite {α : Type} {c : Prop} [Decidable c] {a b : State × α} (ha : a.1.Inv) (hb : b.1.Inv) :
    (if c then a else b).1.Inv := by
  split
  · exact ha
  · exact hb

theorem outInv_ite {c : Prop} [Decidable c] {a b : Out} (ha : OutInv a) (hb : OutInv b) :
    OutInv (if c then a else b) := by
  split
  · exact ha
  · exact hb

-- Parts of the state

/-- The compressed pages of a partition are in canonical form. -/
def Part.PackedOk (v : Part) : Prop := ∀ k ∈ v.packed, cellsWf k.cells = true

/-- An entry of a table after a replacement is the new one or an old one. -/
theorem Map.mem_put {α β : Type} [DecidableEq α] {m : Map α β} {a : α} {b : β} {p : α × β}
    (h : p ∈ Map.put m a b) : p = (a, b) ∨ p ∈ m := by
  induction m with
  | nil => exact .inl (List.mem_singleton.1 h)
  | cons q m ih =>
    unfold Map.put at h
    split at h
    · exact (List.mem_cons.1 h).imp_right (List.mem_cons_of_mem q)
    · rcases List.mem_cons.1 h with rfl | h
      · exact .inr List.mem_cons_self
      · exact (ih h).imp_right (List.mem_cons_of_mem q)

/-- What a table answers is one of its entries. -/
theorem Map.mem_of_get? {α β : Type} [DecidableEq α] {m : Map α β} {a : α} {b : β} (h : Map.get? m a = some b) :
    (a, b) ∈ m := by
  induction m with
  | nil => cases h
  | cons q m ih =>
    unfold Map.get? at h
    split at h
    · next hq => obtain rfl := hq; obtain rfl := Option.some.inj h; exact List.mem_cons_self
    · exact List.mem_cons_of_mem q (ih h)

section
variable {s : State}

theorem State.Inv.mem (h : s.Inv) : s.mem.Ok := ⟨h.1, h.2.1⟩

theorem State.Inv.setMem (h : s.Inv) {m : Mem} (hm : m.Ok) : ({ s with mem := m } : State).Inv :=
  ⟨hm.1, hm.2, h.2.2⟩

/-- What the invariant speaks of is as it was. -/
theorem State.Inv.of_eq {t : State} (h : s.Inv) (hm : t.mem = s.mem) (hp : t.parts = s.parts)
    (hw : t.pkg.window = s.pkg.window) : t.Inv := by
  unfold State.Inv at *
  rwa [hm, hp, hw]

/-- The state of an answer of several parts. -/
theorem State.Inv.of_pair {α : Type} {p : State × α} {t : State} {a : α} (h : p.1.Inv) (hp : p = (t, a)) : t.Inv := by
  subst hp
  exact h

theorem State.Inv.next (h : s.Inv) : OutInv (.next s) := h

theorem State.Inv.done (h : s.Inv) : Res.Inv (.done s) := h

theorem State.Inv.recall (h : s.Inv) {line : Nat} : ({ s with mem := s.mem.recall line } : State).Inv :=
  h.setMem (h.mem.recall line)

/-- The window of queue 0 takes another canonical form. -/
theorem State.Inv.writeWindow (h : s.Inv) {a : Nat} {bs : List Byte} :
    ({ s with pkg := { s.pkg with window := cellsWrite s.pkg.window a bs } } : State).Inv :=
  ⟨h.1, h.2.1, cellsWrite_wf _ _ _ h.2.2.1, h.2.2.2⟩

theorem State.Inv.part (h : s.Inv) {p : Nat} {v : Part} (hp : s.part? p = some v) : v.PackedOk :=
  h.2.2.2 (p, v) (Map.mem_of_get? hp)

/-- A partition is replaced, its compressed pages being those of one that the invariant holds of. -/
theorem State.Inv.setPart (h : s.Inv) {p : Nat} {v w : Part} (hv : v.PackedOk) (hpk : w.packed = v.packed) :
    (s.setPart p w).Inv := by
  obtain ⟨hm, hr, hw, hp⟩ := h
  refine ⟨hm, hr, hw, fun q hq => ?_⟩
  rcases Map.mem_put hq with rfl | hq
  · exact fun k hk => hv k (hpk ▸ hk)
  · exact hp q hq

/-- A fold of operations that each keep the invariant keeps it. -/
theorem State.Inv.foldl {α : Type} {f : State → α → State} (h : s.Inv) {l : List α}
    (hf : ∀ t x, t.Inv → (f t x).Inv) : (l.foldl f s).Inv :=
  List.foldlRecOn l f h fun t ht x _ => hf t x ht

/-- A check that goes on with an effect, whatever it answers. -/
theorem State.Inv.res {α : Type} (h : s.Inv) {c : Chk α} {f : α → Res} (hf : ∀ a, (f a).Inv) : (c.res s f).Inv :=
  c.holds_true.res h fun a _ => hf a

theorem State.Inv.setCtx (h : s.Inv) {c : CtxId} {v : Ctx} : (s.setCtx c v).Inv := by
  unfold State.setCtx; split <;> exact h

theorem State.Inv.switchTo (h : s.Inv) {c : CtxId} : (s.switchTo c).Inv := by
  unfold State.switchTo; split <;> exact h

theorem State.Inv.resetVec (h : s.Inv) {k : CoreId} : (s.resetVec k).Inv := by
  unfold State.resetVec; split <;> exact h

theorem State.Inv.pick (h : s.Inv) {n : Nat} : (s.pick n).2.Inv := by
  unfold State.pick; split <;> exact h

theorem State.Inv.flip (h : s.Inv) : s.flip.2.Inv := h

theorem State.Inv.longResult (h : s.Inv) {i : Instr} {la : LaCount} {ws : List RegWrite} :
    (s.longResult i la ws).Inv := by
  unfold State.longResult; split <;> exact h

-- Traps, waits and completion

theorem State.Inv.doubleTrap (h : s.Inv) {t : Trap} : (s.doubleTrap t).Inv := by
  unfold State.doubleTrap
  split
  · exact h
  · next v hv => exact State.Inv.setPart h (h.part hv) rfl

theorem State.Inv.enterTrap (h : s.Inv) {t : Trap} : (s.enterTrap t).Inv := by
  unfold State.enterTrap
  split
  · exact h
  · split
    · exact h.doubleTrap
    · exact h

theorem State.Inv.finish (h : s.Inv) {i : Instr} {r : Res} (hr : r.Inv) : OutInv (s.finish i r) := by
  cases r with
  | trap t => exact h.enterTrap
  | done | jump | wait | gone => exact hr

/-- Performing an instruction keeps the invariant where its body does. -/
theorem State.Inv.run (h : s.Inv) {i : Instr} {body : State → Res} (hb : (body s).Inv) : OutInv (s.run i body) := by
  rcases run_cases s i body with ⟨t, u, ho, rfl | rfl⟩ | ho | ho
  · exact ho ▸ h.enterTrap
  · exact ho ▸ @State.Inv.enterTrap { s with fresh := s.fresh + 1 } h t
  · exact ho ▸ h
  · exact ho ▸ h.finish hb

theorem State.Inv.acquire (h : s.Inv) {sc : Scope} : (s.acquire sc).Inv := by
  unfold State.acquire; split <;> exact h

theorem State.Inv.endRegion (h : s.Inv) : s.endRegion.Inv := h

theorem State.Inv.wx (h : s.Inv) {r : XReg} {v : Word} : (s.wx r v).Inv := h

theorem State.Inv.setCl (h : s.Inv) {c : ClusterId} {k : Cluster} : (s.setCl c k).Inv := h

theorem State.Inv.setCore (h : s.Inv) {c : CoreId} {k : CoreSt} : (s.setCore c k).Inv := h

/-- The state of the issuing context is replaced. -/
theorem State.Inv.ctx (h : s.Inv) {c : Ctx} : ({ s with ctx := c } : State).Inv := h

-- Flags

theorem State.Inv.raiseCluster (h : s.Inv) {c : ClusterId} {fl : BitVec 5} : (s.raiseCluster c fl).Inv := by
  unfold State.raiseCluster; split <;> exact h

theorem State.Inv.raiseAt (h : s.Inv) {c : CtxId} {fl : BitVec 5} : (s.raiseAt c fl).Inv := by
  unfold State.raiseAt
  split
  · exact h
  · exact h.setCtx.raiseCluster

theorem State.Inv.raise (h : s.Inv) {fl : BitVec 5} : (s.raise fl).Inv := h.raiseAt

theorem State.Inv.fput (h : s.Inv) {d : FReg} {r : Nat × Flags} : (s.fput d r).Inv := h.raise

-- Accesses

theorem State.Inv.note (h : s.Inv) {p : Page} {lo n : Nat} {k : AccKind} : (s.note p lo n k).Inv := by
  unfold State.note
  split
  · exact h.setMem (h.mem.log _)
  · exact h

theorem State.Inv.noteAccess (h : s.Inv) {ea : Word} : (s.noteAccess ea).Inv := by
  unfold State.noteAccess
  split
  · exact h
  · exact h.setMem (h.mem.noteWalk ..)

theorem State.Inv.readHome (h : s.Inv) {pa n : Nat} : (s.readHome pa n).1.Inv := h.setMem (h.mem.visitRange pa n)

theorem State.Inv.readVia (h : s.Inv) {c : ClusterId} {pa n : Nat} : (s.readVia c pa n).1.Inv := by
  unfold State.readVia
  split
  · exact h
  · exact h.readHome

theorem State.Inv.loadGlob (h : s.Inv) {p : Page} {pa n : Nat} : (s.loadGlob p pa n).1.Inv := by
  unfold State.loadGlob
  split
  · exact h.readHome.note
  · exact h.readVia

theorem State.Inv.load (h : s.Inv) {t : Target} {n : Nat} : (s.load t n).1.Inv := by
  cases t with
  | glob p pa => exact h.loadGlob
  | mesh c off => exact h

theorem State.Inv.writeHome (h : s.Inv) {c : ClusterId} {pa : Nat} {bs : List Byte} : (s.writeHome c pa bs).Inv :=
  h.setMem (h.mem.write pa bs)

theorem State.Inv.writeSram (h : s.Inv) {k : Nat} {bs : List Byte} :
    ({ s with mem := { s.mem with sram := cellsWrite s.mem.sram k bs } } : State).Inv := h.setMem (h.mem.writeSram k bs)

theorem State.Inv.store (h : s.Inv) {t : Target} {bs : List Byte} : (s.store t bs).Inv := by
  cases t with
  | glob p pa => exact h.writeHome.note
  | mesh c off => exact h.writeSram

theorem State.Inv.loadRange (h : s.Inv) {ts : List (Word × Target × Nat)} : (s.loadRange ts).1.Inv := by
  induction ts generalizing s with
  | nil => exact h
  | cons t ts ih => exact ih h.noteAccess.load

theorem State.Inv.storeRange (h : s.Inv) {ts : List (Word × Target × Nat)} {bs : List Byte} :
    (s.storeRange ts bs).Inv := by
  induction ts generalizing s bs with
  | nil => exact h
  | cons t ts ih => exact ih h.noteAccess.store

theorem State.Inv.loadRecord (h : s.Inv) {ea : Word} {n al : Nat} : (s.loadRecord ea n al).Holds fun r => r.1.Inv :=
  Chk.holds_bind fun _ => h.loadRange

theorem State.Inv.writePhys (h : s.Inv) {pa : Nat} {bs : List Byte} : (s.writePhys pa bs).Inv :=
  h.setMem (h.mem.write pa bs)

-- Fetch

theorem State.Inv.chooseBlock (h : s.Inv) {k pa : Nat} {now : List Byte} {seen : Option (List Byte)} :
    (s.chooseBlock k pa now seen).1.Inv := by
  induction k generalizing s pa now seen with
  | zero => exact h
  | succ k ih => exact ih h.pick

theorem State.Inv.fetchBlock (h : s.Inv) {va pa : Nat} : (s.fetchBlock va pa).1.Inv := by
  have hr : (s.readHome pa 32).1.Inv := h.readHome
  unfold State.fetchBlock
  exact hr.chooseBlock.of_eq rfl rfl rfl

theorem State.Inv.fetchBytes (h : s.Inv) {a : Word} : (s.fetchBytes a).1.Inv := by
  unfold State.fetchBytes
  split
  · exact h
  · split
    · exact h
    · split
      · exact h
      · exact h.noteAccess.fetchBlock

theorem State.Inv.fetch (h : s.Inv) : s.fetch.1.Inv := by
  have hf : (s.fetchBytes s.ctx.pc).1.Inv := h.fetchBytes
  unfold State.fetch
  split
  · next heq => exact hf.of_pair heq
  · next heq => split <;> exact hf.of_pair heq

-- Loads, prefetches

theorem State.Inv.loadInto (h : s.Inv) {i : Instr} {d : XReg} {ea : Word} {n : Nat} {sx : Bool} {la : LaCount} :
    (s.loadInto i d ea n sx la).Inv :=
  h.res fun _ => h.noteAccess.load.longResult

theorem State.Inv.prefetch (h : s.Inv) {ea : Word} : (s.prefetch ea).Inv := by
  dsimp only [State.prefetch]
  split
  · exact h
  · split
    · exact h
    · have ha : (s.noteAccess ea).Inv := h.noteAccess
      split <;> exact ha.setMem (ha.mem.allocate _)

end

end Sys2Proof.Machine

namespace Sys2Proof.Machine

/-! Partials and atomic operations (R221, R222, R225): a reduction keeps at most one partial of a cluster for a line, of
one class for a line. -/

-- Partials (R221)

/-- A line of identities has 128 bytes. -/
theorem identityLine_length (k : RedClass) : (identityLine k).length = 128 := by
  have flat : ∀ (n : Nat) (bs : List Byte), (List.replicate n bs).flatten.length = n * bs.length := by simp
  cases k with
  | exa => simp [identityLine]
  | int op wide => cases wide <;> simp only [identityLine, flat, leBytes_length]

theorem splice_length {bs v : List Byte} {o : Nat} (h : o + v.length ≤ bs.length) :
    (splice bs o v).length = bs.length := by
  simp only [splice, List.length_append, List.length_take, List.length_drop]
  omega

/-- Every partial of a line in a class is of the class. -/
theorem Mem.cls_of_inClass {m : Mem} {line : Nat} {k : RedClass} (h : m.inClass line k = true) {p : Partial}
    (hp : p ∈ m.partials) (hl : p.line = line) : p.cls = k := by
  simp only [Mem.inClass, Mem.holders, Bool.and_eq_true, List.all_eq_true, decide_eq_true_eq] at h
  exact h.2 p (List.mem_filter.2 ⟨hp, by simpa using hl⟩)

/-- A cluster that has no partial of a line takes one, of the line's class. -/
theorem Mem.Ok.addPartial {m : Mem} (h : m.Ok) {p : Partial} (hlen : p.bytes.length = 128)
    (hcls : ∀ q ∈ m.partials, q.line = p.line → q.cls = p.cls)
    (hnew : ∀ q ∈ m.partials, q.line = p.line → q.cl ≠ p.cl) : ({ m with partials := m.partials ++ [p] } : Mem).Ok := by
  obtain ⟨hw, hl, hn, hc⟩ := h
  have split : ∀ {q}, q ∈ m.partials ++ [p] → q ∈ m.partials ∨ q = p := by simp
  refine ⟨hw, fun q hq => ?_, ?_, fun q hq r hr hqr => ?_⟩
  · rcases split hq with hq | rfl
    · exact hl q hq
    · exact hlen
  · simp only [List.map_append, List.map_cons, List.map_nil]
    refine hn.append (List.nodup_singleton _) fun x hx hp => ?_
    obtain ⟨q, hq, rfl⟩ := List.mem_map.1 hx
    obtain ⟨hcl, hline⟩ := Prod.mk.inj (List.mem_singleton.1 hp)
    exact hnew q hq hline hcl
  · rcases split hq with hq' | rfl <;> rcases split hr with hr' | rfl
    · exact hc q hq' r hr' hqr
    · exact hcls q hq' hqr
    · exact (hcls r hr' hqr.symm).symm
    · rfl

/-- Partials whose bytes change, and not their number. -/
theorem Mem.Ok.mapPartials {m : Mem} (h : m.Ok) {g : Partial → Partial}
    (hg : ∀ p, (g p).cl = p.cl ∧ (g p).line = p.line ∧ (g p).cls = p.cls)
    (hlen : ∀ p, p.bytes.length = 128 → (g p).bytes.length = 128) :
    ({ m with partials := m.partials.map g } : Mem).Ok := by
  obtain ⟨hw, hl, hn, hc⟩ := h
  refine ⟨hw, fun q hq => ?_, ?_, fun q hq r hr hqr => ?_⟩
  · obtain ⟨p, hp, rfl⟩ := List.mem_map.1 hq
    exact hlen p (hl p hp)
  · have : (fun p => (p.cl, p.line)) ∘ g = fun p : Partial => (p.cl, p.line) := by
      funext p; simp [(hg p).1, (hg p).2.1]
    show ((m.partials.map g).map fun p => (p.cl, p.line)).Nodup
    rwa [List.map_map, this]
  · obtain ⟨p, hp, rfl⟩ := List.mem_map.1 hq
    obtain ⟨p', hp', rfl⟩ := List.mem_map.1 hr
    rw [(hg p).2.1, (hg p').2.1] at hqr
    rw [(hg p).2.2, (hg p').2.2, hc p hp p' hp' hqr]

-- Where a reduction is performed

/-- n bytes of a target are within one line of global memory. -/
def Target.Fits (n : Nat) : Target → Prop
  | .glob _ pa => pa % 128 + n ≤ 128
  | .mesh .. => True

/-- A page keeps the alignment of an address within its line (R206). -/
theorem Page.pa_fits (p : Page) {va n : Nat} (hn : n ∣ 128) (h : va % n = 0) : p.pa va % 128 + n ≤ 128 := by
  have hsize : (2 : Nat) ^ 7 ∣ p.size := by
    unfold Page.size levelBits
    split <;> exact Nat.pow_dvd_pow 2 (by decide)
  have hframe : (128 : Nat) ∣ leafFrame p.e := Dvd.dvd.mul_left (by decide) _
  have hva : n ∣ va % p.size := (Nat.dvd_mod_iff (hn.trans hsize)).2 (Nat.dvd_of_mod_eq_zero h)
  have hpa : n ∣ p.pa va % 128 := (Nat.dvd_mod_iff hn).2 (Nat.dvd_add (hn.trans hframe) hva)
  obtain ⟨a, ha⟩ := hpa
  obtain ⟨b, hb⟩ := hn
  have hlt : n * a < n * b := by
    have := Nat.mod_lt (p.pa va) (show 0 < 128 by decide)
    omega
  have hab : a + 1 ≤ b := Nat.lt_of_mul_lt_mul_left hlt
  calc p.pa va % 128 + n = n * (a + 1) := by rw [ha, Nat.mul_succ]
    _ ≤ n * b := Nat.mul_le_mul_left n hab
    _ = 128 := hb.symm

/-- The target of a checked access to aligned bytes is within one line. -/
theorem State.access_fits (s : State) (k : AccKind) (ea : Word) {n : Nat} (hn : n ∣ 128) :
    (s.access k ea n n).Holds (Target.Fits n) := by
  have hn0 : n ≠ 0 := by rintro rfl; exact absurd hn (by decide)
  unfold State.access
  split
  · trivial
  · split
    · trivial
    · next hal =>
      have hmod : ea.toNat % n = 0 := by simpa [aligned, hn0] using hal
      have hloc : (s.locate k ea).Holds (Target.Fits n) := by
        unfold State.locate
        split
        · exact Chk.holds_bind fun _ => trivial
        · split
          · split
            · trivial
            · next p _ => exact p.pa_fits hn hmod
          · trivial
      refine hloc.bind fun t ht => ?_
      cases t with
      | glob p pa => exact Chk.holds_bind fun _ => ht
      | mesh c off => trivial

section
variable {s : State}

theorem State.Inv.rmw (h : s.Inv) {t : Target} {n : Nat} {cls : Option RedClass} {far homeless : Bool}
    {f : List Byte → Option (List Byte)} : (s.rmw t n cls far homeless f).1.Inv := by
  cases t with
  | mesh c off =>
    dsimp only [State.rmw]
    split
    · exact h
    · exact h.writeSram
  | glob p pa =>
    dsimp only [State.rmw]
    have hp := h.mem.prepare pa (s.mem.homePlace (lineOf pa) cls far homeless)
    refine State.Inv.note ?_
    split
    · exact h.setMem hp
    · exact h.setMem (hp.writeAt pa _ _)

theorem State.Inv.evict (h : s.Inv) {c : ClusterId} {line : Nat} {b : Fin 16} : (s.evict c line b).Inv :=
  h.setMem (h.mem.recallAll _)

theorem Mem.recallAll_partials (m : Mem) (f : Partial → Bool) : (m.recallAll f).partials.Sublist m.partials :=
  Mem.foldl_partials (fun m l => m.recallIf_partials l f) _ m

theorem State.evict_partials (s : State) (c : ClusterId) (line : Nat) (b : Fin 16) :
    (s.evict c line b).mem.partials.Sublist s.mem.partials := Mem.recallAll_partials s.mem _

theorem State.Inv.takeWay (h : s.Inv) {c : ClusterId} {line : Nat} : (s.takeWay c line).1.Inv := by
  dsimp only [State.takeWay]
  split
  · exact h
  · exact h.pick.evict

@[simp] theorem State.pick_mem (s : State) (n : Nat) : (s.pick n).2.mem = s.mem := by
  unfold State.pick; split <;> rfl

theorem State.takeWay_partials (s : State) (c : ClusterId) (line : Nat) :
    (s.takeWay c line).1.mem.partials.Sublist s.mem.partials := by
  dsimp only [State.takeWay]
  split
  · exact .refl _
  · have hp := State.evict_partials (s.pick (s.getCl c).cacheBanks.length).2 c line
    rw [State.pick_mem] at hp
    exact hp _

/-- A line that is to be reduced in a class holds no partial of another. -/
theorem State.Inv.enterClass (h : s.Inv) {line : Nat} {k : RedClass} :
    let t := if s.mem.inClass line k then s else { s with mem := s.mem.recall line }
    t.Inv ∧ ∀ p ∈ t.mem.partials, p.line = line → p.cls = k := by
  dsimp only
  split
  · next hk => exact ⟨h, fun p hp => Mem.cls_of_inClass hk hp⟩
  · exact ⟨h.recall, fun p hp hl => absurd ⟨hl, rfl⟩ (Mem.recallIf_drops hp)⟩

/-- A cluster that is to reduce into a line has its partial there, if the line holds none of another class. -/
theorem State.Inv.enterLine (h : s.Inv) {c : ClusterId} {line : Nat} {k : RedClass}
    (hk : ∀ p ∈ s.mem.partials, p.line = line → p.cls = k) :
    State.Inv (if s.mem.partials.any fun p => p.cl = c && p.line = line then s
    else
      let (s, b) := s.takeWay c line
      { s with mem := { s.mem with partials := s.mem.partials ++ [⟨c, line, b, k, identityLine k⟩] } }) := by
  split
  · exact h
  · next hnone =>
    have hsub := s.takeWay_partials c line
    refine h.takeWay.setMem (h.takeWay.mem.addPartial (identityLine_length k)
      (fun q hq => hk q (hsub.subset hq)) fun q hq hl hc => hnone ?_)
    exact List.any_eq_true.2 ⟨q, hsub.subset hq, by simp [hl, hc]⟩

/-- A reduction of bytes within a line keeps the partials those of R221. -/
theorem State.Inv.redPartial (h : s.Inv) {k : RedClass} {pa n : Nat} {f : List Byte → List Byte}
    (hfit : pa % 128 + n ≤ 128) (hf : ∀ bs, (f bs).length = n) : (s.redPartial k pa n f).Inv := by
  unfold State.redPartial
  extract_lets line c s1 s2 o m m' s3
  have h1 : s1.Inv ∧ ∀ p ∈ s1.mem.partials, p.line = line → p.cls = k := h.enterClass
  have h2 : s2.Inv := h1.1.enterLine h1.2
  have hm : m'.Ok := by
    refine @Mem.Ok.mapPartials m h2.mem _ (fun p => ?_) fun p hp => ?_
    · split <;> exact ⟨rfl, rfl, rfl⟩
    · split
      · exact (splice_length (by rw [hf, hp]; exact hfit)).trans hp
      · exact hp
  have h3 : s3.Inv := h2.setMem (hm.dropTlbs pa n)
  exact h3

theorem State.Inv.ordered (h : s.Inv) {ord : MemOrd} {sc : Scope} : (s.ordered ord sc).Inv := by
  have ha : State.Inv (if acquires ord then s.acquire sc else s) := by
    split
    · exact h.acquire
    · exact h
  dsimp only [State.ordered]
  split <;> exact ha

theorem State.Inv.reduce (h : s.Inv) {t : Target} {n : Nat} (ht : t.Fits n) {k : RedClass} {ord : MemOrd} {sc : Scope}
    {f : List Byte → List Byte} (hf : ∀ bs, (f bs).length = n) : (s.reduce t n k ord sc f).Inv := by
  refine State.Inv.ordered ?_
  cases t with
  | mesh c off => exact h.rmw
  | glob p pa =>
    dsimp only
    split
    · exact h.recall.rmw
    · split
      · exact h.rmw
      · exact (h.redPartial ht hf).note

theorem State.Inv.atomic (h : s.Inv) {i : Instr} {d a : XReg} {wide sx : Bool} {ord : MemOrd} {sc : Scope}
    {off : BitVec 64} {la : LaCount} {f : Nat → Option Nat} : (s.atomic i d a wide sx ord sc off la f).Inv := by
  dsimp only [State.atomic]
  split
  · exact h
  · exact h.res fun _ => h.noteAccess.rmw.ordered.longResult

theorem atomBytes_dvd (wide : Bool) : atomBytes wide ∣ 128 := by cases wide <;> decide

theorem State.Inv.execRed (h : s.Inv) {op : RedOp} {b a : XReg} {wide : Bool} {ord : MemOrd} {sc : Scope}
    {off : BitVec 64} : OutInv (execRed op b a wide ord sc off s) := by
  refine h.run ?_
  dsimp only
  split
  · exact h
  · exact (s.access_fits .atomic _ (atomBytes_dvd wide)).res h fun t ht =>
      h.noteAccess.reduce ht fun _ => leBytes_length ..

theorem State.Inv.redxSource (h : s.Inv) {src : RedxSrc} : (s.redxSource src).Holds fun r => r.1.Inv := by
  cases src with
  | f r => exact h
  | exa r => exact Chk.holds_bind fun _ => h.noteAccess.load

theorem State.Inv.execRedx (h : s.Inv) {src : RedxSrc} {a : XReg} {ord : MemOrd} {sc : Scope} {off : BitVec 64} :
    OutInv (execRedx src a ord sc off s) := by
  refine h.run ?_
  dsimp only
  split
  · exact h
  · exact (s.access_fits .atomic _ (by decide)).res h fun t ht => h.redxSource.res h fun r hr =>
      hr.noteAccess.reduce ht fun _ => leBytes_length ..

theorem State.Inv.execCvtexa (h : s.Inv) {rnd : Rnd} {d : FReg} {a : XReg} : OutInv (execCvtexa rnd d a s) := by
  refine h.run ?_
  dsimp only
  split
  · exact h
  · refine h.res fun t => ?_
    have ha : (s.noteAccess (s.rx a)).Inv := h.noteAccess
    refine State.Inv.fput ?_
    cases t with
    | mesh c off => exact ha.load
    | glob p pa =>
      dsimp only
      split
      · exact ha.load
      · exact ha.readHome.note

end

end Sys2Proof.Machine

namespace Sys2Proof.Machine

/-! Full/empty words, fault records and event words, barriers, helpers. -/

section
variable {s : State}

-- Full/empty words

theorem State.Inv.setFe (h : s.Inv) {w : Nat} {full : Bool} : (s.setFe w full).Inv := h

theorem State.Inv.writeWord (h : s.Inv) {w : Nat} {v : Word} : (s.writeWord w v).Inv := h.writeSram

theorem State.Inv.dropRequest (h : s.Inv) {c : ClusterId} : (s.dropRequest c).Inv := h

theorem State.Inv.feDo (h : s.Inv) {w : Nat} {store : Option Word} {keep : Bool} : (s.feDo w store keep).1.Inv := by
  unfold State.feDo
  split
  · exact h.writeWord.setFe
  · cases keep <;> exact h

theorem State.Inv.serveFe (h : s.Inv) {c : ClusterId} {w n : Nat} : (s.serveFe c w n).Inv := by
  induction n generalizing s with
  | zero => exact h
  | succ n ih =>
    dsimp only [State.serveFe]
    split
    · exact h
    · exact ih h.feDo

theorem State.Inv.wakeFe (h : s.Inv) {c : ClusterId} {w : Nat} : (s.wakeFe c w).Inv := h.serveFe

theorem State.Inv.feOp (h : s.Inv) {i : Instr} {ea : Word} {store : Option Word} {keep : Bool}
    {fin : State → ClusterId → Word → Res} (hf : ∀ t c v, t.Inv → (fin t c v).Inv) :
    (s.feOp i ea store keep fin).Inv := by
  unfold State.feOp
  split
  · exact hf _ _ _ h
  · refine h.res fun t => ?_
    dsimp only
    split
    · exact hf _ _ _ h.feDo.dropRequest.wakeFe
    · split <;> exact h

theorem State.Inv.feLoad (h : s.Inv) {i : Instr} {d : XReg} {m : MemOp} {keep : Bool} {la : LaCount} :
    (s.feLoad i d m keep la).Inv := by
  unfold State.feLoad
  split
  · exact h
  · exact h.feOp fun _ _ _ ht => ht.acquire.endRegion.longResult

theorem State.Inv.execSte (h : s.Inv) {src : XReg} {m : MemOp} : OutInv (execSte src m s) := by
  refine h.run ?_
  split
  · exact h
  · exact h.feOp fun _ _ _ ht => ht

theorem State.Inv.execStf (h : s.Inv) {src : XReg} {m : MemOp} : OutInv (execStf src m s) := by
  refine h.run ?_
  split
  · exact h
  · exact h.res fun _ => h.writeWord.setFe.wakeFe.endRegion

theorem State.Inv.execFestat (h : s.Inv) {d : XReg} {m : MemOp} : OutInv (execFestat d m s) := by
  refine h.run ?_
  split
  · exact h
  · exact h.res fun _ => h

theorem State.Inv.execFeset (h : s.Inv) {src : XReg} {m : MemOp} : OutInv (execFeset src m s) := by
  refine h.run ?_
  split
  · exact h
  · exact h.res fun _ => h.setFe.wakeFe

-- Reports

theorem State.Inv.logFaultAt (h : s.Inv) {p : Nat} {r : FaultRec} {cycle : Nat} : (s.logFaultAt p r cycle).Inv := by
  unfold State.logFaultAt
  split
  · exact h
  · next v hv => exact h.writePhys.writePhys.setPart (h.part hv) rfl

theorem State.Inv.logFault (h : s.Inv) {p : Nat} {r : FaultRec} : (s.logFault p r).Inv := h.logFaultAt

theorem State.Inv.postEvent (h : s.Inv) {p event cls seq : Nat} : (s.postEvent p event cls seq).Inv := by
  unfold State.postEvent
  split
  · exact h
  · exact h.foldl fun _ _ ht => ht

-- Barriers

theorem State.Inv.setBarrier (h : s.Inv) {c : ClusterId} {off : Nat} {b : Barrier} : (s.setBarrier c off b).Inv :=
  h.writeSram

theorem State.Inv.tellBroken (h : s.Inv) {c : ClusterId} {off : Nat} : (s.tellBroken c off).Inv := h

theorem State.Inv.breakBarrier (h : s.Inv) {c : ClusterId} {off : Nat} {b : Barrier} {err : Nat} :
    (s.breakBarrier c off b err).Inv := by
  have hb : ((s.setBarrier c off (b.break err)).tellBroken c off).Inv :=
    h.setBarrier.tellBroken
  dsimp only [State.breakBarrier]
  split
  · exact hb
  · exact hb.logFault

theorem State.Inv.deliverBarrier (h : s.Inv) {c : ClusterId} {off n : Nat} : (s.deliverBarrier c off n).Inv := by
  dsimp only [State.deliverBarrier]
  split
  · exact h
  · split
    · exact h.breakBarrier
    · exact h.setBarrier

theorem State.Inv.failBarrier (h : s.Inv) {c : ClusterId} {off : Nat} : (s.failBarrier c off).Inv := by
  dsimp only [State.failBarrier]
  split
  · exact h
  · exact h.breakBarrier

theorem State.Inv.setSlot (h : s.Inv) {b : BSlot} {addr : Word} {seen : Nat} : (s.setSlot b addr seen).Inv := h

theorem State.Inv.takeSlot (h : s.Inv) {b : BSlot} {t : ClusterId × Nat} {status : Nat} :
    (s.takeSlot b t status).Inv := by
  unfold State.takeSlot
  split
  · exact h.acquire
  · exact h

theorem State.Inv.execBarinitInit (h : s.Inv) {d : BSlot} {a b : XReg} : OutInv (execBarinitInit d a b s) := by
  refine h.run ?_
  split
  · exact h
  · refine h.res fun t => State.Inv.setSlot ?_
    split
    · exact h.breakBarrier
    · exact h.setBarrier

theorem State.Inv.execBarinitBind (h : s.Inv) {d : BSlot} {a : XReg} : OutInv (execBarinitBind d a s) := by
  refine h.run ?_
  split
  · exact h
  · exact h.res fun _ => h

theorem State.Inv.execBararr (h : s.Inv) {d : XReg} {a : BSlot} : OutInv (execBararr d a s) := by
  refine h.run ?_
  split
  · exact h
  · refine h.res fun t => State.Inv.endRegion (State.Inv.wx ?_)
    split
    · exact h
    · refine State.Inv.setSlot ?_
      split
      · exact h.breakBarrier
      · exact h.setBarrier

theorem State.Inv.execBarexp (h : s.Inv) {a : BSlot} {b : XReg} : OutInv (execBarexp a b s) := by
  refine h.run ?_
  split
  · exact h
  · refine h.res fun t => ?_
    dsimp only
    split
    · exact h
    · split
      · exact h.breakBarrier
      · exact h.setBarrier

theorem State.Inv.execBarwait (h : s.Inv) {d : XReg} {a : BSlot} : OutInv (execBarwait d a s) := by
  refine h.run ?_
  split
  · exact h
  · refine h.res fun t => ?_
    split
    · exact h
    · exact h.takeSlot.wx

theorem State.Inv.execBartest (h : s.Inv) {d : XReg} {a : BSlot} : OutInv (execBartest d a s) := by
  refine h.run ?_
  split
  · exact h
  · refine h.res fun t => ?_
    split
    · exact h
    · exact h.takeSlot.wx

theorem State.Inv.advanceRot (h : s.Inv) : s.advanceRot.Inv := h

theorem State.Inv.execWaitany (h : s.Inv) {d a : XReg} : OutInv (execWaitany d a s) := by
  refine h.run ?_
  split
  · exact h
  · dsimp only
    split
    · exact h
    · refine h.res fun ts => ?_
      split
      · exact h
      · exact h.takeSlot.wx.advanceRot

-- Jumps

theorem State.Inv.jumpLink (h : s.Inv) {d : XReg} {target : Word} : (jumpLink d target s).Inv := by
  unfold Machine.jumpLink
  split
  · trivial
  · exact h

-- Helpers

theorem State.Inv.startHelper (h : s.Inv) {starter : CtxId} {n : Nat} {pc x1 : Word} :
    (s.startHelper starter n pc x1).Inv := h.setCtx

theorem State.Inv.startHandler (h : s.Inv) {k : CoreId} : (s.startHandler k).Inv := by
  unfold State.startHandler
  split
  · split
    · refine State.Inv.startHelper ?_
      split <;> exact h
    · exact h
  · exact h

theorem State.Inv.grantSlots (h : s.Inv) {k : CoreId} : (s.grantSlots k).Inv :=
  h.foldl fun _ _ ht => ht.startHandler

theorem State.Inv.execStart (h : s.Inv) {d a : XReg} {imm : BitVec 30} : OutInv (execStart d a imm s) := by
  refine h.run ?_
  split
  · exact h
  · split
    · exact h.startHelper.wx
    · exact h

theorem State.Inv.execStartW (h : s.Inv) {d a : XReg} {imm : BitVec 30} : OutInv (execStartW d a imm s) := by
  refine h.run ?_
  split
  · exact h
  · split
    · exact h.setCore.startHelper.wx
    · dsimp only
      split <;> exact h

theorem State.Inv.execJoinh (h : s.Inv) {d a : XReg} : OutInv (execJoinh d a s) := by
  refine h.run ?_
  dsimp only
  split <;> exact h

end

end Sys2Proof.Machine

namespace Sys2Proof.Machine

/-! Vector commands, stream registers and loops. -/

section
variable {s : State}

-- Vector commands

theorem State.Inv.enqueue (h : s.Inv) {i : Instr} {m : XReg} {op1 op2 : Word} {rnd : Rnd} {heads : List (VReg × Lanes)}
    {plan : List ElemPlan} : (s.enqueue i m op1 op2 rnd heads plan).Inv := h

/-- An arithmetic command is queued: it changes no memory before it completes. -/
theorem State.Inv.vec (h : s.Inv) {i : Instr} {m : XReg} {rnd : Rnd} {op1 : Word} : OutInv (s.vec i m rnd op1) := by
  refine h.run ?_
  split
  · exact h
  · exact h.res fun _ => h

theorem State.Inv.noteElems (h : s.Inv) {v : VecAccess} {es : List Planned} : (s.noteElems v es).Inv :=
  h.foldl fun _ _ ht => ht.note

theorem State.Inv.noteWalks (h : s.Inv) {es : List Planned} : (s.noteWalks es).Inv :=
  h.foldl fun _ e ht => by
    split
    · exact ht.noteAccess.noteAccess
    · exact ht.noteAccess

theorem State.Inv.readPlace (h : s.Inv) {c : ClusterId} {home : Bool} {pl : Place} {n : Nat} :
    (s.readPlace c home pl n).1.Inv := by
  induction n generalizing s pl with
  | zero => unfold State.readPlace; exact h
  | succ n ih =>
    cases pl with
    | scr k => exact h
    | glob pa =>
      unfold State.readPlace
      split
      · exact h.readHome
      · split
        · exact h.readVia
        · exact ih h.readVia

theorem State.Inv.writePlace (h : s.Inv) {c : ClusterId} {pl : Place} {bs : List Byte} :
    (s.writePlace c pl bs).Inv := by
  cases pl with
  | scr k => exact h.writeSram
  | glob pa => exact h.writeHome

theorem State.Inv.readSince (h : s.Inv) {c : ClusterId} {home : Bool} {since : Nat} {pl : Place} {n : Nat} :
    (s.readSince c home since pl n).1.Inv := by
  have hr : (s.readPlace c home pl n).1.Inv := h.readPlace
  unfold State.readSince
  cases pl with
  | scr k => exact hr
  | glob pa =>
    dsimp only
    split
    · exact hr
    · exact hr.pick

theorem State.Inv.loadElem (h : s.Inv) {c : ClusterId} {t : VTy} {rm : RMode} {since : Nat} {e : ElemPlan} :
    (s.loadElem c t rm since e).1.Inv := by
  have hr : (s.readSince c e.home since e.place (e.span t)).1.Inv := h.readSince
  dsimp only [State.loadElem]
  split
  · exact hr
  · split
    · exact hr.readPlace
    · split <;> exact hr

theorem State.Inv.loadElems (h : s.Inv) {c : ClusterId} {t : VTy} {rm : RMode} {since : Nat} {es : List ElemPlan} :
    (s.loadElems c t rm since es).1.Inv := by
  induction es generalizing s with
  | nil => exact h
  | cons e es ih => exact ih h.loadElem

theorem State.Inv.storeElem (h : s.Inv) {c : ClusterId} {t : VTy} {rm : RMode} {e : ElemPlan} {b : Nat} :
    (s.storeElem c t rm e b).1.Inv := by
  dsimp only [State.storeElem]
  split
  · exact h.writePlace
  · split
    · exact h
    · split
      · exact h.writePlace
      · split
        · exact h
        · exact h.writePlace

theorem State.Inv.storeElems (h : s.Inv) {c : ClusterId} {t : VTy} {rm : RMode} {src : Lanes} {es : List ElemPlan} :
    (s.storeElems c t rm src es).1.Inv := by
  induction es generalizing s with
  | nil => exact h
  | cons e es ih => exact ih h.storeElem

theorem State.Inv.storeBlock (h : s.Inv) {c : ClusterId} {t : VTy} {rm : RMode} {src : Lanes} {k : BlkFmt}
    {e : ElemPlan} : (s.storeBlock c t rm src k e).1.Inv := by
  dsimp only [State.storeBlock]
  split
  · exact h.writePlace.writePlace
  · exact h.writePlace

theorem State.Inv.storePlan (h : s.Inv) {c : ClusterId} {t : VTy} {rm : RMode} {src : Lanes} {plan : List ElemPlan} :
    (s.storePlan c t rm src plan).1.Inv := by
  unfold State.storePlan
  split
  · exact h
  · split
    · exact h.storeBlock
    · exact h.storeElems

theorem State.Inv.vecMemEffect (h : s.Inv) {c : CtxId} {q : VCmd} : (s.vecMemEffect c q).1.Inv := by
  unfold State.vecMemEffect
  extract_lets load store
  have hload : ∀ t d, (load t d).1.Inv := fun t d => h.loadElems.setCtx
  have hstore : ∀ t r, (store t r).1.Inv := fun t r => h.storePlan
  split
  iterate 3 · exact hload _ _
  iterate 3 · exact hstore _ _
  · exact h

theorem State.Inv.performVec (h : s.Inv) {c : CtxId} {q : VCmd} : (s.performVec c q).Inv := by
  unfold State.performVec
  split
  · exact h.vecMemEffect.raiseAt
  · exact h.setCtx.raiseAt

theorem State.Inv.bumpSince (h : s.Inv) {c : CtxId} : (s.bumpSince c).Inv := h

theorem State.Inv.execVectorCommandComplete (h : s.Inv) {c : CtxId} : OutInv (execVectorCommandComplete c s) := by
  unfold Machine.execVectorCommandComplete
  split
  · trivial
  · exact h.setCore.performVec.bumpSince.setCtx

theorem State.Inv.vecMem (h : s.Inv) {i : Instr} {m : XReg} {rnd : Rnd} {t : VTy} {store uniform : Bool}
    {la : Option LaCount} {base : Word} {ea : List (VReg × Lanes) → Nat → Nat → Word} {idx : Option VReg} :
    OutInv (s.vecMem i m rnd t store uniform la base ea idx) := by
  refine h.run (Res.inv_ite h (Res.inv_ite h (h.res fun hs => h.res fun es => ?_)))
  extract_lets plan s1 window
  have hopen : ∀ {u : State} {cmd}, u.Inv → (window u cmd).Inv := by
    intro u cmd hu
    dsimp only [window]
    split
    · exact hu
    · exact State.inv_ite hu hu
  have hs1 : s1.Inv := h.noteWalks
  split
  · exact Res.inv_ite h (h.res fun _ => hopen hs1.noteElems.performVec)
  · exact hopen hs1.enqueue

-- Streams

theorem State.Inv.stopStream (h : s.Inv) {j : StreamIx} : (s.stopStream j).Inv := by
  unfold State.stopStream
  split <;> exact h

theorem State.Inv.startStream (h : s.Inv) {j : StreamIx} {st : StreamSt} : (s.startStream j st).Inv :=
  h.stopStream.ctx

theorem State.Inv.execMemoryStreamRead (h : s.Inv) {c : CtxId} {j : StreamIx} :
    OutInv (execMemoryStreamRead c j s) := by
  have ht : (s.switchTo c).Inv := h.switchTo
  dsimp only [Machine.execMemoryStreamRead]
  split
  · trivial
  · split
    · trivial
    · split
      · trivial
      · split
        · trivial
        · trivial
        · exact ht.noteWalks.noteElems.loadElems.ctx.raise.switchTo

theorem State.Inv.passOver (h : s.Inv) {k n : Nat} {a : Word} : (s.passOver k n a).1.Inv := by
  induction k generalizing s n a with
  | zero => exact h
  | succ k ih =>
    have hf : (s.fetchBytes a).1.Inv := h.fetchBytes
    unfold State.passOver
    split
    · exact h
    · split
      · next heq =>
        rw [heq] at hf
        exact hf
      · next heq =>
        rw [heq] at hf
        exact ih hf

theorem State.Inv.findEnd (h : s.Inv) {l : LoopSt} : (s.findEnd l).1.Inv := by
  have hp : (s.passOver passWords l.toPass l.stop).1.Inv := h.passOver
  unfold State.findEnd
  exact hp

theorem State.Inv.leaveHead (h : s.Inv) {l : LoopSt} : IfSome (fun r => r.1.Inv) (s.leaveHead l) := by
  dsimp only [State.leaveHead]
  split
  · trivial
  · exact ifSome_ite trivial h
  · exact h

theorem State.Inv.loopStep (h : s.Inv) {l : LoopSt} : (s.loopStep l).Inv := by
  unfold State.loopStep
  split
  · next heq => exact h.leaveHead.of_eq heq
  · exact h

theorem State.Inv.loopTurn (h : s.Inv) : s.loopTurn.1.Inv := by
  unfold State.loopTurn
  split
  · exact h
  · next l _ =>
    have hf : (s.findEnd l).1.Inv := h.findEnd
    split
    · exact hf.ctx
    · split
      · exact h
      · dsimp only
        split
        · exact hf
        · next heq => exact (hf.leaveHead.of_eq heq).ctx
        · exact hf.ctx

theorem State.Inv.execSrep (h : s.Inv) {d : XReg} {n : Fin 65} {mask : BitVec 8} : OutInv (execSrep d n mask s) := by
  refine h.run ?_
  split
  · have ht := h.loopTurn
    split
    · trivial
    · next heq => exact ht.of_pair heq
    · next heq => exact ht.of_pair heq
  · dsimp only
    split
    · trivial
    · exact h.findEnd.loopStep

end

end Sys2Proof.Machine

namespace Sys2Proof.Machine

/-! Messages between cores, streams, banks and caches, conversations. -/

section
variable {s : State}

-- Messages

theorem State.Inv.payload (h : s.Inv) {ea n : Word} : (s.payload ea n).Holds fun r => r.1.Inv := by
  dsimp only [State.payload]
  split
  · exact h
  · exact h.loadRecord

theorem State.Inv.mailIn (h : s.Inv) {k : CoreId} {hi : Bool} {m : Message} : (s.mailIn k hi m).Inv := h

theorem State.Inv.trySend (h : s.Inv) {k : CoreId} {n : Nat} {e : SendEntry} : (s.trySend k n e).Inv :=
  State.inv_ite h.setCore.mailIn h.setCore

theorem State.Inv.execMsend (h : s.Inv) {a b c : XReg} : OutInv (execMsend a b c s) :=
  h.run (Res.inv_ite h (h.payload.res h fun _ hp => h.res fun _ => hp))

theorem State.Inv.execMailboxDelivery (h : s.Inv) {k : CoreId} {n : Nat} : OutInv (execMailboxDelivery k n s) := by
  unfold Machine.execMailboxDelivery
  split
  · trivial
  · exact outInv_ite trivial h.trySend

theorem State.Inv.execSendBufferRetry (h : s.Inv) {k : CoreId} {n : Nat} : OutInv (execSendBufferRetry k n s) := by
  unfold Machine.execSendBufferRetry
  split
  · trivial
  · exact outInv_ite trivial h.trySend

theorem State.Inv.execMrecv (h : s.Inv) {d a : XReg} {la : LaCount} : OutInv (execMrecv d a la s) := by
  refine h.run (Res.inv_ite h (Res.inv_ite trivial (Res.inv_ite trivial (h.res fun _ => ?_))))
  split
  · exact h
  · exact h.res fun _ => h.setCore.acquire.storeRange.endRegion.longResult

-- Streams between cores

theorem State.Inv.sendChunk (h : s.Inv) {k : CoreId} {c : Chunk} : (s.sendChunk k c).Inv := h

theorem State.Inv.holdRange (h : s.Inv) {ts : List (Word × Target × Nat)} : (s.holdRange ts).Inv := by
  refine State.Inv.ctx (h.foldl fun t x ht => ?_)
  split
  · exact ht.noteAccess.note
  · exact ht

theorem State.Inv.readHeld (h : s.Inv) {a : Word} {hs : List HeldPiece} : (s.readHeld a hs).1.Inv := by
  induction hs generalizing s a with
  | nil => exact h
  | cons p hs ih =>
    dsimp only [State.readHeld]
    exact ih h.noteAccess.readPlace

theorem State.Inv.takeHeld (h : s.Inv) {a : Word} {n : Nat} : (s.takeHeld a n).Holds fun r => r.1.Inv :=
  Chk.holds_bind fun _ => h.readHeld.ctx

theorem State.Inv.holdLoads (h : s.Inv) {ea : Word} {n : Nat} : (s.holdLoads ea n).Holds State.Inv := by
  unfold State.holdLoads
  split
  · trivial
  · split
    · trivial
    · exact Chk.holds_bind fun _ => h.holdRange

theorem State.Inv.streamChunk (h : s.Inv) {i : Instr} {e : Endpoint} {ea : Word} {n : Nat} :
    (s.streamChunk i e ea n).Inv := by
  refine Res.inv_ite h (h.takeHeld.res h fun v hv => ?_)
  extract_lets tag t
  have ht : t.Inv := State.inv_ite hv.sendChunk hv
  exact Res.inv_ite ht.sendChunk.endRegion ht

theorem State.Inv.execMsends (h : s.Inv) {a b c : XReg} : OutInv (execMsends a b c s) := by
  refine h.run (Res.inv_ite h ?_)
  refine @Chk.Holds.res _ State.Inv _ _ _ ?_ h fun t ht => h.res fun e => ht.streamChunk
  split
  · exact h.holdLoads
  · exact h

theorem State.Inv.beginArrival (h : s.Inv) {k : CoreId} {n : Nat} {e : TableEntry} {st : StreamSt} :
    (s.beginArrival k n e st).Inv :=
  State.inv_ite h.setCore h.setCore.setCtx

theorem State.Inv.setEntry (h : s.Inv) {k : CoreId} {ix : Fin 16} {e : Option TableEntry} :
    (s.setEntry k ix e).Inv := h

theorem State.Inv.execStreamChunkArrival (h : s.Inv) {k : CoreId} : OutInv (execStreamChunkArrival k s) := by
  unfold Machine.execStreamChunkArrival
  split
  · trivial
  · exact h.beginArrival.setEntry.setCtx

theorem State.Inv.execEndOfStream (h : s.Inv) {k : CoreId} : OutInv (execEndOfStream k s) := by
  unfold Machine.execEndOfStream
  split
  · trivial
  · exact h.beginArrival.setCtx.setEntry.setCore.grantSlots

theorem State.Inv.execMbind (h : s.Inv) {d : XReg} {b : StreamIx} {a : XReg} {hi : Bool} {imm : BitVec 48} :
    OutInv (execMbind d b a hi imm s) := by
  refine h.run ?_
  dsimp only
  split <;> exact h

theorem State.Inv.unbind (h : s.Inv) {c : CtxId} {f : TableEntry → Bool} : (s.unbind c f).Inv := h

-- Banks and caches

theorem State.Inv.zeroBank (h : s.Inv) {c : ClusterId} {b : Fin 16} : (s.zeroBank c b).Inv :=
  h.setMem (h.mem.setSram (cellsFilter_wf _ _ h.mem.1.2))

theorem State.Inv.startChange (h : s.Inv) {c : ClusterId} {b : Fin 16} {mode : BankMode} :
    (s.startChange c b mode).Inv := h.setMem (h.mem.recallAll _)

theorem State.Inv.execBankcfg (h : s.Inv) {mode : BankMode} {d a : XReg} : OutInv (execBankcfg mode d a s) := by
  refine h.run ?_
  dsimp only
  split
  · exact Res.inv_ite h h
  · exact Res.inv_ite h (Res.inv_ite h (Res.inv_ite h h.startChange.ctx.ctx))

theorem State.Inv.execBankZeroingDone (h : s.Inv) {cl : ClusterId} {bank : Fin 16} :
    OutInv (execBankZeroingDone cl bank s) := by
  dsimp only [Machine.execBankZeroingDone]
  split
  · trivial
  · exact outInv_ite trivial (outInv_ite trivial h.setCl.zeroBank)

theorem State.Inv.dropLine (h : s.Inv) {c : ClusterId} {line : Nat} : (s.dropLine c line).Inv := h

theorem State.Inv.cinv (h : s.Inv) {ea : Word} : (s.cinv ea).Inv := by
  unfold State.cinv
  split
  · exact h
  · split
    · exact h
    · exact State.inv_ite h h.noteAccess.dropLine

theorem State.Inv.dropL2 (h : s.Inv) {line : Nat} : (s.dropL2 line).Inv := by
  unfold State.dropL2
  extract_lets now old
  exact h.pick.setMem ((h.pick.mem.shootDown _ _).put _ _)

theorem State.Inv.execDisc (h : s.Inv) {m : MemOp} : OutInv (execDisc m s) := by
  refine h.run (Res.inv_ite h (Res.inv_ite trivial (Res.inv_ite trivial (h.res fun p => h.res fun _ => ?_))))
  exact h.noteAccess.recall.dropL2.dropLine.note

theorem State.Inv.execCacheFill (h : s.Inv) {cl : ClusterId} {bank : Fin 16} : OutInv (execCacheFill cl bank s) := by
  unfold Machine.execCacheFill
  split
  · trivial
  · exact outInv_ite h h.setCl.evict.recall.setCl

theorem State.Inv.execPageWalk (h : s.Inv) {part : Nat} {va : BitVec 64} : OutInv (execPageWalk part va s) := by
  unfold Machine.execPageWalk
  split
  · trivial
  · exact h.setMem (h.mem.endWalk _)

-- Conversations

theorem State.Inv.setConv (h : s.Inv) {id : Nat} {c : Conv} : (s.setConv id c).Inv := h

theorem State.Inv.openConv (h : s.Inv) {p : Nat} {w : Weave} : IfSome (fun r => r.1.Inv) (s.openConv p w) :=
  ifSome_ite trivial h

theorem State.Inv.setCv (h : s.Inv) {r : CvReg} {v : Word} : (s.setCv r v).Inv := h

theorem State.Inv.readWeave (h : s.Inv) {ea : Word} : (s.readWeave ea).Holds fun r => r.1.Inv := by
  refine Chk.holds_bind fun _ => h.loadRecord.bind fun r hr => ?_
  split
  · exact hr
  · exact hr.loadRecord.bind fun _ hb => hb

theorem State.Inv.execCvopen (h : s.Inv) {d a : XReg} : OutInv (execCvopen d a s) := by
  refine h.run (Res.inv_ite h (h.readWeave.res h fun r hr => ?_))
  split
  · exact hr
  · split
    · exact hr
    · next heq => exact hr.openConv.of_eq heq

theorem State.Inv.execCvjoin (h : s.Inv) {d : CvReg} {a b : XReg} {hi : Bool} : OutInv (execCvjoin d a b hi s) := by
  refine h.run ?_
  dsimp only
  split
  · trivial
  · refine Res.inv_ite trivial ?_
    split
    · trivial
    · exact h

theorem State.Inv.deliverConv (h : s.Inv) {id : Nat} {e : RoleMap} {m : Message} : (s.deliverConv id e m).Inv := by
  unfold State.deliverConv
  split
  · exact h
  · exact State.inv_ite h h

theorem State.Inv.execConvHeldDelivery (h : s.Inv) {conv n : Nat} : OutInv (execConvHeldDelivery conv n s) := by
  unfold Machine.execConvHeldDelivery
  split
  · trivial
  · split
    · trivial
    · exact outInv_ite trivial (State.inv_ite h h)

theorem State.Inv.advanceConv (h : s.Inv) {id : Nat} {c : Conv} {t : Trans} {e : RoleMap} {choose : Bool}
    {payload : List Byte} : (s.advanceConv id c t e choose payload).Inv := by
  refine State.inv_ite (State.Inv.foldl h.setConv.deliverConv fun u _ hu => ?_) h.setConv.deliverConv
  split
  · exact State.inv_ite hu hu.deliverConv
  · exact hu

theorem State.Inv.cvSend (h : s.Inv) {d : CvReg} {c a b : XReg} {choose : Bool} : (s.cvSend d c a b choose).Inv :=
  Res.inv_ite h (h.payload.res h fun _ hp => h.res fun _ => hp.advanceConv.endRegion)

theorem State.Inv.execCvdeleg (h : s.Inv) {a : CvReg} {b : XReg} : OutInv (execCvdeleg a b s) :=
  h.run (h.res fun _ => h.res fun _ => Res.inv_ite h trivial)

theorem State.Inv.settleConv (h : s.Inv) {id : Nat} {c : Conv} : (s.settleConv id c).Inv :=
  State.inv_ite (State.inv_ite h h) h

theorem State.Inv.execCvleave (h : s.Inv) {a : CvReg} : OutInv (execCvleave a s) := by
  refine h.run (Res.inv_ite trivial ?_)
  dsimp only
  split
  · exact h
  · refine State.Inv.setCv ?_
    split
    · exact h.settleConv
    · exact h

end

end Sys2Proof.Machine

namespace Sys2Proof.Machine

/-! Counters, queue pairs, and the jobs of the engines. -/

section
variable {s : State}

-- Counters

theorem State.Inv.setFired (h : s.Inv) {l : List QpFired} :
    ({ s with pkg := { s.pkg with fired := l } } : State).Inv := h

theorem State.Inv.setIncoming (h : s.Inv) {l : List PeerMsg} :
    ({ s with pkg := { s.pkg with incoming := l } } : State).Inv := h

theorem State.Inv.setCtr (h : s.Inv) {n : Nat} {v : Word} : (s.setCtr n v).Inv := h

theorem State.Inv.addCtr (h : s.Inv) {n : Nat} {v : Word} : (s.addCtr n v).Inv := h

theorem State.Inv.bumpCtr (h : s.Inv) {n : Option Nat} : (s.bumpCtr n).Inv := by
  cases n with
  | none => exact h
  | some n => exact h.addCtr

theorem State.Inv.execCtrset (h : s.Inv) {a b : XReg} : OutInv (execCtrset a b s) :=
  h.run (Res.inv_ite h (Res.inv_ite trivial h.setCtr.endRegion))

theorem State.Inv.execCtradd (h : s.Inv) {d a b : XReg} : OutInv (execCtradd d a b s) :=
  h.run (Res.inv_ite h (Res.inv_ite trivial h.addCtr.wx.endRegion))

theorem State.Inv.execCtrwait (h : s.Inv) {d a b : XReg} : OutInv (execCtrwait d a b s) :=
  h.run (Res.inv_ite trivial (Res.inv_ite h h.acquire.wx.endRegion))

-- Sides of an entry

theorem State.Inv.noteRange (h : s.Inv) {who : Option ClusterId} {p : Nat} {a : Word} {n : Nat} :
    (s.noteRange who p a n).Inv :=
  h.foldl fun _ _ ht => State.inv_ite (ht.setMem (ht.mem.noteWalk ..)) ht

theorem State.Inv.noteChecked (h : s.Inv) {ag : Agent} {p : Nat} {a : Word} {n : Nat} {write : Bool} :
    (s.noteChecked ag p a n write).Inv :=
  h.setMem (h.mem.foldl _ fun _ _ hm => hm.log _)

theorem State.Inv.endAgent (h : s.Inv) {ag : Agent} : (s.endAgent ag).Inv := h

theorem State.Inv.readSide (h : s.Inv) {ps : List SidePiece} : (s.readSide ps).1.Inv := by
  induction ps generalizing s with
  | nil => exact h
  | cons p ps ih =>
    obtain ⟨pl, n⟩ := p
    cases pl with
    | scr k => exact ih h
    | glob pa => exact ih h.readHome

theorem State.Inv.writeSide (h : s.Inv) {ps : List SidePiece} {bs : List Byte} : (s.writeSide ps bs).Inv := by
  induction ps generalizing s bs with
  | nil => exact h
  | cons p ps ih =>
    obtain ⟨pl, n⟩ := p
    cases pl with
    | scr k => exact ih h.writeSram
    | glob pa => exact ih h.writePhys

-- Queue-pair entries

theorem State.Inv.post (h : s.Inv) {e : QpEntry} : (s.post e).Inv := State.inv_ite h h

theorem State.Inv.execQppost (h : s.Inv) {d a b : XReg} : OutInv (execQppost d a b s) := by
  refine h.run (Res.inv_ite h (Res.inv_ite trivial (h.loadRecord.res h fun r hr => ?_)))
  split
  · trivial
  · dsimp only
    split
    · trivial
    · refine h.res fun _ => ?_
      split
      · exact hr
      · exact hr.post.wx.endRegion

theorem State.Inv.execQpcancel (h : s.Inv) {d a b : XReg} : OutInv (execQpcancel d a b s) :=
  h.run (Res.inv_ite trivial (Res.inv_ite h h))

theorem State.Inv.dropFired (h : s.Inv) {n : Nat} : (s.dropFired n).Inv := h

theorem State.Inv.entryRecord (h : s.Inv) {e : QpEntry} {w : Word} : (s.entryRecord e w).Inv := by
  unfold State.entryRecord
  split <;> exact h

theorem State.Inv.qpFault (h : s.Inv) {e : QpEntry} : (s.qpFault e).Inv := h.logFault

theorem State.Inv.failEntry (h : s.Inv) {n : Nat} {e : QpEntry} : (s.failEntry n e).Inv := by
  unfold State.failEntry
  split
  · exact h.dropFired.entryRecord
  · exact h.dropFired.qpFault

theorem State.Inv.sendPeer (h : s.Inv) {part peer : Nat} {m : PeerMsg} : (s.sendPeer part peer m).Inv := h

theorem State.Inv.noteEntry (h : s.Inv) {e : QpEntry} : (s.noteEntry e).Inv := h.noteChecked

theorem State.Inv.readEntry (h : s.Inv) {n : Nat} {f : QpFired} {src dst : List SidePiece} :
    (s.readEntry n f src dst).Inv := by
  have hr : ((s.noteRange none f.entry.part f.entry.src f.entry.len).readSide src).1.Inv := h.noteRange.readSide
  dsimp only [State.readEntry]
  split
  · exact hr.setFired.noteEntry.bumpCtr
  · split
    · exact hr.failEntry
    · exact State.inv_ite hr.sendPeer.flip.dropFired.bumpCtr hr.sendPeer.flip.failEntry

theorem State.Inv.execQpSourceReadsDone (h : s.Inv) : OutInv (execQpSourceReadsDone s) := by
  unfold Machine.execQpSourceReadsDone
  split
  · trivial
  · refine outInv_ite trivial ?_
    split
    · trivial
    · exact h.failEntry
    · exact State.inv_ite h.failEntry h.readEntry

theorem State.Inv.reduceSide (h : s.Inv) {e : QpEntry} {dst : List SidePiece} {es ds k i : Nat} {bs : List Byte} :
    (s.reduceSide e dst es ds k i bs).Inv := by
  induction k generalizing s i bs with
  | zero => exact h
  | succ k ih => exact ih h.readSide.writeSide

theorem State.Inv.contribute (h : s.Inv) {node : Nat} {c : Contribution} : (s.contribute node c).Inv := h

theorem State.Inv.writeEntry (h : s.Inv) {e : QpEntry} {dst : List SidePiece} {bs : List Byte} :
    (s.writeEntry e dst bs).Inv := by
  have hn : State.Inv (if e.dkind = 3 then s else s.noteRange none e.part e.dst e.dlen) := State.inv_ite h h.noteRange
  exact State.inv_ite hn.writeSide (State.inv_ite hn.contribute hn.reduceSide)

theorem State.Inv.asHost (h : s.Inv) {u : State} : (u.asHost s).Inv := h

theorem State.Inv.finishEntry (h : s.Inv) {n : Nat} {e : QpEntry} {dst : List SidePiece} {bs : List Byte} :
    (s.finishEntry n e dst bs).Inv :=
  State.inv_ite h.failEntry.endAgent
    (State.inv_ite h.dropFired.writeEntry.asHost h.dropFired.writeEntry).endAgent.bumpCtr.entryRecord

theorem State.Inv.arriveEntry (h : s.Inv) {k : Nat} {e : QpEntry} {bs : List Byte} {name : String} :
    OutInv (s.arriveEntry k e bs name) := by
  refine outInv_ite trivial ?_
  split
  · trivial
  · exact h
  · exact outInv_ite h h.setIncoming.writeEntry.bumpCtr.next

theorem State.Inv.entryWrite (h : s.Inv) {reduce : Bool} {name : String} : OutInv (s.entryWrite reduce name) := by
  unfold State.entryWrite
  split
  · refine outInv_ite trivial (outInv_ite ?_ h.finishEntry)
    split
    · trivial
    · exact h.failEntry.endAgent
    · exact h.finishEntry
  · trivial
  · split
    · exact outInv_ite trivial h.arriveEntry
    · trivial

-- Jobs

/-- The result of an access that a job is allowed has a property. -/
def JRes.Holds {α : Type} (P : α → Prop) : JRes α → Prop
  | .ok a => P a
  | .fail .. | .hold => True

/-- A step of a job that goes on with a further access. -/
theorem JRes.holds_bind {α β : Type} {Q : β → Prop} {x : JRes α} {f : α → JRes β} (hf : ∀ a, (f a).Holds Q) :
    (x.bind f).Holds Q := by
  cases x with
  | ok a => exact hf a
  | fail c e => trivial
  | hold => trivial

theorem JRes.Holds.bind {α β : Type} {P : α → Prop} {Q : β → Prop} {x : JRes α} {f : α → JRes β} (hx : x.Holds P)
    (hf : ∀ a, P a → (f a).Holds Q) : (x.bind f).Holds Q := by
  cases x with
  | ok a => exact hf a hx
  | fail c e => trivial
  | hold => trivial

theorem State.Inv.setJob (h : s.Inv) {r : JobRef} {j : JobSt} : (s.setJob r j).Inv := h

theorem State.Inv.freeJob (h : s.Inv) {r : JobRef} : (s.freeJob r).Inv := h

theorem State.Inv.makeReady (h : s.Inv) {r : JobRef} {j : JobSt} : (s.makeReady r j).Inv := h

theorem State.Inv.endJob (h : s.Inv) {r : JobRef} {j : JobSt} {code entry : Nat} : (s.endJob r j code entry).Inv := h

theorem State.Inv.enterJob (h : s.Inv) {slot : Nat} {c : Card} : (s.enterJob slot c).1.Inv := State.inv_ite h h

theorem State.Inv.submit (h : s.Inv) {i : Instr} {d a : XReg} {la : LaCount} {engine ops fl : Nat} {valid : Bool}
    {check5 : State → List Byte → Card → Option Nat} : (s.submit i d a la engine ops fl valid check5).Inv := by
  refine Res.inv_ite h (Res.inv_ite trivial (h.loadRecord.res h fun r hr => ?_))
  split
  · trivial
  · refine h.res fun _ => ?_
    split
    · trivial
    · split
      · exact h
      · exact Res.inv_ite h hr.enterJob.endRegion.longResult

theorem State.Inv.notePieces (h : s.Inv) {ag : Agent} {write : Bool} {ps : List JPiece} :
    (s.notePieces ag write ps).Inv := by
  refine h.foldl fun t p ht => ?_
  split
  · exact State.inv_ite (ht.setMem (ht.mem.log _)) ht
  · exact ht

theorem State.Inv.tagBelow (h : s.Inv) {n : Nat} {j : JobSt} : (s.tagBelow n j).Inv := State.inv_ite h h

theorem State.Inv.jobRead (h : s.Inv) {r : JobRef} {j : JobSt} {a : Word} {ps : List JPiece} :
    (s.jobRead r j a ps).1.Inv := by
  unfold State.jobRead
  exact h.noteRange.readSide.notePieces.tagBelow

theorem State.Inv.writePieces (h : s.Inv) {c : ClusterId} {own : Bool} {ps : List JPiece} {bs : List Byte} :
    (s.writePieces c own ps bs).Inv := by
  induction ps generalizing s bs with
  | nil => exact h
  | cons p ps ih =>
    refine ih ?_
    split
    · exact h.writeSram
    · exact State.inv_ite h.writeHome h.writePhys

theorem State.Inv.jobWrite (h : s.Inv) {r : JobRef} {j : JobSt} {a : Word} {ps : List JPiece} {bs : List Byte} :
    (s.jobWrite r j a ps bs).Inv :=
  h.noteRange.writePieces.notePieces.tagBelow

theorem State.Inv.raiseJob (h : s.Inv) {r : JobRef} {j : JobSt} : (s.raiseJob r j).Inv := State.inv_ite h.raiseCluster h

theorem State.Inv.releaseSuccessors (h : s.Inv) {r : JobRef} : (s.releaseSuccessors r).Inv := by
  refine h.foldl fun t n ht => ?_
  split
  · exact ht
  · exact State.inv_ite (State.inv_ite ht.makeReady ht.setJob) ht

theorem State.Inv.completeJob (h : s.Inv) {r : JobRef} {j : JobSt} {bar : Option (ClusterId × Nat)} :
    (s.completeJob r j bar).Inv := by
  have he : (((s.endAgent (jobAgent s.pkg.grade r j)).setJob r { j with phase := .done }).raiseJob r j).Inv :=
    h.endAgent.setJob.raiseJob
  unfold State.completeJob
  cases bar with
  | none => exact (State.inv_ite he.bumpCtr.freeJob he.bumpCtr).releaseSuccessors
  | some b =>
    exact (State.inv_ite he.failBarrier.bumpCtr.freeJob he.failBarrier.bumpCtr).releaseSuccessors

theorem State.Inv.execJobComplete (h : s.Inv) {r : JobRef} : OutInv (execJobComplete r s) := by
  unfold Machine.execJobComplete
  split
  · trivial
  · refine outInv_ite trivial ?_
    split
    · exact h.completeJob
    · trivial

/-- A step of a running job keeps the invariant where the access does. -/
theorem JRes.Holds.out {α : Type} {P : α → Prop} {x : JRes α} (hx : x.Holds P) (h : s.Inv) {r : JobRef} {j : JobSt}
    {name : String} {f : α → State} (hf : ∀ a, P a → (f a).Inv) : OutInv (x.out s r j name f) := by
  cases x with
  | ok a => exact hf a hx
  | fail c e => exact h.endJob
  | hold => trivial

theorem State.Inv.report (h : s.Inv) {r : JobRef} {j : JobSt} {d : XReg} : (s.report r j d).Inv :=
  h.freeJob.acquire.wx.endRegion

theorem State.Inv.execJwait (h : s.Inv) {d a : XReg} : OutInv (execJwait d a s) := by
  refine h.run ?_
  split
  · exact h
  · exact Res.inv_ite h (Res.inv_ite h h.report)

theorem State.Inv.execJpoll (h : s.Inv) {d a : XReg} : OutInv (execJpoll d a s) := by
  refine h.run ?_
  split
  · exact h
  · exact Res.inv_ite h (Res.inv_ite h h.report)

end

end Sys2Proof.Machine

namespace Sys2Proof.Machine

/-! The copy unit, the enumeration table, the home cores, the in-DRAM engines. -/

section
variable {s : State}

-- The copy unit

theorem State.Inv.execCpjob (h : s.Inv) {d a : XReg} {la : LaCount} : OutInv (execCpjob d a la s) := h.run h.submit

theorem State.Inv.getBits (h : s.Inv) {r : JobRef} {j : JobSt} {e b w : Nat} :
    (s.getBits r j e b w).Holds fun v => v.1.Inv :=
  JRes.holds_bind fun _ => h.jobRead

theorem State.Inv.putBits (h : s.Inv) {r : JobRef} {j : JobSt} {e b w v : Nat} :
    (s.putBits r j e b w v).Holds State.Inv := by
  refine JRes.holds_bind fun ps => ?_
  split
  · exact h.jobWrite
  · exact h.readSide.jobWrite.tagBelow

theorem State.Inv.putOne (h : s.Inv) {r : JobRef} {j : JobSt} {w : JWrite} : (s.putOne r j w).Holds State.Inv := by
  unfold State.putOne
  split
  · exact h.getBits.bind fun _ hv => hv.putBits
  · exact h.putBits

theorem State.Inv.putAll (h : s.Inv) {r : JobRef} {j : JobSt} {ws : List JWrite} : (s.putAll r j ws).1.Inv := by
  induction ws generalizing s with
  | nil => exact h
  | cons w ws ih =>
    have hw : (s.putOne r j w).Holds State.Inv := h.putOne
    unfold State.putAll
    split
    · next heq =>
      rw [heq] at hw
      exact ih hw
    · exact h
    · exact h

theorem State.Inv.copyIndex (h : s.Inv) {r : JobRef} {j : JobSt} {p : CopyPlan} {i : Nat} :
    (s.copyIndex r j p i).Holds fun v => v.1.Inv :=
  h.getBits.bind fun _ hv => hv

theorem State.Inv.srcAt (h : s.Inv) {r : JobRef} {j : JobSt} {p : CopyPlan} {i : Nat} :
    (s.srcAt r j p i).Holds fun v => v.1.Inv := by
  unfold State.srcAt
  split
  · exact h.copyIndex.bind fun _ hv => hv
  · exact h

theorem State.Inv.dstAt (h : s.Inv) {r : JobRef} {j : JobSt} {p : CopyPlan} {i : Nat} :
    (s.dstAt r j p i).Holds fun v => v.1.Inv := by
  unfold State.dstAt
  split
  · exact h.copyIndex.bind fun _ hv => hv
  · exact h

theorem State.Inv.readElem (h : s.Inv) {r : JobRef} {j : JobSt} {p : CopyPlan} {i : Nat} :
    (s.readElem r j p i).Holds fun v => v.1.Inv := by
  unfold State.readElem
  split
  · exact h
  · refine h.srcAt.bind fun a ha => ha.getBits.bind fun v hv => ?_
    split
    · exact hv
    · split
      · exact JRes.holds_bind fun _ => hv
      · exact JRes.holds_bind fun _ => hv.jobRead

theorem State.Inv.readElems (h : s.Inv) {r : JobRef} {j : JobSt} {p : CopyPlan} {is : List Nat} :
    (s.readElems r j p is).Holds fun v => v.1.Inv := by
  induction is generalizing s with
  | nil => exact h
  | cons i is ih => exact h.readElem.bind fun _ hv => (ih hv).bind fun _ hw => hw

theorem State.Inv.writeElems (h : s.Inv) {r : JobRef} {j : JobSt} {p : CopyPlan} {es : List (Nat × Nat)} :
    (s.writeElems r j p es).Holds State.Inv := by
  induction es generalizing s with
  | nil => exact h
  | cons e es ih => exact h.putBits.bind fun _ ht => ih ht

theorem State.Inv.copyElem (h : s.Inv) {r : JobRef} {j : JobSt} {p : CopyPlan} {i : Nat} :
    (s.copyElem r j p i).Holds fun v => v.1.Inv :=
  h.readElem.bind fun _ he => he.dstAt.bind fun _ hd => hd.putBits.bind fun _ ht => ht

theorem State.Inv.copyBlock (h : s.Inv) {r : JobRef} {j : JobSt} {p : CopyPlan} {b : BlkFmt} {is : List Nat} :
    (s.copyBlock r j p b is).Holds fun v => v.1.Inv := by
  unfold State.copyBlock
  split
  · exact h
  · refine h.readElems.bind fun es he => JRes.holds_bind fun _ => JRes.holds_bind fun q =>
      he.writeElems.bind fun t ht => ?_
    cases q with
    | none => exact ht
    | some q => exact ht.jobWrite

theorem State.Inv.copyUnit (h : s.Inv) {r : JobRef} {j : JobSt} {p : CopyPlan} {ws : List WholePage} {u : Nat} :
    (s.copyUnit r j p ws u).Holds fun v => v.1.Inv := by
  unfold State.copyUnit
  split
  · exact h.copyElem
  · exact h.copyBlock

theorem State.Inv.copyUnits (h : s.Inv) {r : JobRef} {j : JobSt} {p : CopyPlan} {ws : List WholePage} {k u : Nat}
    {fl : Flags} : (s.copyUnits r j p ws k u fl).1.Inv := by
  induction k generalizing s u fl with
  | zero => exact h
  | succ k ih =>
    have hu : (s.copyUnit r j p ws u).Holds fun v => v.1.Inv := h.copyUnit
    unfold State.copyUnits
    split
    · next heq =>
      rw [heq] at hu
      exact ih hu
    · exact h
    · exact h

theorem State.Inv.execCopyChunkDelivery (h : s.Inv) {r : JobRef} : OutInv (execCopyChunkDelivery r s) := by
  unfold Machine.execCopyChunkDelivery
  split
  · trivial
  · next j _ =>
    refine outInv_ite trivial ?_
    extract_lets p ws n
    split
    · next bar _ =>
      refine outInv_ite h.endJob.next ?_
      have hc : (s.copyUnits r j p ws n j.progress j.flags).1.Inv := h.copyUnits
      split
      · trivial
      · next heq => exact (hc.of_pair heq).endJob
      · next t fl heq =>
        have ht : t.Inv := hc.of_pair heq
        cases bar with
        | none => exact State.inv_ite ht.setJob ht.endJob
        | some b => exact (State.inv_ite ht.setJob ht.endJob).deliverBarrier
    · trivial

theorem State.Inv.startCopy (h : s.Inv) {r : JobRef} {op : Nat} {name : String} : OutInv (s.startCopy r op name) := by
  unfold State.startCopy
  split
  · trivial
  · exact outInv_ite h.setJob trivial

-- The enumeration table

theorem State.Inv.rewriteField (h : s.Inv) {off n : Nat} : (s.rewriteField off n).Inv :=
  h.foldl fun _ _ ht => ht.writePhys

theorem State.Inv.rewriteFields (h : s.Inv) {fs : List (Nat × Nat)} : (s.rewriteFields fs).Inv :=
  h.foldl fun _ _ ht => ht.rewriteField

/-- The live die links change. -/
theorem State.Inv.setLinks (h : s.Inv) {l : BitVec 10} : ({ s with pkg := { s.pkg with links := l } } : State).Inv := h

/-- The live ports change. -/
theorem State.Inv.setPorts (h : s.Inv) {l : BitVec 16} : ({ s with pkg := { s.pkg with ports := l } } : State).Inv := h

theorem State.Inv.execDieLinkFailure (h : s.Inv) : OutInv (execDieLinkFailure s) :=
  outInv_ite h.setLinks.rewriteFields.next trivial

theorem State.Inv.execPortLinkChange (h : s.Inv) {port : Fin 16} {up : Bool} : OutInv (execPortLinkChange port up s) :=
  outInv_ite trivial h.setPorts.rewriteFields.next

-- Home cores

theorem State.Inv.setHomeCore (h : s.Inv) {n : Nat} {v : HomeCore} : (s.setHomeCore n v).Inv := h

theorem State.Inv.enterReq (h : s.Inv) {k : ReqKind} {line : Nat} {p : RowPlace} {deadline : Option Nat} {dl : Bool} :
    (s.enterReq k line p deadline dl).Inv := h

theorem State.Inv.dueCycle (h : s.Inv) {dl agent : Bool} : (s.dueCycle dl agent).2.Inv := by
  unfold State.dueCycle
  split
  · exact h
  · split <;> exact h

theorem State.Inv.sendBelow (h : s.Inv) {agent : Bool} {b : Below} : (s.sendBelow agent b).Inv := h.dueCycle.enterReq

theorem State.Inv.drainBelow (h : s.Inv) {agent : Bool} : (s.drainBelow agent).Inv :=
  @State.Inv.foldl { s with mem := { s.mem with below := [] } } _ _ h _ fun _ _ ht => ht.sendBelow

theorem State.Inv.dropRowReqs (h : s.Inv) {f : JobRef → Bool} : (s.dropRowReqs f).Inv := h

theorem State.Inv.takeReq (h : s.Inv) {n k : Nat} {r : HomeReq} : (s.takeReq n k r).Inv := h

theorem State.Inv.noteTags (h : s.Inv) {n set : Nat} : (s.noteTags n set).Inv :=
  State.inv_ite h (State.inv_ite h h.pick.setHomeCore)

theorem State.Inv.forward (h : s.Inv) {r : HomeReq} {k : ReqKind} {line : Nat} : (s.forward r k line).Inv :=
  h.dueCycle.enterReq

/-- A set of the memory-side cache changes. -/
theorem State.Inv.setMsc (h : s.Inv) {m : Map Nat (List MscWay)} :
    ({ s with mem := { s.mem with msc := m } } : State).Inv := h

theorem State.Inv.lookUp (h : s.Inv) {n : Nat} {r : HomeReq} {dirty : Bool} : (s.lookUp n r dirty).Inv :=
  State.inv_ite (State.inv_ite h.noteTags.setMsc h.noteTags) h.noteTags.forward

theorem State.Inv.allocMsc (h : s.Inv) {r : HomeReq} {dirty : Bool} : (s.allocMsc r dirty).Inv := by
  refine State.inv_ite (State.inv_ite h.setMsc h) (State.inv_ite h.setMsc ?_)
  dsimp only
  split
  · exact State.inv_ite h.pick.setMsc.forward h.pick.setMsc
  · exact h.pick.setMsc

theorem State.Inv.served (h : s.Inv) {n : Nat} {r : HomeReq} : (s.served n r).Inv := by
  refine State.inv_ite h ?_
  split
  · exact h.lookUp
  · exact h.lookUp
  · exact h.allocMsc
  · exact h
  · exact h

theorem State.Inv.execHomeCoreSchedule (h : s.Inv) : OutInv (execHomeCoreSchedule s) := by
  unfold Machine.execHomeCoreSchedule
  split
  · trivial
  · split
    · trivial
    · exact h.takeReq.served

theorem State.Inv.execDueRefresh (h : s.Inv) : OutInv (execDueRefresh s) := by
  refine outInv_ite trivial ?_
  extract_lets v urgent
  have hf : (if urgent && v.postponed < Config.postponeLimit then s.flip else (false, s)).2.Inv := by
    split
    · exact h.flip
    · exact h
  exact hf.setHomeCore

theorem State.Inv.execPatrolScrub (h : s.Inv) : OutInv (execPatrolScrub s) := outInv_ite trivial h.setHomeCore

theorem State.Inv.evictLine (h : s.Inv) {line : Nat} : ({ s with mem := s.mem.evict line } : State).Inv := h

theorem State.Inv.trimSlice (h : s.Inv) {k n : Nat} : (State.trimSlice k s n).Inv := by
  induction k generalizing s with
  | zero => exact h
  | succ k ih => exact State.inv_ite h (ih h.pick.evictLine)

theorem State.Inv.trimL2 (h : s.Inv) : s.trimL2.Inv := h.foldl fun _ _ ht => ht.trimSlice

theorem State.Inv.trimTlb (h : s.Inv) {k cap : Nat} {l : List TlbEntry} : (State.trimTlb k cap l s).2.Inv := by
  induction k generalizing s l with
  | zero => exact h
  | succ k ih =>
    unfold State.trimTlb
    split
    · exact h
    · exact ih h.pick

/-- The TLBs of the clusters change. -/
theorem State.Inv.setCtlb (h : s.Inv) {m : Map ClusterId (List TlbEntry)} :
    ({ s with mem := { s.mem with ctlb := m } } : State).Inv := h

/-- The TLBs of the dies change. -/
theorem State.Inv.setDtlb (h : s.Inv) {m : Map Nat (List TlbEntry)} :
    ({ s with mem := { s.mem with dtlb := m } } : State).Inv := h

theorem State.Inv.trimTlbs (h : s.Inv) : s.trimTlbs.Inv :=
  (h.foldl fun _ _ ht => State.inv_ite ht ht.trimTlb.setCtlb).foldl fun _ _ ht => State.inv_ite ht ht.trimTlb.setDtlb

theorem State.Inv.clflagsArrive (h : s.Inv) {c : ClusterId} : (s.clflagsArrive c).Inv := h

theorem State.Inv.execClflagsUpdate (h : s.Inv) : OutInv (execClflagsUpdate s) :=
  outInv_ite trivial h.clflagsArrive.next

-- The in-DRAM engines

theorem State.Inv.execDrjob (h : s.Inv) {d a : XReg} {la : LaCount} : OutInv (execDrjob d a la s) := h.run h.submit

theorem State.Inv.requestRow (h : s.Inv) {r : JobRef} {j : JobSt} : (s.requestRow r j).Inv := by
  unfold State.requestRow
  extract_lets a
  split
  · exact h.dueCycle.enterReq
  · exact h

theorem State.Inv.startDram (h : s.Inv) {r : JobRef} {op : Nat} {name : String} : OutInv (s.startDram r op name) := by
  unfold State.startDram
  split
  · trivial
  · refine outInv_ite trivial ?_
    split
    · exact h.endJob
    · exact h.setJob.requestRow

theorem State.Inv.chooseGranules (h : s.Inv) {others : Nat → List (List Byte)} {k pa : Nat} {bs : List Byte} :
    (s.chooseGranules others k pa bs).1.Inv := by
  induction k generalizing s pa bs with
  | zero => exact h
  | succ k ih => exact ih h.pick

theorem State.Inv.cleanRange (h : s.Inv) {pa n : Nat} : ({ s with mem := s.mem.cleanRange pa n } : State).Inv :=
  h.setMem (h.mem.cleanRange pa n)

theorem State.Inv.rowBytesAt (h : s.Inv) {j : JobSt} {ps : List JPiece} : (s.rowBytesAt j ps).1.Inv := by
  induction ps generalizing s with
  | nil => exact h
  | cons p ps ih =>
    unfold State.rowBytesAt
    split
    · exact ih h
    · exact ih h.cleanRange.chooseGranules

theorem State.Inv.sourceRows (h : s.Inv) {r : JobRef} {j : JobSt} {fs : List Footprint} {i : Nat} :
    (s.sourceRows r j fs i).1.Inv := by
  induction fs generalizing s i with
  | nil => exact h
  | cons f fs ih =>
    unfold State.sourceRows
    extract_lets a
    split
    · exact h
    · exact h
    · exact ih h.noteRange.notePieces.rowBytesAt

theorem State.Inv.dropRow (h : s.Inv) {ps : List JPiece} : (s.dropRow ps).Inv := by
  refine h.foldl fun t p ht => ?_
  split
  · exact ht
  · exact ht.setMem (ht.mem.dropRange _ _)

theorem State.Inv.writeRow (h : s.Inv) {ps : List JPiece} {bs : List Byte} : (s.writeRow ps bs).Inv := by
  induction ps generalizing s bs with
  | nil => exact h
  | cons p ps ih =>
    refine ih ?_
    split
    · exact h
    · exact h.setMem (h.mem.putBelow _ _)

theorem State.Inv.destRow (h : s.Inv) {r : JobRef} {j : JobSt} {bs : List Byte} :
    (s.destRow r j bs).Holds State.Inv :=
  JRes.holds_bind fun _ => h.noteRange.notePieces.dropRow.writeRow

theorem State.Inv.rowDone (h : s.Inv) {r : JobRef} {j : JobSt} : (s.rowDone r j).Inv := by
  unfold State.rowDone
  extract_lets t k
  have ht : t.Inv := by
    dsimp only [t]
    split
    · exact h.takeReq
    · exact h
  exact State.inv_ite ht.setJob.requestRow ht.endJob

theorem State.Inv.rowFails (h : s.Inv) {r : JobRef} {j : JobSt} {c e : Nat} : (s.rowFails r j c e).Inv :=
  h.dropRowReqs.endJob

theorem State.Inv.newRow (h : s.Inv) {r : JobRef} {j : JobSt} :
    (s.newRow r j).1.Inv ∧ (s.newRow r j).2.Holds State.Inv := by
  have hr : (s.sourceRows r j j.card.reads 0).1.Inv := h.sourceRows
  unfold State.newRow
  split
  · next heq => exact ⟨hr.of_pair heq, trivial⟩
  · next heq => exact ⟨hr.of_pair heq, trivial⟩
  · next heq => exact ⟨hr.of_pair heq, (hr.of_pair heq).destRow⟩

theorem State.Inv.execDramRow (h : s.Inv) {r : JobRef} : OutInv (execDramRow r s) := by
  unfold Machine.execDramRow
  split
  · trivial
  · next j _ =>
    have hn : (s.newRow r j).1.Inv ∧ (s.newRow r j).2.Holds State.Inv := h.newRow
    refine outInv_ite trivial ?_
    split
    · trivial
    · next heq =>
      rw [heq] at hn
      exact (State.Inv.rowFails hn.1).tagBelow
    · next heq =>
      rw [heq] at hn
      exact (State.Inv.rowDone hn.2).tagBelow

end

end Sys2Proof.Machine

namespace Sys2Proof.Machine

/-! Experts and their replicas. -/

section
variable {s : State}

theorem State.Inv.started (h : s.Inv) {i : Instr} : (s.started i).Inv := h

-- Experts and replicas

theorem State.Inv.setExpert (h : s.Inv) {name : Nat} {e : Expert} : (s.setExpert name e).Inv := h

theorem State.Inv.startLeaf (h : s.Inv) {c : CtxId} {l : Leaf} {pc x : Word} : (s.startLeaf c l pc x).Inv :=
  (@State.Inv.resetVec { s with leaves := Map.put s.leaves s.nextLeaf l, nextLeaf := s.nextLeaf + 1 } h _).setCtx

theorem State.Inv.startReplica (h : s.Inv) {name : Nat} {e : Expert} {i : Fin 16} : (s.startReplica name e i).Inv :=
  h.foldl fun _ _ ht => ht.startLeaf.setCtx

theorem State.Inv.publish (h : s.Inv) {name : Nat} {e : Expert} : (s.publish name e).Inv := h

theorem State.Inv.publishFirst (h : s.Inv) {name : Nat} {e : Expert} : (s.publishFirst name e).Inv := h

theorem State.Inv.drain (h : s.Inv) {name : Nat} {e : Expert} {i : Fin 16} : (s.drain name e i).Inv := h

theorem State.Inv.register (h : s.Inv) {p : Nat} {r : List Byte} : (s.register p r).1.Inv :=
   State.fst_inv_ite h (State.fst_inv_ite h (State.fst_inv_ite h (State.fst_inv_ite h h.publishFirst.startReplica)))

theorem State.Inv.execXreg (h : s.Inv) {d a : XReg} : OutInv (execXreg d a s) :=
  h.run (Res.inv_ite h (h.loadRecord.res h fun _ hr => hr.register.wx))

theorem State.Inv.freeResult (h : s.Inv) {rs : List Word} : (s.freeResult rs).1.Inv := h.pick

theorem State.Inv.askPeer (h : s.Inv) {peer opc sub name : Nat} {b : Word} {bytes : List Byte} :
    (s.askPeer peer opc sub name b bytes).Inv := h

/-- An operation on a name keeps the invariant where it does so at this Orrery and at a peer's. -/
theorem State.Inv.held (h : s.Inv) {name : Nat} {f : Held → Res} (here : ∀ e, (f (.here e)).Inv)
    (peer : ∀ n, (f (.peer n)).Inv) : ((s.held name).res s f).Inv :=
  h.res fun
    | .here e => here e
    | .peer n => peer n

theorem State.Inv.execXpol (h : s.Inv) {d a b : XReg} : OutInv (execXpol d a b s) :=
  h.run (Res.inv_ite h (h.loadRecord.res h fun _ hr =>
    h.held (fun _ => hr.setExpert.wx) fun _ => hr.askPeer.freeResult.wx))

theorem State.Inv.execXresv (h : s.Inv) {d a b c : XReg} : OutInv (execXresv d a b c s) := by
  refine h.run (Res.inv_ite h (h.res fun ts => h.held (fun e => ?_) fun n => ?_))
  · dsimp only
    split
    · exact h.wx
    · exact h.setExpert.storeRange.wx
  · refine Res.inv_ite ?_ h.askPeer.freeResult.wx
    dsimp only
    exact h.askPeer.freeResult.pick.pick.storeRange.wx.done

theorem State.Inv.execXrel (h : s.Inv) {d a : XReg} : OutInv (execXrel d a s) := by
  refine h.run (Res.inv_ite h (h.loadRecord.res h fun r hr => ?_))
  dsimp only
  split
  · exact hr.setExpert.wx
  · exact hr.askPeer.flip.pick.wx
  · exact hr.wx

theorem State.Inv.create (h : s.Inv) {name : Nat} {e : Expert} {group : Nat} :
    IfSome (fun r => r.1.Inv) (s.create name e group) := by
  unfold State.create
  cases e.freeIndex with
  | none => trivial
  | some i => exact h

theorem State.Inv.testCreation (h : s.Inv) {name : Nat} {e : Expert} : (s.testCreation name e).Inv := by
  unfold State.testCreation
  split
  · split
    · next g _ _ =>
      cases hc : s.create name e g with
      | none => exact h
      | some r => exact h.create.of_eq hc
    · exact h
  · exact h

theorem State.Inv.addDelivery (h : s.Inv) {l : List Delivery} :
    ({ s with pkg := { s.pkg with deliveries := l } } : State).Inv := h

theorem State.Inv.admitToken (h : s.Inv) {name step : Nat} {e : Expert} {sel : BitVec 16} {x : Option Handle}
    {t : Token} : (s.admitToken name step e sel x t).1.Inv := by
  unfold State.admitToken
  split
  · exact h
  · exact h.setExpert.addDelivery.testCreation

theorem State.Inv.sendToken (h : s.Inv) {name : Nat} {e : Expert} {sel : BitVec 16} {x : Option (List Byte)}
    {t : Token} : (s.sendToken name e sel x t).1.Inv := by
  dsimp only [State.sendToken]
  split
  · exact h
  · split
    · exact h
    · split
      · exact h.admitToken
      · split
        · exact h
        · exact h.admitToken

theorem State.Inv.loadToken (h : s.Inv) {b c : XReg} {len : BitVec 8} :
    (s.loadToken b c len).Holds fun r => r.1.Inv := by
  refine h.payload.bind fun p hp => ?_
  split
  · exact hp
  · exact hp.loadRecord.bind fun _ hr => hr

theorem State.Inv.execXsend (h : s.Inv) {d a b c : XReg} {len : BitVec 8} : OutInv (execXsend d a b c len s) :=
  h.run (Res.inv_ite trivial (Res.inv_ite h (h.loadToken.res h fun _ hp =>
    h.held (fun _ => hp.sendToken.wx.endRegion) fun _ => hp.askPeer.freeResult.wx.endRegion)))

theorem State.Inv.sendBack (h : s.Inv) {name : Nat} {e : Expert} {i : Fin 16} {t : Token} :
    (s.sendBack name e i t).1.Inv := by
  dsimp only [State.sendBack]
  split <;> exact h

theorem State.Inv.execXsendr (h : s.Inv) {d a b c : XReg} {len : BitVec 8} : OutInv (execXsendr d a b c len s) :=
  h.run (Res.inv_ite trivial (Res.inv_ite h (h.payload.res h fun _ hp =>
    h.held (fun _ => hp.sendBack.wx.endRegion) fun _ => hp.askPeer.freeResult.wx.endRegion)))

-- Deliveries

theorem State.Inv.dropDelivery (h : s.Inv) {n : Nat} : (s.dropDelivery n).Inv := h

theorem State.Inv.lateMail {t : State} (h : t.Inv) {sender : Nat} {bs : List Byte} : OutInv (s.lateMail t sender bs) :=
  outInv_ite h.mailIn trivial

theorem State.Inv.returnLate (h : s.Inv) {n part : Nat} {d : Delivery} : OutInv (s.returnLate n part d) :=
  outInv_ite h.dropDelivery.sendPeer h.dropDelivery.lateMail

theorem State.Inv.lateFromPeer (h : s.Inv) {k : Nat} : OutInv (s.lateFromPeer k) := by
  unfold State.lateFromPeer
  split
  · exact h.setIncoming.lateMail
  · trivial

theorem State.Inv.execTokenDelivery (h : s.Inv) : OutInv (execTokenDelivery s) := by
  unfold Machine.execTokenDelivery
  split
  · exact h.lateFromPeer
  · split
    · exact h.dropDelivery
    · exact outInv_ite trivial (outInv_ite h.dropDelivery.setExpert.next
        (outInv_ite h.returnLate h.dropDelivery.setExpert.next))

-- Batches, reloads

theorem State.Inv.takeBatch (h : s.Inv) {d : XReg} {name : Nat} {e : Expert} {i : Fin 16} {r : Replica}
    {ts : List Token} {buf : Word} : (s.takeBatch d name e i r ts buf).Inv := by
  refine h.res fun ps => Res.inv_ite h.wx ?_
  have hs : ((s.setExpert name ((e.setRep i r).settle i)).acquire .sys).Inv := h.setExpert.acquire
  exact (hs.foldl fun _ _ ht => ht.storeRange).wx.endRegion

theorem State.Inv.batch (h : s.Inv) {d a b c : XReg} {f : Nat → Expert → Fin 16 → Res}
    (hf : ∀ name e i, (f name e i).Inv) : (s.batch d a b c f).Inv :=
  Res.inv_ite h (Res.inv_ite trivial (h.res fun _ => h.held (fun _ => Res.inv_ite (hf ..) h.wx) fun _ => h.wx))

theorem State.Inv.execXbatchFwd (h : s.Inv) {d a b c : XReg} : OutInv (execXbatchFwd d a b c s) :=
  h.run (h.batch fun _ _ _ => Res.inv_ite h.wx (Res.inv_ite h.wx h.takeBatch))

theorem State.Inv.execXbatchBwd (h : s.Inv) {d a b c : XReg} : OutInv (execXbatchBwd d a b c s) :=
  h.run (h.batch fun _ _ _ => h.takeBatch)

theorem State.Inv.copyRange (h : s.Inv) {c : ClusterId} {p : Nat} {src dst : Word} {n : Nat} :
    (s.copyRange c p src dst n).Inv := by
  unfold State.copyRange
  split
  · exact h.noteRange.readSide.noteRange.writeSide
  · exact h

theorem State.Inv.copyWeights (h : s.Inv) {e : Expert} {group : Nat} : (s.copyWeights e group).Inv :=
  State.inv_ite h (h.foldl fun _ _ ht => ht.copyRange)

theorem State.Inv.copyReplica (h : s.Inv) {name : Nat} {i : Fin 16} : (s.copyReplica name i).Inv := by
  unfold State.copyReplica
  split
  · exact h
  · exact State.inv_ite h.copyWeights.setExpert h

theorem State.Inv.execXbatchReload (h : s.Inv) {d a : XReg} : OutInv (execXbatchReload d a s) :=
  h.run (h.held (fun _ => Res.inv_ite h (Res.inv_ite h (Res.inv_ite h h.setExpert.started))) fun _ => h)

theorem State.Inv.execWeightReloadDone (h : s.Inv) {name : Nat} {i : Fin 16} :
    OutInv (execWeightReloadDone name i s) := by
  unfold Machine.execWeightReloadDone
  split
  · trivial
  · exact outInv_ite trivial h.copyWeights.setExpert.next

theorem State.Inv.execReplicaPublish (h : s.Inv) {name : Nat} {i : Fin 16} : OutInv (execReplicaPublish name i s) := by
  unfold Machine.execReplicaPublish
  split
  · trivial
  · exact outInv_ite trivial h.copyReplica.publish.startReplica.next

theorem State.Inv.execSnapshotArrival (h : s.Inv) {die name : Nat} : OutInv (execSnapshotArrival die name s) := by
  unfold Machine.execSnapshotArrival
  extract_lets mine
  split
  · trivial
  · exact h

-- Seal and join

theorem State.Inv.setNode (h : s.Inv) {n : Nat} {v : Node} : (s.setNode n v).Inv := h

/-- The contexts that are given change. -/
theorem State.Inv.setBusy (h : s.Inv) {l : List CtxId} : ({ s with pkg := { s.pkg with busy := l } } : State).Inv := h

theorem State.Inv.sealStep (h : s.Inv) {name : Nat} {e : Expert} : (s.sealStep name e).1.Inv := by
  dsimp only [State.sealStep]
  split
  · exact h
  · split
    · exact h
    · split
      · exact State.inv_ite h.setExpert.setBusy.setNode h.setExpert.setBusy
      · split
        · exact h.setExpert.setBusy.sendPeer
        · exact h.setExpert.setBusy

theorem State.Inv.execXseal (h : s.Inv) {d a : XReg} : OutInv (execXseal d a s) :=
  h.run (h.held (fun _ => h.sealStep.wx) fun _ => h.askPeer.freeResult.wx)

theorem State.Inv.sendSegment (h : s.Inv) {e : Expert} {i : Fin 16} {k : Nat} {bs : List Byte} :
    (s.sendSegment e i k bs).Inv :=
  State.inv_ite (State.inv_ite h.sendPeer h) (State.inv_ite h.contribute h)

theorem State.Inv.joinSegment (h : s.Inv) {i : Instr} {d : XReg} {x : Word} {ls : List Nat}
    {send : State → Nat → List Byte → State} {finish : State → State} (hs : ∀ t k bs, t.Inv → (send t k bs).Inv)
    (hf : ∀ t, t.Inv → (finish t).Inv) : (s.joinSegment i d x ls send finish).Inv :=
  h.takeHeld.res h fun _ hv => Res.inv_ite (hs _ _ _ hv).started.ctx (hf _ (hs _ _ _ hv)).wx.endRegion

theorem State.Inv.askJoin (h : s.Inv) {peer name : Nat} {i : Fin 16} {k : Nat} {bs : List Byte} :
    (s.askJoin peer name i k bs).Inv := h

theorem State.Inv.execXjoin (h : s.Inv) {d a b : XReg} : OutInv (execXjoin d a b s) := by
  have settled : ∀ name i (t : State), t.Inv →
      State.Inv (match t.expert? name with | some e => t.setExpert name (e.settle i) | none => t) := by
    intro name i t ht
    split
    · exact ht.setExpert
    · exact ht
  refine h.run (Res.inv_ite h (Res.inv_ite ?_ (Res.inv_ite trivial (h.held (fun e => ?_) fun n => ?_))))
  · split
    · exact h.joinSegment (fun _ _ _ ht => ht.askJoin) fun _ ht => ht
    · exact h.joinSegment (fun _ _ _ ht => ht.sendSegment) (settled _ _)
    · exact h
  · exact Res.inv_ite h.wx.endRegion (Res.inv_ite h.wx.endRegion (h.holdLoads.res h fun _ ht =>
      ht.setExpert.ctx.joinSegment (fun _ _ _ hu => hu.sendSegment) (settled _ _)))
  · exact Res.inv_ite h.askPeer.freeResult.wx.endRegion (h.askPeer.freeResult.holdLoads.res h fun _ ht =>
      ht.ctx.joinSegment (fun _ _ _ hu => hu.askJoin) fun _ hu => hu)

-- Steps and windows

/-- The experts change. -/
theorem State.Inv.setExperts (h : s.Inv) {m : Map Nat Expert} :
    ({ s with pkg := { s.pkg with experts := m } } : State).Inv := h

theorem State.Inv.execXstep (h : s.Inv) {d a : XReg} : OutInv (execXstep d a s) := by
  refine h.run ?_
  dsimp only
  split
  · exact h
  · next v hv =>
    refine Res.inv_ite h (State.Inv.done (State.Inv.wx (State.Inv.setExperts (State.Inv.setPart h (h.part hv) ?_))))
    rfl

theorem State.Inv.execWindowBoundary (h : s.Inv) : OutInv (execWindowBoundary s) := by
  unfold Machine.execWindowBoundary
  split
  · trivial
  · refine outInv_ite trivial ?_
    dsimp only
    split
    · exact State.inv_ite h.drain h.setExpert
    · exact h.setExpert

-- Further operations

theorem State.Inv.execXstat (h : s.Inv) {sel : XstatSel} {d a b : XReg} : OutInv (execXstat sel d a b s) := by
  refine h.run (h.held (fun _ => h) fun n => ?_)
  dsimp only
  exact h.askPeer.pick.wx

theorem State.Inv.spawn (h : s.Inv) {name : Nat} {e : Expert} {b : Word} : (s.spawn name e b).1.Inv := by
  dsimp only [State.spawn]
  split
  · exact h
  · split
    · exact h
    · split
      · next heq =>
        obtain ⟨g, _, hg⟩ := Option.bind_eq_some_iff.1 heq
        exact h.create.of_eq hg
      · exact h

theorem State.Inv.execXspawn (h : s.Inv) {d a b : XReg} : OutInv (execXspawn d a b s) :=
  h.run (h.held (fun _ => h.spawn.wx) fun _ => h.askPeer.freeResult.wx)

theorem State.Inv.retireRep (h : s.Inv) {name : Nat} {e : Expert} {i : Fin 16} : (s.retireRep name e i).1.Inv := by
  unfold State.retireRep
  split
  · exact h
  · split
    · exact h
    · exact h.drain

theorem State.Inv.execXretire (h : s.Inv) {d a b : XReg} : OutInv (execXretire d a b s) :=
  h.run (h.held (fun _ => h.retireRep.wx) fun _ => h.askPeer.freeResult.wx)

theorem State.Inv.peerOp (h : s.Inv) {o : RemoteOp} {e : Expert} : (s.peerOp o e).1.Inv := by
  dsimp only [State.peerOp]
  split
  · exact h
  · split
    · exact h
    · exact h
  · exact h
  · exact h.sendToken
  · exact h.sendBack
  · exact h.sealStep
  · split
    · exact State.inv_ite h.sendSegment h
    · split
      · exact h
      · split
        · exact h
        · exact h
  · exact h
  · exact h.spawn
  · exact h.retireRep
  · exact h

/-- The messages to peers change. -/
theorem State.Inv.setOutbox (h : s.Inv) {l : List PeerMsg} :
    ({ s with pkg := { s.pkg with outbox := l } } : State).Inv := h

theorem State.Inv.execRemoteExpertOp (h : s.Inv) {o : RemoteOp} : OutInv (execRemoteExpertOp o s) := by
  unfold Machine.execRemoteExpertOp
  refine outInv_ite trivial ?_
  split
  · exact h.setOutbox
  · exact h.peerOp.sendPeer

end

end Sys2Proof.Machine

namespace Sys2Proof.Machine

/-! Launches and the matrix engine. -/

section
variable {s : State}

-- Launches

theorem State.Inv.launchRecord (h : s.Inv) {p : Nat} {a : Word} : IfSome (fun r => r.1.Inv) (s.launchRecord p a) := by
  refine ifSome_ite ?_ trivial
  refine List.foldlRecOn (motive := IfSome fun r : State × List Byte => r.1.Inv) _ _ h fun acc hacc q _ => ?_
  refine hacc.bind fun t ht => ?_
  cases s.pageAt p q.1 with
  | none => trivial
  | some g => exact ht.readHome

theorem State.Inv.startPlaced (h : s.Inv) {p launch : Nat} {addr : Word} {r : List Byte} {path : List Nat}
    {k : CoreId} : (s.startPlaced p launch addr r path k).Inv := h.startLeaf

theorem State.Inv.placeLaunch (h : s.Inv) {p q n : Nat} {addr : Word} {r : List Byte} {pl : Placed} :
    (s.placeLaunch p q n addr r pl).Inv := by
  refine State.Inv.foldl ?_ fun _ _ ht => ht.startPlaced
  exact h

theorem State.Inv.placeWaiting (h : s.Inv) {p k : Nat} : (s.placeWaiting p k).Inv := by
  induction k generalizing s with
  | zero => exact h
  | succ k ih =>
    unfold State.placeWaiting
    split
    · exact h
    · next v hv =>
      split
      · exact h
      · refine State.inv_ite h ?_
        split
        · exact h
        · refine ih (State.Inv.placeLaunch (State.Inv.setPart h (h.part hv) ?_))
          rfl

theorem State.Inv.retryLaunches (h : s.Inv) {p : Nat} : (s.retryLaunches p).Inv := by
  unfold State.retryLaunches
  split
  · exact h.placeWaiting
  · exact h

theorem State.Inv.pushRecord (h : s.Inv) {q : Nat} {status entry : Word} : (s.pushRecord q status entry).Inv := h

theorem State.Inv.submitLaunch (h : s.Inv) {p q n : Nat} {addr : Word} : (s.submitLaunch p q n addr).Inv := by
  unfold State.submitLaunch
  split
  · exact h.pushRecord
  · next t r heq =>
    have ht : t.Inv := h.launchRecord.of_eq heq
    split
    · exact ht.pushRecord
    · refine State.inv_ite ht.pushRecord ?_
      split
      · exact ht
      · next v hv =>
        have hw : (t.setPart p { v with waiting := v.waiting ++ [(q, n, addr, r)] }).Inv :=
          State.Inv.setPart ht (ht.part hv) rfl
        exact State.inv_ite hw.retryLaunches hw

theorem State.Inv.sendStatus (h : s.Inv) {l : Leaf} {w : Word} : (s.sendStatus l w).Inv := by
  unfold State.sendStatus
  split
  · exact h
  · split
    · exact h
    · exact h

/-- The launches change. -/
theorem State.Inv.setLaunches (h : s.Inv) {m : Map Nat Launch} : ({ s with launches := m } : State).Inv := h

theorem State.Inv.execCompletionNodeForward (h : s.Inv) {launch : Nat} {path : List Nat} :
    OutInv (execCompletionNodeForward launch path s) := by
  unfold Machine.execCompletionNodeForward
  split
  · trivial
  · split
    · trivial
    · exact outInv_ite h.setLaunches.pushRecord.next h.setLaunches.next

theorem State.Inv.execFreeCountReport (h : s.Inv) : OutInv (execFreeCountReport s) := by
  refine outInv_ite ?_ trivial
  exact h.setBusy.foldl fun _ _ ht => ht.retryLaunches

-- The matrix engine

theorem State.Inv.execMxjob (h : s.Inv) {d a : XReg} {la : LaCount} : OutInv (execMxjob d a la s) := h.run h.submit

theorem State.Inv.setMx (h : s.Inv) {c : ClusterId} {m : MatrixSt} : (s.setMx c m).Inv := h

theorem State.Inv.setHalf (h : s.Inv) {x : CtrlHalf} : (s.setHalf x).Inv := h

theorem State.Inv.dropCtx (h : s.Inv) {c : CtxId} : (s.dropCtx c).Inv :=
  State.Inv.setCtx h

theorem State.Inv.holdJob (h : s.Inv) {r : JobRef} {j : JobSt} : (s.holdJob r j).Inv := h

theorem State.Inv.startControl (h : s.Inv) {c : CtxId} {pc card id : Word} : (s.startControl c pc card id).Inv :=
  h.resetVec.setCtx

theorem State.Inv.execMatrixJobStart (h : s.Inv) : OutInv (execMatrixJobStart s) := by
  refine outInv_ite trivial ?_
  split
  · trivial
  · exact h.setMx.holdJob.startControl.startControl

theorem State.Inv.performStores (h : s.Inv) {c : ClusterId} {l : List (Place × List Byte)} :
    (s.performStores c l).Inv :=
  h.foldl fun _ _ ht => ht.writePieces

theorem State.Inv.endMatrix (h : s.Inv) {r : JobRef} {j : JobSt} {code entry : Nat} :
    (s.endMatrix r j code entry).Inv :=
  h.endJob.setMx.performStores.dropCtx.dropCtx.tagBelow

theorem State.onJob_inv {i : Instr} {f : JobRef → JobSt → Res} (hf : ∀ r j, (f r j).Inv) :
    (s.onJob i f).Inv := by
  unfold State.onJob
  split
  · exact Res.inv_ite (hf ..) trivial
  · trivial

theorem JRes.Holds.onJob {α : Type} {P : α → Prop} {x : JRes α} (hx : x.Holds P) (h : s.Inv) {r : JobRef} {j : JobSt}
    {f : α → Res} (hf : ∀ a, P a → (f a).Inv) : (x.onJob s r j f).Inv := by
  cases x with
  | ok a => exact hf a hx
  | fail c e => exact h.endMatrix
  | hold => exact h

theorem State.Inv.operandBits (h : s.Inv) {r : JobRef} {j : JobSt} {fmt b w : Nat} :
    (s.operandBits r j fmt b w).Holds fun v => v.1.Inv :=
  JRes.holds_bind fun _ => h.jobRead

theorem State.Inv.operand (h : s.Inv) {r : JobRef} {j : JobSt} {fmt b : Nat} :
    (s.operand r j fmt b).Holds fun v => v.1.Inv := by
  refine h.operandBits.bind fun v hv => ?_
  split
  · exact hv
  · exact JRes.holds_bind fun _ => hv.jobRead

theorem State.Inv.operandRow (h : s.Inv) {r : JobRef} {j : JobSt} {fmt n b : Nat} :
    (s.operandRow r j fmt n b).Holds fun v => v.1.Inv := by
  induction n generalizing s b with
  | zero => exact h
  | succ n ih => exact h.operand.bind fun _ hv => (ih hv).bind fun _ hw => hw

theorem State.Inv.operandRows (h : s.Inv) {r : JobRef} {j : JobSt} {fmt n : Nat} {as : List Word} :
    (s.operandRows r j fmt n as).Holds fun v => v.1.Inv := by
  induction as generalizing s with
  | nil => exact h
  | cons a as ih => exact h.operandRow.bind fun _ hv => (ih hv).bind fun _ hw => hw

theorem State.Inv.loadFlags (h : s.Inv) {r : JobRef} {j : JobSt} {f : Flags} : (s.loadFlags r j f).Inv := h

theorem State.Inv.rowCheck (h : s.Inv) {x : RowCheck × Word} {r : JobRef} {j : JobSt} {fmt : Nat} {f : Unit → Res}
    (hf : (f ()).Inv) : (RowCheck.onJob x s r j fmt f).Inv := by
  unfold RowCheck.onJob
  split
  · exact hf
  · trivial
  · split
    · exact h.endMatrix
    · exact h.endMatrix

theorem State.Inv.execMlda (h : s.Inv) {k : Bool} {a b : XReg} {row : Fin 64} {rows : BitVec 7} {klen : BitVec 8}
    {la : LaCount} : OutInv (execMlda k a b row rows klen la s) := by
  dsimp only [Machine.execMlda]
  exact h.run (State.onJob_inv fun _ _ => Res.inv_ite trivial (Res.inv_ite trivial (h.rowCheck
    (h.operandRows.onJob h fun _ hv => hv.setMx.loadFlags.longResult))))

theorem State.Inv.execMldb (h : s.Inv) {k : Bool} {a b : XReg} {klen : BitVec 8} {nlen : BitVec 9} {la : LaCount} :
    OutInv (execMldb k a b klen nlen la s) := by
  dsimp only [Machine.execMldb]
  exact h.run (State.onJob_inv fun _ _ => Res.inv_ite trivial (h.rowCheck
    (h.operandRows.onJob h fun _ hv => hv.setMx.loadFlags.longResult)))

theorem State.Inv.execMzero (h : s.Inv) {d : AReg} {m : Fin 64} : OutInv (execMzero d m s) :=
  h.run (State.onJob_inv fun _ _ => Res.inv_ite trivial h)

theorem State.Inv.execMma (h : s.Inv) {d : AReg} {x y : Bool} {m : Fin 64} {la : LaCount} :
    OutInv (execMma d x y m la s) := by
  dsimp only [Machine.execMma]
  exact h.run (State.onJob_inv fun _ _ =>
    Res.inv_ite trivial (Res.inv_ite h.setJob.setMx.longResult h.setJob.setMx.started))

theorem State.Inv.stageRows (h : s.Inv) {r : JobRef} {j : JobSt} {d n : Nat} {rows : List (Nat × Word)} :
    (s.stageRows r j d n rows).1.Inv := by
  induction rows generalizing s with
  | nil => exact h
  | cons row rows ih =>
    dsimp only [State.stageRows]
    split
    · exact h
    · exact h
    · exact State.fst_inv_ite (ih h.jobWrite) (ih h.noteRange.tagBelow.setMx)

theorem State.Inv.execMsta (h : s.Inv) {d : AReg} {a b : XReg} {m : Fin 64} {n : BitVec 9} :
    OutInv (execMsta d a b m n s) := by
  dsimp only [Machine.execMsta]
  refine h.run (State.onJob_inv fun r j => Res.inv_ite trivial (Res.inv_ite trivial (Res.inv_ite trivial ?_)))
  have hr : ∀ rows, (s.stageRows r j d.val n.toNat rows).1.Inv := fun _ => h.stageRows
  split
  · next heq => exact ((hr _).of_pair heq).setJob
  · next heq => exact ((hr _).of_pair heq).endMatrix
  · exact h

theorem State.Inv.execMstaStoresPerformed (h : s.Inv) : OutInv (execMstaStoresPerformed s) := by
  refine outInv_ite trivial ?_
  split
  · exact h.setMx.performStores.tagBelow
  · exact h.setMx.performStores

theorem State.Inv.execSemv (h : s.Inv) {n : SemReg} : OutInv (execSemv n s) := h.run (Res.inv_ite h h)

theorem State.Inv.execSemp (h : s.Inv) {n : SemReg} : OutInv (execSemp n s) := h.run (Res.inv_ite h h)

theorem State.Inv.execMprogRd (h : s.Inv) {d : XReg} : OutInv (execMprogRd d s) := h.run (State.onJob_inv fun _ _ => h)

theorem State.Inv.execMprogWr (h : s.Inv) {a : XReg} : OutInv (execMprogWr a s) := h.run (State.onJob_inv fun _ _ => h)

theorem State.Inv.endHalf (h : s.Inv) {v : Word} : (s.endHalf v).Inv := by
  unfold State.endHalf
  split
  · exact h
  · exact State.inv_ite h.setHalf.setJob h.setHalf.setMx.endJob

theorem State.Inv.execJdone (h : s.Inv) {a : XReg} : OutInv (execJdone a s) :=
  h.run (Res.inv_ite h (Res.inv_ite h h.endHalf))

theorem State.Inv.waitTake (h : s.Inv) {b : Bool} : (s.waitTake b).Inv := h

theorem State.Inv.execJtake (h : s.Inv) {d : XReg} : OutInv (execJtake d s) := by
  refine h.run ?_
  split
  · exact h
  · refine Res.inv_ite h ?_
    split
    · exact h
    · exact Res.inv_ite h (Res.inv_ite h (Res.inv_ite h h.waitTake.holdJob.setMx.wx))

theorem State.Inv.cancelJob (h : s.Inv) {r : JobRef} {j : JobSt} : (s.cancelJob r j).Inv :=
  State.inv_ite h.endMatrix h.endJob.dropRowReqs

theorem State.Inv.execJcancel (h : s.Inv) {d a : XReg} : OutInv (execJcancel d a s) := by
  refine h.run ?_
  split
  · exact h
  · exact Res.inv_ite (Res.inv_ite h.cancelJob.wx h.cancelJob) h

end

end Sys2Proof.Machine

namespace Sys2Proof.Machine

/-! System instructions, EXIT, integer instructions, parameter nodes. -/

section
variable {s : State}

-- System instructions

theorem State.Inv.execRett (h : s.Inv) : OutInv (execRett s) := h.run (Res.inv_ite trivial h)

theorem State.Inv.execFence (h : s.Inv) {sc : Scope} : OutInv (execFence sc s) := by
  refine h.run (Res.inv_ite h (State.Inv.done (State.inv_ite ?_ (State.Inv.endRegion ?_))))
  · exact h.acquire.ctx
  · exact h.acquire.ctx

theorem State.Inv.setLeaf (h : s.Inv) {f : Leaf → Leaf} : (s.setLeaf f).Inv := by
  unfold State.setLeaf
  split <;> exact h

theorem State.Inv.sysWrite (h : s.Inv) {n : Nat} {v : Word} : IfSome State.Inv (s.sysWrite n v) := by
  dsimp only [State.sysWrite]
  split
  · cases rmodeOf? (bits v.toNat 0 3) with
    | none => trivial
    | some m => exact h
  · exact h
  · exact h
  · exact State.inv_ite h.setLeaf h
  · exact h
  · exact h
  · exact ifSome_ite trivial h
  · exact h
  · exact h
  · exact h

theorem State.Inv.execSyswr (h : s.Inv) {a : XReg} {num : BitVec 30} : OutInv (execSyswr a num s) := by
  refine h.run ?_
  split
  · next heq => exact h.sysWrite.of_eq heq
  · trivial

theorem State.Inv.execSleep (h : s.Inv) {a : XReg} {imm : BitVec 30} : OutInv (execSleep a imm s) := by
  refine h.run ?_
  split
  · exact Res.inv_ite h h
  · exact Res.inv_ite h h

theorem State.Inv.retire (h : s.Inv) {i : Instr} {target : Option Word} : (s.retire i target).Inv := h

theorem State.Inv.execSleepExpiry (h : s.Inv) {c : CtxId} : OutInv (execSleepExpiry c s) := by
  unfold Machine.execSleepExpiry
  split
  · trivial
  · exact outInv_ite h.switchTo.retire.ctx.switchTo.next trivial

-- EXIT

theorem State.Inv.endContext (h : s.Inv) : s.endContext.Inv := by
  refine State.Inv.ctx (State.Inv.foldl ?_ fun t n ht => State.inv_ite ht.setCtx ht)
  exact h.unbind.dropCtx

theorem State.Inv.exitHelper (h : s.Inv) : s.exitHelper.Inv := by
  unfold State.exitHelper
  dsimp only
  split
  · exact h.setCtx.endContext.grantSlots
  · exact h.endContext.grantSlots

theorem State.Inv.setLeaves (h : s.Inv) {m : Map Nat Leaf} : ({ s with leaves := m } : State).Inv := h

theorem State.Inv.exitControl (h : s.Inv) {v : Word} : (s.exitControl v).Inv := by
  refine State.Inv.endContext ?_
  split
  · exact h.setBusy.sendStatus.setLeaves
  · exact h.setBusy

theorem State.Inv.exitMatrix (h : s.Inv) {v : Word} : (s.exitMatrix v).Inv :=
  (State.inv_ite h.endHalf h).setHalf.endContext

theorem State.Inv.execExit (h : s.Inv) {a : XReg} : OutInv (execExit a s) :=
  h.run (Res.inv_ite h (Res.inv_ite (Res.inv_ite h h.exitMatrix)
    (Res.inv_ite h.exitHelper (Res.inv_ite h h.exitControl))))

-- Integer instructions

theorem State.Inv.int2 (h : s.Inv) {i : Instr} {d a b : XReg} {f : Word → Word → Word} : OutInv (s.int2 i d a b f) :=
  h.run h.wx

theorem State.Inv.int1 (h : s.Inv) {i : Instr} {d a : XReg} {f : Word → Word} : OutInv (s.int1 i d a f) := h.run h.wx

-- Parameter nodes

theorem State.Inv.execPnrule (h : s.Inv) {d a b : XReg} : OutInv (execPnrule d a b s) := by
  refine h.run (Res.inv_ite h (Res.inv_ite trivial (h.loadRecord.res h fun r hr => ?_)))
  refine Res.inv_ite hr.wx (Res.inv_ite hr.wx ?_)
  split
  · exact Res.inv_ite hr.loadRange.wx hr.loadRange.setNode.wx
  · exact hr.wx

theorem State.Inv.execPnsend (h : s.Inv) {a b c : XReg} {count : BitVec 9} : OutInv (execPnsend a b c count s) := by
  refine h.run (Res.inv_ite h (Res.inv_ite trivial (h.res fun ts => Res.inv_ite trivial ?_)))
  exact (State.inv_ite h.loadRange.contribute h.loadRange.sendPeer).endRegion.done

theorem State.Inv.execPnstep (h : s.Inv) {d a b c : XReg} : OutInv (execPnstep d a b c s) :=
  h.run (Res.inv_ite trivial (Res.inv_ite h h))

theorem State.Inv.execPnstat (h : s.Inv) {sel : PnstatSel} {d a : XReg} : OutInv (execPnstat sel d a s) :=
  h.run (Res.inv_ite trivial h)

theorem State.Inv.execPnContribution (h : s.Inv) : OutInv (execPnContribution s) := by
  unfold Machine.execPnContribution
  split
  · exact h.setNode.bumpCtr
  · trivial

theorem State.Inv.ruleAccess (h : s.Inv) {n : Nat} {write : Bool} {a m : Nat} :
    IfSome (fun r => r.1.Inv) (s.ruleAccess n write a m) := by
  unfold State.ruleAccess
  refine ifSome_ite trivial ?_
  split
  · trivial
  · refine ifSome_ite trivial (h.setMem ?_)
    split
    · exact (h.mem.noteWalk ..).log _
    · exact h.mem.noteWalk ..

theorem State.Inv.ruleRead (h : s.Inv) {n a m : Nat} : IfSome (fun r => r.1.Inv) (s.ruleRead n a m) :=
  ifSome_ite trivial (h.ruleAccess.map fun _ hq => hq.readHome)

theorem State.Inv.ruleWrite (h : s.Inv) {n a m v : Nat} : IfSome State.Inv (s.ruleWrite n a m v) :=
  ifSome_ite trivial (h.ruleAccess.map fun _ hq => hq.writePhys)

theorem State.Inv.ruleLoads (h : s.Inv) {one : State → Nat → Option (State × Nat × Flags)} {is : List Nat}
    (ho : ∀ t i, t.Inv → IfSome (fun r => r.1.Inv) (one t i)) : IfSome (fun r => r.1.Inv) (s.ruleLoads one is) := by
  induction is generalizing s with
  | nil => exact h
  | cons i is ih => exact (ho s i h).bind fun _ hq => (ih hq).map fun _ ht => ht

theorem State.Inv.ruleScale (h : s.Inv) {n a : Nat} : IfSome (fun r => r.1.Inv) (s.ruleScale n a) :=
  ifSome_bind fun _ => h.ruleRead

theorem State.Inv.ruleLoad (h : s.Inv) {n : Nat} {r : Reach} {grad : List Nat} {conv : PageConv} {rm : RMode}
    {a : Nat} : IfSome (fun r => r.1.Inv) (s.ruleLoad n r grad conv rm a) := by
  refine ifSome_ite (ifSome_ite h trivial) (ifSome_ite trivial ?_)
  split
  · exact ifSome_ite (h.ruleRead.map fun _ hq => hq) trivial
  · exact ifSome_ite (h.ruleRead.map fun _ hq => hq) trivial
  · exact ifSome_ite (h.ruleRead.bind fun _ hq => hq.ruleScale.map fun _ ht => ht) trivial
  · trivial

theorem State.Inv.ruleVld (h : s.Inv) {n : Nat} {r : Reach} {grad : List Nat} {c : RuleCore} {d : VReg} {rm : RMode}
    {base : Nat} {m : Word} : IfSome (fun r => r.1.Inv) (s.ruleVld n r grad c d rm base m) :=
  ifSome_ite trivial ((h.ruleLoads fun _ _ ht => ht.ruleLoad).map fun _ ht => ht)

theorem State.Inv.noteNext (h : s.Inv) {n off : Nat} {r : Reach} {a : Nat} : (s.noteNext n off r a).Inv := by
  unfold State.noteNext
  split <;> exact h

theorem State.Inv.ruleStore (h : s.Inv) {n off : Nat} {r : Reach} {conv : PageConv} {rm : RMode} {a v : Nat} :
    IfSome (fun r => r.1.Inv) (s.ruleStore n off r conv rm a v) := by
  refine ifSome_ite trivial ?_
  split
  · exact ifSome_ite (h.ruleWrite.map fun _ ht => ht.noteNext) trivial
  · exact ifSome_ite (h.ruleWrite.map fun _ ht => ht) trivial
  · trivial

theorem State.Inv.ruleStores (h : s.Inv) {one : State → Nat → Option (State × Flags)} {is : List Nat}
    (ho : ∀ t i, t.Inv → IfSome (fun r => r.1.Inv) (one t i)) : IfSome (fun r => r.1.Inv) (s.ruleStores one is) := by
  induction is generalizing s with
  | nil => exact h
  | cons i is ih => exact (ho s i h).bind fun _ hq => (ih hq).map fun _ ht => ht

theorem State.Inv.ruleBlock (h : s.Inv) {n : Nat} {r : Reach} {rm : RMode} {a : Nat} {act : List Nat} {v : Nat → Nat} :
    IfSome (fun r => r.1.Inv) (s.ruleBlock n r rm a act v) :=
  ifSome_ite h (ifSome_ite trivial ((h.ruleStores fun _ _ ht => ht.ruleWrite.map fun _ hu => hu).bind fun _ ht =>
    ifSome_bind fun _ => ht.ruleWrite.map fun _ hu => hu))

theorem State.Inv.ruleVst (h : s.Inv) {n off : Nat} {r : Reach} {c : RuleCore} {src : VReg} {rm : RMode} {base : Nat}
    {m : Word} : IfSome (fun r => r.1.Inv) (s.ruleVst n off r c src rm base m) := by
  refine ifSome_ite trivial (@IfSome.map _ _ (fun r : State × Flags => r.1.Inv) _ _ _ ?_ fun _ ht => ht)
  split
  · exact h.ruleBlock.bind fun _ ht => ht.ruleBlock.map fun _ hu => hu
  · exact h.ruleStores fun _ _ ht => ht.ruleStore

theorem RuleCore.scalar_inv (h : s.Inv) {c : RuleCore} {f : State → Out} :
    IfSome (fun r => r.1.Inv) (c.scalar s f) := by
  unfold RuleCore.scalar
  split
  · exact ifSome_ite trivial h
  · trivial

theorem State.Inv.ruleFetch (h : s.Inv) {n pc : Nat} : IfSome (fun r => r.1.Inv) (s.ruleFetch n pc) :=
  ifSome_bind fun _ => ifSome_ite (h.setMem (h.mem.noteWalk ..)).readHome trivial

theorem RuleCore.effect_inv (h : s.Inv) {c : RuleCore} {n off : Nat} {r : Reach} {grad : List Nat} {i : Instr} :
    IfSome (fun r => r.1.Inv) (c.effect s n off r grad i) := by
  have step : ∀ q : RuleRes, IfSome (fun r => r.1.Inv) q → IfSome (fun r : State × RuleCore × Flags => r.1.Inv)
      (q.map fun t => (t.1, { t.2.1 with pc := c.pc + word i.len }, t.2.2)) := fun q hq => hq.map fun _ ht => ht
  dsimp only [RuleCore.effect]
  split
  · exact RuleCore.scalar_inv h
  · split
    · exact h
    · exact step _ (ifSome_ite (h.ruleRead.map fun _ hq => hq) trivial)
    · exact h
    · exact h
    · exact h
    · exact h
    · exact h
    · exact h
    · exact h
    · exact h
    · split
      · exact h
      · exact h
      · exact h
      · trivial
    · exact h
    · exact step _ h.ruleVld
    · exact step _ h.ruleVst
    · trivial

theorem State.Inv.runRule (h : s.Inv) {n off : Nat} {r : Reach} {grad : List Nat} {k : Nat} {c : RuleCore}
    {fl : Flags} : (s.runRule n off r grad k c fl).1.Inv := by
  induction k generalizing s c fl with
  | zero => exact h
  | succ k ih =>
    unfold State.runRule
    split
    · exact h
    · next t bs heq =>
      have ht : t.Inv := h.ruleFetch.of_eq heq
      split
      · exact ht
      · refine State.fst_inv_ite ht ?_
        split
        · exact ih ht
        · exact ht
        · split
          · exact ht
          · next heq => exact ih ((RuleCore.effect_inv ht).of_eq heq)

theorem State.Inv.endNodeRegion (h : s.Inv) {n : Nat} : (s.endNodeRegion n).Inv := h

theorem State.Inv.failBlock (h : s.Inv) {n block : Nat} {b : BlockSt} : (s.failBlock n block b).Inv := h

/-- Free values are used. -/
theorem State.Inv.setFresh (h : s.Inv) {n : Nat} : ({ s with fresh := n } : State).Inv := h

theorem State.Inv.execPnRuleChunk (h : s.Inv) {node : Fin 8} {fuel : Nat} : OutInv (execPnRuleChunk node fuel s) := by
  unfold Machine.execPnRuleChunk
  extract_lets n d
  split
  · trivial
  · split
    · refine outInv_ite trivial ?_
      dsimp only
      have ht : State.Inv (if d.rule.isNone then { s with fresh := s.fresh + entryFree } else s) :=
        State.inv_ite h.setFresh h
      split
      · exact ht.runRule.setNode.setNode
      · exact ht.runRule.setNode.setNode
      · exact ht.runRule.setNode.failBlock
    · trivial

theorem State.Inv.execPnBlockDone (h : s.Inv) {node : Fin 8} {block : Nat} : OutInv (execPnBlockDone node block s) := by
  dsimp only [Machine.execPnBlockDone]
  split
  · exact outInv_ite h.setNode.endNodeRegion.bumpCtr.next trivial
  · trivial

theorem State.Inv.copyCurrent (h : s.Inv) {d : Node} {j e : Nat} : (s.copyCurrent d j e).Inv := by
  refine State.inv_ite h ?_
  dsimp only
  split
  · exact h.readHome.writePhys
  · exact h

theorem State.Inv.copyArray (h : s.Inv) {d : Node} {j n : Nat} : (s.copyArray d j n).Inv := by
  induction n with
  | zero => exact h
  | succ n ih => exact ih.copyCurrent

theorem State.Inv.failStep (h : s.Inv) {n : Nat} {d : Node} : (s.failStep n d).Inv := h

theorem State.Inv.execPnCommit (h : s.Inv) : OutInv (execPnCommit s) :=
  outInv_ite (outInv_ite h.failStep.next (h.foldl fun _ _ ht => ht.copyArray).setNode.bumpCtr.next) trivial

theorem State.Inv.pnodeRecord (h : s.Inv) {n : Nat} {d : Node} {block : Nat} {b : BlockSt} :
    (s.pnodeRecord n d block b).Inv := by
  unfold State.pnodeRecord
  split
  · exact h
  · exact h.logFault

theorem State.Inv.pnodeRecords (h : s.Inv) {n : Nat} {d : Node} {k : Nat} {bs : List BlockSt} :
    (s.pnodeRecords n d k bs).Inv := by
  induction bs generalizing s k with
  | nil => exact h
  | cons b bs ih => exact ih (State.inv_ite h h.pnodeRecord)

theorem State.Inv.execPnStepDeadline (h : s.Inv) : OutInv (execPnStepDeadline s) :=
  outInv_ite h.pnodeRecords.failStep.next trivial

end

end Sys2Proof.Machine

namespace Sys2Proof.Machine

/-! Pre-emption, saving, restoring and dumping; faults and resets. -/

section
variable {s : State}

-- PREQ and RESUME

theorem State.Inv.preempt (h : s.Inv) {p : Nat} {ctr : Option Nat} : (s.preempt p ctr).Inv := by
  unfold State.preempt
  split
  · next v hv => exact State.Inv.setPart h (h.part hv) rfl
  · exact h

theorem State.Inv.arriveAgain (h : s.Inv) {p : Nat} : (s.arriveAgain p).Inv := h

theorem State.Inv.resume (h : s.Inv) {p : Nat} {ctr : Option Nat} : (s.resume p ctr).Inv := by
  unfold State.resume
  split
  · next v hv => exact State.Inv.setPart h.arriveAgain (h.part hv) rfl
  · exact h

theorem State.Inv.preq (h : s.Inv) {d a : XReg} {ctr : Option Nat} : (s.preq d a ctr).Inv :=
  State.inv_ite h.wx (State.inv_ite h.wx h.preempt.wx)

theorem State.Inv.resumeOp (h : s.Inv) {d a : XReg} {ctr : Option Nat} : (s.resumeOp d a ctr).Inv :=
  State.inv_ite h.wx (State.inv_ite h.wx h.resume.wx)

theorem State.Inv.execPreq (h : s.Inv) {d a : XReg} : OutInv (execPreq d a s) := h.run h.preq

theorem State.Inv.execPreqCtr (h : s.Inv) {d a b : XReg} : OutInv (execPreqCtr d a b s) :=
  h.run (Res.inv_ite trivial h.preq)

theorem State.Inv.execResume (h : s.Inv) {d a : XReg} : OutInv (execResume d a s) := h.run h.resumeOp

theorem State.Inv.execResumeCtr (h : s.Inv) {d a b : XReg} : OutInv (execResumeCtr d a b s) :=
  h.run (Res.inv_ite trivial h.resumeOp)

-- The halt

theorem State.Inv.copyCreating (h : s.Inv) {p : Nat} : (s.copyCreating p).Inv :=
  h.foldl fun _ _ ht => ht.foldl fun _ _ hu => hu.copyReplica

theorem State.Inv.leaveEngines (h : s.Inv) {p : Nat} : (s.leaveEngines p).Inv := h

/-- The clusters change. -/
theorem State.Inv.setClusters (h : s.Inv) {m : Map ClusterId Cluster} : ({ s with clusters := m } : State).Inv := h

theorem State.Inv.recallAll (h : s.Inv) {f : Partial → Bool} : ({ s with mem := s.mem.recallAll f } : State).Inv :=
  h.setMem (h.mem.recallAll f)

theorem State.Inv.halt (h : s.Inv) {p : Nat} : (s.halt p).Inv :=
  ((h.copyCreating.drainBelow.leaveEngines.foldl fun _ _ ht => ht.setCtx).foldl fun _ _ ht =>
    ht.setCore).setClusters.recallAll

theorem State.Inv.execHaltComplete (h : s.Inv) : OutInv (execHaltComplete s) := by
  unfold Machine.execHaltComplete
  split
  · next v hv => exact outInv_ite (State.Inv.setPart h.halt (h.part hv) rfl) trivial
  · trivial

-- Saving, restoring and dumping

theorem State.Inv.saveTo (h : s.Inv) {p area tag : Nat} {header : List Byte} : (s.saveTo p area tag header).Inv :=
  h.writePhys.foldl fun _ _ ht => (ht.foldl fun _ _ hu => hu.writePhys).foldl fun _ _ hu => hu.writePhys

theorem State.Inv.execSaveComplete (h : s.Inv) : OutInv (execSaveComplete s) := by
  unfold Machine.execSaveComplete
  split
  · next v hv =>
    refine outInv_ite (State.Inv.next (State.Inv.postEvent (State.Inv.bumpCtr
      (State.Inv.setPart h.saveTo.setFresh (h.part hv) ?_)))) trivial
    rfl
  · trivial

theorem State.Inv.loadDeadline (h : s.Inv) {c : CtxId} {d : Word} : (s.loadDeadline c d).Inv := by
  unfold State.loadDeadline
  split
  · split
    · exact State.inv_ite h h
    · exact h
  · exact h

theorem State.Inv.visitRange (h : s.Inv) {pa n : Nat} : ({ s with mem := s.mem.visitRange pa n } : State).Inv :=
  h.setMem (h.mem.visitRange pa n)

theorem State.Inv.readSlots (h : s.Inv) {p area : Nat} : (s.readSlots p area).Inv :=
  h.visitRange.foldl fun _ _ ht => ht.visitRange

theorem State.Inv.dropWays (h : s.Inv) {c : ClusterId} : (s.dropWays c).Inv := h

theorem State.Inv.restoreFrom (h : s.Inv) {p area : Nat} : (s.restoreFrom p area).Inv :=
  h.readSlots.foldl fun _ _ ht =>
    (ht.foldl fun _ _ hu => State.inv_ite hu.setCtx.loadDeadline hu).dropWays

theorem State.Inv.execRestoreComplete (h : s.Inv) : OutInv (execRestoreComplete s) := by
  unfold Machine.execRestoreComplete
  split
  · next v hv =>
    split
    · generalize s.saveIntact s.unit v = intact
      cases intact with
      | true =>
        refine State.Inv.next (State.Inv.retryLaunches (State.Inv.postEvent (State.Inv.bumpCtr
          (State.Inv.setPart h.restoreFrom (h.part hv) ?_))))
        rfl
      | false => trivial
    · trivial
  · trivial

theorem State.Inv.execDeadlineExpiry (h : s.Inv) : OutInv (execDeadlineExpiry s) := by
  unfold Machine.execDeadlineExpiry
  split
  · split
    · next v hv => exact outInv_ite (State.Inv.setPart h (h.part hv) rfl) trivial
    · trivial
  · trivial

theorem State.Inv.dropLaunches (h : s.Inv) {p : Nat} : (s.dropLaunches p).Inv := by
  unfold State.dropLaunches
  dsimp only
  split
  · exact h
  · next v hv => exact State.Inv.setPart h.setLaunches (h.part hv) rfl

theorem State.Inv.execDumpComplete (h : s.Inv) : OutInv (execDumpComplete s) := by
  unfold Machine.execDumpComplete
  split
  · next v hv =>
    split
    · refine outInv_ite ?_ trivial
      extract_lets tag t w saved u x
      have ht : t.Inv := h.halt
      have hs : saved.Inv := ht.saveTo
      have hu : u.Inv := hs.setFresh
      have hw : (u.setPart u.unit w).Inv := State.Inv.setPart hu (h.part hv) rfl
      have hx : x.Inv := hw.logFaultAt
      exact hx.postEvent.dropLaunches
    · trivial
  · trivial

-- Faults

theorem State.Inv.discardCores (h : s.Inv) {p : Nat} : (s.discardCores p).Inv := h

theorem State.Inv.discardRegions (h : s.Inv) {p : Nat} : (s.discardRegions p).Inv := h

theorem State.Inv.discardUnits (h : s.Inv) {p : Nat} : (s.discardUnits p).Inv := h

theorem State.Inv.discardExperts (h : s.Inv) {p : Nat} : (s.discardExperts p).Inv :=
  h.foldl fun _ _ ht => ht.setExpert

theorem State.Inv.discardPart (h : s.Inv) {p : Nat} : (s.discardPart p).Inv := by
  unfold State.discardPart
  extract_lets t u
  have hu : u.Inv := h.discardRegions.dropRowReqs.dropLaunches.discardUnits.discardExperts.discardCores
  split
  · next v hv => exact State.Inv.setPart hu (hu.part hv) rfl
  · exact hu

theorem State.Inv.faultPart (h : s.Inv) {p cls unit loc addr : Nat} : (s.faultPart p cls unit loc addr).Inv := by
  unfold State.faultPart
  split
  · exact h
  · next v hv =>
    refine State.Inv.discardPart (State.Inv.postEvent (State.Inv.logFault (State.Inv.setPart h (h.part hv) ?_)))
    rfl

theorem State.Inv.execFaultDetected (h : s.Inv) {p : Fin 16} {unit : BitVec 8} {loc : BitVec 32} {addr : BitVec 64} :
    OutInv (execFaultDetected p unit loc addr s) := outInv_ite h.faultPart trivial

theorem State.Inv.execFaultMasked (h : s.Inv) {p : Fin 16} {unit : BitVec 8} {loc : BitVec 32} {addr : BitVec 64} :
    OutInv (execFaultMasked p unit loc addr s) := by
  unfold Machine.execFaultMasked
  split
  · trivial
  · exact h.logFault

theorem State.Inv.execSharedUnitFault (h : s.Inv) {parts : BitVec 16} {unit : BitVec 8} {loc : BitVec 32}
    {addr : BitVec 64} : OutInv (execSharedUnitFault parts unit loc addr s) := by
  unfold Machine.execSharedUnitFault
  split
  · trivial
  · exact State.Inv.next (h.foldl fun _ _ ht => ht.faultPart)

/-- No partials are partials of R221. -/
theorem Mem.partialsOk_init (cs : List Host.Cell) : ({ Mem.init with home := cs } : Mem).PartialsOk :=
  ⟨nofun, List.nodup_nil, nofun⟩

theorem Mem.Ok.afterReset {m : Mem} (h : m.Ok) : ({ Mem.init with home := m.home } : Mem).Ok :=
  ⟨⟨h.1.1, rfl⟩, Mem.partialsOk_init _⟩

theorem State.Inv.afterReset (h : s.Inv) {slot : Option Nat} : (s.afterReset slot).Inv := by
  obtain ⟨hm, hp⟩ := h.mem.afterReset
  exact ⟨hm, hp, rfl, nofun⟩

theorem State.Inv.faultAll (h : s.Inv) {unit : Nat} : (s.faultAll unit).Inv := h.foldl fun _ _ ht => ht.faultPart

theorem State.Inv.resetAround (h : s.Inv) {slot : Nat} : (s.resetAround slot).Inv := by
  obtain ⟨hm, hp⟩ := (h.mem.recallAll fun _ => true).afterReset
  exact ⟨hm, hp, rfl, h.2.2.2⟩

/-- The flash log changes. -/
theorem State.Inv.setFlash (h : s.Inv) {l : List (List Byte)} :
    ({ s with pkg := { s.pkg with flash := l } } : State).Inv := h

theorem State.Inv.execManagementCoreFault (h : s.Inv) : OutInv (execManagementCoreFault s) := by
  refine State.Inv.next ?_
  split
  · exact h.faultAll.setFlash.resetAround.rewriteFields
  · exact h.faultAll.setFlash.afterReset

theorem State.Inv.execThermalAlarm (h : s.Inv) : OutInv (execThermalAlarm s) := outInv_ite h trivial

/-- The dies lose their power. -/
theorem State.Inv.setPoweredDown (h : s.Inv) {b : Bool} :
    ({ s with pkg := { s.pkg with poweredDown := b } } : State).Inv := h

theorem State.Inv.execThermalShutdown (h : s.Inv) : OutInv (execThermalShutdown s) := by
  refine outInv_ite ?_ trivial
  dsimp only
  exact h.pick.faultAll.setPoweredDown

end

end Sys2Proof.Machine

namespace Sys2Proof.Machine

/-! Ownership, remote memory access, work queues and the configuration of partitions. -/

section
variable {s : State}

-- Ownership

/-- The owner changes. -/
theorem State.Inv.setOwner (h : s.Inv) {o : Owner} : ({ s with pkg := { s.pkg with owner := o } } : State).Inv := h

theorem State.Inv.changeOwner (h : s.Inv) {key : List Byte} {lease : Option Nat} : (s.changeOwner key lease).Inv := by
  refine State.Inv.rewriteFields ?_
  exact h

theorem State.Inv.claim (h : s.Inv) {r : List Byte} : (s.claim r).Inv := State.inv_ite h.changeOwner h

theorem State.Inv.handover (h : s.Inv) {r : List Byte} : (s.handover r).Inv := State.inv_ite h.changeOwner h

theorem State.Inv.heartbeat (h : s.Inv) {r : List Byte} : (s.heartbeat r).Inv := State.inv_ite h.setOwner h

theorem State.Inv.execClaim (h : s.Inv) {r : List Byte} : OutInv (execClaim r s) := outInv_ite trivial h.claim

theorem State.Inv.execHandover (h : s.Inv) {r : List Byte} : OutInv (execHandover r s) := outInv_ite trivial h.handover

theorem State.Inv.execHeartbeat (h : s.Inv) {r : List Byte} : OutInv (execHeartbeat r s) :=
  outInv_ite trivial h.heartbeat

theorem State.Inv.execLeaseLapse (h : s.Inv) : OutInv (execLeaseLapse s) := outInv_ite h.changeOwner trivial

theorem State.Inv.takeRequest (h : s.Inv) {r : List Byte} : (s.takeRequest r).Inv := by
  unfold State.takeRequest
  split
  · exact h.claim
  · exact h.handover
  · exact h.heartbeat
  · exact h

theorem State.Inv.execAttestationRequest (h : s.Inv) {challenge : List Byte} :
    OutInv (execAttestationRequest challenge s) := outInv_ite trivial h

-- Remote memory access

theorem State.Inv.answerHost (h : s.Inv) {a : Option (List Byte)} : (s.answerHost a).Inv := h

/-- The images change. -/
theorem State.Inv.setImages (h : s.Inv) {l : List Image} :
    ({ s with pkg := { s.pkg with images := l } } : State).Inv := h

theorem State.Inv.execRmaWrite (h : s.Inv) {host : HostKind} {addr : BitVec 64} {bytes : List Byte} :
    OutInv (execRmaWrite host addr bytes s) := by
  refine outInv_ite trivial (outInv_ite h.answerHost ?_)
  split
  · exact h.setImages.answerHost
  · refine outInv_ite ?_ h.writePhys.asHost.answerHost
    exact State.inv_ite h.writeWindow.answerHost.takeRequest h.writeWindow.answerHost

theorem State.Inv.execRmaRead (h : s.Inv) {host : HostKind} {addr : BitVec 64} {len : Nat} :
    OutInv (execRmaRead host addr len s) :=
  outInv_ite trivial (outInv_ite h.answerHost (outInv_ite h.answerHost.setFresh h.readHome.answerHost))

theorem State.Inv.execRmaAtomic (h : s.Inv) {host : HostKind} {addr : BitVec 64} {op : AmoOp} {wide : Bool}
    {v : BitVec 64} : OutInv (execRmaAtomic host addr op wide v s) := by
  refine outInv_ite trivial (outInv_ite h.answerHost (outInv_ite h.writeWindow.answerHost ?_))
  exact (h.setMem ((h.mem.prepare _ _).writeAt _ _ _)).asHost.answerHost

-- Work queues

theorem State.Inv.setQueue (h : s.Inv) {q : Nat} {v : WorkQueue} : (s.setQueue q v).Inv := h

theorem State.Inv.qRead (h : s.Inv) {own : Option Nat} {a n : Nat} : (s.qRead own a n).1.Inv := by
  cases own with
  | none => exact h
  | some p => exact h.readHome

theorem State.Inv.qWrite (h : s.Inv) {own : Option Nat} {a : Nat} {bs : List Byte} : (s.qWrite own a bs).Inv := by
  cases own with
  | none => exact h.writeWindow
  | some p => exact h.writePhys

theorem State.Inv.execWorkQueueTail (h : s.Inv) : OutInv (execWorkQueueTail s) := by
  unfold Machine.execWorkQueueTail
  dsimp only
  split
  · trivial
  · refine outInv_ite trivial (State.Inv.next ?_)
    split
    · exact h.qRead.qRead.qWrite.setQueue.pushRecord
    · exact h.qRead.qRead.qWrite.setQueue

/-- An entry that is performed keeps the invariant where its effect does. -/
theorem State.Inv.perform (h : s.Inv) {type : Nat} {name : String} {f : State → Nat → Nat → Nat → List Byte → Out}
    (hf : ∀ t q n p e, t.Inv → OutInv (f t q n p e)) : OutInv (s.perform type name f) := by
  unfold State.perform
  dsimp only
  split
  · exact outInv_ite trivial (outInv_ite h.setQueue.pushRecord (hf _ _ _ _ _ h.setQueue))
  · trivial

theorem State.Inv.entryDone (h : s.Inv) {q n result : Nat} : (s.entryDone q n result).Inv := h

theorem State.Inv.entryBad (h : s.Inv) {q n code : Nat} : (s.entryBad q n code).Inv := h

theorem State.Inv.entryFailed (h : s.Inv) {q n : Nat} {result : Word} : (s.entryFailed q n result).Inv := h

theorem State.Inv.execLaunch (h : s.Inv) : OutInv (execLaunch s) := h.perform fun _ _ _ _ _ ht => ht.submitLaunch

theorem State.Inv.execCopyEntry (h : s.Inv) : OutInv (execCopyEntry s) :=
  h.perform fun _ _ _ _ _ ht => outInv_ite ht.entryBad ht.setFired

theorem State.Inv.readVirt (h : s.Inv) {p : Nat} {a : Word} {n : Nat} :
    IfSome (fun r => r.1.Inv) (s.readVirt p a n) := by
  refine List.foldlRecOn (motive := IfSome fun r : State × List Byte => r.1.Inv) _ _ h fun acc hacc x _ => ?_
  exact hacc.bind fun t ht => ifSome_bind fun g => ifSome_ite trivial ht.readHome

theorem State.Inv.hostWeave (h : s.Inv) {p : Nat} {a : Word} : IfSome (fun r => r.1.Inv) (s.hostWeave p a) := by
  refine ifSome_ite trivial (h.readVirt.bind fun r hr => ?_)
  split
  · exact hr
  · exact hr.readVirt.map fun _ hb => hb

theorem State.Inv.execWeave (h : s.Inv) : OutInv (execWeave s) := by
  refine h.perform fun t q n p e ht => ?_
  split
  · exact ht.entryBad
  · next heq => exact State.Inv.entryFailed (ht.hostWeave.of_eq heq)
  · next u w heq =>
    have hu : u.Inv := ht.hostWeave.of_eq heq
    split
    · exact hu.entryFailed
    · next heq => exact (hu.openConv.of_eq heq).entryDone

theorem State.Inv.execXregEntry (h : s.Inv) : OutInv (execXregEntry s) := by
  unfold Machine.execXregEntry
  split
  · refine outInv_ite trivial (h.perform fun t q n p e ht => ?_)
    have hr : ∀ a, IfSome (fun r => r.1.Inv) (if aligned a 64 then t.readVirt p a 512 else none) :=
      fun _ => ifSome_ite ht.readVirt trivial
    dsimp only
    split
    · exact ht.entryBad
    · next u r heq =>
      have hu : u.Inv := (hr _).of_eq heq
      exact (State.inv_ite hu.register.entryDone hu.register.entryFailed).next
  · trivial

theorem State.Inv.execPreempt (h : s.Inv) : OutInv (execPreempt s) :=
  h.perform fun _ _ _ _ _ ht => outInv_ite ht.preempt.entryDone.next ht.entryBad.next

theorem State.Inv.execResumeEntry (h : s.Inv) : OutInv (execResumeEntry s) :=
  h.perform fun _ _ _ _ _ ht => outInv_ite ht.resume.entryDone.next ht.entryBad.next

/-- What is left of a table after a removal was there before. -/
theorem Map.mem_of_mem_del {α β : Type} [DecidableEq α] {m : Map α β} {a : α} {p : α × β} (h : p ∈ Map.del m a) :
    p ∈ m := List.mem_of_mem_filter h

theorem State.Inv.unconfigure (h : s.Inv) {p : Nat} {v : Part} : (s.unconfigure p v).Inv := by
  obtain ⟨hm, hr⟩ := h.mem.recallAll fun q => s.clIn p q.cl
  exact ⟨hm, hr, h.2.2.1, fun q hq => h.2.2.2 q (Map.mem_of_mem_del hq)⟩

theorem State.Inv.execReset (h : s.Inv) : OutInv (execReset s) := by
  refine h.perform fun t q n p e ht => ?_
  dsimp only
  split
  · exact ht.entryBad
  · exact ht.discardPart.unconfigure.entryDone

-- Configuration

theorem State.Inv.assign (h : s.Inv) {p : Nat} {c : ClusterId} : (s.assign p c).Inv :=
  (h.foldl fun _ _ ht => ht.zeroBank).setCl

theorem State.Inv.assignVec (h : s.Inv) {v : Word} {c : ClusterId} : (s.assignVec v c).Inv :=
  h.foldl fun _ _ ht => ht.setCore

theorem State.Inv.restartExperts (h : s.Inv) {p : Nat} : (s.restartExperts p).Inv :=
  h.foldl fun _ _ ht => State.inv_ite ht.startReplica ht

/-- A partition is added that has no compressed page. -/
theorem State.Inv.addPart (h : s.Inv) {p : Nat} {v : Part} (hv : v.packed = []) : (s.setPart p v).Inv := by
  have hp : v.PackedOk := by
    intro k hk
    rw [hv] at hk
    cases hk
  exact State.Inv.setPart h hp rfl

theorem State.Inv.configure (h : s.Inv) {p : Nat} {c : PartCfg} : (s.configure p c).Inv := by
  unfold State.configure
  extract_lets old v t u pkg init w
  have ht : t.Inv := State.Inv.addPart h rfl
  have hu : u.Inv := ht.foldl fun _ _ hx => hx.assign.assignVec
  have hw : w.Inv := hu
  exact hw.writePhys.restartExperts

theorem State.Inv.execPartcfg (h : s.Inv) : OutInv (execPartcfg s) := by
  refine h.perform fun t q n _ e ht => outInv_ite ht.entryBad (outInv_ite ht.readHome.entryBad (State.Inv.next ?_))
  exact State.inv_ite ht.readHome.readHome.entryBad (State.inv_ite ht.readHome.readHome.entryBad
    (State.inv_ite ht.readHome.readHome.entryBad (State.inv_ite ht.readHome.readHome.entryBad
      ht.readHome.readHome.configure.entryDone)))

theorem State.Inv.tableEntry (h : s.Inv) {q n a count limit size : Nat} {ok : List Byte → Bool}
    {f : State → List (List Byte) → State} (hf : ∀ t rs, t.Inv → (f t rs).Inv) :
    OutInv (s.tableEntry q n a count limit size ok f) :=
  outInv_ite h.entryBad (outInv_ite h.entryBad
    (State.inv_ite (hf _ _ h.readHome).entryDone h.readHome.entryBad).next)

theorem State.Inv.execPeers (h : s.Inv) : OutInv (execPeers s) :=
  h.perform fun _ _ _ _ _ ht => ht.tableEntry fun _ _ hu => hu

theorem State.Inv.execNames (h : s.Inv) : OutInv (execNames s) :=
  h.perform fun _ _ _ _ _ ht => ht.tableEntry fun _ _ hu => hu

theorem State.Inv.execCompletionRecordPost (h : s.Inv) : OutInv (execCompletionRecordPost s) := by
  unfold Machine.execCompletionRecordPost
  dsimp only
  split
  · exact outInv_ite trivial h.qRead.qWrite.qWrite.setQueue
  · trivial

end

end Sys2Proof.Machine

namespace Sys2Proof.Machine

/-! Migration of pages, the routing engine. -/

section
variable {s : State}

-- Moving pages

theorem State.Inv.execMgjob (h : s.Inv) {d a : XReg} {la : LaCount} : OutInv (execMgjob d a la s) := h.run h.submit

theorem State.Inv.chooseRun (h : s.Inv) {rs : List (Nat × Nat)} {n : Nat} :
    IfSome (fun r => r.2.Inv) (s.chooseRun rs n) :=
  ifSome_ite trivial h.pick

theorem State.Inv.chooseUnits (h : s.Inv) {n : Nat} {rs : List (Nat × Nat)} : (s.chooseUnits n rs).1.Inv := by
  induction n generalizing s rs with
  | zero => exact h
  | succ n ih => exact ih h.pick

theorem State.Inv.newHandle (h : s.Inv) {size : Nat} : (s.newHandle size).2.Inv := h

/-- A new place is found without a change of the compressed pages. -/
theorem State.Inv.newPlace (h : s.Inv) {v : Part} (hv : v.PackedOk) {op slots : Nat} {p : Page} :
    IfSome (fun r => r.2.1.PackedOk ∧ r.2.2.Inv) (s.newPlace v op slots p) := by
  unfold State.newPlace
  refine ifSome_ite (h.chooseRun.map fun _ ha => ⟨hv, ha⟩) (ifSome_ite (ifSome_ite trivial ?_) ?_)
  · have hu : ((s.chooseUnits slots v.slots).1.newHandle p.size).2.Inv := h.chooseUnits.newHandle
    exact ⟨hv, hu⟩
  · exact h.chooseRun.map fun _ ha => ⟨hv, ha⟩

/-- The old place of a page is freed: no compressed page is added. -/
theorem Part.PackedOk.freePage {v : Part} (h : v.PackedOk) (p : Page) : (v.freePage p).PackedOk := by
  unfold Part.freePage
  dsimp only
  split
  · exact h
  · exact h
  · exact fun k hk => h k (List.mem_of_mem_filter hk)

/-- The contents of a compressed page are in canonical form. -/
theorem Part.PackedOk.cells {v : Part} (h : v.PackedOk) (p : Page) :
    cellsWf (((v.packedPage p).map Packed.cells).getD []) = true := by
  cases hk : v.packedPage p with
  | none => rfl
  | some k => exact h k (List.mem_of_find?_eq_some hk)

theorem Part.PackedOk.add {v : Part} (h : v.PackedOk) {k : Packed} (hk : cellsWf k.cells = true) :
    ({ v with packed := v.packed ++ [k] } : Part).PackedOk := by
  intro q hq
  rcases List.mem_append.1 hq with hq | hq
  · exact h q hq
  · obtain rfl := List.mem_singleton.1 hq
    exact hk

theorem Mem.Ok.moveKnown {m : Mem} (h : m.Ok) (old new n : Nat) : (m.moveKnown old new n).Ok := h

/-- A page moves with its contents, which are in canonical form at its old place. -/
theorem State.Inv.movePage (h : s.Inv) {part : Nat} {v : Part} (hv : v.PackedOk) {p : Page} {pte : Nat} {n : NewPlace} :
    (s.movePage part v p pte n).Inv := by
  unfold State.movePage
  extract_lets old cells₀ m₀ cells v₀ w flushed m₁ m₂ m₃
  have hm₀ : m₀.Ok := by
    dsimp only [m₀]
    split
    · exact h.mem
    · exact h.mem.flushRange _ _
  have hc : cellsWf cells = true := by
    dsimp only [cells, cells₀, State.pageCells]
    split
    · exact hv.cells p
    · exact cellsCut_wf _ _ _ hm₀.1.1
  have hw : w.PackedOk := by
    dsimp only [w]
    split
    · exact (hv.freePage p).add hc
    · exact hv.freePage p
  have hm₁ : m₁.Ok := by
    dsimp only [m₁]
    split
    · exact hm₀
    · have hf := hm₀.flushRange n.pa p.size
      exact hf.setHome (cellsPaste_wf _ _ _ _ hf.1.1 hc)
  have hs : ({ s with mem := m₃ } : State).Inv := h.setMem ((hm₁.moveKnown _ _ _).write _ _)
  exact State.Inv.setPart hs hw rfl

theorem State.Inv.requestMoves (h : s.Inv) {j : JobSt} {write : Bool} {ls : List Nat} :
    (s.requestMoves j write ls).Inv :=
  h.foldl fun _ _ ht => ht.dueCycle.enterReq

theorem State.Inv.noteMove (h : s.Inv) {ag : Agent} {p : Page} {n : NewPlace} : (s.noteMove ag p n).Inv :=
  State.inv_ite (h.setMem ((h.mem.log _).log _)) h

theorem State.Inv.pageDone (h : s.Inv) {r : JobRef} {j : JobSt} {size : Nat} {moved : Bool} :
    (s.pageDone r j size moved).Inv := State.inv_ite h.setJob h.endJob

theorem State.Inv.execMigrationPage (h : s.Inv) {r : JobRef} {slots : Nat} : OutInv (execMigrationPage r slots s) := by
  unfold Machine.execMigrationPage
  split
  · trivial
  · refine outInv_ite trivial ?_
    dsimp only
    split
    · next v p path hv _ =>
      refine outInv_ite h.noteRange.tagBelow.pageDone.next ?_
      split
      · exact h.noteRange.tagBelow.pageDone
      · next n w t heq =>
        obtain ⟨hw, ht⟩ := (h.noteRange.tagBelow.newPlace (h.part hv)).of_eq heq
        refine outInv_ite trivial (outInv_ite h.noteRange.tagBelow.endJob ?_)
        exact (ht.movePage hw).noteMove.requestMoves.requestMoves.tagBelow.pageDone
    · exact h.endJob

theorem State.Inv.startMigration (h : s.Inv) {r : JobRef} {op : Nat} {name : String} :
    OutInv (s.startMigration r op name) := by
  unfold State.startMigration
  split
  · trivial
  · exact outInv_ite h.pick.setJob.next trivial

-- Routing

theorem State.Inv.setDie (h : s.Inv) {n : Nat} {d : Die} : (s.setDie n d).Inv := h

theorem State.Inv.execShpset (h : s.Inv) {d a : XReg} {entry : Fin 64} : OutInv (execShpset d a entry s) :=
  h.run (Res.inv_ite h (h.loadRecord.res h fun _ hr =>
    Res.inv_ite hr.wx (Res.inv_ite hr.wx (State.Inv.done hr.setDie.wx))))

theorem State.Inv.execRtjob (h : s.Inv) {d a : XReg} {la : LaCount} : OutInv (execRtjob d a la s) := h.run h.submit

theorem State.Inv.execRoutingJob (h : s.Inv) {r : JobRef} : OutInv (execRoutingJob r s) := by
  unfold Machine.execRoutingJob
  split
  · trivial
  · refine outInv_ite trivial (outInv_ite h.setJob.next ?_)
    split
    · exact h.endJob
    · have hp : ∀ k ws, (s.putAll r k ws).1.Inv := fun _ _ => h.putAll
      dsimp only
      split
      · trivial
      · next heq => exact ((hp _ _).of_pair heq).endJob
      · next heq => exact ((hp _ _).of_pair heq).setJob

theorem State.Inv.scores (h : s.Inv) {r : JobRef} {j : JobSt} {shape : Shape} {t k e : Nat} :
    (s.scores r j shape t k e).Holds fun v => v.1.Inv := by
  induction k generalizing s e with
  | zero => exact h
  | succ k ih => exact h.getBits.bind fun _ hv => (ih hv).bind fun _ hw => hw

theorem State.Inv.execRoutingToken (h : s.Inv) {r : JobRef} : OutInv (execRoutingToken r s) := by
  unfold Machine.execRoutingToken
  split
  · trivial
  · split
    · trivial
    · refine outInv_ite trivial (h.scores.out h fun v hv => ?_)
      have hp : ∀ k ws, (v.1.putAll r k ws).1.Inv := fun _ _ => hv.putAll
      dsimp only
      split
      · next heq => exact ((hp _ _).of_pair heq).endJob
      · exact h
      · next heq => exact State.inv_ite ((hp _ _).of_pair heq).setJob ((hp _ _).of_pair heq).endJob

end

end Sys2Proof.Machine

namespace Sys2Proof.Machine

/-! Every instruction and event, the turns of the machine, and the step. -/

section
variable {s : State}

-- Loads, stores, long latencies

theorem State.Inv.execLd (h : s.Inv) {d : XReg} {m : MemOp} {sz : Fin 4} {sx : Bool} {ord : MemOrd} {sc : Scope}
    {la : LaCount} : OutInv (execLd d m sz sx ord sc la s) :=
  h.run (Res.inv_ite h (Res.inv_ite h.loadInto (h.res fun _ => h.acquire.noteAccess.load.endRegion.longResult)))

theorem State.Inv.execSt (h : s.Inv) {src : XReg} {m : MemOp} {sz : Fin 4} {ord : MemOrd} {sc : Scope} :
    OutInv (execSt src m sz ord sc s) :=
  h.run (Res.inv_ite h (h.res fun _ =>
    (State.inv_ite h.noteAccess.store h.noteAccess.store.endRegion).done))

theorem State.Inv.execLdc (h : s.Inv) {d : XReg} {m : MemOp} {sz : Fin 4} {sx : Bool} {la : LaCount} :
    OutInv (execLdc d m sz sx la s) := h.run (Res.inv_ite h h.loadInto)

theorem State.Inv.execLongLatencyComplete (h : s.Inv) {c : CtxId} : OutInv (execLongLatencyComplete c s) :=
  outInv_ite h.setCtx trivial

theorem State.Inv.execTrap (h : s.Inv) {imm : BitVec 30} : OutInv (execTrap imm s) := by
  unfold Machine.execTrap
  exact h.run trivial

theorem State.Inv.execBrk (h : s.Inv) {imm : BitVec 30} : OutInv (execBrk imm s) := by
  unfold Machine.execBrk
  exact h.run trivial

-- Vector accesses: the base address is computed first

theorem State.Inv.execVld (h : s.Inv) {t : VTy} {rnd : Rnd} {d : VReg} {a : XReg} {off : BitVec 32} {m : XReg}
    {la : LaCount} : OutInv (execVld t rnd d a off m la s) := by
  dsimp only [Machine.execVld]
  exact h.vecMem

theorem State.Inv.execVst (h : s.Inv) {t : VTy} {rnd : Rnd} {src : VReg} {a : XReg} {off : BitVec 32}
    {m : XReg} : OutInv (execVst t rnd src a off m s) := by
  dsimp only [Machine.execVst]
  exact h.vecMem

theorem State.Inv.execVlds (h : s.Inv) {t : VTy} {rnd : Rnd} {d : VReg} {a b : XReg} {off : BitVec 32} {m : XReg}
    {la : LaCount} : OutInv (execVlds t rnd d a b off m la s) := by
  dsimp only [Machine.execVlds]
  exact h.vecMem

theorem State.Inv.execVsts (h : s.Inv) {t : VTy} {rnd : Rnd} {src : VReg} {a b : XReg} {off : BitVec 32}
    {m : XReg} : OutInv (execVsts t rnd src a b off m s) := by
  dsimp only [Machine.execVsts]
  exact h.vecMem

theorem State.Inv.execVgath (h : s.Inv) {t : VTy} {rnd : Rnd} {d : VReg} {a : XReg} {b : VReg} {scale : Fin 4}
    {off : BitVec 32} {m : XReg} {la : LaCount} : OutInv (execVgath t rnd d a b scale off m la s) := by
  dsimp only [Machine.execVgath]
  exact h.vecMem

theorem State.Inv.execVscat (h : s.Inv) {t : VTy} {rnd : Rnd} {src : VReg} {a : XReg} {b : VReg} {scale : Fin 4}
    {off : BitVec 32} {m : XReg} : OutInv (execVscat t rnd src a b scale off m s) := by
  dsimp only [Machine.execVscat]
  exact h.vecMem

-- Every instruction and every event

/-- Whatever an instruction or an event does, it keeps the invariant. -/
theorem State.Inv.exec (h : s.Inv) (i : Instr) : OutInv (exec i s) := by
  cases i with dsimp only [Machine.exec]
  | pad32 => exact h
  | nop => exact h.run h
  | rett => exact h.execRett
  | fence => exact h.execFence
  | exit => exact h.execExit
  | trap => exact h.execTrap
  | brk => exact h.execBrk
  | sysrd => exact h.run h
  | syswr => exact h.execSyswr
  | clflagsWrite => exact h.run h
  | sleep => exact h.execSleep
  | sleepExpiry => exact h.execSleepExpiry
  | add | sub | mul | mulh | mulhz | div | divz | rem | remz | and | or | xor | andn | shl | shr | sha | rot
  | slt | sltz | seq | min | max | minz | maxz => exact h.int2
  | popc | clz | ctz | bfx => exact h.int1
  | bfi => exact h.int2
  | brev => exact h.int1
  | sel | rankx => exact h.run h
  | addi | andi | ori | xori | shli | shri | shai => exact h.int1
  | li | addpc | li64 | mesha => exact h.run h
  | bcc | bmask => exact h.run (Res.inv_ite h h)
  | jal | jalr => exact h.run h.jumpLink
  | ld => exact h.execLd
  | st => exact h.execSt
  | ldc => exact h.execLdc
  | pfl => exact h.run h.prefetch
  | longLatencyComplete => exact h.execLongLatencyComplete
  | start => exact h.execStart
  | startW => exact h.execStartW
  | joinh => exact h.execJoinh
  | hstat => exact h.run h
  | ldf | ldff => exact h.run h.feLoad
  | ste => exact h.execSte
  | stf => exact h.execStf
  | festat => exact h.execFestat
  | feset => exact h.execFeset
  | barinitInit => exact h.execBarinitInit
  | barinitBind => exact h.execBarinitBind
  | bararr => exact h.execBararr
  | barexp => exact h.execBarexp
  | barwait => exact h.execBarwait
  | waitany => exact h.execWaitany
  | bartest => exact h.execBartest
  | msend => exact h.execMsend
  | sendBufferRetry => exact h.execSendBufferRetry
  | mailboxDelivery => exact h.execMailboxDelivery
  | mrecv => exact h.execMrecv
  | msends => exact h.execMsends
  | streamChunkArrival => exact h.execStreamChunkArrival
  | endOfStream => exact h.execEndOfStream
  | mbind => exact h.execMbind
  | munbind => exact h.run h
  | cvopen => exact h.execCvopen
  | cvjoin => exact h.execCvjoin
  | cvsend | cvchoose => exact h.run h.cvSend
  | convHeldDelivery => exact h.execConvHeldDelivery
  | cvdeleg => exact h.execCvdeleg
  | cvleave => exact h.execCvleave
  | cvstat => exact h.run h
  | fadd | fsub | fmul | ffma | fdiv | fsqrt | fmin | fmax => exact h.run h.fput
  | fcmp => exact h.run h.raise.wx
  | fcvt => exact h.run (State.inv_ite h.fput h.raise.wx).done
  | fclass | fsgn | fmvx | fmvf => exact h.run h
  | vadd | vsub | vmul | vfma | vmin | vmax | vcmp | vsel | vand | vor | vxor | vshl | vshr | vcvt | vqnt | vdq
  | vred | vscan | vsf | vperm | vbcast | vins | vext => exact h.vec
  | vld => exact h.execVld
  | vst => exact h.execVst
  | vlds => exact h.execVlds
  | vsts => exact h.execVsts
  | vgath => exact h.execVgath
  | vscat => exact h.execVscat
  | vectorCommandComplete => exact h.execVectorCommandComplete
  | vfence => exact h.run (Res.inv_ite h h)
  | vstat => exact h.run h
  | scfgMem | scfgMsg => exact h.run (Res.inv_ite h h.startStream)
  | memoryStreamRead => exact h.execMemoryStreamRead
  | srep => exact h.execSrep
  | sstop => exact h.run (Res.inv_ite h h.stopStream)
  | amo | cas => exact h.run h.atomic
  | red => exact h.execRed
  | redx => exact h.execRedx
  | cvtexa => exact h.execCvtexa
  | bankcfg => exact h.execBankcfg
  | bankZeroingDone => exact h.execBankZeroingDone
  | cinv => exact h.run h.cinv
  | cinvAll => exact h.run h
  | disc => exact h.execDisc
  | cacheFill => exact h.execCacheFill
  | pageWalk => exact h.execPageWalk
  | cpjob => exact h.execCpjob
  | mxjob => exact h.execMxjob
  | rtjob => exact h.execRtjob
  | drjob => exact h.execDrjob
  | mgjob => exact h.execMgjob
  | jwait => exact h.execJwait
  | jpoll => exact h.execJpoll
  | jcancel => exact h.execJcancel
  | copy | gather | scatter | fill => exact h.startCopy
  | copyChunkDelivery => exact h.execCopyChunkDelivery
  | routingJob => exact h.execRoutingJob
  | routingToken => exact h.execRoutingToken
  | rcopy | rfill0 | rfill1 | rnot | rand | ror | rxor | rmaj => exact h.startDram
  | dramRow => exact h.execDramRow
  | demote | promote | expand => exact h.startMigration
  | migrationPage => exact h.execMigrationPage
  | jobComplete => exact h.execJobComplete
  | shpset => exact h.execShpset
  | jtake => exact h.execJtake
  | jdone => exact h.execJdone
  | mlda => exact h.execMlda
  | mldb => exact h.execMldb
  | mzero => exact h.execMzero
  | mma => exact h.execMma
  | msta => exact h.execMsta
  | semv => exact h.execSemv
  | semp => exact h.execSemp
  | mprogRd => exact h.execMprogRd
  | mprogWr => exact h.execMprogWr
  | ctrset => exact h.execCtrset
  | ctradd => exact h.execCtradd
  | ctrwait => exact h.execCtrwait
  | qppost => exact h.execQppost
  | qpcancel => exact h.execQpcancel
  | xreg => exact h.execXreg
  | xpol => exact h.execXpol
  | xresv => exact h.execXresv
  | xrel => exact h.execXrel
  | xsend => exact h.execXsend
  | xsendr => exact h.execXsendr
  | xbatchFwd => exact h.execXbatchFwd
  | xbatchBwd => exact h.execXbatchBwd
  | xbatchReload => exact h.execXbatchReload
  | weightReloadDone => exact h.execWeightReloadDone
  | xseal => exact h.execXseal
  | xjoin => exact h.execXjoin
  | xstep => exact h.execXstep
  | xstat => exact h.execXstat
  | xspawn => exact h.execXspawn
  | xretire => exact h.execXretire
  | replicaPublish => exact h.execReplicaPublish
  | snapshotArrival => exact h.execSnapshotArrival
  | remoteExpertOp => exact h.execRemoteExpertOp
  | pnrule => exact h.execPnrule
  | pnsend => exact h.execPnsend
  | pnstep => exact h.execPnstep
  | pnstat => exact h.execPnstat
  | pnRuleChunk => exact h.execPnRuleChunk
  | pnBlockDone => exact h.execPnBlockDone
  | preq => exact h.execPreq
  | preqCtr => exact h.execPreqCtr
  | resume => exact h.execResume
  | resumeCtr => exact h.execResumeCtr
  | faultDetected => exact h.execFaultDetected
  | faultMasked => exact h.execFaultMasked
  | sharedUnitFault => exact h.execSharedUnitFault
  | portLinkChange => exact h.execPortLinkChange
  | completionNodeForward => exact h.execCompletionNodeForward
  | rmaWrite => exact h.execRmaWrite
  | rmaRead => exact h.execRmaRead
  | rmaAtomic => exact h.execRmaAtomic
  | claim => exact h.execClaim
  | handover => exact h.execHandover
  | heartbeat => exact h.execHeartbeat
  | attestationRequest => exact h.execAttestationRequest
  | workQueueTail => exact h.execWorkQueueTail
  | launch => exact h.execLaunch
  | copyEntry => exact h.execCopyEntry
  | weave => exact h.execWeave
  | xregEntry => exact h.execXregEntry
  | preempt => exact h.execPreempt
  | resumeEntry => exact h.execResumeEntry
  | reset => exact h.execReset
  | partcfg => exact h.execPartcfg
  | peers => exact h.execPeers
  | names => exact h.execNames
  | completionRecordPost => exact h.execCompletionRecordPost
  | haltComplete => exact h.execHaltComplete
  | saveComplete => exact h.execSaveComplete
  | restoreComplete => exact h.execRestoreComplete
  | dumpComplete => exact h.execDumpComplete
  | thermalAlarm => exact h.execThermalAlarm
  | thermalShutdown => exact h.execThermalShutdown
  | freeCountReport => exact h.execFreeCountReport
  | homeCoreSchedule => exact h.execHomeCoreSchedule
  | dueRefresh => exact h.execDueRefresh
  | patrolScrub => exact h.execPatrolScrub
  | pnContribution => exact h.execPnContribution
  | pnCommit => exact h.execPnCommit
  | pnStepDeadline => exact h.execPnStepDeadline
  | qpSourceReadsDone => exact h.execQpSourceReadsDone
  | write | writeReduce => exact h.entryWrite
  | tokenDelivery => exact h.execTokenDelivery
  | windowBoundary => exact h.execWindowBoundary
  | deadlineExpiry => exact h.execDeadlineExpiry
  | clflagsUpdate => exact h.execClflagsUpdate
  | mstaStoresPerformed => exact h.execMstaStoresPerformed
  | matrixJobStart => exact h.execMatrixJobStart
  | dieLinkFailure => exact h.execDieLinkFailure
  | managementCoreFault => exact h.execManagementCoreFault
  | unreliablePacketDrop => exact h
  | moduleReset => exact h.afterReset
  | leaseLapse => exact h.execLeaseLapse

-- Turns

/-- The unit of an event is set. -/
theorem State.Inv.setUnit (h : s.Inv) {n : Nat} : ({ s with unit := n } : State).Inv := h

/-- The agenda changes. -/
theorem State.Inv.setAgenda (h : s.Inv) {l : List Turn} : ({ s with agenda := l } : State).Inv := h

theorem State.Inv.attempt (h : s.Inv) {c : CtxId} : OutInv (s.attempt c) := by
  unfold State.attempt
  extract_lets t x u
  have hu : u.Inv := h.switchTo.ctx
  split
  · exact hu.exec _
  · have hl := hu.loopTurn
    split
    · next heq => exact (hl.of_pair heq).enterTrap
    · next heq => exact (hl.of_pair heq).ctx
    · next heq =>
      have hf := (hl.of_pair heq).fetch
      split
      · next heq => exact (hf.of_pair heq).exec _
      · next heq => exact (hf.of_pair heq).enterTrap

theorem State.Inv.tryTurns (h : s.Inv) {k : CoreId} {ns : List Nat} : OutInv (tryTurns k ns s).1 := by
  induction ns generalizing s with
  | nil => exact h
  | cons n ns ih =>
    have ha : OutInv (s.attempt ⟨k, n⟩) := h.attempt
    unfold Machine.tryTurns
    split
    · next t heq =>
      rw [heq] at ha
      split
      · exact ih ha
      · exact ha
    · exact ha

theorem State.Inv.markIssue (h : s.Inv) {k : CoreId} : (s.markIssue k).Inv := h

theorem State.Inv.coreTurn (h : s.Inv) {k : CoreId} : OutInv (s.coreTurn k).1 := by
  have ht : OutInv (Machine.tryTurns k (s.turns k) s).1 := h.tryTurns
  unfold State.coreTurn
  split
  · exact h
  · split
    · next t heq =>
      rw [heq] at ht
      exact State.Inv.markIssue ht
    · exact ht

theorem State.Inv.event (h : s.Inv) {i : Instr} {n : Nat} : OutInv (s.event i n) :=
  outInv_ite (h.setUnit.exec i) trivial

theorem State.Inv.firstEvent (h : s.Inv) {es : List (Instr × Nat)} :
    IfSome (fun r => OutInv r.1) (s.firstEvent es) := by
  induction es with
  | nil => trivial
  | cons e es ih =>
    unfold State.firstEvent
    split
    · exact ih
    · exact h.event

theorem State.Inv.firstCore (h : s.Inv) {ks : List CoreId} : OutInv (firstCore ks s).1 := by
  induction ks generalizing s with
  | nil => exact h
  | cons k ks ih =>
    have hk : OutInv (s.coreTurn k).1 := h.coreTurn
    unfold Machine.firstCore
    split
    · next t heq =>
      rw [heq] at hk
      exact ih hk
    · exact hk

theorem State.Inv.requestsAfter (h : s.Inv) {a : Act} : (requestsAfter a s).Inv :=
  h.drainBelow.trimL2.drainBelow.trimTlbs

theorem OutInv.afterAct {o : Out} (h : OutInv o) (a : Act) : OutInv (afterAct a o) := by
  cases o with
  | next s => exact State.Inv.requestsAfter h
  | fault r => trivial
  | refused r => trivial

theorem State.Inv.peerContribution (h : s.Inv) {node part : Nat} {c : Contribution} :
    (s.peerContribution node part c).Inv := State.inv_ite h.contribute h

theorem State.Inv.peerMask (h : s.Inv) {node part first count : Nat} {m : BitVec 16} :
    (s.peerMask node part first count m).Inv := State.inv_ite h.setNode h

theorem State.Inv.fromPeer (h : s.Inv) {m : PeerMsg} : OutInv (s.fromPeer m) := by
  cases m with
  | expertOp op => exact h.event
  | contribution => exact h.peerContribution
  | joinMask => exact h.peerMask
  | answer | write | late => exact h

theorem State.Inv.act (h : s.Inv) {a : Act} : OutInv (s.act a) := by
  refine OutInv.afterAct ?_ a
  cases a with
  | core k => exact h.coreTurn
  | event i u => exact h.event
  | peer m => exact outInv_ite trivial h.fromPeer

theorem State.Inv.ownTurn (h : s.Inv) : OutInv s.ownTurn := by
  have he : IfSome (fun r => OutInv r.1) (s.firstEvent (rotate s.ownEvents (s.cycle / 2))) := h.firstEvent
  have hk : OutInv (Machine.firstCore (rotate s.liveCores (s.cycle / 2)) s).1 := h.firstCore
  unfold State.ownTurn
  dsimp only
  split
  · exact hk.afterAct _
  · next heq => exact outInv_ite (hk.afterAct _) ((he.of_eq heq).afterAct _)

theorem State.Inv.elapse (h : s.Inv) {n : Nat} : (s.elapse n).Inv := h

/-- A turn keeps the invariant: what is due comes first, then the turn of the agenda or the machine's own. -/
theorem State.Inv.nextTurn (h : s.Inv) : OutInv s.nextTurn := by
  unfold State.nextTurn
  split
  · next heq => exact (h.firstEvent.of_eq heq).afterAct _
  · split
    · dsimp only
      split
      · next heq => exact (h.elapse.firstEvent.of_eq heq).afterAct _
      · exact h.elapse.ownTurn
    · next u us _ =>
      extract_lets n t
      have ht : t.Inv := h.setAgenda.elapse
      split
      · next heq => exact (ht.firstEvent.of_eq heq).afterAct _
      · exact outInv_ite ht.setAgenda.act ht

end

/-- Settles O57: a step is a turn, and a turn keeps the invariant. -/
theorem stepKeepsMemoriesCanonical : Obligations.StepKeepsMemoriesCanonical := by
  unfold Obligations.StepKeepsMemoriesCanonical
  intro s t h ht
  have hn : OutInv (step s) := h.nextTurn
  rw [ht] at hn
  exact hn

end Sys2Proof.Machine

namespace Sys2Proof.Machine

/-! PROOFS. One context (O10, O13, O55, O56, O60).

What a reader of the memories finds (09 R221): a line reads as its home copy with its partials merged. A read merges
partials, brings lines into L2 and enters pages in the TLBs; none of that changes what any byte reads as. -/

theorem combineElems_length (n : Nat) (f : Nat → Nat → Nat) (k : Nat) (a b : List Byte) :
    (combineElems n f k a b).length = k * n := by
  induction k generalizing a b with
  | zero => simp [combineElems]
  | succ k ih => simp [combineElems, ih, Nat.succ_mul, Nat.add_comm]

theorem combineLine_length (c : RedClass) (a b : List Byte) : (combineLine c a b).length = 128 := by
  cases c with
  | int op wide => cases wide <;> exact combineElems_length ..
  | exa => exact combineElems_length ..

theorem mergedLine_length (ps : List Partial) {bs : List Byte} (h : bs.length = 128) :
    (mergedLine ps bs).length = 128 :=
  List.foldlRecOn (motive := fun b : List Byte => b.length = 128) ps _ h fun _ _ p _ => combineLine_length p.cls _ _

@[simp] theorem cellsRead_length (m : List Host.Cell) (a n : Nat) : (cellsRead m a n).length = n := by
  induction n generalizing a with
  | zero => rfl
  | succ n ih => simp [cellsRead, ih]

theorem cellsRead_getElem? (m : List Host.Cell) (a : Nat) {n i : Nat} (h : i < n) :
    (cellsRead m a n)[i]? = some (cellsGet m (a + i)) := by
  induction n generalizing a i with
  | zero => omega
  | succ n ih =>
    cases i with
    | zero => rfl
    | succ i =>
      have := ih (a + 1) (i := i) (by omega)
      simpa [cellsRead, Nat.add_assoc, Nat.add_comm 1 i] using this

/-- Two memories that agree on a range read alike there. -/
theorem cellsRead_congr {m m' : List Host.Cell} {a n : Nat}
    (h : ∀ i < n, cellsGet m (a + i) = cellsGet m' (a + i)) : cellsRead m a n = cellsRead m' a n := by
  refine List.ext_getElem? fun i => ?_
  rcases Nat.lt_or_ge i n with hi | hi
  · rw [cellsRead_getElem? m a hi, cellsRead_getElem? m' a hi, h i hi]
  · simp [hi]

/-- What a line reads as: its home copy with its partials merged (R221). -/
def Mem.merged (m : Mem) (line : Nat) : List Byte :=
  mergedLine (m.partialsOf line fun _ => true) (cellsRead m.home (128 * line) 128)

/-- A line without partials reads as its home copy. -/
theorem Mem.merged_of_none {m : Mem} {line : Nat} (h : ∀ p ∈ m.partials, p.line ≠ line) :
    m.merged line = cellsRead m.home (128 * line) 128 := by
  have hp : m.partialsOf line (fun _ => true) = [] := by
    rw [← List.length_eq_zero_iff, m.partialsOf_length, List.length_eq_zero_iff, List.filter_eq_nil_iff]
    intro p hp
    simp [h p hp]
  rw [Mem.merged, hp]
  rfl

/-- A memory holds what another does: every line reads alike, and so does every scratchpad byte; and stores have replaced
the same values. It is in canonical form. -/
structure Mem.Keeps (m n : Mem) : Prop where
  wf : n.wf
  merged : ∀ line, n.merged line = m.merged line
  sram : n.sram = m.sram
  past : n.past = m.past

theorem Mem.Keeps.refl {m : Mem} (h : m.wf) : m.Keeps m := ⟨h, fun _ => rfl, rfl, rfl⟩

theorem Mem.Keeps.trans {m n o : Mem} (h : m.Keeps n) (h' : n.Keeps o) : m.Keeps o :=
  ⟨h'.wf, fun l => (h'.merged l).trans (h.merged l), h'.sram.trans h.sram, h'.past.trans h.past⟩

/-- What a reader finds is in the homes, the partials and the scratchpads. -/
theorem Mem.Keeps.of_eq {m n o : Mem} (h : m.Keeps n) (hh : o.home = n.home) (hp : o.partials = n.partials)
    (hs : o.sram = n.sram) (ho : o.past = n.past) : m.Keeps o := by
  refine h.trans ⟨?_, fun l => ?_, hs, ho⟩
  · have := h.wf
    unfold Mem.wf at *
    rwa [hh, hs]
  · unfold Mem.merged Mem.partialsOf
    rw [hh, hp]

/-- A fold of operations that each keep what a reader finds keeps it. -/
theorem Mem.keeps_foldl {α : Type} {f : Mem → α → Mem} (hf : ∀ (n : Mem) x, n.wf → n.Keeps (f n x)) {m : Mem}
    (h : m.wf) (l : List α) : m.Keeps (l.foldl f m) :=
  List.foldlRecOn (motive := fun n => m.Keeps n) l f (.refl h) fun n hn x _ => hn.trans (hf n x hn.wf)

theorem Mem.keeps_allocate {m : Mem} (h : m.wf) (line : Nat) : m.Keeps (m.allocate line) := by
  unfold Mem.allocate
  split <;> exact (Mem.Keeps.refl h).of_eq rfl rfl rfl rfl

theorem Mem.keeps_dirtyLine {m : Mem} (h : m.wf) (line : Nat) : m.Keeps (m.dirtyLine line) :=
  (Mem.keeps_allocate h line).of_eq rfl rfl rfl rfl

/-- A flush keeps what a reader finds, if its merges do. -/
theorem Mem.keeps_flushWith {merge : Mem → Nat → Mem} (hm : ∀ (n : Mem) l, n.wf → n.Keeps (merge n l)) {m : Mem}
    (h : m.wf) (pa n : Nat) : m.Keeps (m.flushWith merge pa n) :=
  (Mem.keeps_foldl hm h _).of_eq rfl rfl rfl rfl

/-- Dropping the partials of a line leaves what every other line reads as. -/
theorem Mem.merged_drop (m : Mem) {line l : Nat} (h : l ≠ line) :
    ({ m with partials := m.partials.filter fun p => !(decide (p.line = line) && true) } : Mem).merged l = m.merged l := by
  have hf : ((m.partials.filter fun p => !(decide (p.line = line) && true)).filter fun p => decide (p.line = l) && true) =
      m.partials.filter fun p => decide (p.line = l) && true := by
    rw [List.filter_filter]
    refine List.filter_congr fun p _ => ?_
    by_cases hp : p.line = l <;> simp [hp, h]
  unfold Mem.merged Mem.partialsOf
  dsimp only
  rw [hf]

/-- The home copy of a line takes 128 bytes: it reads as them if it has no partials, and every other line as before. -/
theorem Mem.merged_setLine {m : Mem} (h : m.wf) {line : Nat} (hp : ∀ p ∈ m.partials, p.line ≠ line) {bs : List Byte}
    (hb : bs.length = 128) (l : Nat) :
    ({ m with home := cellsWrite m.home (128 * line) bs } : Mem).merged l = if l = line then bs else m.merged l := by
  split
  · next hl =>
    subst hl
    refine (Mem.merged_of_none (m := { m with home := cellsWrite m.home (128 * l) bs }) hp).trans ?_
    have := cellsRead_write_same m.home (128 * l) bs h.1
    rwa [hb] at this
  · next hl =>
    unfold Mem.merged Mem.partialsOf
    dsimp only
    congr 1
    refine cellsRead_congr fun i hi => cellsGet_write_other _ _ _ _ h.1 ?_
    omega

/-- A merge of a line keeps what a reader finds, whatever it remaps. -/
theorem Mem.keeps_recallN (k : Nat) {m : Mem} (h : m.wf) (line : Nat) :
    m.Keeps (Mem.recallN k m line fun _ => true) := by
  induction k generalizing m line with
  | zero => exact .refl h
  | succ k ih =>
    unfold Mem.recallN
    split
    · exact .refl h
    · next ps hps =>
      extract_lets m₁ pages m₂ m₃
      have hd : m₁.Keeps (m₁.dropTlbs (128 * line) 128) := (Mem.Keeps.refl (m := m₁) h).of_eq rfl rfl rfl rfl
      have hk₂ : m₁.Keeps m₂ := hd.trans
        (Mem.keeps_foldl (fun n r hn => Mem.keeps_flushWith (fun n l hn => ih hn l) hn r.1 r.2) hd.wf pages)
      have hk : m₁.Keeps m₃ := hk₂.trans (Mem.keeps_dirtyLine hk₂.wf line)
      have hnone₁ : ∀ p ∈ m₁.partials, p.line ≠ line := fun p hp => by simpa using (List.mem_filter.1 hp).2
      have hsub : m₂.partials.Sublist m₁.partials :=
        Mem.foldl_partials (fun m (r : Nat × Nat) => m.flushWith_partials (fun m l => Mem.recallN_partials k m l _) r.1 r.2)
          pages _
      have hnone : ∀ p ∈ m₃.partials, p.line ≠ line := fun p hp =>
        hnone₁ p (hsub.subset (m₂.dirtyLine_partials line ▸ hp))
      have hline : cellsRead m₃.home (128 * line) 128 = cellsRead m.home (128 * line) 128 := by
        rw [← Mem.merged_of_none hnone, hk.merged line, Mem.merged_of_none hnone₁]
      have hset := Mem.merged_setLine hk.wf hnone
        (mergedLine_length (m.partialsOf line fun _ => true) (cellsRead_length m₃.home (128 * line) 128))
      refine ⟨m₃.home_wf _ _ hk.wf, fun l => (hset l).trans ?_, hk.sram, hk.past⟩
      split
      · next hl => rw [hl, hline, Mem.merged]
      · next hl => exact (hk.merged l).trans (Mem.merged_drop m hl)

theorem Mem.keeps_recall {m : Mem} (h : m.wf) (line : Nat) : m.Keeps (m.recall line) := Mem.keeps_recallN _ h line

theorem Mem.keeps_visit {m : Mem} (h : m.wf) (line : Nat) : m.Keeps (m.visit line) :=
  (Mem.keeps_recall h line).trans (Mem.keeps_allocate (m.recall_wf line h) line)

theorem Mem.keeps_visitRange {m : Mem} (h : m.wf) (pa n : Nat) : m.Keeps (m.visitRange pa n) :=
  Mem.keeps_foldl (fun _ l hn => Mem.keeps_visit hn l) h (linesOf pa n)

theorem Mem.keeps_walked {m : Mem} (h : m.wf) (path : List WalkMark) : m.Keeps (m.walked path) :=
  (Mem.keeps_foldl (fun _ k hn => Mem.keeps_visit hn (lineOf (WalkMark.pte k))) h path).of_eq rfl rfl rfl rfl

theorem Mem.keeps_learn {m : Mem} (h : m.wf) (p : Page) : m.Keeps (m.learn p) := by
  unfold Mem.learn
  dsimp only
  split <;> exact (Mem.Keeps.refl h).of_eq rfl rfl rfl rfl

theorem Mem.keeps_fillTlbs {m : Mem} (h : m.wf) (c : ClusterId) (t : TlbEntry) : m.Keeps (m.fillTlbs c t) :=
  (Mem.Keeps.refl h).of_eq rfl rfl rfl rfl

theorem Mem.keeps_endWalk {m : Mem} (h : m.wf) (w : PageWalk) : m.Keeps (m.endWalk w) := by
  have he : m.Keeps { m with walks := m.walks.erase w } := (Mem.Keeps.refl h).of_eq rfl rfl rfl rfl
  unfold Mem.endWalk
  dsimp only
  split
  · exact he.trans (Mem.keeps_foldl (fun _ c hn => Mem.keeps_fillTlbs hn c _) he.wf w.joined)
  · exact he

theorem Mem.keeps_freeWalker {m : Mem} (h : m.wf) : m.Keeps m.freeWalker := by
  unfold Mem.freeWalker
  split
  · split
    · exact Mem.keeps_endWalk h _
    · exact .refl h
  · exact .refl h

theorem Mem.keeps_missWalk {m : Mem} (h : m.wf) (who : Option ClusterId) (part va : Nat) (w : Walk) :
    m.Keeps (m.missWalk who part va w) := by
  have hf := Mem.keeps_freeWalker h
  have hw := hf.trans (Mem.keeps_walked hf.wf w.path)
  unfold Mem.missWalk
  dsimp only
  split
  · exact (Mem.Keeps.refl h).of_eq rfl rfl rfl rfl
  · cases w with
    | fault l f path => exact hw.of_eq rfl rfl rfl rfl
    | page p path => exact (hw.trans (Mem.keeps_learn hw.wf p)).of_eq rfl rfl rfl rfl

/-- Noting the walk of an access keeps what a reader finds: it reads entries, and enters pages in the TLBs (R210). -/
theorem Mem.keeps_noteWalk {m : Mem} (h : m.wf) (who : Option ClusterId) (part va : Nat) (w : Walk) :
    m.Keeps (m.noteWalk who part va w) := by
  unfold Mem.noteWalk
  split
  · split
    · exact .refl h
    · split
      · exact Mem.keeps_fillTlbs h _ _
      · exact Mem.keeps_missWalk h ..
  · exact Mem.keeps_missWalk h ..

-- Bytes

/-- After a visit a line has no partials. -/
theorem Mem.visit_drops {m : Mem} {line : Nat} {p : Partial} (hp : p ∈ (m.visit line).partials) : p.line ≠ line := by
  have hp' : p ∈ (m.recall line).partials := by
    unfold Mem.visit Mem.allocate at hp
    split at hp <;> exact hp
  simpa using Mem.recallIf_drops hp'

theorem Mem.visit_partials (m : Mem) (line : Nat) : (m.visit line).partials.Sublist m.partials := by
  have h : (m.visit line).partials = (m.recall line).partials := by
    unfold Mem.visit Mem.allocate
    split <;> rfl
  exact h ▸ m.recallIf_partials line _

/-- After a visit of lines none of them has partials. -/
theorem Mem.visits_drop {lines : List Nat} {l : Nat} (hl : l ∈ lines) {m : Mem} {p : Partial}
    (hp : p ∈ (lines.foldl Mem.visit m).partials) : p.line ≠ l := by
  induction lines generalizing m with
  | nil => cases hl
  | cons a lines ih =>
    rcases List.mem_cons.1 hl with rfl | hl
    · exact Mem.visit_drops ((Mem.foldl_partials Mem.visit_partials lines _).subset hp)
    · exact ih hl hp

/-- The line of a byte of a range is among the range's lines. -/
theorem lineOf_mem_linesOf {pa n j : Nat} (hj : j < n) : lineOf (pa + j) ∈ linesOf pa n := by
  unfold linesOf lineOf
  rw [if_neg (by omega)]
  refine List.mem_map.2 ⟨(pa + j) / 128 - pa / 128, List.mem_range.2 ?_, ?_⟩ <;> omega

/-- A byte at its home is the byte of its line. -/
theorem cellsGet_of_line {m : List Host.Cell} {pa : Nat} {bs : List Byte} (h : cellsRead m (128 * lineOf pa) 128 = bs) :
    cellsGet m pa = bs.getD (pa % 128) 0 := by
  have hpa : 128 * lineOf pa + pa % 128 = pa := Nat.div_add_mod pa 128
  rw [← h, List.getD_eq_getElem?_getD, cellsRead_getElem? _ _ (Nat.mod_lt _ (by decide)), hpa]
  rfl

/-- After a visit of a range its homes hold what it read as. -/
theorem Mem.visitRange_get {m : Mem} (h : m.wf) {pa n j : Nat} (hj : j < n) :
    cellsGet (m.visitRange pa n).home (pa + j) = (m.merged (lineOf (pa + j))).getD ((pa + j) % 128) 0 := by
  refine cellsGet_of_line ?_
  rw [← (Mem.keeps_visitRange h pa n).merged]
  exact (Mem.merged_of_none fun p hp => Mem.visits_drop (lineOf_mem_linesOf hj) hp).symm

/-- A byte reads as its line does. -/
theorem Mem.reads_glob {m : Mem} (h : m.wf) (pa : Nat) :
    m.reads (.glob pa) = (m.merged (lineOf pa)).getD (pa % 128) 0 := by
  have hl : linesOf pa 1 = [lineOf pa] := by simp [linesOf]
  show (cellsRead ((linesOf pa 1).foldl Mem.recall m).home pa 1).headD 0 = _
  rw [hl]
  show cellsGet (m.recall (lineOf pa)).home pa = _
  refine cellsGet_of_line ?_
  rw [← (Mem.keeps_recall h (lineOf pa)).merged]
  exact (Mem.merged_of_none fun p hp => by simpa using Mem.recallIf_drops hp).symm

/-- What keeps what a reader finds keeps every byte. -/
theorem Mem.Keeps.reads {m n : Mem} (h : m.wf) (k : m.Keeps n) (p : Place) : n.reads p = m.reads p := by
  cases p with
  | glob pa => rw [Mem.reads_glob h, Mem.reads_glob k.wf, k.merged]
  | scr key => simp [Mem.reads, k.sram]

/-- A read at the homes gives what the bytes read as. -/
theorem State.readHome_getElem? {s : State} (h : s.mem.wf) (pa : Nat) {n j : Nat} (hj : j < n) :
    (s.readHome pa n).2[j]? = some (s.mem.reads (.glob (pa + j))) := by
  rw [Mem.reads_glob h, ← Mem.visitRange_get h hj]
  exact cellsRead_getElem? _ _ hj

end Sys2Proof.Machine

namespace Sys2Proof.Machine

/-! Reset (01 Table 1.1, R30, R194). -/

/-- After reset every context holds its start state. -/
theorem getCtx_reset (c : CtxId) : State.reset.getCtx c = Ctx.init := by
  unfold State.getCtx
  split <;> rfl

theorem inv_reset : State.reset.Inv :=
  ⟨Mem.init_wf, ⟨nofun, List.nodup_nil, nofun⟩, rfl, nofun⟩

theorem initModes_get (b : Fin 16) :
    initModes.get b = if b.val < 8 then .cache else if b.val < 15 then .scratch else .fifo :=
  Vector.getElem_ofFn b.isLt

theorem Ctx.init_rx (r : XReg) : Ctx.init.rx r = 0 := by
  unfold Ctx.rx
  split
  · rfl
  · exact Vector.getElem_replicate r.isLt

/-- Settles O56: every table of the reset state is empty, and a missing entry reads as its start value. -/
theorem resetState : Obligations.ResetState := by
  unfold Obligations.ResetState
  refine ⟨inv_reset, rfl, fun _ => rfl, fun _ => rfl, fun _ => rfl, fun _ => rfl, fun c b => ⟨rfl, rfl, initModes_get b⟩,
    fun c => ?_⟩
  rw [getCtx_reset]
  refine ⟨rfl, rfl, rfl, rfl, rfl, rfl, rfl, rfl, rfl, rfl, rfl, Ctx.init_rx, fun r => ?_, fun r l => ?_⟩
  · exact Vector.getElem_replicate r.isLt
  · simp [Ctx.init, Vector.get]

/-! RETT (01 R28, 04 R95) and SYSWR (01 R15, R18, 02 R49, 04 R97). -/

section
variable {s : State}

/-- Completion outside a loop, no window being open. -/
theorem retire_after {i : Instr} {n : Nat} (hn : i.len = n) (h1 : s.ctx.loop = none) (h2 : s.ctx.windows = []) :
    s.retire i none = s.after s.ctx n := hn ▸ retire_calm i none h1 h2

/-- The same at an address to which the instruction goes. -/
theorem retire_jumped {i : Instr} {pc : Word} (h1 : s.ctx.loop = none) (h2 : s.ctx.windows = []) :
    s.retire i (some pc) = s.jumped s.ctx pc := retire_calm i (some pc) h1 h2

/-- RETT traps in a calm state at USER, and where PPRIV is above the level. -/
theorem rett_priv (h : Calm s .rett = true) (ht : TrapReady s = true)
    (hp : s.ctx.super = true → 1 < bits s.ctx.trapcause.toNat 16 2) :
    exec .rett s = .next (s.trapped ⟨.priv, 0, instrBits .rett⟩) := by
  obtain ⟨hl, hw, -⟩ := calm_iff.1 h
  have hst : writesStream s.ctx .rett = false := writesStream_of_dests fun _ => List.not_mem_nil
  rw [← enterTrap_ready _ ht hw]
  show execRett s = _
  unfold execRett
  cases hs : s.ctx.super with
  | false => exact run_priv _ hl hst hs rfl
  | true =>
    rw [run_calm _ h hst (by simp [hs]), if_pos (by simpa [hs] using hp hs), finish_trap]

/-- RETT at SUPER returns to the level and the address that the trap registers hold. -/
theorem rett_returns (h : Calm s .rett = true) (hs : s.ctx.super = true) (hp : bits s.ctx.trapcause.toNat 16 2 ≤ 1) :
    exec .rett s = .next (s.jumped s.ctx.trapReturn s.ctx.trappc) := by
  obtain ⟨hl, hw, -⟩ := calm_iff.1 h
  have hst : writesStream s.ctx .rett = false := writesStream_of_dests fun _ => List.not_mem_nil
  have hr : s.ctx.trapReturn.returnTo s.ctx.trappc = (s.ctx.trapReturn, s.ctx.trappc) := by
    simp [Ctx.returnTo, Ctx.trapReturn, hl]
  show execRett s = _
  unfold execRett
  rw [run_calm _ h hst (by simp [hs]), if_neg (by simpa [hs] using hp), hr, finish_jump]
  exact congrArg _ (retire_jumped (s := { s with ctx := s.ctx.trapReturn }) hl hw)

end

/-- Settles O10: PPRIV above the level, as every RETT at USER, traps before the return; else RETT is the return. -/
theorem trapReturnRestoresLevelAndPc : Obligations.TrapReturnRestoresLevelAndPc := by
  unfold Obligations.TrapReturnRestoresLevelAndPc
  intro s h ppriv
  exact ⟨fun hs hp => rett_returns h hs hp, fun _ hp ht => rett_priv h ht fun _ => hp,
    fun hu ht => rett_priv h ht fun hs => by simp [hu] at hs⟩

section
variable {s t : State} {a : XReg} {n : Nat}

/-- SYSWR of a register that the level may access is performed as its write says. -/
theorem syswr_run (hn : n < 2 ^ 30) (hr : s.ctx.super = true ∨ superReg n = false)
    (h : Calm s (.syswr a (BitVec.ofNat 30 n)) = true) :
    exec (.syswr a (BitVec.ofNat 30 n)) s = s.finish (.syswr a (BitVec.ofNat 30 n))
      ((s.sysWrite n (s.ctx.rx a)).elim (.trap (illegal (.syswr a (BitVec.ofNat 30 n)) .reserved)) .done) := by
  have hnum : (BitVec.ofNat 30 n).toNat = n := by simpa using Nat.mod_eq_of_lt hn
  have hmay : (s.ctx.super || userMay (.syswr a (BitVec.ofNat 30 n))) = true := by
    rcases hr with hr | hr
    · simp [hr]
    · simp [userMay, hnum, hr]
  show execSyswr a _ s = _
  unfold execSyswr
  rw [run_calm _ h (writesStream_of_dests fun _ => List.not_mem_nil) hmay, hnum]
  simp only [State.rx]
  cases s.sysWrite n (s.ctx.rx a) <;> rfl

/-- SYSWR of a register that takes the value. -/
theorem syswr_writes (hn : n < 2 ^ 30) (hr : s.ctx.super = true ∨ superReg n = false)
    (hw : s.sysWrite n (s.ctx.rx a) = some t) (hl : t.ctx.loop = s.ctx.loop) (hi : t.ctx.windows = s.ctx.windows)
    (h : Calm s (.syswr a (BitVec.ofNat 30 n)) = true) :
    exec (.syswr a (BitVec.ofNat 30 n)) s = .next (t.after t.ctx 8) := by
  obtain ⟨hl', hi', -⟩ := calm_iff.1 h
  rw [syswr_run hn hr h, hw]
  exact congrArg Host.Outcome.next (retire_after (Instr.len_syswr a _) (hl.trans hl') (hi.trans hi'))

/-- SYSWR of a reserved value. -/
theorem syswr_reserved (hn : n < 2 ^ 30) (hr : s.ctx.super = true ∨ superReg n = false)
    (hw : s.sysWrite n (s.ctx.rx a) = none) (h : Calm s (.syswr a (BitVec.ofNat 30 n)) = true) (ht : TrapReady s = true) :
    exec (.syswr a (BitVec.ofNat 30 n)) s = .next (s.trapped (illegal (.syswr a (BitVec.ofNat 30 n)) .reserved)) := by
  rw [syswr_run hn hr h, hw, ← enterTrap_ready _ ht (calm_iff.1 h).2.1]
  rfl

end

theorem rmodeOf?_code (m : RMode) : rmodeOf? m.code = some m := by cases m <;> rfl

theorem rmodeOf?_reserved {n : Nat} (h : 5 ≤ n) : rmodeOf? n = none := by
  obtain ⟨k, rfl⟩ := Nat.exists_eq_add_of_le' h
  rfl

/-- A write to any other register changes nothing. -/
theorem sysWrite_readOnly (s : State) (v : Word) {n : Nat}
    (h : n ∉ [0x010, 0x011, 0x019, 0x020, 0x040, 0x041, 0x042, 0x043, 0x044]) : s.sysWrite n v = some s := by
  simp only [List.mem_cons, List.not_mem_nil, or_false, not_or] at h
  simp [State.sysWrite, h]

/-- The registers that are read-only at both levels (Table 1.1): a USER access is no privileged one. -/
theorem readOnly_known {n : Nat}
    (h : n ∈ [0x000, 0x001, 0x002, 0x004, 0x005, 0x013, 0x018, 0x021] ∨ (0x028 ≤ n ∧ n ≤ 0x037)) :
    n < 0x040 ∧ superReg n = false ∧ n ∉ [0x010, 0x011, 0x019, 0x020, 0x040, 0x041, 0x042, 0x043, 0x044] := by
  rcases h with h | ⟨hlo, hhi⟩
  · revert n
    decide
  · revert hlo
    exact (by decide : ∀ n < 0x038, 0x028 ≤ n → n < 0x040 ∧ superReg n = false ∧
      n ∉ [0x010, 0x011, 0x019, 0x020, 0x040, 0x041, 0x042, 0x043, 0x044]) n (by omega)

theorem bits_low (w n : Nat) : bits w 0 n = w % 2 ^ n := by simp [bits]

/-- A write to DEADLINE at SUPER (01 Table 1.1). -/
theorem setLeaf_of_leaf {s : State} {n : Nat} {l : Leaf} (hn : s.ctx.leaf = some n) (hl : Map.get? s.leaves n = some l)
    (f : Leaf → Leaf) : s.setLeaf f = { s with leaves := Map.put s.leaves n (f l) } := by
  simp [State.setLeaf, State.leaf?, hn, hl]

/-- A write to CLFLAGS leaves what is still on its way, of which nothing has arrived (R49). -/
theorem clflagsRead_clear (s : State) (c : ClusterId) : (s.clflagsClear c).clflagsRead c = 0 := by
  have hnone : arrived s.cycle (arriving s.cycle (s.getCl c).clPend) = [] := by
    simp only [arrived, arriving, List.filter_filter, List.filter_eq_nil_iff]
    intro q _
    simp
  simp [State.clflagsRead, State.clflagsClear, State.getCl, State.setCl, Map.getD] at hnone ⊢
  simp [hnone, orFlags]

/-- Settles O13: register by register, what its write changes, and which values no write takes. -/
theorem systemRegisterWrites : Obligations.SystemRegisterWrites := by
  unfold Obligations.SystemRegisterWrites
  intro s a A wr bad
  refine ⟨fun m hm => ?_, fun hA => ?_, ?_, ?_, fun n hn => ?_, fun hu => ?_, fun hs => ⟨?_, fun n l hn hl => ?_, ?_, ?_,
    fun hA => ?_, fun hA => ?_, ?_, ?_, fun h => ?_⟩⟩
  · have hw : s.sysWrite 0x010 A = some { s with ctx := { s.ctx with fpmode := m } } := by
      have hm' : bits A.toNat 0 3 = m.code := (bits_low ..).trans (hm.trans (by cases m <;> rfl))
      simp [State.sysWrite, hm', rmodeOf?_code]
    exact syswr_writes (n := 0x010) (by decide) (.inr rfl) hw rfl rfl
  · have hw : s.sysWrite 0x010 A = none := by
      simp [State.sysWrite, bits_low, rmodeOf?_reserved hA]
    exact syswr_reserved (n := 0x010) (by decide) (.inr rfl) hw
  · exact syswr_writes (n := 0x011) (by decide) (.inr rfl) rfl rfl rfl
  · exact syswr_writes (n := 0x019) (by decide) (.inr rfl) rfl rfl rfl
  · obtain ⟨hlt, hsr, hro⟩ := readOnly_known hn
    exact syswr_writes (by omega) (.inr hsr) (sysWrite_readOnly s A hro) rfl rfl
  · exact syswr_writes (n := 0x020) (by decide) (.inr rfl) (by simp [State.sysWrite, hu]) rfl rfl
  · exact syswr_writes (n := 0x003) (by decide) (.inl hs) rfl rfl rfl
  · have hw : s.sysWrite 0x020 A = some { s with leaves := Map.put s.leaves n { l with deadline := A } } := by
      simp [State.sysWrite, hs, setLeaf_of_leaf hn hl]
    exact syswr_writes (n := 0x020) (by decide) (.inl hs) hw rfl rfl
  · exact syswr_writes (n := 0x040) (by decide) (.inl hs) rfl rfl rfl
  · exact syswr_writes (n := 0x041) (by decide) (.inl hs) rfl rfl rfl
  · have hw : s.sysWrite 0x042 A =
        some { s with ctx := { s.ctx with trapcause := BitVec.ofNat 64 (A.toNat % 2 ^ 18) } } :=
      (if_neg hA).trans (by rw [bits_low]; rfl)
    exact syswr_writes (n := 0x042) (by decide) (.inl hs) hw rfl rfl
  · exact syswr_reserved (n := 0x042) (by decide) (.inl hs) (if_pos hA)
  · exact syswr_writes (n := 0x043) (by decide) (.inl hs) rfl rfl rfl
  · exact syswr_writes (n := 0x044) (by decide) (.inl hs) rfl rfl rfl
  · have hrun : exec (.clflagsWrite a) s = .next ((s.clflagsClear s.cur.core.cl).after s.ctx 8) := by
      obtain ⟨hl, hw, -⟩ := calm_iff.1 h
      show execClflagsWrite a s = _
      unfold execClflagsWrite
      rw [run_calm _ h (writesStream_of_dests fun _ => List.not_mem_nil) (by simp [hs])]
      exact congrArg Host.Outcome.next (retire_after (s := s.clflagsClear s.cl) (Instr.len_clflagsWrite a) hl hw)
    refine ⟨_, hrun, ?_, clflagsRead_clear s s.cur.core.cl⟩
    simp only [State.after, State.clflagsClear, State.getCl, State.setCl, Map.getD, State.issueCycle, Map.get?_put_same,
      Option.getD_some]
    rfl

end Sys2Proof.Machine

namespace Sys2Proof.Machine

/-! Fetch (01 R19-R21). -/

section
variable {s : State}

/-- A granule that no store has replaced since, of a block that is not held, is fetched as it is. -/
theorem chooseGranule_settled {pa : Nat} {now : List Byte}
    (h : s.mem.oldValues pa (s.mem.oldFrom pa s.ctx.fence s.ctx.loaded) = []) :
    s.chooseGranule pa now none = (s, now) := by
  have hc : s.granuleChoices pa now none = [now] := by
    simp [State.granuleChoices, h, List.eraseDups_cons]
  unfold State.chooseGranule
  rw [hc]
  rfl

/-- So is a block. -/
theorem chooseBlock_settled {k pa : Nat} {now : List Byte}
    (h : ∀ j < k, s.mem.oldValues (pa + 8 * j) (s.mem.oldFrom (pa + 8 * j) s.ctx.fence s.ctx.loaded) = []) :
    s.chooseBlock k pa now none = (s, now.take (8 * k)) := by
  induction k generalizing pa now with
  | zero => simp [State.chooseBlock]
  | succ k ih =>
    have h0 := chooseGranule_settled (now := now.take 8) (h 0 (Nat.succ_pos k))
    have hk := ih (pa := pa + 8) (now := now.drop 8) fun j hj => by
      rw [show pa + 8 + 8 * j = pa + 8 * (j + 1) by omega]
      exact h (j + 1) (by omega)
    rw [Nat.mul_zero, Nat.add_zero] at h0
    simp only [State.chooseBlock, Option.map_none, h0, hk]
    rw [show 8 * (k + 1) = 8 + 8 * k by omega, List.take_add]

/-- Where a page that a walk gives lies, an address keeps its place in its 32-byte block. -/
theorem Page.pa_mod (p : Page) (a : Nat) : p.pa a % 32 = a % 32 := by
  obtain ⟨k, hk⟩ : 32 ∣ p.size := by
    unfold Page.size levelBits
    split <;> decide
  have hm : a % p.size % 32 = a % 32 := Nat.mod_mod_of_dvd a ⟨k, hk⟩
  unfold Page.pa leafFrame
  omega

/-- What stores have replaced, and from which store on a context may still fetch it, is in the memories' past. -/
theorem Mem.Keeps.oldValues {m n : Mem} (k : m.Keeps n) (pa fence loaded : Nat) :
    n.oldValues pa (n.oldFrom pa fence loaded) = m.oldValues pa (m.oldFrom pa fence loaded) := by
  unfold Mem.oldValues Mem.oldFrom
  rw [k.past]

/-- The fetch of a block that is not held and that no store has changed since. -/
theorem fetchBlock_settled {va pa : Nat} (h : s.mem.wf) (hf : Map.get? s.ctx.fetched va = none)
    (ho : ∀ j < 4, s.mem.oldValues (pa + 8 * j) (s.mem.oldFrom (pa + 8 * j) s.ctx.fence s.ctx.loaded) = []) :
    s.fetchBlock va pa = ({ s with
      mem := s.mem.visitRange pa 32
      ctx := { s.ctx with fetched := Map.put s.ctx.fetched va (s.readHome pa 32).2 } }, (s.readHome pa 32).2) := by
  have hk : s.mem.Keeps (s.readHome pa 32).1.mem := Mem.keeps_visitRange h pa 32
  have hlen : (s.readHome pa 32).2.length ≤ 8 * 4 := (cellsRead_length ..).le
  have hb := chooseBlock_settled (s := (s.readHome pa 32).1) (k := 4) (now := (s.readHome pa 32).2)
    fun j hj => (hk.oldValues (pa + 8 * j) s.ctx.fence s.ctx.loaded).trans (ho j hj)
  rw [List.take_of_length_le hlen] at hb
  unfold State.fetchBlock
  dsimp only
  rw [show (s.readHome pa 32).1.ctx.fetched = s.ctx.fetched from rfl, hf, hb]
  rfl

/-- The walk of a fetch keeps what a reader finds, and changes only how the memories are held. -/
theorem noteAccess_keeps {ea : Word} (h : s.mem.wf) :
    ∃ m, s.mem.Keeps m ∧ s.noteAccess ea = { s with mem := m } := by
  unfold State.noteAccess
  split
  · exact ⟨s.mem, .refl h, rfl⟩
  · exact ⟨_, Mem.keeps_noteWalk h .., rfl⟩

/-- What a fetch leaves: the block is held, and the memories are held otherwise. -/
def State.holding (s : State) (m : Mem) (va : Nat) (block : List Byte) : State :=
  { s with mem := m, ctx := { s.ctx with fetched := Map.put s.ctx.fetched va block } }

/-- The fetch of an address that translates, in a block that is not held and that no store has changed, gives the bytes
from the address to the block's end as they read. -/
theorem fetchBytes_settled {a : Word} {p : Page} {bs : List Byte} (h : s.mem.wf) (hm : isMesh a = false)
    (hc : canonical a = true) (hx : s.xlate s.partNo s.ctx.super .fetch a = .ok p)
    (hf : Map.get? s.ctx.fetched (a.toNat - a.toNat % 32) = none)
    (ho : ∀ j < 4, let b := p.pa a.toNat - a.toNat % 32 + 8 * j
      s.mem.oldValues b (s.mem.oldFrom b s.ctx.fence s.ctx.loaded) = []) (hlen : bs.length = 32 - a.toNat % 32)
    (hbs : ∀ j < 32 - a.toNat % 32, bs[j]? = some (s.mem.reads (.glob (p.pa a.toNat + j)))) :
    ∃ (m : Mem) (block : List Byte), s.mem.Keeps m ∧
      s.fetchBytes a = (s.holding m (a.toNat - a.toNat % 32) block, .ok bs) := by
  obtain ⟨b, hb⟩ : ∃ b, b = p.pa a.toNat - a.toNat % 32 := ⟨_, rfl⟩
  have hoff : b + a.toNat % 32 = p.pa a.toNat := by
    have := p.pa_mod a.toNat
    have := Nat.mod_le (p.pa a.toNat) 32
    omega
  obtain ⟨m, hk, hn⟩ := noteAccess_keeps (ea := a) h
  obtain ⟨block, hblock⟩ : ∃ block, block = (({ s with mem := m } : State).readHome b 32).2 := ⟨_, rfl⟩
  have hf' := fetchBlock_settled (s := { s with mem := m }) (va := a.toNat - a.toNat % 32) (pa := b) hk.wf hf
    fun j hj => (hk.oldValues ..).trans (hb ▸ ho j hj)
  have hread : ∀ j < 32, block[j]? = some (s.mem.reads (.glob (b + j))) := fun j hj =>
    hblock ▸ (State.readHome_getElem? hk.wf b hj).trans (congrArg some (hk.reads h _))
  have hdrop : block.drop (a.toNat % 32) = bs := by
    refine List.ext_getElem? fun j => ?_
    rcases Nat.lt_or_ge j (32 - a.toNat % 32) with hj | hj
    · rw [List.getElem?_drop, hread _ (by omega), ← Nat.add_assoc, hoff, hbs j hj]
    · have hlen' : (block.drop (a.toNat % 32)).length = 32 - a.toNat % 32 := by simp [hblock, State.readHome]
      rw [List.getElem?_eq_none (hlen'.trans_le hj), List.getElem?_eq_none (hlen.trans_le hj)]
  refine ⟨m.visitRange b 32, block, hk.trans (Mem.keeps_visitRange hk.wf b 32), ?_⟩
  unfold State.fetchBytes
  simp only [hm, hc, hx, hn, ← hb, hf', ← hblock, hdrop, Bool.not_true, Bool.false_eq_true, if_false]
  rfl

/-- Bytes that decode to an instruction are fetched as it. -/
theorem fetch_instr {u : State} {bs : List Byte} {i : Instr} (h : s.fetchBytes s.ctx.pc = (u, .ok bs))
    (hd : decodeBytes (coreKind u.cur.core) u.ctx.pc.toNat bs = .ok i) : s.fetch = (u, .instr i) := by
  simp only [State.fetch, h, hd]

/-- Bytes that do not decode are fetched as ILLEGAL (R77). -/
theorem fetch_illegal {u : State} {bs : List Byte} {sub : IllegalSub} (h : s.fetchBytes s.ctx.pc = (u, .ok bs))
    (hd : decodeBytes (coreKind u.cur.core) u.ctx.pc.toNat bs = .bad sub) :
    s.fetch = (u, .trap ⟨.illegal sub, 0, illegalInfo sub (leNat bs)⟩) := by
  simp only [State.fetch, h, hd]

end

/-! A core's turn (06 R153, R154). -/

section
variable {s : State} {k : CoreId} {n : Nat} {ns : List Nat}

/-- A turn of a core whose cycles end before anything is due: the core acts once they have passed. -/
theorem step_coreTurn {cycles : Nat} {ts : List Turn} (ha : s.agenda = ⟨cycles, .core k⟩ :: ts)
    (hd : s.dueEvents = []) (hd' : ({ s with agenda := ts }.elapse cycles).dueEvents = [])
    (hw : ∀ w ∈ s.waits, w = 0 ∨ cycles ≤ w) :
    step s = afterAct (.core k) (({ s with agenda := ts }.elapse cycles).coreTurn k).1 := by
  have hp : s.passing cycles = cycles :=
    List.foldlRecOn (motive := fun n => n = cycles) _ min rfl fun n hn w hmem => by
      obtain ⟨hin, hne⟩ := List.mem_filter.1 hmem
      have := (hw w hin).resolve_left (by simpa using hne)
      omega
  have hd₂ : (({ s with agenda := ⟨cycles - cycles, .core k⟩ :: ts } : State).elapse cycles).dueEvents = [] := hd'
  unfold step State.nextTurn
  rw [hd, ha]
  simp only [State.firstEvent, hp, hd₂, if_true]
  rfl

variable (hi : s.issuedNow k = false) (ht : s.turns k = n :: ns)
include hi ht

/-- The first context in turn issues. -/
theorem coreTurn_of_issue {t : State} (h : s.attempt ⟨k, n⟩ = .next t) (hw : t.instrWaits ⟨k, n⟩ = false)
    (hg : s.goneOn t ⟨k, n⟩ = false) : (s.coreTurn k).1 = .next (t.markIssue k) := by
  simp [State.coreTurn, hi, ht, tryTurns, h, hw, hg]

/-- The only context in turn does not issue. -/
theorem coreTurn_of_wait {t : State} (hn : ns = []) (h : s.attempt ⟨k, n⟩ = .next t)
    (hw : (t.instrWaits ⟨k, n⟩ || s.goneOn t ⟨k, n⟩) = true) : (s.coreTurn k).1 = .next t := by
  simp [State.coreTurn, hi, ht, tryTurns, h, hw, hn]

/-- The first context in turn stops the machine. -/
theorem coreTurn_of_stop (h : ∀ t, s.attempt ⟨k, n⟩ ≠ .next t) : (s.coreTurn k).1 = s.attempt ⟨k, n⟩ := by
  have htry : tryTurns k (n :: ns) s = (s.attempt ⟨k, n⟩, true) := by
    unfold tryTurns
    split
    · next t heq => exact absurd heq (h t)
    · rfl
  rw [State.coreTurn, hi, ht, htry]
  cases ho : s.attempt ⟨k, n⟩ with
  | next t => exact absurd ho (h t)
  | fault f => rfl
  | refused r => rfl

end

section
variable {s : State} {c : CtxId}

/-- The state in which a context's instruction is tried. -/
def State.turnOf (s : State) (c : CtxId) : State :=
  { s.switchTo c with ctx := { s.getCtx c with waiting := false } }

@[simp] theorem State.turnOf_mem (s : State) (c : CtxId) : (s.turnOf c).mem = s.mem := s.switchTo_mem c
@[simp] theorem State.turnOf_cur (s : State) (c : CtxId) : (s.turnOf c).cur = c := s.switchTo_cur c

/-- What a context does with what it has fetched. -/
def Fetched.outcome (u : State) : Fetched → Out
  | .instr i => exec i u
  | .trap t => .next (u.enterTrap t)

/-- An instruction that has performed a part, or waits in a queue, is tried without a fetch (R335). -/
theorem attempt_goesOn {i : Instr} (h : (s.getCtx c).doing.or (s.getCtx c).asked = some i) :
    s.attempt c = exec i (s.turnOf c) := by
  unfold State.attempt
  simp only [State.switchTo_ctx, h]
  rfl

/-- Away from a loop's head and from the known end of its body, no loop goes on. -/
theorem loopTurn_plain (ha : s.ctx.atHead = none) (hf : s.ctx.atFrontier = false) : s.loopTurn = (s, .ok true) := by
  unfold State.loopTurn
  split
  · rfl
  · next l hl =>
    have hh : (l.head && decide (s.ctx.pc = l.srep)) = false := by
      simpa [Ctx.atHead, hl] using ha
    simp [hf, hh]

variable (hd : (s.getCtx c).doing = none) (hk : (s.getCtx c).asked = none) (ha : (s.getCtx c).atHead = none)
  (hf : (s.getCtx c).atFrontier = false)
include hd hk ha hf

/-- A context with no instruction under way fetches, and performs what it has fetched. -/
theorem attempt_fetches {u : State} {r : Fetched} (h : (s.turnOf c).fetch = (u, r)) :
    s.attempt c = r.outcome u := by
  have hl : (s.turnOf c).loopTurn = (s.turnOf c, .ok true) := loopTurn_plain ha hf
  have hnone : (s.turnOf c).ctx.doing.or (s.turnOf c).ctx.asked = none := by
    rw [show (s.turnOf c).ctx.doing = none from hd, show (s.turnOf c).ctx.asked = none from hk]
    rfl
  unfold State.attempt
  extract_lets t x v
  have hv : v = s.turnOf c := by simp only [State.turnOf, v, x, t, State.switchTo_ctx]
  rw [hv]
  simp only [hnone, hl, h]
  cases r <;> rfl

end
end Sys2Proof.Machine

namespace Sys2Proof.Machine

/-! What a step is, from what the attempt of the first context in turn answers (06 R153, R154). -/

section
variable {s u v : State} {k : CoreId} {n : Nat} {ns : List Nat} {i : Instr}

theorem goneOn_of_fetched {c : CtxId} (t : State) (h : (u.getCtx c).doing = none) : u.goneOn t c = false := by
  simp [State.goneOn, h]

theorem goneOn_of_doing {c : CtxId} (t : State) (h : (u.getCtx c).doing = some i) :
    u.goneOn t c = decide ((t.getCtx c).lastIssue = (u.getCtx c).lastIssue) := by
  simp [State.goneOn, h]

variable (hs : step s = afterAct (.core k) (u.coreTurn k).1) (hi : u.issuedNow k = false) (ht : u.turns k = n :: ns)
include hs hi ht

/-- An instruction that stops the machine stops the step. -/
theorem step_stops (h : u.attempt ⟨k, n⟩ = exec i v) :
    (∀ f, exec i v = .fault f → step s = .fault f) ∧ ∀ r, exec i v = .refused r → step s = .refused r := by
  refine ⟨fun f hf => ?_, fun r hr => ?_⟩
  · rw [hs, coreTurn_of_stop hi ht (by simp [h, hf]), h, hf]
    rfl
  · rw [hs, coreTurn_of_stop hi ht (by simp [h, hr]), h, hr]
    rfl

/-- The core has issued once the instruction that was tried has. -/
theorem step_issues {t : State} (h : u.attempt ⟨k, n⟩ = .next t) (hw : t.instrWaits ⟨k, n⟩ = false)
    (hg : u.goneOn t ⟨k, n⟩ = false) : step s = .next (requestsAfter (.core k) (t.markIssue k)) := by
  rw [hs, coreTurn_of_issue hi ht h hw hg]
  rfl

/-- It has not where the instruction waits, or goes on without an issue, and no other context is in turn. -/
theorem step_waits {t : State} (h : u.attempt ⟨k, n⟩ = .next t)
    (hw : (t.instrWaits ⟨k, n⟩ || u.goneOn t ⟨k, n⟩) = true) (hn : ns = []) :
    step s = .next (requestsAfter (.core k) t) := by
  rw [hs, coreTurn_of_wait hi ht hn h hw]
  rfl

/-- The step of an instruction that has performed no part before. -/
theorem step_performs (hdo : (u.getCtx ⟨k, n⟩).doing = none) (h : u.attempt ⟨k, n⟩ = exec i v) :
    (∀ t, exec i v = .next t → t.instrWaits ⟨k, n⟩ = false →
      step s = .next (requestsAfter (.core k) (t.markIssue k))) ∧
    (∀ t, exec i v = .next t → t.instrWaits ⟨k, n⟩ = true → ns = [] → step s = .next (requestsAfter (.core k) t)) ∧
    (∀ f, exec i v = .fault f → step s = .fault f) ∧ ∀ r, exec i v = .refused r → step s = .refused r :=
  ⟨fun t hx hw => step_issues hs hi ht (h.trans hx) hw (goneOn_of_fetched t hdo),
    fun _ hx hw hn => step_waits hs hi ht (h.trans hx) (by simp [hw]) hn, step_stops hs hi ht h⟩

/-- The step of an instruction that goes on: it is an issue only if the instruction has issued now. -/
theorem step_goesOn (hdo : (u.getCtx ⟨k, n⟩).doing = some i) (h : u.attempt ⟨k, n⟩ = exec i v) :
    let issues := fun t : State =>
      t.instrWaits ⟨k, n⟩ = false ∧ (t.getCtx ⟨k, n⟩).lastIssue ≠ (u.getCtx ⟨k, n⟩).lastIssue
    (∀ t, exec i v = .next t → issues t → step s = .next (requestsAfter (.core k) (t.markIssue k))) ∧
    (∀ t, exec i v = .next t → ¬ issues t → ns = [] → step s = .next (requestsAfter (.core k) t)) ∧
    (∀ f, exec i v = .fault f → step s = .fault f) ∧ ∀ r, exec i v = .refused r → step s = .refused r := by
  intro issues
  refine ⟨fun t hx hiss => ?_, fun t hx hiss hn => ?_, step_stops hs hi ht h⟩
  · exact step_issues hs hi ht (h.trans hx) hiss.1 ((goneOn_of_doing t hdo).trans (decide_eq_false hiss.2))
  · refine step_waits hs hi ht (h.trans hx) ?_ hn
    rw [goneOn_of_doing t hdo, Bool.or_eq_true, decide_eq_true_eq, or_iff_not_imp_left, Bool.not_eq_true]
    exact fun hw => by_contra fun hne => hiss ⟨hw, hne⟩

end

/-- TRAPINFO of an illegal instruction (R77), as a number. -/
theorem illegalInfo_eq (sub : IllegalSub) (w : Nat) :
    illegalInfo sub w = BitVec.ofNat 64 (if sub = .straddle ∨ w % 4 = 0 then w % 2 ^ 32 else w) := by
  simp only [illegalInfo, word, Bool.or_eq_true, decide_eq_true_eq]
  split <;> rfl

/-- Settles O60: the turn is the core's, the attempt of its first context is the instruction's exec, and the fetch keeps
every byte. -/
theorem stepRunsTheDecodedInstruction : Obligations.StepRunsTheDecodedInstruction := by
  unfold Obligations.StepRunsTheDecodedInstruction
  intro s cycles k ts n ns hwf ha s₁ c off hd hd₁ hw hi ht done waits stops
  have hs : step s = afterAct (.core k) (s₁.coreTurn k).1 := step_coreTurn ha hd hd₁ hw
  refine ⟨fun i hdo => ?_, fun i hdo hask => ?_, fun p bs hdo hask hhead hfront hmesh hcan hx hf ho hlen hbs => ?_⟩
  · exact step_goesOn hs hi ht hdo (attempt_goesOn (by rw [show (s₁.getCtx ⟨k, n⟩).doing = some i from hdo]; rfl))
  · refine step_performs hs hi ht hdo (attempt_goesOn ?_)
    rw [show (s₁.getCtx ⟨k, n⟩).doing = none from hdo, show (s₁.getCtx ⟨k, n⟩).asked = some i from hask]
    rfl
  · have hmem : (s₁.turnOf ⟨k, n⟩).mem = s₁.mem := s₁.turnOf_mem _
    obtain ⟨m, block, hk, hfetch⟩ := fetchBytes_settled (s := s₁.turnOf ⟨k, n⟩) (a := c.pc) (p := p) (bs := bs)
      (hmem ▸ hwf) hmesh hcan hx hf (hmem ▸ ho) hlen (hmem ▸ hbs)
    rw [hmem] at hk
    have hcur : ((s₁.turnOf ⟨k, n⟩).holding m (c.pc.toNat - off) block).cur = ⟨k, n⟩ := s₁.turnOf_cur _
    have hfetches {r : Fetched} := attempt_fetches (u := (s₁.turnOf ⟨k, n⟩).holding m (c.pc.toNat - off) block) (r := r)
      hdo hask hhead hfront
    refine ⟨(s₁.turnOf ⟨k, n⟩).holding m (c.pc.toNat - off) block, hk.reads hwf, hcur, ⟨block, rfl⟩, rfl, fun i hdec => ?_,
      fun sub hdec hwin hready => ?_⟩
    · exact step_performs hs hi ht hdo (hfetches (fetch_instr hfetch (by rw [hcur]; exact hdec)))
    · have hat := hfetches (fetch_illegal hfetch (by rw [hcur]; exact hdec))
      rw [Fetched.outcome, enterTrap_ready _ hready hwin, illegalInfo_eq] at hat
      exact step_issues hs hi ht hat (by simp [State.instrWaits, State.trapped]) (goneOn_of_fetched _ hdo)

end Sys2Proof.Machine

namespace Sys2Proof.Machine

/-! Launches (06 R157-R163). The control context that a launch starts holds, beside what R30 gives it, the number of the
stores that precede the launch (`Ctx.loaded`; 01 R21, 19 R353, assumption 10). -/

/-- A launch record at 0x4000, written by the one store there has been: entry 0x1000, argument 77, DEADLINE 1, one level
PACKAGE with COUNT 1. It is named by the entry that queue 1 of partition 0 has read. -/
def launchAfterStore : State :=
  { State.reset with
    clusters := [(benchCluster, { Cluster.init with part := some 0 })]
    parts := [(0, { benchPart with cfg := { benchCfg with wq0 := 1, nwq := 1, queues := [⟨0x21000, 0x22000, 0x23000, 2, 2⟩] } })]
    mem := ({ Mem.init with home := benchTables [] } : Mem).put 0x4000
      (leBytes 8 0x1000 ++ leBytes 8 77 ++ leBytes 8 1 ++ [0, 1] ++ List.replicate 38 0 ++ leBytes 4 1 ++ [1, 5])
    pkg := { Pkg.init with queues := [(1, ⟨0, 0, 0, some (7, leBytes 8 1 ++ leBytes 8 0x4000), []⟩)] }
    unit := 1 }

theorem launchAfterStore_wf : launchAfterStore.mem.wf :=
  Mem.put_wf _ _ _ ⟨cellsWrite_wf _ _ _ (cellsWrite_wf _ _ _ (cellsWrite_wf _ _ _ rfl)), rfl⟩

/-- The record passes every check, and asks for one leaf. -/
theorem launchAfterStore_record :
    ((launchAfterStore.setQueue 1 { launchAfterStore.getQueue 1 with entry := none }).launchRecord 0 0x4000).any
      (fun x => decide (launchBad 0 x.2 = none) && decide (placeLevels x.2 = [(1, 1)])) = true := by
  decide +kernel

theorem launchAfterStore_freeCores :
    launchAfterStore.freeCores 0 = (List.range 8).map fun n => ⟨benchCluster, n⟩ := by
  decide +kernel

/-- The context that starts is marked with the store that precedes its launch. -/
theorem launchAfterStore_loaded :
    (match exec .launch launchAfterStore with
      | .next t => decide ((t.getCtx ⟨⟨benchCluster, 0⟩, 0⟩).loaded = 1)
      | .fault _ | .refused _ => false) = true := by
  decide +kernel

/-- Refutes O55: the statement gives the started context the reset value 0 in `loaded`, the number of the stores that
precede its launch; where the record itself has been stored, that number is not 0. -/
theorem not_launchesStartAndComplete : ¬ Obligations.LaunchesStartAndComplete := by
  unfold Obligations.LaunchesStartAndComplete
  rintro ⟨hlaunch, -, -⟩
  obtain ⟨-, hrecord⟩ := hlaunch launchAfterStore 1 7 0 _ _ _ launchAfterStore_wf rfl rfl rfl (by decide) rfl rfl rfl
  obtain ⟨⟨u, r⟩, hr, hok⟩ := (Option.any_eq_true ..).1 launchAfterStore_record
  simp only [Bool.and_eq_true, decide_eq_true_eq] at hok
  obtain ⟨hbad, hlevels⟩ := hok
  obtain ⟨-, -, hplaced⟩ := hrecord u r hr
  obtain ⟨-, hstart⟩ := hplaced hbad hlevels
  obtain ⟨t, ht, -, -, -, -, -, hctx, -⟩ := hstart _ _ launchAfterStore_freeCores
  have hloaded := launchAfterStore_loaded
  simp only [ht, decide_eq_true_eq] at hloaded
  have hzero : (t.getCtx ⟨⟨benchCluster, 0⟩, 0⟩).loaded = 0 := by
    rw [hctx, Ctx.wx_loaded]
    rfl
  omega

end Sys2Proof.Machine

namespace Sys2Proof.Machine

/-! PROOFS. Rounding to a format (O30; 02 R46, R47, Tables 2.3, 2.7, 2.8).

A magnitude A is rounded in units of a last place c = 2^q: a = A / c lies between an integer n and the next, and Table 2.7
says which of the two is taken (`RoundedTo`). The format has no number strictly between n * c and (n + 1) * c
(`numbers_grid`), so what the table takes serves the mode best (`RoundedTo.serves`); and the same rounding at the last place
of an unbounded exponent says whether the number overflows or is tiny (`le_exponent_iff`). -/

/-- Table 2.7 over the reals: a magnitude `a` whose truncation is `n` is rounded up. -/
def RoundsUp (rm : RMode) (neg : Bool) (a : ℝ) (n : Nat) : Prop :=
  match rm with
  | .rne => 1 / 2 < a - n ∨ (a - n = 1 / 2 ∧ n % 2 = 1)
  | .rtz => False
  | .rup => a ≠ n ∧ neg = false
  | .rdn => a ≠ n ∧ neg = true
  | .rmm => 1 / 2 ≤ a - n

/-- A pair as `roundQ` gives it: `a` rounded to an integer, and whether that differs from `a`. -/
def RoundedTo (rm : RMode) (neg : Bool) (a : ℝ) (r : Nat × Bool) : Prop :=
  ∃ n : Nat, n ≤ a ∧ a < n + 1 ∧ (r.2 = true ↔ a ≠ n) ∧
    (r.1 = n + 1 ∧ RoundsUp rm neg a n ∨ r.1 = n ∧ ¬ RoundsUp rm neg a n)

/-- The discarded part that `sticky` tells of (`roundQ`). -/
def Discards (sticky : Bool) (d : ℝ) : Prop := if sticky = true then 0 < d ∧ d < 1 else d = 0

theorem Discards.nonneg {sticky : Bool} {d : ℝ} (h : Discards sticky d) : 0 ≤ d := by
  unfold Discards at h; split at h <;> linarith

theorem Discards.lt_one {sticky : Bool} {d : ℝ} (h : Discards sticky d) : d < 1 := by
  unfold Discards at h; split at h <;> linarith

/-- The model's decision is Table 2.7's, where `half` orders the discarded part against one half. -/
theorem roundsUp_iff {rm : RMode} {neg odd inexact : Bool} {half : Ordering} {a : ℝ} {n : Nat}
    (ho : odd = true ↔ n % 2 = 1) (hi : inexact = true ↔ a ≠ n) (hh : half.Compares (a - n) (1 / 2)) :
    roundsUp rm neg odd half inexact = true ↔ RoundsUp rm neg a n := by
  cases rm with
  | rne => simp [roundsUp, RoundsUp, hh.eq_gt, hh.eq_eq, ho]
  | rtz => simp [roundsUp, RoundsUp]
  | rup => simp [roundsUp, RoundsUp, hi]
  | rdn => simp [roundsUp, RoundsUp, hi]
  | rmm => simp [roundsUp, RoundsUp, hh.eq_lt]

theorem roundedTo_ite {rm : RMode} {neg b i : Bool} {a : ℝ} {n : Nat} (hn : n ≤ a) (hn' : a < n + 1)
    (hi : i = true ↔ a ≠ n) (hb : b = true ↔ RoundsUp rm neg a n) :
    RoundedTo rm neg a (if b = true then n + 1 else n, i) := by
  refine ⟨n, hn, hn', hi, ?_⟩
  by_cases h : b = true
  · exact .inl ⟨by simp [h], hb.1 h⟩
  · exact .inr ⟨by simp [h], fun hu => h (hb.2 hu)⟩

/-- The comparison of `roundQ`: a remainder with something between 0 and 1 after it, against one half of a unit. -/
theorem half_compares {rem k : Nat} {sticky : Bool} {d : ℝ} (hk : 0 < k) (hd : Discards sticky d) :
    (if (sticky && decide (2 * rem = 2 ^ k)) = true then .gt else compare (2 * rem) (2 ^ k)).Compares
      ((rem + d) / 2 ^ k) (1 / 2) := by
  have hpos : (0 : ℝ) < 2 ^ k := by positivity
  have heven : (2 : Nat) ∣ 2 ^ k := dvd_pow_self 2 (by omega)
  rcases lt_trichotomy (2 * rem) (2 ^ k) with h | h | h
  · have h2 : (2 : ℝ) * rem + 2 ≤ 2 ^ k := by exact_mod_cast (show 2 * rem + 2 ≤ 2 ^ k by omega)
    have hd1 := hd.lt_one
    simp only [h.ne, decide_false, Bool.and_false, Bool.false_eq_true, if_false, compare_lt_iff_lt.2 h, Ordering.Compares]
    rw [div_lt_iff₀ hpos]; linarith
  · have h2 : (2 : ℝ) * rem = 2 ^ k := by exact_mod_cast h
    cases sticky with
    | false =>
      have hd0 : d = 0 := by simpa [Discards] using hd
      simp only [Bool.false_and, Bool.false_eq_true, if_false, compare_eq_iff_eq.2 h, Ordering.Compares]
      rw [div_eq_iff hpos.ne']; linarith
    | true =>
      have hd0 : 0 < d := (show 0 < d ∧ d < 1 by simpa [Discards] using hd).1
      simp only [h, decide_true, Bool.and_true, if_true, Ordering.Compares]
      rw [gt_iff_lt, lt_div_iff₀ hpos]; linarith
  · have h2 : (2 : ℝ) ^ k < 2 * rem := by exact_mod_cast h
    have hd0 := hd.nonneg
    simp only [h.ne', decide_false, Bool.and_false, Bool.false_eq_true, if_false, compare_gt_iff_gt.2 h,
      Ordering.Compares]
    rw [gt_iff_lt, lt_div_iff₀ hpos]; linarith

/-- `roundQ` rounds (m + d) * 2^e in units of 2^q; something discarded below m asks for bits of m below the unit. -/
theorem roundQ_roundedTo (rm : RMode) (neg : Bool) (m : Nat) {e q : Int} {sticky : Bool} {d : ℝ}
    (hd : Discards sticky d) (hq : sticky = true → e < q) :
    RoundedTo rm neg ((m + d) * (2 : ℝ) ^ (e - q)) (roundQ rm neg m e sticky q) := by
  unfold roundQ
  split
  · next h =>
    have hs : sticky = false := by
      cases sticky with
      | false => rfl
      | true => have := hq rfl; omega
    subst hs
    have hd0 : d = 0 := by simpa [Discards] using hd
    have ha : (m + d) * (2 : ℝ) ^ (e - q) = (m * 2 ^ (e - q).toNat : Nat) := by
      obtain ⟨k, hk⟩ := Int.eq_ofNat_of_zero_le (sub_nonneg.2 h)
      simp [hd0, hk]
    rw [ha]
    exact roundedTo_ite le_rfl (lt_add_one _) (by simp)
      (roundsUp_iff (by simp) (by simp) (by norm_num [Ordering.Compares]))
  · next h =>
    extract_lets k r rem half inexact
    have hk : e - q = -(k : Int) := by omega
    have hpos : (0 : ℝ) < 2 ^ k := by positivity
    have hm : (m : ℝ) = r * 2 ^ k + rem := by
      exact_mod_cast (Nat.div_add_mod' m (2 ^ k)).symm
    have hrem : (rem : ℝ) + 1 ≤ 2 ^ k := by exact_mod_cast Nat.mod_lt m (Nat.two_pow_pos k)
    have ha : (m + d) * (2 : ℝ) ^ (e - q) = r + (rem + d) / 2 ^ k := by
      rw [hk, zpow_neg, zpow_natCast, hm]; field_simp; ring
    have hge : 0 ≤ (rem + d) / (2 : ℝ) ^ k :=
      div_nonneg (by linarith [hd.nonneg, rem.cast_nonneg (α := ℝ)]) hpos.le
    have hlt : (rem + d) / (2 : ℝ) ^ k < 1 := (div_lt_one hpos).2 (by linarith [hd.lt_one])
    have hi : inexact = true ↔ (r : ℝ) + (rem + d) / 2 ^ k ≠ r := by
      rw [ne_eq, add_eq_left, div_eq_zero_iff, or_iff_left hpos.ne']
      cases sticky with
      | false => simp [inexact, show d = 0 by simpa [Discards] using hd]
      | true =>
        have : 0 < d := (show 0 < d ∧ d < 1 by simpa [Discards] using hd).1
        simp only [inexact, Bool.or_true, true_iff]
        positivity
    rw [ha]
    refine roundedTo_ite (by linarith) (by linarith) hi (roundsUp_iff (by simp) hi ?_)
    rw [add_sub_cancel_left]
    exact half_compares (by omega) hd
-- The exponent

/-- The rows of Table 2.2 with infinities, as far as rounding needs them. -/
structure FSpec.Ieee (F : FSpec) : Prop where
  top : F.top = .ieee
  mb : 1 ≤ F.mb
  eb : 2 ≤ F.eb

theorem ffmtSpec_ieee (t : FFmt) : (ffmtSpec t).Ieee := by
  cases t <;> exact ⟨rfl, by decide, by decide⟩

/-- The exponent of a nonzero number: it lies between this power of two and the next. -/
theorem two_pow_ex_le {m : Nat} (hm : m ≠ 0) (e : Int) {d : ℝ} (hd : 0 ≤ d) :
    (2 : ℝ) ^ (e + bitLen m - 1) ≤ (m + d) * 2 ^ e := by
  have h : (2 : ℝ) ^ m.log2 ≤ m := by exact_mod_cast Nat.log2_self_le hm
  rw [bitLen, if_neg hm, show e + ((m.log2 + 1 : Nat) : Int) - 1 = (m.log2 : Int) + e by push_cast; ring,
    zpow_add₀ two_ne_zero, zpow_natCast]
  gcongr
  linarith

theorem lt_two_pow_ex {m : Nat} (hm : m ≠ 0) (e : Int) {d : ℝ} (hd : d < 1) :
    (m + d) * 2 ^ e < (2 : ℝ) ^ (e + bitLen m - 1 + 1) := by
  have h : (m : ℝ) + 1 ≤ 2 ^ (m.log2 + 1) := by exact_mod_cast Nat.lt_log2_self (n := m)
  rw [bitLen, if_neg hm, show e + ((m.log2 + 1 : Nat) : Int) - 1 + 1 = ((m.log2 + 1 : Nat) : Int) + e by push_cast; ring,
    zpow_add₀ two_ne_zero, zpow_natCast]
  gcongr
  linarith

/-- R46: a magnitude, rounded with an unbounded exponent, is not below a limit, numbers just below which lie `u` apart. -/
def Reaches (rm : RMode) (neg : Bool) (a limit u : ℝ) : Prop :=
  match rm with
  | .rne | .rmm => limit - u / 2 ≤ a
  | .rtz => limit ≤ a
  | .rup => if neg = true then limit ≤ a else limit - u < a
  | .rdn => if neg = true then limit - u < a else limit ≤ a

theorem reaches_of_le {rm : RMode} {neg : Bool} {a limit u : ℝ} (hu : 0 < u) (h : limit ≤ a) :
    Reaches rm neg a limit u := by
  cases rm with
  | rne => simp only [Reaches]; linarith
  | rmm => simp only [Reaches]; linarith
  | rtz => exact h
  | rup => simp only [Reaches]; split <;> linarith
  | rdn => simp only [Reaches]; split <;> linarith

theorem le_of_reaches {rm : RMode} {neg : Bool} {a limit u : ℝ} (hu : 0 < u) (h : Reaches rm neg a limit u) :
    limit - u < a := by
  cases rm with
  | rne => simp only [Reaches] at h; linarith
  | rmm => simp only [Reaches] at h; linarith
  | rtz => simp only [Reaches] at h; linarith
  | rup => simp only [Reaches] at h; split at h <;> linarith
  | rdn => simp only [Reaches] at h; split at h <;> linarith

/-- In units of the last place: what is rounded to an integer reaches an even limit above it exactly by being rounded up
to it. -/
theorem reaches_iff_roundsUp {rm : RMode} {neg : Bool} {a : ℝ} {n : Nat} (hn : n ≤ a) (hn' : a < n + 1)
    (ho : n % 2 = 1) :
    Reaches rm neg a (n + 1) 1 ↔ RoundsUp rm neg a n := by
  have hne : (n : ℝ) < a ↔ a ≠ n := ⟨ne_of_gt, fun h => lt_of_le_of_ne hn h.symm⟩
  cases rm with
  | rne =>
    simp only [Reaches, RoundsUp, ho, and_true]
    rw [eq_comm, ← le_iff_lt_or_eq]
    constructor <;> intro h <;> linarith
  | rmm => simp only [Reaches, RoundsUp]; constructor <;> intro h <;> linarith
  | rtz => simp only [Reaches, RoundsUp, iff_false]; linarith
  | rup => cases neg <;> simp [Reaches, RoundsUp, hne, hn']
  | rdn => cases neg <;> simp [Reaches, RoundsUp, hne, hn']

/-- Scaling. -/
theorem reaches_mul {rm : RMode} {neg : Bool} {a limit u c : ℝ} (hc : 0 < c) :
    Reaches rm neg (a * c) (limit * c) (u * c) ↔ Reaches rm neg a limit u := by
  have h1 : limit * c - u * c / 2 = (limit - u / 2) * c := by ring
  have h2 : limit * c - u * c = (limit - u) * c := by ring
  cases rm <;> simp only [Reaches, h1, h2, mul_le_mul_iff_left₀ hc, mul_lt_mul_iff_left₀ hc]

/-- What lies between two consecutive powers of two is rounded, at `mb` places below the first, to a number from the first
to the second. -/
theorem roundedTo_bounds {rm : RMode} {neg : Bool} {a : ℝ} {r : Nat × Bool} {mb : Nat} (hr : RoundedTo rm neg a r)
    (hl : (2 : ℝ) ^ mb ≤ a) (hu : a < 2 ^ (mb + 1)) : 2 ^ mb ≤ r.1 ∧ r.1 ≤ 2 ^ (mb + 1) := by
  obtain ⟨n, hn, hn', -, hr⟩ := hr
  have h1 : 2 ^ mb < n + 1 := by exact_mod_cast hl.trans_lt hn'
  have h2 : n < 2 ^ (mb + 1) := by exact_mod_cast hn.trans_lt hu
  omega

/-- It becomes the second power of two exactly where it reaches it. -/
theorem rounded_eq_top_iff {rm : RMode} {neg : Bool} {a : ℝ} {r : Nat × Bool} {mb : Nat} (hr : RoundedTo rm neg a r)
    (hu : a < 2 ^ (mb + 1)) : 2 ^ (mb + 1) ≤ r.1 ↔ Reaches rm neg a (2 ^ (mb + 1)) 1 := by
  obtain ⟨n, hn, hn', -, hr⟩ := hr
  have h2 : n < 2 ^ (mb + 1) := by exact_mod_cast hn.trans_lt hu
  by_cases htop : n + 1 = 2 ^ (mb + 1)
  · have hodd : n % 2 = 1 := by have : 2 ∣ 2 ^ (mb + 1) := dvd_pow_self 2 (by omega); omega
    rw [show (2 : ℝ) ^ (mb + 1) = n + 1 by exact_mod_cast htop.symm, reaches_iff_roundsUp hn hn' hodd]
    rcases hr with ⟨hr, hup⟩ | ⟨hr, hup⟩
    · simp [hup, hr, htop]
    · simp only [hup, iff_false]; omega
  · have h3 : (n : ℝ) + 1 + 1 ≤ 2 ^ (mb + 1) := by exact_mod_cast (show n + 1 + 1 ≤ 2 ^ (mb + 1) by omega)
    refine ⟨fun h => by omega, fun h => ?_⟩
    have := le_of_reaches one_pos h
    linarith

/-- A power of two in units of 2^q. -/
theorem two_pow_le_mul_iff {A : ℝ} {p q : Int} {n : Nat} (h : p = q + n) :
    (2 : ℝ) ^ n ≤ A * 2 ^ (-q) ↔ 2 ^ p ≤ A := by
  rw [zpow_neg, ← div_eq_mul_inv, le_div_iff₀ (by positivity), h, zpow_add₀ two_ne_zero, zpow_natCast, mul_comm]

theorem mul_lt_two_pow_iff {A : ℝ} {p q : Int} {n : Nat} (h : p = q + n) :
    A * 2 ^ (-q) < (2 : ℝ) ^ n ↔ A < 2 ^ p := by
  rw [← not_le, two_pow_le_mul_iff h, not_le]

/-- The exponent after rounding with an unbounded exponent, against a power of two (R46). -/
theorem le_exponent_iff {rm : RMode} {neg : Bool} {A : ℝ} {ex : Int} {r : Nat × Bool} {mb : Nat}
    (hr : RoundedTo rm neg (A * 2 ^ (-(ex - mb))) r) (hl : (2 : ℝ) ^ ex ≤ A) (hu : A < 2 ^ (ex + 1)) (l : Int) :
    l ≤ (if r.1 ≥ 2 ^ (mb + 1) then ex + 1 else ex) ↔ Reaches rm neg A (2 ^ l) (2 ^ (l - 1 - mb)) := by
  have hpos (n : Int) : (0 : ℝ) < 2 ^ n := by positivity
  rcases le_or_gt l ex with h | h
  · have hle : (2 : ℝ) ^ l ≤ A := (zpow_le_zpow_right₀ one_le_two h).trans hl
    exact iff_of_true (by split <;> omega) (reaches_of_le (hpos _) hle)
  · rcases eq_or_lt_of_le (show ex + 1 ≤ l by omega) with h' | h'
    · subst h'
      have hA : A * 2 ^ (-(ex - mb)) * 2 ^ (ex - mb) = A := by
        rw [mul_assoc, ← zpow_add₀ two_ne_zero]; simp
      have hlim : (2 : ℝ) ^ (mb + 1) * 2 ^ (ex - mb) = 2 ^ (ex + 1) := by
        rw [← zpow_natCast, ← zpow_add₀ two_ne_zero]; congr 1; push_cast; ring
      have hu' : A * 2 ^ (-(ex - mb)) < 2 ^ (mb + 1) := (mul_lt_two_pow_iff (by push_cast; ring)).2 hu
      have hscale := reaches_mul (rm := rm) (neg := neg) (a := A * 2 ^ (-(ex - mb))) (limit := 2 ^ (mb + 1)) (u := 1)
        (hpos (ex - mb))
      rw [hA, hlim, one_mul] at hscale
      rw [show ex + 1 - 1 - (mb : Int) = ex - mb by ring, hscale, ← rounded_eq_top_iff hr hu']
      split <;> omega
    · refine iff_of_false (by split <;> omega) fun hreach => ?_
      have h1 := le_of_reaches (hpos _) hreach
      have h2 : (2 : ℝ) ^ (l - 1 - mb) ≤ 2 ^ (l - 1) := zpow_le_zpow_right₀ one_le_two (by omega)
      have h3 : (2 : ℝ) ^ (ex + 1) ≤ 2 ^ (l - 1) := zpow_le_zpow_right₀ one_le_two (by omega)
      have h4 : (2 : ℝ) ^ l = 2 ^ (l - 1) + 2 ^ (l - 1) := by
        rw [← two_mul, ← zpow_one_add₀ two_ne_zero]; congr 1; ring
      linarith

-- The numbers of a format

/-- The real number that a finite value is; 0 for the others, as in `FSpec.Rounds`. -/
noncomputable def FVal.real : FVal → ℝ
  | .fin n m e => (if n then -1 else 1) * m * (2 : ℝ) ^ e
  | _ => 0

/-- The finite numbers of a format (R35). -/
def FSpec.numbers (F : FSpec) : Set ℝ :=
  { x | ∃ w < 2 ^ F.width, (∃ n m e, F.decode w = .fin n m e) ∧ x = (F.decode w).real }

theorem abs_real_fin (n : Bool) (m : Nat) (e : Int) : |(FVal.fin n m e).real| = m * 2 ^ e := by
  have h : (0 : ℝ) ≤ m * 2 ^ e := by positivity
  cases n <;> simp [FVal.real, abs_of_nonneg h]

/-- R35, R36: below the top exponent code the fields are those of a finite number. -/
theorem decode_fin {F : FSpec} {w : Nat} (he : w / 2 ^ F.mb % 2 ^ F.eb ≠ 2 ^ F.eb - 1) :
    F.decode w = .fin (decide (w / 2 ^ (F.eb + F.mb) % 2 = 1))
      (if w / 2 ^ F.mb % 2 ^ F.eb = 0 then w % 2 ^ F.mb else w % 2 ^ F.mb + 2 ^ F.mb)
      (if w / 2 ^ F.mb % 2 ^ F.eb = 0 then F.emin - F.mb else (w / 2 ^ F.mb % 2 ^ F.eb : Nat) - F.bias - F.mb) := by
  unfold FSpec.decode
  have hieee : (decide (F.top = .ieee) && decide (w / 2 ^ F.mb % 2 ^ F.eb = 2 ^ F.eb - 1)) = false := by simp [he]
  have hnan : (decide (F.top = .e4m3) && decide (w / 2 ^ F.mb % 2 ^ F.eb = 2 ^ F.eb - 1) &&
      decide (w % 2 ^ F.mb = 2 ^ F.mb - 1)) = false := by simp [he]
  simp only [hieee, hnan, Bool.false_eq_true, if_false]
  split <;> rfl

/-- The top exponent code holds no finite number (Table 2.2). -/
theorem exponent_ne_top_of_fin {F : FSpec} (hF : F.Ieee) {w m : Nat} {n : Bool} {e : Int} (h : F.decode w = .fin n m e) :
    w / 2 ^ F.mb % 2 ^ F.eb ≠ 2 ^ F.eb - 1 := by
  intro htop
  unfold FSpec.decode at h
  simp only [hF.top, htop, decide_true, Bool.and_true, if_true] at h
  split at h <;> cases h

/-- A finite number's significand has at most one bit more than the fraction, and its exponent is one of the format's. -/
theorem fin_bounds {F : FSpec} (hF : F.Ieee) {w m : Nat} {n : Bool} {e : Int} (h : F.decode w = .fin n m e) :
    m < 2 ^ (F.mb + 1) ∧ F.emin - F.mb ≤ e := by
  have hmod : w % 2 ^ F.mb < 2 ^ F.mb := Nat.mod_lt _ (Nat.two_pow_pos _)
  rw [decode_fin (exponent_ne_top_of_fin hF h), FVal.fin.injEq] at h
  obtain ⟨-, rfl, rfl⟩ := h
  unfold FSpec.emin
  rw [pow_succ]
  constructor <;> split <;> omega

/-- Between the truncation of a magnitude to the places that its exponent leaves, and the next such multiple, the format
has no number. -/
theorem numbers_grid {F : FSpec} (hF : F.Ieee) {A : ℝ} {k n : Nat} (hk : k = 0 ∨ (2 : ℝ) ^ (k + F.emin) ≤ A)
    (hn : A < (n + 1) * 2 ^ (k + F.emin - F.mb)) {x : ℝ} (hx : x ∈ F.numbers) :
    |x| ≤ n * 2 ^ (k + F.emin - F.mb) ∨ (n + 1) * 2 ^ (k + F.emin - F.mb) ≤ |x| := by
  obtain ⟨w, -, ⟨s, m, e, hw⟩, rfl⟩ := hx
  obtain ⟨hm, he⟩ := fin_bounds hF hw
  rw [hw, abs_real_fin]
  generalize hq : k + F.emin - F.mb = q at *
  have hpos : (0 : ℝ) < 2 ^ q := by positivity
  rcases le_or_gt q e with h | h
  · obtain ⟨k, rfl⟩ : ∃ k : Nat, e = k + q := ⟨(e - q).toNat, by omega⟩
    have hx : (m : ℝ) * 2 ^ (k + q) = (m * 2 ^ k : Nat) * 2 ^ q := by
      rw [zpow_add₀ two_ne_zero, zpow_natCast]
      push_cast; ring
    rw [hx, mul_le_mul_iff_left₀ hpos, mul_le_mul_iff_left₀ hpos]
    rcases Nat.lt_or_ge n (m * 2 ^ k) with h | h
    · exact .inr (by exact_mod_cast h)
    · exact .inl (by exact_mod_cast h)
  · have hpow : (2 : ℝ) ^ (k + F.emin) = (2 ^ F.mb : Nat) * 2 ^ q := by
      rw [show (k : Int) + F.emin = F.mb + q by omega, zpow_add₀ two_ne_zero, zpow_natCast]; push_cast; ring
    have hmn : 2 ^ F.mb ≤ n := by
      have := (hk.resolve_left (by omega)).trans_lt hn
      rw [hpow, mul_lt_mul_iff_left₀ hpos] at this
      have : 2 ^ F.mb < n + 1 := by exact_mod_cast this
      omega
    left
    calc (m : ℝ) * 2 ^ e ≤ (2 ^ (F.mb + 1) : Nat) * 2 ^ (q - 1) := by
          gcongr
          · exact one_le_two
          · omega
      _ = (2 ^ F.mb : Nat) * 2 ^ q := by
          rw [pow_succ, zpow_sub_one₀ two_ne_zero]; push_cast; ring
      _ ≤ n * 2 ^ q := by gcongr

theorem two_pow_width (F : FSpec) : 2 ^ F.width = 2 ^ (F.eb + F.mb) + 2 ^ (F.eb + F.mb) := by
  rw [FSpec.width, add_assoc, add_comm 1, pow_succ, mul_two]

theorem width_sub_one (F : FSpec) : F.width - 1 = F.eb + F.mb := by unfold FSpec.width; omega

/-- Bits with a sign: they fit the format, the top bit is the sign, and those below it are what they were. -/
theorem sign_add (F : FSpec) (s : Bool) {b : Nat} (hb : b < 2 ^ (F.eb + F.mb)) :
    F.sign s + b < 2 ^ F.width ∧ (F.sign s + b).testBit (F.width - 1) = s ∧
      (F.sign s + b) % 2 ^ (F.width - 1) = b := by
  rw [width_sub_one, two_pow_width]
  cases s with
  | false => simp [FSpec.sign, Nat.testBit_lt_two_pow hb, Nat.mod_eq_of_lt hb]; omega
  | true => simp [FSpec.sign, Nat.testBit_two_pow_add_eq, Nat.testBit_lt_two_pow hb, Nat.mod_eq_of_lt hb, hb]

/-- The fields of bits below the sign, with a sign. -/
theorem sign_fields (F : FSpec) (s : Bool) {b : Nat} (hb : b < 2 ^ (F.eb + F.mb)) :
    decide ((F.sign s + b) / 2 ^ (F.eb + F.mb) % 2 = 1) = s ∧
      (F.sign s + b) / 2 ^ F.mb % 2 ^ F.eb = b / 2 ^ F.mb ∧ (F.sign s + b) % 2 ^ F.mb = b % 2 ^ F.mb := by
  have hdiv : b / 2 ^ F.mb < 2 ^ F.eb := Nat.div_lt_of_lt_mul (by rwa [← pow_add, add_comm])
  refine ⟨by rw [← Nat.testBit_eq_decide_div_mod_eq, ← width_sub_one, (sign_add F s hb).2.1], ?_⟩
  cases s with
  | false => simp [FSpec.sign, Nat.mod_eq_of_lt hdiv]
  | true =>
    have h2 : 2 ^ (F.eb + F.mb) + b = b + 2 ^ F.mb * 2 ^ F.eb := by rw [pow_add]; ring
    refine ⟨?_, by simp [FSpec.sign, h2]⟩
    simp only [FSpec.sign, if_true]
    rw [h2, Nat.add_mul_div_left _ _ (Nat.two_pow_pos _), Nat.add_mod_right, Nat.mod_eq_of_lt hdiv]

/-- The number that a sign, an exponent field of k and a significand give; a significand of one unit too many carries into
the exponent field. -/
theorem decode_sign_add {F : FSpec} (s : Bool) {k r : Nat} (hr : r ≤ 2 ^ (F.mb + 1))
    (hk : k = 0 ∨ 2 ^ F.mb ≤ r) (hb : k * 2 ^ F.mb + r < F.infBits) :
    ∃ m e, F.decode (F.sign s + (k * 2 ^ F.mb + r)) = .fin s m e ∧
      (m : ℝ) * 2 ^ e = r * 2 ^ (k + F.emin - F.mb) := by
  have hp : 0 < 2 ^ F.mb := Nat.two_pow_pos _
  have hb' : k * 2 ^ F.mb + r < 2 ^ (F.eb + F.mb) := by
    refine hb.trans_le ?_
    rw [FSpec.infBits, pow_add]
    exact Nat.mul_le_mul_right _ (Nat.sub_le _ _)
  obtain ⟨hs, hE, hM⟩ := sign_fields F s hb'
  have hdiv : (k * 2 ^ F.mb + r) / 2 ^ F.mb = k + r / 2 ^ F.mb := by
    rw [add_comm, Nat.add_mul_div_right _ _ hp, add_comm]
  have hmod : (k * 2 ^ F.mb + r) % 2 ^ F.mb = r % 2 ^ F.mb := by
    rw [add_comm, Nat.add_mul_mod_self_right]
  have htop : (F.sign s + (k * 2 ^ F.mb + r)) / 2 ^ F.mb % 2 ^ F.eb ≠ 2 ^ F.eb - 1 := by
    rw [hE]
    exact ((Nat.div_lt_iff_lt_mul hp).2 hb).ne
  rw [decode_fin htop, hs, hE, hM, hdiv, hmod]
  refine ⟨_, _, rfl, ?_⟩
  unfold FSpec.emin
  rcases Nat.lt_or_ge r (2 ^ F.mb) with h | h
  · obtain rfl : k = 0 := hk.resolve_right (by omega)
    simp [Nat.div_eq_of_lt h, Nat.mod_eq_of_lt h]
  · rcases Nat.lt_or_eq_of_le hr with h' | rfl
    · obtain ⟨f, rfl⟩ := Nat.exists_eq_add_of_le' h
      have hf : f < 2 ^ F.mb := by omega
      simp [Nat.add_div_right _ hp, Nat.div_eq_of_lt hf, Nat.mod_eq_of_lt hf]
      left
      ring
    · rw [pow_succ, Nat.mul_div_cancel_left _ hp]
      simp only [Nat.cast_mul, Nat.cast_pow, Nat.cast_ofNat, Nat.add_eq_zero_iff, OfNat.ofNat_ne_zero, and_false,
        if_false, Nat.mul_mod_right, zero_add, Nat.cast_add]
      rw [mul_assoc, ← zpow_one_add₀ two_ne_zero]
      congr 2
      ring

/-- Table 2.7 over the reals, in units of the last place and with the sign of `neg` taken for positive: `a` rounded to `r`
is served as well as by `t`. -/
def Serves (rm : RMode) (neg : Bool) (a : ℝ) (r : Nat) (t : ℝ) : Prop :=
  let below := r ≤ a ∧ (t ≤ a → t ≤ r)
  let above := a ≤ r ∧ (a ≤ t → r ≤ t)
  match rm with
  | .rtz => r ≤ a ∧ (|t| ≤ a → |t| ≤ r)
  | .rdn => if neg = true then above else below
  | .rup => if neg = true then below else above
  | .rne => |a - r| ≤ |a - t| ∧ (|a - r| = |a - t| → t = r ∨ r % 2 = 0)
  | .rmm => |a - r| ≤ |a - t| ∧ (|a - r| = |a - t| → |t| ≤ r)

/-- The truncation serves where it is not rounded up. -/
theorem serves_truncated {rm : RMode} {neg : Bool} {a t : ℝ} {n : Nat} (hn : n ≤ a) (hn' : a < n + 1)
    (ht : |t| ≤ n ∨ n + 1 ≤ |t|) (hgrid : t ≤ n ∨ n + 1 ≤ t) (hu : ¬ RoundsUp rm neg a n) :
    Serves rm neg a n t := by
  have hdown : t ≤ a → t ≤ n := fun h => hgrid.resolve_right (by linarith)
  have hr : |a - n| = a - n := abs_of_nonneg (by linarith)
  have habs : |a - t| = if t ≤ n then a - t else t - a := by
    split
    · exact abs_of_nonneg (by linarith)
    · rw [abs_sub_comm]; exact abs_of_nonneg (by linarith [hgrid.resolve_left ‹_›])
  cases rm with
  | rtz => exact ⟨hn, fun h => ht.resolve_right (by linarith)⟩
  | rdn =>
    cases neg with
    | false => exact ⟨hn, hdown⟩
    | true =>
      have he : a = n := by simpa [RoundsUp] using hu
      exact ⟨he.le, fun h => he ▸ h⟩
  | rup =>
    cases neg with
    | true => exact ⟨hn, hdown⟩
    | false =>
      have he : a = n := by simpa [RoundsUp] using hu
      exact ⟨he.le, fun h => he ▸ h⟩
  | rne =>
    simp only [RoundsUp, not_or, not_lt, not_and] at hu
    simp only [Serves, hr, habs]
    split
    · exact ⟨by linarith, fun h => .inl (by linarith)⟩
    · have := hgrid.resolve_left ‹_›
      exact ⟨by linarith, fun h => .inr (by have := hu.2 (by linarith); omega)⟩
  | rmm =>
    simp only [RoundsUp, not_le] at hu
    simp only [Serves, hr, habs]
    split
    · refine ⟨by linarith, fun h => ?_⟩
      rw [show t = n by linarith, Nat.abs_cast]
    · have := hgrid.resolve_left ‹_›
      exact ⟨by linarith, fun h => by linarith⟩

/-- The next integer serves where it is rounded up to. -/
theorem serves_roundedUp {rm : RMode} {neg : Bool} {a t : ℝ} {n : Nat} (hn : n ≤ a) (hn' : a < n + 1)
    (hgrid : t ≤ n ∨ n + 1 ≤ t) (hu : RoundsUp rm neg a n) : Serves rm neg a (n + 1) t := by
  have hup : a ≠ n → a ≤ t → ((n + 1 : Nat) : ℝ) ≤ t := fun hne h => by
    push_cast
    exact hgrid.resolve_left fun h' => hne (le_antisymm (h.trans h') hn)
  have hle : a ≤ ((n + 1 : Nat) : ℝ) := by push_cast; exact hn'.le
  have hr : |a - (n + 1 : Nat)| = n + 1 - a := by rw [abs_sub_comm, abs_of_nonneg (by linarith)]; push_cast; rfl
  have habs : |a - t| = if t ≤ n then a - t else t - a := by
    split
    · exact abs_of_nonneg (by linarith)
    · rw [abs_sub_comm]; exact abs_of_nonneg (by linarith [hgrid.resolve_left ‹_›])
  cases rm with
  | rtz => exact hu.elim
  | rdn => obtain ⟨hne, rfl⟩ := hu; exact ⟨hle, hup hne⟩
  | rup => obtain ⟨hne, rfl⟩ := hu; exact ⟨hle, hup hne⟩
  | rne =>
    have hhalf : 1 / 2 ≤ a - n := by rcases hu with h | h <;> linarith [h]
    simp only [Serves, hr, habs]
    split
    · refine ⟨by linarith, fun h => .inr ?_⟩
      have := (hu.resolve_left (by linarith)).2
      omega
    · have := hgrid.resolve_left ‹_›
      exact ⟨by linarith, fun h => .inl (by push_cast; linarith)⟩
  | rmm =>
    have hhalf : 1 / 2 ≤ a - n := hu
    have h0 : (0 : ℝ) ≤ n := n.cast_nonneg
    simp only [Serves, hr, habs]
    split
    · refine ⟨by linarith, fun h => ?_⟩
      rw [show t = n by linarith, Nat.abs_cast]; push_cast; linarith
    · have := hgrid.resolve_left ‹_›
      refine ⟨by linarith, fun h => ?_⟩
      rw [show t = (n + 1 : Nat) by push_cast; linarith, Nat.abs_cast]

/-- What a magnitude is rounded to serves it as well as any number that the gap around it leaves. -/
theorem RoundedTo.serves {rm : RMode} {neg : Bool} {a : ℝ} {r : Nat × Bool} (hr : RoundedTo rm neg a r) {t : ℝ}
    (ht : ∀ n : Nat, a < n + 1 → |t| ≤ n ∨ n + 1 ≤ |t|) : Serves rm neg a r.1 t := by
  obtain ⟨n, hn, hn', -, hr⟩ := hr
  have hgrid : t ≤ n ∨ n + 1 ≤ t := by
    rcases ht n hn' with h | h
    · exact .inl ((le_abs_self t).trans h)
    · rcases abs_cases t with ⟨ha, -⟩ | ⟨ha, hneg⟩
      · exact .inr (ha ▸ h)
      · exact .inl (hneg.le.trans n.cast_nonneg)
  rcases hr with ⟨hr, hu⟩ | ⟨hr, hu⟩ <;> rw [hr]
  · exact serves_roundedUp hn hn' hgrid hu
  · exact serves_truncated hn hn' (ht n hn') hgrid hu

/-- An overflow that R46 answers with an infinity. -/
def OverflowsToInf (rm : RMode) (neg : Bool) : Bool :=
  match rm with | .rne | .rmm => true | .rtz => false | .rup => !neg | .rdn => neg

/-- Below the infinity stands the largest number (Table 2.3). -/
theorem maxBits_eq {F : FSpec} (hF : F.Ieee) : F.maxBits = F.infBits - 1 := by
  have h4 : 2 ^ 2 ≤ 2 ^ F.eb := Nat.pow_le_pow_right two_pos hF.eb
  have hp : 0 < 2 ^ F.mb := Nat.two_pow_pos _
  obtain ⟨k, hk⟩ := Nat.exists_eq_add_of_le' h4
  simp only [FSpec.maxBits, FSpec.emax, FSpec.maxSig, FSpec.infBits, hF.top, hk, pow_succ _ F.mb]
  rw [show ((k + 2 ^ 2 : Nat) - 2 - (F.bias : Int) + F.bias - 1).toNat = k + 1 by omega,
    show k + 2 ^ 2 - 1 = k + 1 + 2 by omega, add_mul (k + 1) 2]
  omega

/-- R46 for a row with infinities: the magnitude is rounded in units of its last place; it overflows where its exponent,
rounded unbounded, exceeds the largest. -/
theorem round_eq {F : FSpec} (hF : F.Ieee) (rm : RMode) (neg : Bool) (m : Nat) (e : Int) (sticky : Bool) :
    let ex : Int := e + bitLen m - 1
    let exR : Int := if (roundQ rm neg m e sticky (ex - F.mb)).1 ≥ 2 ^ (F.mb + 1) then ex + 1 else ex
    let q := max ex F.emin - F.mb
    let r := roundQ rm neg m e sticky q
    F.round rm neg m e sticky =
      if F.emax < exR then (F.sign neg + if OverflowsToInf rm neg then F.infBits else F.infBits - 1, flOF ||| flNX)
      else (F.sign neg + if r.1 = 0 then 0 else (max ex F.emin - F.emin).toNat * 2 ^ F.mb + r.1,
        flagIf r.2 flNX ||| flagIf (r.2 && exR < F.emin) flUF) := by
  intro ex exR q r
  have hk : q + F.mb + F.bias - 1 = max ex F.emin - F.emin := by simp only [q, FSpec.emin]; omega
  have hsig (u : Nat) : ¬ (if u ≥ 2 ^ (F.mb + 1) then 2 ^ F.mb else u) > F.maxSig := by
    have := Nat.two_pow_pos F.mb
    simp only [FSpec.maxSig, hF.top, pow_succ]
    split <;> omega
  unfold FSpec.round
  extract_lets unb exR' big toInf tiny bits
  have hbig : big = decide (F.emax < exR) := by
    have := hsig unb
    simp only [big, gt_iff_lt, this, decide_false, Bool.and_false, Bool.or_false]
    rfl
  have hinf : toInf = OverflowsToInf rm neg := by
    simp only [toInf, hF.top, decide_true, Bool.true_and]
    rfl
  rw [hbig, hinf, maxBits_eq hF]
  simp only [decide_eq_true_eq, bits, tiny]
  rw [hk]

section
variable {F : FSpec} (hF : F.Ieee) {rm : RMode} {neg : Bool} {A : ℝ} {ex : Int}
  (hl : (2 : ℝ) ^ ex ≤ A) (hu : A < 2 ^ (ex + 1))
include hF hl hu

/-- A magnitude that does not overflow is rounded to a significand that fits below the infinity's bits; it has its top bit
but for the smallest exponent. -/
theorem significand_bounds {roundAt : Int → Nat × Bool}
    (hr : ∀ q, ex - F.mb ≤ q → RoundedTo rm neg (A * 2 ^ (-q)) (roundAt q))
    (hmax : (if (roundAt (ex - F.mb)).1 ≥ 2 ^ (F.mb + 1) then ex + 1 else ex) ≤ F.emax) :
    let r := (roundAt (max ex F.emin - F.mb)).1
    let k := (max ex F.emin - F.emin).toNat
    r ≤ 2 ^ (F.mb + 1) ∧ (k = 0 ∨ 2 ^ F.mb ≤ r) ∧ (r = 0 → k = 0) ∧ k * 2 ^ F.mb + r < F.infBits := by
  intro r k
  have h4 : 2 ^ 2 ≤ 2 ^ F.eb := Nat.pow_le_pow_right two_pos hF.eb
  have hp : 0 < 2 ^ F.mb := Nat.two_pow_pos _
  have hemax : F.emax - F.emin = (2 ^ F.eb : Nat) - 3 := by simp only [FSpec.emax, FSpec.emin, hF.top]; ring
  rcases le_or_gt F.emin ex with h | h
  · have hrk : r = (roundAt (ex - F.mb)).1 := by simp only [r, max_eq_left h]
    obtain ⟨h1, h2⟩ := roundedTo_bounds (hr (ex - F.mb) le_rfl) ((two_pow_le_mul_iff (by ring)).2 hl)
      ((mul_lt_two_pow_iff (by push_cast; ring)).2 hu)
    rw [← hrk] at h1 h2 hmax
    refine ⟨h2, .inr h1, by omega, ?_⟩
    have hk : (k : Int) = ex - F.emin := by simp only [k, max_eq_left h]; omega
    rw [FSpec.infBits]
    split at hmax
    · calc k * 2 ^ F.mb + r ≤ (k + 2) * 2 ^ F.mb := by rw [pow_succ] at h2; linarith
        _ < (2 ^ F.eb - 1) * 2 ^ F.mb := by gcongr; omega
    · next hlt =>
      calc k * 2 ^ F.mb + r < (k + 2) * 2 ^ F.mb := by rw [pow_succ] at hlt; linarith
        _ ≤ (2 ^ F.eb - 1) * 2 ^ F.mb := by gcongr; omega
  · have hk : k = 0 := by simp only [k]; omega
    have hq : max ex F.emin - F.mb = F.emin - F.mb := by omega
    have hr' : r ≤ 2 ^ F.mb := by
      obtain ⟨n, hn, -, -, hr⟩ := hr (max ex F.emin - F.mb) (by omega)
      have hA : A < 2 ^ F.emin := hu.trans_le (zpow_le_zpow_right₀ one_le_two (by omega))
      have : n < 2 ^ F.mb := by
        exact_mod_cast hn.trans_lt ((mul_lt_two_pow_iff (by rw [hq]; ring)).2 hA)
      change r = _ ∧ _ ∨ r = _ ∧ _ at hr
      omega
    refine ⟨by rw [pow_succ]; omega, .inl hk, fun _ => hk, ?_⟩
    rw [hk, zero_mul, zero_add, FSpec.infBits]
    calc r ≤ 1 * 2 ^ F.mb := by omega
      _ < (2 ^ F.eb - 1) * 2 ^ F.mb := by gcongr; omega

end

theorem lt_sign_of_le_infBits {F : FSpec} {b : Nat} (hb : b ≤ F.infBits) : b < 2 ^ (F.eb + F.mb) := by
  have h : F.infBits < 2 ^ (F.eb + F.mb) := by
    rw [FSpec.infBits, pow_add]
    exact Nat.mul_lt_mul_of_pos_right (Nat.sub_lt (Nat.two_pow_pos _) one_pos) (Nat.two_pow_pos _)
  omega

/-- The sign as a factor. -/
def signum (neg : Bool) : ℝ := if neg = true then -1 else 1

theorem abs_signum_mul (neg : Bool) (x : ℝ) : |signum neg * x| = |x| := by
  cases neg <;> simp [signum]

theorem signum_ne_zero (neg : Bool) : signum neg ≠ 0 := by cases neg <;> simp [signum]

/-- R46 of signed numbers, from `Serves` of what they are in units of `c`. -/
theorem serves_signed {rm : RMode} {neg : Bool} {a c : ℝ} (ha : 0 ≤ a) (hc : 0 < c) {r b : Nat} (hb : b % 2 = r % 2)
    {S : Set ℝ} (hS : S.Nonempty) (h : ∀ x ∈ S, ∃ t, x = signum neg * (t * c) ∧ Serves rm neg a r t) :
    let y := signum neg * (a * c)
    let v := signum neg * (r * c)
    match (generalizing := false) rm with
    | .rtz => |v| ≤ |y| ∧ ∀ x ∈ S, |x| ≤ |y| → |x| ≤ |v|
    | .rdn => v ≤ y ∧ ∀ x ∈ S, x ≤ y → x ≤ v
    | .rup => y ≤ v ∧ ∀ x ∈ S, y ≤ x → v ≤ x
    | .rne => ∀ x ∈ S, |y - v| ≤ |y - x| ∧ (|y - v| = |y - x| → x = v ∨ b % 2 = 0)
    | .rmm => ∀ x ∈ S, |y - v| ≤ |y - x| ∧ (|y - v| = |y - x| → |x| ≤ |v|) := by
  have habs (u : ℝ) : |signum neg * (u * c)| = |u| * c := by rw [abs_signum_mul, abs_mul, abs_of_pos hc]
  have hsub (u w : ℝ) : |signum neg * (u * c) - signum neg * (w * c)| = |u - w| * c := by
    rw [← mul_sub, ← sub_mul, habs]
  have hle (u w : ℝ) : signum neg * (u * c) ≤ signum neg * (w * c) ↔ if neg = true then w ≤ u else u ≤ w := by
    cases neg <;> simp [signum, mul_le_mul_iff_left₀ hc]
  obtain ⟨x₀, hx₀⟩ := hS
  obtain ⟨t₀, -, h₀⟩ := h x₀ hx₀
  have hr : |(r : ℝ)| = r := Nat.abs_cast r
  intro y v
  cases rm with
  | rtz =>
    refine ⟨?_, fun x hx => ?_⟩
    · rw [habs, habs, hr, abs_of_nonneg ha, mul_le_mul_iff_left₀ hc]
      exact h₀.1
    · obtain ⟨t, rfl, ht⟩ := h x hx
      rw [habs, habs, habs, hr, abs_of_nonneg ha, mul_le_mul_iff_left₀ hc, mul_le_mul_iff_left₀ hc]
      exact ht.2
  | rne =>
    intro x hx
    obtain ⟨t, rfl, ht⟩ := h x hx
    rw [hsub, hsub, mul_le_mul_iff_left₀ hc, mul_left_inj' hc.ne', hb]
    exact ⟨ht.1, fun he => (ht.2 he).imp_left fun he => by rw [he]⟩
  | rmm =>
    intro x hx
    obtain ⟨t, rfl, ht⟩ := h x hx
    rw [hsub, hsub, habs, habs, hr, mul_le_mul_iff_left₀ hc, mul_le_mul_iff_left₀ hc, mul_left_inj' hc.ne']
    exact ht
  | rdn =>
    refine ⟨(hle _ _).2 ?_, fun x hx => ?_⟩
    · cases neg <;> exact h₀.1
    · obtain ⟨t, rfl, ht⟩ := h x hx
      rw [hle, hle]
      cases neg <;> exact ht.2
  | rup =>
    refine ⟨(hle _ _).2 ?_, fun x hx => ?_⟩
    · cases neg <;> exact h₀.1
    · obtain ⟨t, rfl, ht⟩ := h x hx
      rw [hle, hle]
      cases neg <;> exact ht.2

/-- The flags of a result that does not overflow, bit by bit (01 Table 1.4). -/
theorem flag_bits (i t : Bool) :
    let f := flagIf i flNX ||| flagIf (i && t) flUF
    f.getLsbD 4 = i ∧ f.getLsbD 3 = (i && t) ∧
      f.getLsbD 2 = false ∧ f.getLsbD 1 = false ∧ f.getLsbD 0 = false := by
  cases i <;> cases t <;> decide

/-- The second component says that the first is not the number itself. -/
theorem RoundedTo.inexact_iff {rm : RMode} {neg : Bool} {a : ℝ} {r : Nat × Bool} (hr : RoundedTo rm neg a r) :
    r.2 = true ↔ (r.1 : ℝ) ≠ a := by
  obtain ⟨n, hn, hn', hi, hr⟩ := hr
  rw [hi]
  rcases hr with ⟨hr, hu⟩ | ⟨hr, -⟩ <;> rw [hr]
  · refine iff_of_true (fun h => ?_) (by push_cast; exact hn'.ne')
    subst h
    cases rm <;> norm_num [RoundsUp] at hu
  · exact ne_comm

/-- A number outside the gap around a magnitude, in units of `c` and with the sign of `neg` taken for positive. -/
theorem exists_serves {rm : RMode} {neg : Bool} {a c x : ℝ} (hc : 0 < c) {s : Nat} {i : Bool}
    (hr : RoundedTo rm neg a (s, i)) (hx : ∀ n : Nat, a < n + 1 → |x| ≤ n * c ∨ (n + 1) * c ≤ |x|) :
    ∃ t, x = signum neg * (t * c) ∧ Serves rm neg a s t := by
  have hss : signum neg * signum neg = 1 := by cases neg <;> norm_num [signum]
  refine ⟨signum neg * (x / c), ?_, hr.serves fun n hn => ?_⟩
  · rw [mul_assoc, ← mul_assoc, hss, one_mul, div_mul_cancel₀ x hc.ne']
  · rw [abs_signum_mul, abs_div, abs_of_pos hc, div_le_iff₀ hc, le_div_iff₀ hc]
    exact hx n hn

/-- A result is even where its significand is. -/
theorem sign_add_mod_two {F : FSpec} (hF : F.Ieee) (neg : Bool) (k s : Nat) :
    (F.sign neg + (k * 2 ^ F.mb + s)) % 2 = s % 2 := by
  have h1 : 2 ∣ F.sign neg := by
    unfold FSpec.sign
    split
    · exact dvd_pow_self 2 (by have := hF.mb; omega)
    · exact dvd_zero 2
  have h2 : 2 ∣ k * 2 ^ F.mb := (dvd_pow_self 2 (by have := hF.mb; omega)).mul_left k
  omega

/-- A result for which R46 holds, for a row with infinities: the overflow's, or the rounded significand with the exponent
field of k, the format's own or the number's. -/
theorem rounds_of_cases {F : FSpec} (hF : F.Ieee) {rm : RMode} {neg : Bool} {A : ℝ} (hA : 0 < A) {r : Nat × Flags}
    {ovf tiny : Prop} [Decidable ovf] [Decidable tiny]
    (hover : ovf ↔ Reaches rm neg A (2 ^ (F.emax + 1)) (2 ^ (F.emax - F.mb)))
    (htiny : tiny ↔ ¬ Reaches rm neg A (2 ^ F.emin) (2 ^ (F.emin - 1 - F.mb)))
    {k s : Nat} {inexact : Bool}
    (hr : r = if ovf then (F.sign neg + if OverflowsToInf rm neg then F.infBits else F.infBits - 1, flOF ||| flNX)
      else (F.sign neg + (k * 2 ^ F.mb + s), flagIf inexact flNX ||| flagIf (inexact && tiny) flUF))
    (hs : ¬ ovf → s ≤ 2 ^ (F.mb + 1) ∧ (k = 0 ∨ 2 ^ F.mb ≤ s) ∧ k * 2 ^ F.mb + s < F.infBits)
    (hround : RoundedTo rm neg (A * 2 ^ (-(k + F.emin - F.mb))) (s, inexact))
    (hk : k = 0 ∨ (2 : ℝ) ^ (k + F.emin) ≤ A) : F.Rounds rm (signum neg * A) r := by
  have habs : |signum neg * A| = A := by rw [abs_signum_mul, abs_of_pos hA]
  have hneg : signum neg * A < 0 ↔ neg = true := by cases neg <;> simp [signum, hA, hA.le]
  have hpos : 0 < signum neg * A ↔ neg = false := by cases neg <;> simp [signum, hA, hA.le]
  unfold FSpec.Rounds
  intro val reaches overflows tiny' toInf numbers
  have hreaches (l u : ℝ) : reaches l u ↔ Reaches rm neg A l u := by
    cases rm <;> simp only [reaches, Reaches, habs, hneg]
  have hover' : overflows ↔ ovf := (hreaches _ _).trans hover.symm
  have htiny' : tiny' ↔ tiny := (not_congr (hreaches _ _)).trans htiny.symm
  have hinf : toInf ↔ OverflowsToInf rm neg = true := by
    cases rm <;> simp [toInf, OverflowsToInf, hpos, hneg]
  rw [hover', hinf]
  by_cases ho : ovf
  · rw [if_pos ho] at hr
    have hb : (if OverflowsToInf rm neg = true then F.infBits else F.infBits - 1) ≤ F.infBits := by split <;> omega
    obtain ⟨hw, hsign, hmod⟩ := sign_add F neg (lt_sign_of_le_infBits hb)
    rw [hr]
    refine ⟨hw, by rw [hsign, hneg], fun _ => ⟨rfl, fun h => ?_, fun h => ?_⟩, fun h => absurd ho h⟩
    · rw [hmod, if_pos h]
    · rw [hmod, if_neg h]
  · rw [if_neg ho] at hr
    obtain ⟨hs, hks, hb⟩ := hs ho
    obtain ⟨hw, hsign, hmod⟩ := sign_add F neg (lt_sign_of_le_infBits hb.le)
    obtain ⟨m, e, hdec, hme⟩ := decode_sign_add neg hs hks hb
    have hc : (0 : ℝ) < 2 ^ (k + F.emin - F.mb) := by positivity
    have hAa : A * 2 ^ (-(k + F.emin - F.mb)) * 2 ^ (k + F.emin - F.mb) = A := by
      rw [mul_assoc, ← zpow_add₀ two_ne_zero, neg_add_cancel, zpow_zero, mul_one]
    have hval : val = FVal.real := by ext v; cases v <;> rfl
    have hnum : numbers = F.numbers := by simp only [numbers, hval, FSpec.numbers]
    subst hr
    refine ⟨hw, by rw [hsign, hneg], fun h => absurd h ho, ?_⟩
    intro _ v
    have hv : v = signum neg * (s * 2 ^ (k + F.emin - F.mb)) := by
      simp only [v, hval]
      rw [hdec, ← hme, FVal.real, signum, mul_assoc]
    have hi : inexact = true ↔ v ≠ signum neg * A := by
      rw [hv, hround.inexact_iff, ← hAa, ne_eq, ne_eq, mul_right_inj' (signum_ne_zero neg), mul_left_inj' hc.ne', hAa]
    obtain ⟨hnx, huf, hof, hdz, hnv⟩ := flag_bits inexact (decide tiny)
    rw [htiny', ← hi, hv, hnum]
    refine ⟨⟨neg, m, e, hdec⟩, by rw [hnx], by rw [huf]; simp, hof, hdz, hnv, ?_⟩
    have hbest := serves_signed (S := F.numbers) (mul_nonneg hA.le (by positivity)) hc (sign_add_mod_two hF neg k s)
      ⟨_, F.sign neg + (k * 2 ^ F.mb + s), hw, ⟨neg, m, e, hdec⟩, rfl⟩ fun x hx =>
        exists_serves hc hround fun n hn => numbers_grid hF hk (by rwa [← hAa, mul_lt_mul_iff_left₀ hc]) hx
    rw [hAa] at hbest
    cases rm <;> exact hbest

/-- R46 with Table 2.7: `FSpec.round` rounds the real number (m + d) * 2^e; something discarded below m asks for
more bits of m than the format's significand has. -/
theorem round_rounds {F : FSpec} (hF : F.Ieee) (rm : RMode) (neg : Bool) {m : Nat} (hm : m ≠ 0) (e : Int)
    {sticky : Bool} {d : ℝ} (hd : Discards sticky d) (hs : sticky = true → F.mb + 1 < bitLen m) :
    F.Rounds rm (signum neg * ((m + d) * 2 ^ e)) (F.round rm neg m e sticky) := by
  have hl := two_pow_ex_le hm e hd.nonneg
  have hu := lt_two_pow_ex hm e hd.lt_one
  have hround (q : Int) (hq : e + bitLen m - 1 - F.mb ≤ q) :
      RoundedTo rm neg ((m + d) * 2 ^ e * 2 ^ (-q)) (roundQ rm neg m e sticky q) := by
    rw [mul_assoc, ← zpow_add₀ two_ne_zero]
    exact roundQ_roundedTo rm neg m hd fun h => by have := hs h; omega
  have heq := round_eq hF rm neg m e sticky
  have hreach := le_exponent_iff (hround _ le_rfl) hl hu
  have hbounds := significand_bounds hF hl hu hround
  extract_lets ex exR q r at heq
  have hk : ((max ex F.emin - F.emin).toNat : Int) + F.emin = max ex F.emin := by omega
  refine rounds_of_cases (ovf := F.emax < exR) (tiny := exR < F.emin) hF ((zpow_pos two_pos _).trans_le hl) ?_ ?_
    (k := (max ex F.emin - F.emin).toNat) (s := r.1) (inexact := r.2) ?_ ?_ ?_ ?_
  · rw [← Int.add_one_le_iff, hreach, show F.emax + 1 - 1 - (F.mb : Int) = F.emax - F.mb by ring]
  · rw [← hreach, not_le]
  · rw [heq]
    by_cases ho : F.emax < exR
    · rw [if_pos ho, if_pos ho]
    · obtain ⟨-, -, h0, -⟩ := hbounds (not_lt.1 ho)
      rw [if_neg ho, if_neg ho]
      congr 2
      split
      · next hr => rw [hr, h0 hr, zero_mul]
      · rfl
  · intro ho
    obtain ⟨h1, h2, -, h4⟩ := hbounds (not_lt.1 ho)
    exact ⟨h1, h2, h4⟩
  · rw [hk]
    exact hround q (by simp only [q]; omega)
  · rw [hk]
    rcases le_or_gt ex F.emin with h | h
    · left; omega
    · right; rwa [max_eq_left h.le]

-- Numbers of the format

theorem roundQ_exact (rm : RMode) (neg : Bool) (m : Nat) {e q : Int} (h : q ≤ e) :
    roundQ rm neg m e false q = (m * 2 ^ (e - q).toNat, false) := by
  have hno (odd : Bool) : roundsUp rm neg odd .lt false = false := by cases rm <;> simp [roundsUp]
  unfold roundQ
  simp [h, hno]

/-- A significand that the format has at its exponent is kept. -/
theorem round_exact {F : FSpec} (hF : F.Ieee) (rm : RMode) (neg : Bool) {m k : Nat} (hm : m ≠ 0)
    (hlt : m < 2 ^ (F.mb + 1))
    (hk : k = 0 ∨ 2 ^ F.mb ≤ m) (hmax : k + F.emin ≤ F.emax) :
    F.round rm neg m (k + F.emin - F.mb) = (F.sign neg + (k * 2 ^ F.mb + m), 0) := by
  have heq := round_eq hF rm neg m (k + F.emin - F.mb) false
  have hlen : bitLen m = m.log2 + 1 := if_neg hm
  have hlog : m.log2 ≤ F.mb := Nat.lt_succ_iff.1 ((Nat.log2_lt hm).2 hlt)
  have hlog' : k = 0 ∨ F.mb = m.log2 := hk.imp_right fun h => le_antisymm ((Nat.le_log2 hm).2 h) hlog
  extract_lets ex exR q r at heq
  have hex : ex = k + F.emin - F.mb + m.log2 := by simp only [ex, hlen]; push_cast; ring
  have hq : q = k + F.emin - F.mb := by simp only [q]; omega
  have hr : r = (m, false) := by
    simp only [r, hq]
    rw [roundQ_exact _ _ _ le_rfl, sub_self]
    simp
  have hexR : exR = ex := by
    refine if_neg ?_
    rw [roundQ_exact _ _ _ (by omega), show (k + F.emin - F.mb - (ex - F.mb)).toNat = F.mb - m.log2 by omega, ge_iff_le,
      not_le]
    calc m * 2 ^ (F.mb - m.log2) < 2 ^ (m.log2 + 1) * 2 ^ (F.mb - m.log2) := by gcongr; exact Nat.lt_log2_self
      _ = 2 ^ (F.mb + 1) := by rw [← pow_add]; congr 1; omega
  rw [heq, hexR, if_neg (by omega), hr, if_neg hm, show (max ex F.emin - F.emin).toNat = k by omega]
  simp [flagIf]

theorem emin_le_emax {F : FSpec} (hF : F.Ieee) {k : Nat} (hk : k + 1 < 2 ^ F.eb - 1) : k + F.emin ≤ F.emax := by
  simp only [FSpec.emin, FSpec.emax, hF.top]
  omega

/-- A number of the format rounds to itself, without flags. -/
theorem encode_decode {F : FSpec} (hF : F.Ieee) (rm : RMode) {w m : Nat} {n : Bool} {e : Int} (hw : w < 2 ^ F.width)
    (h : F.decode w = .fin n m e) : F.encode rm (.fin n m e) = (w, 0) := by
  have htop := exponent_ne_top_of_fin hF h
  have hp : 0 < 2 ^ F.mb := Nat.two_pow_pos _
  have hlt : w % 2 ^ F.mb < 2 ^ F.mb := Nat.mod_lt _ hp
  have hE : w / 2 ^ F.mb % 2 ^ F.eb < 2 ^ F.eb := Nat.mod_lt _ (Nat.two_pow_pos _)
  rw [decode_fin htop, FVal.fin.injEq] at h
  obtain ⟨hn, hm, he⟩ := h
  have h4 : 2 ^ 2 ≤ 2 ^ F.eb := Nat.pow_le_pow_right two_pos hF.eb
  have hsplit : F.sign n + (w / 2 ^ F.mb % 2 ^ F.eb * 2 ^ F.mb + w % 2 ^ F.mb) = w := by
    have hhigh := Nat.div_lt_of_lt_mul (show w < 2 ^ (F.eb + F.mb) * 2 by rw [mul_two, ← two_pow_width]; exact hw)
    have hsign : F.sign n = 2 ^ (F.eb + F.mb) * (w / 2 ^ (F.eb + F.mb)) := by
      rw [FSpec.sign, ← hn]
      interval_cases w / 2 ^ (F.eb + F.mb) <;> simp
    rw [hsign, pow_add, mul_comm (2 ^ F.eb), ← Nat.div_div_eq_div_mul]
    have h1 := Nat.div_add_mod w (2 ^ F.mb)
    have h2 := Nat.div_add_mod (w / 2 ^ F.mb) (2 ^ F.eb)
    generalize w / 2 ^ F.mb / 2 ^ F.eb = x at *
    generalize w / 2 ^ F.mb % 2 ^ F.eb = z at *
    calc _ = 2 ^ F.mb * (2 ^ F.eb * x + z) + w % 2 ^ F.mb := by ring
      _ = w := by rw [h2, h1]
  unfold FSpec.encode
  simp only
  by_cases h0 : w / 2 ^ F.mb % 2 ^ F.eb = 0
  · rw [if_pos h0] at hm he
    split
    · next hm0 => rw [← hsplit, h0, hm, hm0]; simp
    · next hm0 =>
      have := round_exact hF rm n (k := 0) hm0 (by rw [pow_succ]; omega) (.inl rfl) (emin_le_emax hF (by omega))
      rw [← hsplit, h0, hm, ← he]
      simpa using this
  · rw [if_neg h0] at hm he
    obtain ⟨k, hk⟩ := Nat.exists_eq_succ_of_ne_zero h0
    have := round_exact hF rm n (k := k) (m := m) (by omega) (by rw [pow_succ]; omega) (.inr (by omega))
      (emin_le_emax hF (by omega))
    rw [if_neg (by omega), ← hsplit, hk, Nat.succ_mul, add_assoc,
      ← show m = 2 ^ F.mb + w % 2 ^ F.mb by omega, ← this, ← he]
    congr 1
    simp only [FSpec.emin]
    omega

theorem encode_inf {F : FSpec} (hF : F.Ieee) (rm : RMode) (n : Bool) :
    F.encode rm (.inf n) = (F.sign n + F.infBits, 0) := if_pos hF.top

theorem encode_nan {F : FSpec} (hF : F.Ieee) (rm : RMode) (sig : Bool) :
    F.encode rm (.nan sig) = (F.nanBits, flagIf sig flNV) := by
  simp [FSpec.encode, hF.top]

/-- Settles O30: a number of the format is exact in `FSpec.round`, any other nonzero number is rounded as R46 says. -/
theorem roundingIsCorrect : Obligations.RoundingIsCorrect := by
  unfold Obligations.RoundingIsCorrect
  intro t rm F
  have hF : F.Ieee := ffmtSpec_ieee t
  refine ⟨fun w n m e hw h => encode_decode hF rm hw h, fun n m e hm => ?_, encode_inf hF rm, encode_nan hF rm false,
    encode_nan hF rm true⟩
  have h := round_rounds hF rm n hm e (sticky := false) (d := 0) rfl nofun
  rw [add_zero, ← mul_assoc] at h
  rw [FSpec.encode, if_neg hm]
  exact h

end Sys2Proof.Machine

namespace Sys2Proof.Machine

/-! PROOFS. Faults and hardware events (O52; 18 R338, R347-R349, 20 R372, R374, 08 R203, R204, 02 R49).

A fault of a partition is three things in a row: two stores in its log (`log_reads`: each reads as stored, and every other
byte as before), an event in its configuration queue (`mem_postEvent`), and the discard of its work. What a discard leaves
is said once, field by field, by `Discarded`; what the statement says of contexts, jobs, entries, conversations, nodes and
experts follows from that (`faultPart_eq` puts the three together). Faults of several partitions are a fold of such faults
(`faultParts_part`). A home core's choice is Table 8.3's order (`nextReq_slices`, `next_two`). -/

-- Stores at the homes

theorem Mem.keeps_shootDown {m : Mem} (h : m.wf) (pa : Nat) (bs : List Byte) :
    m.Keeps (m.shootDown pa bs) := by
  have hd : m.Keeps (m.dropTlbs pa bs.length) := (Mem.Keeps.refl h).of_eq rfl rfl rfl rfl
  exact hd.trans (Mem.keeps_foldl
    (fun _ r hn => Mem.keeps_flushWith (fun _ l hn => Mem.keeps_recall hn l) hn r.1 r.2) hd.wf _)

/-- After a merge of lines none of them has partials. -/
theorem Mem.recalls_drop {lines : List Nat} {l : Nat} (hl : l ∈ lines) {m : Mem} {p : Partial}
    (hp : p ∈ (lines.foldl Mem.recall m).partials) : p.line ≠ l := by
  induction lines generalizing m with
  | nil => cases hl
  | cons a lines ih =>
    rcases List.mem_cons.1 hl with rfl | hl
    · have := (Mem.foldl_partials (fun m l => m.recallIf_partials l _) lines (m.recall l)).subset hp
      simpa using Mem.recallIf_drops this
    · exact ih hl hp

/-- A store puts its bytes into a memory that holds what the one before does and has no partials of its lines. -/
theorem Mem.write_eq_put {m : Mem} (h : m.wf) (pa : Nat) (bs : List Byte) :
    ∃ n : Mem, m.write pa bs = n.put pa bs ∧ m.Keeps n ∧ ∀ l ∈ linesOf pa bs.length, ∀ p ∈ n.partials, p.line ≠ l := by
  refine ⟨_, rfl, ?_, fun l hl p hp => ?_⟩
  · have hr : m.Keeps ((linesOf pa bs.length).foldl Mem.recall m) :=
      Mem.keeps_foldl (fun _ l hn => Mem.keeps_recall hn l) h _
    have hs := hr.trans (Mem.keeps_shootDown hr.wf pa bs)
    exact hs.trans (Mem.keeps_foldl (fun _ l hn => Mem.keeps_dirtyLine hn l) hs.wf _)
  · have h1 := (Mem.foldl_partials (fun m l => by rw [Mem.dirtyLine_partials]) _ _).subset hp
    have h2 := (Mem.foldl_partials
      (fun m (r : Nat × Nat) => m.flushWith_partials (fun m l => m.recallIf_partials l _) r.1 r.2) _ _).subset h1
    exact Mem.recalls_drop hl h2

/-- A byte of a line without partials reads as its home copy. -/
theorem Mem.reads_of_none {m : Mem} (h : m.wf) {pa : Nat} (hp : ∀ p ∈ m.partials, p.line ≠ lineOf pa) :
    m.reads (.glob pa) = cellsGet m.home pa := by
  rw [Mem.reads_glob h, Mem.merged_of_none hp]
  exact (cellsGet_of_line rfl).symm

theorem cellsGet_write_same {m : List Host.Cell} (h : cellsWf m = true) {a i : Nat} {bs : List Byte} {b : Byte}
    (hb : bs[i]? = some b) : cellsGet (cellsWrite m a bs) (a + i) = b := by
  have hi : i < bs.length := (List.getElem?_eq_some_iff.1 hb).1
  have := cellsRead_getElem? (cellsWrite m a bs) a hi
  rw [cellsRead_write_same m a bs h, hb] at this
  exact (Option.some.inj this).symm

/-- A byte that is stored at its home reads as stored (08 R201). -/
theorem Mem.write_reads_same {m : Mem} (h : m.wf) {pa i : Nat} {bs : List Byte} {b : Byte} (hb : bs[i]? = some b) :
    (m.write pa bs).reads (.glob (pa + i)) = b := by
  obtain ⟨n, hn, hk, hp⟩ := Mem.write_eq_put h pa bs
  rw [hn, Mem.reads_of_none (n.put_wf pa bs hk.wf)
    (hp _ (lineOf_mem_linesOf (List.getElem?_eq_some_iff.1 hb).1))]
  exact cellsGet_write_same hk.wf.1 hb

/-- Every other byte reads as before the store. -/
theorem Mem.write_reads_other {m : Mem} (h : m.wf) {pa : Nat} {bs : List Byte} {q : Place}
    (hq : ∀ i < bs.length, q ≠ .glob (pa + i)) : (m.write pa bs).reads q = m.reads q := by
  obtain ⟨n, hn, hk, hp⟩ := Mem.write_eq_put h pa bs
  rw [hn, ← hk.reads h]
  cases q with
  | scr k => rfl
  | glob a =>
    have hout : a < pa ∨ pa + bs.length ≤ a := by
      by_contra hin
      exact hq (a - pa) (by omega) (by congr 1; omega)
    by_cases hl : lineOf a ∈ linesOf pa bs.length
    · rw [Mem.reads_of_none (n.put_wf pa bs hk.wf) (hp _ hl), Mem.reads_of_none hk.wf (hp _ hl)]
      exact cellsGet_write_other _ _ _ _ hk.wf.1 hout
    · rw [Mem.reads_glob (n.put_wf pa bs hk.wf), Mem.reads_glob hk.wf]
      congr 1
      unfold Mem.merged
      congr 1
      refine cellsRead_congr fun i hi => cellsGet_write_other _ _ _ _ hk.wf.1 ?_
      by_contra hin
      refine hl ?_
      have := lineOf_mem_linesOf (pa := pa) (n := bs.length) (j := 128 * lineOf a + i - pa) (by omega)
      rwa [show pa + (128 * lineOf a + i - pa) = 128 * lineOf a + i by omega,
        show lineOf (128 * lineOf a + i) = lineOf a by unfold lineOf; omega] at this

-- Tables

/-- A table whose entries are changed in place. -/
theorem Map.get?_map {α β γ : Type} [DecidableEq α] (m : Map α β) {g : α × β → α × γ} (hg : ∀ q, (g q).1 = q.1)
    (k : α) : Map.get? (m.map g) k = (Map.get? m k).map fun v => (g (k, v)).2 := by
  induction m with
  | nil => rfl
  | cons q m ih =>
    have h1 := hg q
    by_cases h : q.1 = k
    · subst h; simp [Map.get?, h1]
    · simpa [Map.get?, h1, h] using ih

theorem Map.get?_eq_none_iff {α β : Type} [DecidableEq α] {m : Map α β} {k : α} :
    Map.get? m k = none ↔ k ∉ m.keys := by
  induction m with
  | nil => simp [Map.get?, Map.keys]
  | cons q m ih =>
    by_cases h : q.1 = k
    · simp [Map.get?, Map.keys, h]
    · simpa [Map.get?, Map.keys, h, Ne.symm h] using ih

@[simp] theorem part?_setPart_same (s : State) (p : Nat) (v : Part) : (s.setPart p v).part? p = some v :=
  Map.get?_put_same _ _ _

theorem part?_setPart_other (s : State) {p q : Nat} (v : Part) (h : q ≠ p) : (s.setPart p v).part? q = s.part? q :=
  Map.get?_put_other _ _ _ _ h

-- Reports

/-- A fault record: two stores, and the number of the latest record (R338). -/
theorem logFaultAt_eq {s : State} {p : Nat} {v : Part} (hv : s.part? p = some v) (r : FaultRec) (cycle : Nat) :
    s.logFaultAt p r cycle = { s.setPart p { v with logSeq := v.logSeq + 1 } with
      mem := (s.mem.write (v.cfg.flog + 64 * ((v.logSeq + 1) % 4096)) (r.bytes (v.logSeq + 1) cycle)).write
        (v.cfg.flog - 64) (leBytes 8 (v.logSeq + 1)) } := by
  simp only [State.logFaultAt, hv]
  rfl

/-- Completion records change nothing but their queues. -/
theorem pushRecords_eq (qs : List Nat) (s : State) (a b : Word) :
    qs.foldl (fun s q => s.pushRecord q a b) s = { s with pkg := { s.pkg with
      queues := (qs.foldl (fun s q => s.pushRecord q a b) s).pkg.queues } } := by
  induction qs generalizing s with
  | nil => rfl
  | cons q qs ih => rw [List.foldl_cons, ih]; rfl

theorem postEvent_eq (s : State) (p event cls seq : Nat) :
    s.postEvent p event cls seq =
      { s with pkg := { s.pkg with queues := (s.postEvent p event cls seq).pkg.queues } } := by
  unfold State.postEvent
  split
  · rfl
  · exact pushRecords_eq _ _ _ _

theorem getQueue_pushRecord (s : State) (q k : Nat) (a b : Word) :
    ((s.pushRecord q a b).getQueue k).records =
      if k = q then (s.getQueue k).records ++ [(a, b)] else (s.getQueue k).records := by
  unfold State.pushRecord State.getQueue State.setQueue Map.getD
  split
  · next h => subst h; simp
  · next h => rw [Map.get?_put_other _ _ _ _ h]

/-- A record that is due on one of several queues is among that queue's. -/
theorem mem_pushRecords {qs : List Nat} {q : Nat} (hq : q ∈ qs) (s : State) (a b : Word) :
    (a, b) ∈ ((qs.foldl (fun s q => s.pushRecord q a b) s).getQueue q).records := by
  have keep : ∀ (qs : List Nat) (s : State), (a, b) ∈ (s.getQueue q).records →
      (a, b) ∈ ((qs.foldl (fun s q => s.pushRecord q a b) s).getQueue q).records := fun qs s h =>
    List.foldlRecOn (motive := fun t : State => (a, b) ∈ (t.getQueue q).records) qs _ h fun t ht k _ => by
      rw [getQueue_pushRecord]
      split
      · exact List.mem_append_left _ ht
      · exact ht
  induction qs generalizing s with
  | nil => cases hq
  | cons k qs ih =>
    rcases List.mem_cons.1 hq with rfl | hq
    · exact keep qs _ (by rw [getQueue_pushRecord, if_pos rfl]; simp)
    · exact ih hq _

/-- An event word reaches the configuration queue (R337). -/
theorem mem_postEvent {s : State} {p : Nat} {v : Part} (hv : s.part? p = some v) (event cls seq : Nat) :
    (eventWord event cls p seq, BitVec.allOnes 64) ∈ ((s.postEvent p event cls seq).getQueue v.cfg.cfgq).records := by
  simp only [State.postEvent, hv]
  refine mem_pushRecords ?_ s _ _
  split
  · next h => simpa using h
  · simp

-- The discard (R348)

/-- A discard of launches, of a configured partition (R337). -/
theorem dropLaunches_eq {s : State} {p : Nat} {v : Part} (hv : s.part? p = some v) :
    s.dropLaunches p = { s.setPart p { v with waiting := [] } with
      launches := s.launches.filter fun l => l.2.part ≠ p
      pkg := { s.pkg with queues := (s.dropLaunches p).pkg.queues } } := by
  have hv' : ({ s with launches := s.launches.filter fun l => l.2.part ≠ p } : State).part? p = some v := hv
  unfold State.dropLaunches
  simp only [hv']
  rfl

/-- The launches that are discarded leave the completion records of every queue. -/
theorem dropLaunches_records (s : State) (p q : Nat) :
    ((s.dropLaunches p).getQueue q).records = (s.getQueue q).records := by
  unfold State.dropLaunches State.getQueue
  dsimp only
  split
  · rfl
  · next v _ =>
    have hq (w : WorkQueue) : (match w.entry with
        | some (n, bs) => if recNat bs 0 1 = 1 then { w with entry := none } else { w with entry := some (n, bs) }
        | none => w).records = w.records := by
      split
      · split <;> rfl
      · rfl
    simp only [Map.getD, State.setPart]
    rw [Map.get?_map _ fun e => by split <;> rfl]
    cases Map.get? s.pkg.queues q with
    | none => rfl
    | some w =>
      simp only [Option.map_some, Option.getD_some]
      split
      · exact hq w
      · rfl

theorem discardExperts_eq (s : State) (p : Nat) :
    s.discardExperts p = { s with pkg := { s.pkg with experts := (s.discardExperts p).pkg.experts } } := by
  have : ∀ (l : Map Nat Expert) (s : State), l.foldl (fun s q => s.setExpert q.1 q.2.discard) s =
      { s with pkg := { s.pkg with experts := (l.foldl (fun s q => s.setExpert q.1 q.2.discard) s).pkg.experts } } := by
    intro l
    induction l with
    | nil => exact fun _ => rfl
    | cons q l ih => intro s; rw [List.foldl_cons, ih]; rfl
  exact this _ s

/-- What a discard of a partition's work leaves (R348). -/
structure Discarded (p : Nat) (s t : State) : Prop where
  cur : t.cur = s.cur
  ctx : t.ctx = if s.clIn p s.cur.core.cl then Ctx.init else s.ctx
  ctxs : t.ctxs = s.ctxs.map fun q => (q.1, if s.clIn p q.1.core.cl then Ctx.init else q.2)
  clusters : t.clusters = s.clusters.map fun q => (q.1, if q.2.part = some p then q.2.discard else q.2)
  launches : t.launches = s.launches.filter fun l => l.2.part ≠ p
  mem : t.mem = { s.mem with accesses := t.mem.accesses }
  part : ∀ v, s.part? p = some v → t.part? p = some { v with waiting := [], discarded := true }
  others : ∀ m, m ≠ p → t.part? m = s.part? m
  ctrs : t.pkg.ctrs = s.pkg.ctrs
  qps : t.pkg.qps = s.pkg.qps.map fun q => (q.1, q.2.filter fun e => e.part ≠ p)
  fired : t.pkg.fired = s.pkg.fired.filter fun f => f.entry.part ≠ p
  convs : t.pkg.convs = s.pkg.convs.filter fun c => c.2.part ≠ p
  incoming : ∃ u : State, t.pkg.incoming = s.pkg.incoming.filter fun m => !u.incomingFor p m
  nodes : t.pkg.nodes = s.pkg.nodes.map fun d => if d.part = some p then { d.discard with inbox := [] } else d
  experts : t.pkg.experts =
    (s.pkg.experts.filter fun q => q.2.part = p).foldl (fun l q => Map.put l q.1 q.2.discard) s.pkg.experts
  records : ∀ q, (t.getQueue q).records = (s.getQueue q).records

theorem discardExperts_experts (s : State) (p : Nat) : (s.discardExperts p).pkg.experts =
    (s.pkg.experts.filter fun q => q.2.part = p).foldl (fun l q => Map.put l q.1 q.2.discard) s.pkg.experts := by
  have : ∀ (l : Map Nat Expert) (s : State), (l.foldl (fun s q => s.setExpert q.1 q.2.discard) s).pkg.experts =
      l.foldl (fun l q => Map.put l q.1 q.2.discard) s.pkg.experts := by
    intro l
    induction l with
    | nil => exact fun _ => rfl
    | cons q l ih => intro s; rw [List.foldl_cons, ih]; rfl
  exact this _ s

theorem discardPart_discarded {s : State} {p : Nat} {v : Part} (hv : s.part? p = some v) :
    Discarded p s (s.discardPart p) := by
  unfold State.discardPart
  extract_lets s₁ s₂
  have h₁ : s₁.part? p = some v := hv
  have h₂ : s₂.part? p = some { v with waiting := [] } := by
    simp only [s₂]
    rw [dropLaunches_eq h₁, discardExperts_eq]
    exact Map.get?_put_same _ _ _
  rw [h₂]
  have hex : s₂.pkg.experts =
      (s.pkg.experts.filter fun q => q.2.part = p).foldl (fun l q => Map.put l q.1 q.2.discard) s.pkg.experts := by
    refine (discardExperts_experts ((s₁.dropLaunches p).discardUnits p) p).trans ?_
    rw [dropLaunches_eq h₁]
    rfl
  have hrec (q : Nat) : (s₂.getQueue q).records = (s.getQueue q).records := by
    refine Eq.trans ?_ (dropLaunches_records s₁ p q)
    simp only [s₂]
    rw [discardExperts_eq]
    rfl
  have hother : ∀ m, m ≠ p → s₂.part? m = s.part? m := fun m hm => by
    simp only [s₂]
    rw [discardExperts_eq, dropLaunches_eq h₁]
    exact part?_setPart_other s₁ _ hm
  have hpart : ∀ w, s.part? p = some w → (s₂.setPart p { v with waiting := [], discarded := true }).part? p =
      some { w with waiting := [], discarded := true } := fun w hw => by
    rw [part?_setPart_same]
    cases hv.symm.trans hw
    rfl
  refine ⟨?_, ?_, ?_, ?_, ?_, ?_, hpart, fun m hm => (part?_setPart_other s₂ _ hm).trans (hother m hm),
    ?_, ?_, ?_, ?_, ?_, ?_, hex, hrec⟩ <;> simp only [s₂] <;> rw [discardExperts_eq, dropLaunches_eq h₁]
  case refine_11 => exact ⟨_, rfl⟩
  all_goals rfl

theorem Map.put_put {α β : Type} [DecidableEq α] (m : Map α β) (a : α) (b c : β) :
    Map.put (Map.put m a b) a c = Map.put m a c := by
  induction m with
  | nil => simp [Map.put]
  | cons q m ih => by_cases h : q.1 = a <;> simp [Map.put, h, ih]

/-- An entry after several have been replaced: one of the new ones, or the old one. -/
theorem get?_foldl_put {α β γ : Type} [DecidableEq α] {f : γ → β} {l : List (α × γ)} {m : Map α β} {k : α} {b : β}
    (h : Map.get? (l.foldl (fun m q => Map.put m q.1 (f q.2)) m) k = some b) :
    (∃ q ∈ l, q.1 = k ∧ b = f q.2) ∨ (Map.get? m k = some b ∧ ∀ q ∈ l, q.1 ≠ k) := by
  induction l generalizing m with
  | nil => exact .inr ⟨h, nofun⟩
  | cons q l ih =>
    rcases ih h with ⟨r, hr, hk, hb⟩ | ⟨hm, hno⟩
    · exact .inl ⟨r, List.mem_cons_of_mem _ hr, hk, hb⟩
    · by_cases hq : q.1 = k
      · subst hq
        rw [Map.get?_put_same] at hm
        exact .inl ⟨q, List.mem_cons_self, rfl, (Option.some.inj hm).symm⟩
      · rw [Map.get?_put_other _ _ _ _ (Ne.symm hq)] at hm
        exact .inr ⟨hm, List.forall_mem_cons.2 ⟨hq, hno⟩⟩

section
variable {s t : State} {p : Nat} (h : Discarded p s t)
include h

theorem Discarded.getCtx_in {c : CtxId} (hc : (s.getCl c.core.cl).part = some p) : t.getCtx c = Ctx.init := by
  have hc' : s.clIn p c.core.cl = true := by simp [State.clIn, hc]
  unfold State.getCtx
  rw [h.cur, h.ctx, h.ctxs]
  split
  · next he => rw [← he, if_pos hc']
  · rw [Map.getD, Map.get?_map _ (by intro; rfl)]
    cases Map.get? s.ctxs c <;> simp [hc']

theorem Discarded.getCtx_out {c : CtxId} (hc : (s.getCl c.core.cl).part ≠ some p) : t.getCtx c = s.getCtx c := by
  have hc' : ¬ s.clIn p c.core.cl = true := by simp [State.clIn, hc]
  unfold State.getCtx
  rw [h.cur, h.ctx, h.ctxs]
  split
  · next he => rw [← he, if_neg hc']
  · rw [Map.getD, Map.get?_map _ (by intro; rfl), Map.getD]
    cases Map.get? s.ctxs c <;> simp [hc']

theorem Discarded.jobs {c : ClusterId} (hc : (s.getCl c).part = some p) : (t.getCl c).jobs = [] := by
  unfold State.getCl Map.getD at hc ⊢
  rw [h.clusters, Map.get?_map _ (by intro; rfl)]
  cases hk : Map.get? s.clusters c with
  | none => rfl
  | some k =>
    rw [hk] at hc
    simp only [Option.map_some, Option.getD_some] at hc ⊢
    rw [if_pos hc]
    rfl

theorem Discarded.qpList {q : Nat} {e : QpEntry} (he : e ∈ t.qpList q) : e.part ≠ p := by
  unfold State.qpList Map.getD at he
  rw [h.qps, Map.get?_map _ (by intro; rfl)] at he
  cases hq : Map.get? s.pkg.qps q with
  | none => simp [hq] at he
  | some l =>
    rw [hq] at he
    simpa using (List.mem_filter.1 he).2

theorem Discarded.firedPart {f : QpFired} (hf : f ∈ t.pkg.fired) : f.entry.part ≠ p := by
  rw [h.fired] at hf
  simpa using (List.mem_filter.1 hf).2

theorem Discarded.convPart {c : Nat × Conv} (hc : c ∈ t.pkg.convs) : c.2.part ≠ p := by
  rw [h.convs] at hc
  simpa using (List.mem_filter.1 hc).2

theorem Discarded.launchPart {l : Nat × Launch} (hl : l ∈ t.launches) : l.2.part ≠ p := by
  rw [h.launches] at hl
  simpa using (List.mem_filter.1 hl).2

theorem Discarded.writePart {n : Nat} {e : QpEntry} {bs : List Byte} (hm : PeerMsg.write n e bs ∈ t.pkg.incoming) :
    e.part ≠ p := by
  obtain ⟨u, hu⟩ := h.incoming
  rw [hu] at hm
  simpa [State.incomingFor] using (List.mem_filter.1 hm).2

theorem Discarded.node {n : Nat} (hp : (s.node n).part = some p) :
    t.node n = { (s.node n).discard with inbox := [] } := by
  unfold State.node at hp ⊢
  rw [h.nodes, Vector.getElem?_map]
  cases hn : s.pkg.nodes[n]? with
  | none => simp [hn, Node.init] at hp
  | some d =>
    rw [hn] at hp
    simp only [Option.map_some, Option.getD_some] at hp ⊢
    rw [if_pos hp]

theorem Discarded.expert {name : Nat} {e : Expert} (he : t.expert? name = some e) (hp : e.part = p) :
    ∃ x : Expert, e = x.discard := by
  unfold State.expert? at he
  rw [h.experts] at he
  rcases get?_foldl_put he with ⟨q, -, -, hq⟩ | ⟨he, hno⟩
  · exact ⟨q.2, hq⟩
  · exact absurd rfl (hno (name, e) (List.mem_filter.2 ⟨Map.mem_of_get? he, by simp [hp]⟩))

/-- The region log is not what a byte reads as. -/
theorem Discarded.reads (hwf : s.mem.wf) (q : Place) : t.mem.reads q = s.mem.reads q := by
  have hk : s.mem.Keeps t.mem :=
    (Mem.Keeps.refl hwf).of_eq (by rw [h.mem]) (by rw [h.mem]) (by rw [h.mem]) (by rw [h.mem])
  exact hk.reads hwf q

end

-- Faults of a partition (R338, R348)

/-- A partition after its fault, its work not yet discarded. -/
def Part.afterFault (v : Part) : Part :=
  { v with state := .faulted, preqCtr := none, resumeCtr := none, dumpRec := none, logSeq := v.logSeq + 1 }

/-- What a fault of a partition does before its work is discarded: the record, the log's header, and the event. -/
theorem faultPart_eq {s : State} {p : Nat} {v : Part} (hv : s.part? p = some v) (cls unit loc addr : Nat) :
    ∃ (u : State) (detail : List Byte), s.faultPart p cls unit loc addr = u.discardPart p ∧
      Discarded p u (u.discardPart p) ∧ u.part? p = some v.afterFault ∧
      u = { s.setPart p v.afterFault with
        mem := (s.mem.write (v.cfg.flog + 64 * ((v.logSeq + 1) % 4096))
          (FaultRec.bytes ⟨.hwFault, cls, unit, loc, addr, detail⟩ (v.logSeq + 1) s.cycle)).write
          (v.cfg.flog - 64) (leBytes 8 (v.logSeq + 1))
        pkg := { s.pkg with queues := u.pkg.queues } } ∧
      (eventWord 4 cls p (v.logSeq + 1), BitVec.allOnes 64) ∈ (u.getQueue v.cfg.cfgq).records := by
  unfold State.faultPart
  rw [hv]
  dsimp only
  set w : Part := { v with state := .faulted, preqCtr := none, resumeCtr := none, dumpRec := none } with hw
  have h₀ : (s.setPart p w).part? p = some w := part?_setPart_same s p w
  rw [State.logFault, logFaultAt_eq h₀]
  set s₁ : State := { (s.setPart p w).setPart p { w with logSeq := w.logSeq + 1 } with mem := _ } with hs₁
  have h₁ : s₁.part? p = some v.afterFault := part?_setPart_same (s.setPart p w) p _
  have hseq : s₁.logSeq p = v.logSeq + 1 := by rw [State.logSeq, h₁]; rfl
  have hu : (s₁.postEvent p 0x04 cls (v.logSeq + 1)).part? p = some v.afterFault := by rw [postEvent_eq]; exact h₁
  rw [hseq]
  refine ⟨s₁.postEvent p 0x04 cls (v.logSeq + 1), (s.setPart p w).peerBits p, rfl, discardPart_discarded hu, hu, ?_,
    mem_postEvent h₁ _ _ _⟩
  refine (postEvent_eq s₁ p 0x04 cls (v.logSeq + 1)).trans ?_
  simp only [hs₁, State.setPart, Map.put_put]
  rfl

/-- A fault leaves its partition FAULTED, and every other as it is. -/
theorem faultPart_part {s : State} {p : Nat} {v : Part} (hv : s.part? p = some v) (cls unit loc addr : Nat) :
    (s.faultPart p cls unit loc addr).part? p = some { v.afterFault with waiting := [], discarded := true } := by
  obtain ⟨u, _, ht, hd, hup, -⟩ := faultPart_eq hv cls unit loc addr
  rw [ht]
  exact hd.part _ hup

theorem faultPart_others (s : State) {p m : Nat} (hm : m ≠ p) (cls unit loc addr : Nat) :
    (s.faultPart p cls unit loc addr).part? m = s.part? m := by
  cases hv : s.part? p with
  | none => simp [State.faultPart, hv]
  | some v =>
    obtain ⟨u, _, ht, hd, -, hu, -⟩ := faultPart_eq hv cls unit loc addr
    rw [ht, hd.others m hm, hu]
    exact part?_setPart_other s _ hm

/-- Faults of several partitions: each of them becomes FAULTED and keeps its configuration and STEPNO; every other is as
it was. -/
theorem faultParts_part (ps : List Nat) (cls unit loc addr : Nat) (s : State) (p : Nat) (v : Part)
    (hv : s.part? p = some v) :
    ∃ v', (ps.foldl (fun s p => s.faultPart p cls unit loc addr) s).part? p = some v' ∧ v'.cfg = v.cfg ∧
      v'.stepno = v.stepno ∧ (p ∈ ps → v'.state = .faulted) ∧ (p ∉ ps → v' = v) := by
  induction ps generalizing s v with
  | nil => exact ⟨v, hv, rfl, rfl, nofun, fun _ => rfl⟩
  | cons q ps ih =>
    by_cases hq : p = q
    · subst hq
      obtain ⟨v', h1, h2, h3, h4, h5⟩ := ih _ _ (faultPart_part hv cls unit loc addr)
      refine ⟨v', h1, h2, h3, fun _ => ?_, fun h => absurd List.mem_cons_self h⟩
      by_cases hp : p ∈ ps
      · exact h4 hp
      · rw [h5 hp]; rfl
    · obtain ⟨v', h1, h2, h3, h4, h5⟩ := ih _ v ((faultPart_others s hq cls unit loc addr).trans hv)
      exact ⟨v', h1, h2, h3, fun h => h4 ((List.mem_cons.1 h).resolve_left hq), fun h => h5 fun hp =>
        h (List.mem_cons_of_mem _ hp)⟩

theorem mem_partNos {s : State} {p : Nat} {v : Part} (hv : s.part? p = some v) : p ∈ s.partNos := by
  by_contra h
  have := Map.get?_eq_none_iff.2 h
  rw [show Map.get? s.parts p = some v from hv] at this
  cases this

/-- A fault of the whole module (R349, 20 R374). -/
theorem faultAll_part (s : State) (unit p : Nat) (v : Part) (hv : s.part? p = some v) :
    ∃ v', (s.faultAll unit).part? p = some v' ∧ v'.cfg = v.cfg ∧ v'.state = .faulted := by
  obtain ⟨v', h1, h2, -, h4, -⟩ := faultParts_part s.partNos 0x06 unit 0 0 s p v hv
  exact ⟨v', h1, h2, h4 (mem_partNos hv)⟩

-- The log (R338)

/-- The fields of a fault record before DETAIL (Table 18.5). -/
def FaultRec.head (r : FaultRec) (seq cycle : Nat) : List Byte :=
  leBytes 8 seq ++ leBytes 8 cycle ++ leBytes 1 r.kind.code ++ leBytes 1 r.cls ++ leBytes 1 r.unit ++ [0]
    ++ leBytes 4 r.wher ++ leBytes 8 r.addr

theorem faultRec_bytes (r : FaultRec) (seq cycle : Nat) :
    r.bytes seq cycle = r.head seq cycle ++ padTo 32 r.detail := rfl

theorem faultRec_length (r : FaultRec) (seq cycle : Nat) : (r.bytes seq cycle).length = 64 := by
  simp [faultRec_bytes, FaultRec.head, padTo]

/-- A record and the log's header: each reads as stored, and every other byte as before. -/
theorem log_reads {m : Mem} (h : m.wf) {flog : Nat} (hf : 64 ≤ flog) (seq cycle : Nat) (r : FaultRec) :
    let a := flog + 64 * (seq % 4096)
    let n := (m.write a (r.bytes seq cycle)).write (flog - 64) (leBytes 8 seq)
    n.wf ∧ (∀ i b, (r.head seq cycle)[i]? = some b → n.reads (.glob (a + i)) = b) ∧
      (∀ i b, (leBytes 8 seq)[i]? = some b → n.reads (.glob (flog - 64 + i)) = b) ∧
      ∀ q, (∀ i < 64, q ≠ .glob (a + i)) → (∀ i < 8, q ≠ .glob (flog - 64 + i)) → n.reads q = m.reads q := by
  intro a n
  have hw := m.write_wf a (r.bytes seq cycle) h
  have hh : (leBytes 8 seq).length = 8 := leBytes_length 8 seq
  refine ⟨Mem.write_wf _ _ _ hw, fun i b hb => ?_, fun i b hb => Mem.write_reads_same hw hb, fun q h1 h2 => ?_⟩
  · rw [Mem.write_reads_other hw fun j hj hq => ?_]
    · refine Mem.write_reads_same h ?_
      rw [faultRec_bytes, List.getElem?_append_left (List.getElem?_eq_some_iff.1 hb).1, hb]
    · have := Place.glob.inj hq
      omega
  · rw [Mem.write_reads_other hw (by rwa [hh]), Mem.write_reads_other h (by rwa [faultRec_length])]

/-- A partition that is configured and neither DUMPED nor FAULTED can fail. -/
theorem canFault_iff {s : State} {p : Nat} {v : Part} (hv : s.part? p = some v) :
    s.canFault p = true ↔ v.state ≠ .dumped ∧ v.state ≠ .faulted := by
  rw [State.canFault, State.partState, hv, Option.map_some]
  cases v.state <;> decide

-- The image that boots (20 R372)

/-- A slot holds an image that verifies. -/
def slotVerifies (is : List Image) (i : Nat) : Bool :=
  match is[i]? with | some m => Config.imageVerifies m.bytes | none => false

/-- The version in a slot. -/
def slotVersion (is : List Image) (i : Nat) : Nat := (is[i]?.map Image.version).getD 0

/-- Slot 1 boots where it alone verifies or holds the higher version, and else slot 0 where that verifies. -/
theorem bootSlot_eq (is : List Image) : bootSlot is =
    if slotVerifies is 0 = true then
      if slotVerifies is 1 = true ∧ slotVersion is 0 < slotVersion is 1 then some 1 else some 0
    else if slotVerifies is 1 = true then some 1 else none := by
  have hr : List.range 2 = [0, 1] := rfl
  unfold bootSlot
  rw [hr]
  change List.foldl _ none ([0, 1].filter (slotVerifies is)) = _
  cases h0 : slotVerifies is 0 <;> cases h1 : slotVerifies is 1 <;> simp [h0, h1, slotVersion]

/-- The image of the higher version that verifies boots. -/
theorem bootSlot_some {is : List Image} {i : Nat} {m : Image} (hi : i < 2) (hm : is[i]? = some m)
    (hv : Config.imageVerifies m.bytes = true)
    (hmax : ∀ j m', j < 2 → j ≠ i → is[j]? = some m' → Config.imageVerifies m'.bytes = true →
      m'.version < m.version) : bootSlot is = some i := by
  have hvi : slotVerifies is i = true := by rw [slotVerifies, hm]; exact hv
  have hver : slotVersion is i = m.version := by rw [slotVersion, hm]; rfl
  have hlt (j : Nat) (hj : j < 2) (hji : j ≠ i) (h : slotVerifies is j = true) :
      slotVersion is j < slotVersion is i := by
    unfold slotVerifies at h
    split at h
    · next m' hm' => rw [hver, slotVersion, hm']; exact hmax j m' hj hji hm' h
    · cases h
  rw [bootSlot_eq]
  obtain rfl | rfl : i = 0 ∨ i = 1 := by omega
  · rw [if_pos hvi, if_neg]
    rintro ⟨h1, h2⟩
    exact absurd (hlt 1 (by omega) (by omega) h1) (by omega)
  · rw [if_pos hvi]
    split
    · next h0 => rw [if_pos ⟨hvi, hlt 0 (by omega) (by omega) h0⟩]
    · rfl

theorem bootSlot_none {is : List Image} (h : ∀ i < 2, ∀ m, is[i]? = some m → Config.imageVerifies m.bytes = false) :
    bootSlot is = none := by
  have hno (i : Nat) (hi : i < 2) : slotVerifies is i = false := by
    unfold slotVerifies
    split
    · next m hm => exact h i hi m hm
    · rfl
  simp [bootSlot_eq, hno 0 (by omega), hno 1 (by omega)]

-- Expert tables (R348)

/-- After a discard the first replica alone is left, LIVE and without a version. -/
theorem discard_rep (e : Expert) : (e.discard.rep 0).state = .live ∧ (e.discard.rep 0).version = none ∧
    ∀ k, k ≠ 0 → (e.discard.rep k).state = .free := by
  have hrep (k : Fin 16) : e.discard.rep k =
      if k.val = 0 then { Replica.init with state := .live, group := (e.rep 0).group } else Replica.init :=
    Vector.getElem_ofFn k.isLt
  refine ⟨by rw [hrep]; rfl, by rw [hrep]; rfl, fun k hk => ?_⟩
  have hk0 : k.val ≠ 0 := fun h => hk (Fin.ext h)
  rw [hrep, if_neg hk0]
  rfl

-- Home cores (08 R203, R204)

@[simp] theorem homeCore_setHomeCore_same (s : State) (h : Nat) (v : HomeCore) :
    (s.setHomeCore h v).homeCore h = v := by
  simp [State.setHomeCore, State.homeCore, Map.getD]

/-- Table 8.3 for a home slice's request. -/
def sliceClass (v : HomeCore) (cycle : Nat) (r : HomeReq) : Nat :=
  if (match r.deadline with | some d => decide (d < cycle + 2000) | none => false) then 1
  else if r.arrived + 8000 < cycle then 2
  else if Map.get? v.openRows r.bank = some (r.sub, r.row) then 3 else 4

theorem cls_slice {r : HomeReq} {k : BelowKind} (hk : r.kind = .slice k) (v : HomeCore) (cycle : Nat) :
    r.cls cycle (v.isOpen r) = sliceClass v cycle r := by
  unfold HomeReq.cls sliceClass HomeCore.isOpen
  rw [hk]
  cases r.deadline <;> simp only [decide_eq_true_eq]

/-- With slices' requests alone, the home core takes the one that is next in its own order. -/
theorem nextReq_slices {s : State} {h : Nat} (hs : ∀ r ∈ (s.homeCore h).reqs, ∃ k, r.kind = .slice k) :
    s.nextReq h = ((s.homeCore h).next s.cycle).bind fun i => ((s.homeCore h).reqs[i]?).map fun r => (i, r) := by
  have hall : ((s.homeCore h).reqs.mapIdx fun i r => (i, r)).filter (fun q => s.holdsPlace q.2) =
      (s.homeCore h).reqs.mapIdx fun i r => (i, r) := by
    refine List.filter_eq_self.2 fun q hq => ?_
    obtain ⟨i, hi, rfl⟩ := List.mem_mapIdx.1 hq
    obtain ⟨k, hk⟩ := hs _ (List.getElem_mem hi)
    simp [State.holdsPlace, hk]
  have hmap : ((s.homeCore h).reqs.mapIdx fun i r => (i, r)).map Prod.snd = (s.homeCore h).reqs :=
    List.ext_getElem? fun i => by simp
  unfold State.nextReq
  dsimp only
  rw [hall, hmap]
  simp

/-- A home core with one request takes it. -/
theorem next_one {v : HomeCore} {r : HomeReq} (hv : v.reqs = [r]) (cycle : Nat) : v.next cycle = some 0 := by
  simp [HomeCore.next, hv, mayTake, List.range_succ]

/-- Of two slices' requests the later one precedes: its class is lower, or both are of class 1 and it is due first. -/
def laterFirst (v : HomeCore) (cycle : Nat) (a b : HomeReq) : Bool :=
  decide (sliceClass v cycle b < sliceClass v cycle a ∨
    (sliceClass v cycle a = 1 ∧ sliceClass v cycle b = 1 ∧ b.deadline.getD 0 < a.deadline.getD 0))

/-- Of two slices' requests a home core takes the later one where it is to another line and precedes the first. -/
theorem next_two {v : HomeCore} {a b : HomeReq} (hv : v.reqs = [a, b]) {ka kb : BelowKind} (ha : a.kind = .slice ka)
    (hb : b.kind = .slice kb) (cycle : Nat) :
    v.next cycle = some (if a.line ≠ b.line ∧ laterFirst v cycle a b = true then 1 else 0) := by
  have hmeets : a.meets b = decide (a.line = b.line) := by
    simp only [HomeReq.meets, HomeReq.lines, ha, hb, ← Bool.decide_and, decide_eq_decide]; omega
  have hbefore : v.before a b cycle = !laterFirst v cycle a b := by
    unfold HomeCore.before laterFirst
    dsimp only
    rw [cls_slice ha, cls_slice hb, Bool.eq_iff_iff]
    simp only [Bool.or_eq_true, Bool.and_eq_true, decide_eq_true_eq, Bool.not_eq_true', decide_eq_false_iff_not]
    omega
  by_cases hl : a.line = b.line <;> cases hp : laterFirst v cycle a b <;>
    simp [HomeCore.next, hv, mayTake, List.range_succ, hmeets, hbefore, hl, hp]

/-- A home core takes a slice's request for a near-tier line. -/
theorem homeCoreSchedule_near {s : State} {n : Nat} {r : HomeReq} (hn : s.nextReq s.unit = some (n, r))
    {k : BelowKind} (hk : r.kind = .slice k) (hl : 128 * r.line < capBase) :
    execHomeCoreSchedule s = .next (s.takeReq s.unit n r) := by
  unfold execHomeCoreSchedule
  rw [hn]
  simp only [hk, State.served, if_pos hl]

theorem takeReq_homeCore (s : State) (h n : Nat) (r : HomeReq) : (s.takeReq h n r).homeCore h =
    { s.homeCore h with
      reqs := (s.homeCore h).reqs.eraseIdx n
      openRows := Map.put (s.homeCore h).openRows r.bank (r.sub, r.row) } :=
  homeCore_setHomeCore_same _ _ _

theorem takeReq_late (s : State) (h n : Nat) (r : HomeReq) : Map.getD (s.takeReq h n r).pkg.telemetry.late h 0 =
    Map.getD s.pkg.telemetry.late h 0 +
      (match r.deadline with | some d => if d < s.cycle then 1 else 0 | none => 0) := by
  unfold State.takeReq State.setHomeCore
  cases hd : r.deadline with
  | none => simp
  | some d => by_cases h : d < s.cycle <;> simp [h, Map.getD]

/-- A home core that takes a near-tier request opens its row, counts it when it is late, and changes no byte. -/
theorem homeCoreSchedule_serves {s : State} (hs : ∀ r ∈ (s.homeCore s.unit).reqs, ∃ k, r.kind = .slice k) {n : Nat}
    {r : HomeReq} {rest : List HomeReq} (hn : (s.homeCore s.unit).next s.cycle = some n)
    (hr : (s.homeCore s.unit).reqs[n]? = some r) (hrest : (s.homeCore s.unit).reqs.eraseIdx n = rest)
    (hl : 128 * r.line < capBase) :
    ∃ t, execHomeCoreSchedule s = .next t ∧ SameBytes s t ∧
      t.homeCore s.unit = { s.homeCore s.unit with
        reqs := rest, openRows := Map.put (s.homeCore s.unit).openRows r.bank (r.sub, r.row) } ∧
      Map.getD t.pkg.telemetry.late s.unit 0 = Map.getD s.pkg.telemetry.late s.unit 0 +
        (match r.deadline with | some d => if d < s.cycle then 1 else 0 | none => 0) := by
  obtain ⟨k, hk⟩ := hs r (List.mem_of_getElem? hr)
  have hnext : s.nextReq s.unit = some (n, r) := by rw [nextReq_slices hs, hn]; simp [hr]
  exact ⟨_, homeCoreSchedule_near hnext hk hl, fun _ => rfl, by rw [takeReq_homeCore, hrest], takeReq_late s s.unit n r⟩

/-- A refresh closes every row; or a request of class 1 postpones it (R203). -/
theorem dueRefresh_cases {s : State} (hs : s.unit < homeCount s.pkg.grade) :
    let h := s.homeCore s.unit
    ∃ t, execDueRefresh s = .next t ∧ t.mem = s.mem ∧ t.ctx = s.ctx ∧
      (t.homeCore s.unit = { h with openRows := [], postponed := 0 } ∨
        ((∃ r ∈ h.reqs, r.cls s.cycle (h.isOpen r) = 1) ∧
          t.homeCore s.unit = { h with postponed := h.postponed + 1 })) := by
  intro h
  unfold execDueRefresh
  rw [if_neg (Nat.not_le.2 hs)]
  dsimp only
  split
  · next hu =>
    simp only [Bool.and_eq_true, List.any_eq_true, decide_eq_true_eq] at hu
    obtain ⟨hurgent, -⟩ := hu
    refine ⟨_, rfl, rfl, rfl, ?_⟩
    rw [homeCore_setHomeCore_same]
    split
    · exact .inr ⟨hurgent, rfl⟩
    · exact .inl rfl
  · exact ⟨_, rfl, rfl, rfl, .inl (homeCore_setHomeCore_same _ _ _)⟩

-- CLFLAGS (02 R49)

theorem orFlags_bit (l : List (BitVec 5 × Nat)) (i : Nat) :
    (orFlags l).getLsbD i = true ↔ ∃ x ∈ l, x.1.getLsbD i = true := by
  have : ∀ (l : List (BitVec 5 × Nat)) (f : BitVec 5), (l.foldl (fun f q => f ||| q.1) f).getLsbD i = true ↔
      f.getLsbD i = true ∨ ∃ x ∈ l, x.1.getLsbD i = true := by
    intro l
    induction l with
    | nil => simp
    | cons q l ih => intro f; simp [ih, or_assoc]
  simpa [orFlags] using this l 0

-- Masked faults and faults of shared units (R348, R349)

/-- A masked fault stores its record and the log's header, and counts the record. -/
theorem faultMasked_eq {s : State} {p : Fin 16} {v : Part} (hv : s.part? p.val = some v) (unit : BitVec 8)
    (loc : BitVec 32) (addr : BitVec 64) :
    execFaultMasked p unit loc addr s = .next { s.setPart p.val { v with logSeq := v.logSeq + 1 } with
      mem := (s.mem.write (v.cfg.flog + 64 * ((v.logSeq + 1) % 4096)) (FaultRec.bytes
        { kind := .corrected, unit := unit.toNat, wher := loc.toNat, addr := addr.toNat } (v.logSeq + 1) s.cycle)).write
        (v.cfg.flog - 64) (leBytes 8 (v.logSeq + 1)) } := by
  rw [execFaultMasked, hv]
  exact congrArg _ (logFaultAt_eq hv _ _)

/-- A fault of a shared unit is one of each of its partitions that can fail. -/
theorem sharedUnitFault_next {s : State} {parts : BitVec 16} {p : Nat} {v : Part} (hv : s.part? p = some v)
    (hp : parts.getLsbD p = true) (hc : s.canFault p = true) (unit : BitVec 8) (loc : BitVec 32) (addr : BitVec 64) :
    execSharedUnitFault parts unit loc addr s =
      .next ((s.partNos.filter fun p => parts.getLsbD p && s.canFault p).foldl
        (fun s p => s.faultPart p 0x05 unit.toNat loc.toNat addr.toNat) s) := by
  have hmem : p ∈ s.partNos.filter fun p => parts.getLsbD p && s.canFault p :=
    List.mem_filter.2 ⟨mem_partNos hv, by simp [hp, hc]⟩
  unfold execSharedUnitFault
  split
  · next hnil => rw [hnil] at hmem; cases hmem
  · rfl

/-- Settles O52: a fault is its record, its event and the discard, and concerns no partition but its own; the other events
are read off their definitions. -/
theorem faultsAndHardwareEvents : Obligations.FaultsAndHardwareEvents := by
  unfold Obligations.FaultsAndHardwareEvents
  refine ⟨fun s p unit loc addr v hwf hv hflog => ?_, fun s parts unit loc addr hex => ?_,
    fun s i m hi hm himg hmax => ?_, fun s hno => ?_, fun s hunit => ?_, fun s => ?_, fun s c hc hp => ?_⟩
  · intro seq at' logged
    refine ⟨fun hd hf => ?_, ?_⟩
    · obtain ⟨u, detail, ht, hdis, hup, hu, hrec⟩ := faultPart_eq hv 0x04 unit.toNat loc.toNat addr.toNat
      obtain ⟨hw, hrecord, hheader, hother⟩ := log_reads hwf hflog seq s.cycle
        ⟨.hwFault, 0x04, unit.toNat, loc.toNat, addr.toNat, detail⟩
      have hcl (c : ClusterId) : u.getCl c = s.getCl c := by rw [hu]; rfl
      have hctx (c : CtxId) : u.getCtx c = s.getCtx c := by rw [hu]; rfl
      have hnode (n : Nat) : u.node n = s.node n := by rw [hu]; rfl
      have hctrs : u.pkg.ctrs = s.pkg.ctrs := by rw [hu]
      have hpart (m : Nat) (hm : m ≠ p.val) : u.part? m = s.part? m := by rw [hu]; exact part?_setPart_other s _ hm
      have hmem := congrArg State.mem hu
      have hreads (q : Place) := (hdis.reads (hmem ▸ hw) q).trans (congrArg (Mem.reads · q) hmem)
      rw [← ht] at hdis hreads
      refine ⟨_, _, if_pos ((canFault_iff hv).2 ⟨hd, hf⟩), ⟨fun i b hb => (hreads _).trans (hrecord i b hb),
        fun i b hb => (hreads _).trans (hheader i b hb), fun q h1 h2 => (hreads q).trans (hother q h1 h2)⟩,
        hdis.part _ hup, rfl, rfl, rfl, rfl, rfl, rfl, fun m hm => (hdis.others m hm).trans (hpart m hm), fun m => ?_,
        fun c hc => hdis.getCtx_in (by rwa [hcl]), fun c hc => ?_, fun c hc => hdis.jobs (by rwa [hcl]),
        fun f hf => hdis.firedPart hf, fun q e he => hdis.qpList he, fun n e bs hm => hdis.writePart hm,
        fun c hc => hdis.convPart hc, fun l hl => hdis.launchPart hl, fun n _ hn => ?_, fun name e he hp => ?_, ?_⟩
      · rw [State.ctr, hdis.ctrs, hctrs, State.ctr]
      · rw [hdis.getCtx_out (by rwa [hcl]), hctx]
      · rw [hdis.node (by rwa [hnode]), hnode]
        refine ⟨rfl, rfl, rfl, fun b hb => ?_⟩
        obtain ⟨d, -, rfl⟩ := List.mem_map.1 hb
        rfl
      · obtain ⟨x, rfl⟩ := hdis.expert he hp
        exact discard_rep x
      · rw [hdis.records]
        exact hrec
    · obtain ⟨-, hrecord, hheader, hother⟩ := log_reads hwf hflog seq s.cycle
        { kind := .corrected, unit := unit.toNat, wher := loc.toNat, addr := addr.toNat }
      exact ⟨_, faultMasked_eq hv unit loc addr, ⟨hrecord, hheader, hother⟩, rfl⟩
  · obtain ⟨p, hp, hc, hsome⟩ := hex
    obtain ⟨v, hv⟩ := Option.ne_none_iff_exists'.1 hsome
    refine ⟨_, sharedUnitFault_next hv hp hc unit loc addr, fun q w hw => ?_⟩
    obtain ⟨w', hw', hcfg, hstep, hin, hout⟩ :=
      faultParts_part (s.partNos.filter fun p => parts.getLsbD p && s.canFault p) 0x05
        unit.toNat loc.toNat addr.toNat s q w hw
    refine ⟨w', hw', fun hq hcq => ⟨hin (List.mem_filter.2 ⟨mem_partNos hw, by simp [hq, hcq]⟩), hcfg, hstep⟩,
      fun hq => hout fun hmem => ?_⟩
    have := (List.mem_filter.1 hmem).2
    rcases hq with hq | hq <;> simp [hq] at this
  · have hboot := bootSlot_some hi hm himg hmax
    refine ⟨⟨_, rfl, ?_⟩, ⟨_, rfl, ?_⟩⟩
    · rw [hboot]
      exact ⟨rfl, rfl, rfl, rfl, rfl, rfl, rfl, rfl, rfl, rfl, rfl, rfl, rfl⟩
    · rw [hboot]
      dsimp only
      rw [rewriteFields_eq]
      exact ⟨rfl, rfl, rfl, rfl, rfl, rfl, rfl, rfl, faultAll_part s unitManagement⟩
  · have hboot := bootSlot_none hno
    refine ⟨⟨_, rfl, ?_⟩, ⟨_, rfl, ?_⟩⟩
    · rw [hboot]
      exact ⟨rfl, rfl, rfl⟩
    · rw [hboot]
      exact ⟨rfl, rfl⟩
  · exact ⟨if_pos hunit, fun hpow => ⟨_, if_pos (by simp [hunit, hpow]), rfl,
      faultAll_part (s.pick 256).2 (s.pick 256).1⟩⟩
  · intro h cls slice hall serves
    have hcls (r : HomeReq) : cls r = sliceClass h s.cycle r := rfl
    refine ⟨fun r hr hl => ?_, fun a b hab ha hb => ?_, fun hlt => ⟨?_, ?_⟩⟩
    · exact homeCoreSchedule_serves hall (next_one hr s.cycle) (by rw [hr]; rfl) (by rw [hr]; rfl) hl
    · intro second
      obtain ⟨ka, hka⟩ := hall a (by rw [hab]; simp)
      obtain ⟨kb, hkb⟩ := hall b (by rw [hab]; simp)
      have hsecond : second ↔ a.line ≠ b.line ∧ laterFirst h s.cycle a b = true := by
        simp only [second, hcls, laterFirst, decide_eq_true_eq]
      have hnext := next_two hab hka hkb s.cycle
      refine ⟨fun hb' => ?_, fun ha' => ?_⟩
      · rw [if_pos (hsecond.1 hb')] at hnext
        exact homeCoreSchedule_serves hall hnext (by rw [hab]; rfl) (by rw [hab]; rfl) hb
      · rw [if_neg (mt hsecond.2 ha')] at hnext
        exact homeCoreSchedule_serves hall hnext (by rw [hab]; rfl) (by rw [hab]; rfl) ha
    · exact ⟨_, if_neg (by rw [homeCount]; omega), rfl, homeCore_setHomeCore_same _ _ _⟩
    · obtain ⟨t, ht, hm, hx, hcases⟩ := dueRefresh_cases (s := s) (by rw [homeCount]; omega)
      refine ⟨t, ht, hm, hx, hcases.imp_right fun ⟨⟨r, hr, hc⟩, hp⟩ => ⟨⟨r, hr, ?_⟩, hp⟩⟩
      obtain ⟨k, hk⟩ := hall r hr
      rwa [hcls, ← cls_slice hk]
  · subst hc
    refine ⟨_, if_neg (by simpa using hp), fun i => ?_⟩
    rw [BitVec.getLsbD_or, Bool.or_eq_true, orFlags_bit]

end Sys2Proof.Machine

namespace Sys2Proof

open Laws

/-! PROOFS. Encoding (O58; 03 R55-R70, R75, R262). A word is a sum of fields, and a field of such a sum is the number that
stands there. So the fields of each format's word read as they were encoded, and with them the candidate of the opcode is the
instruction. -/

/-! Fields of sums. -/

section
variable {x y k lo n : Nat}

@[simp] theorem fld_zero_left (lo n : Nat) : fld 0 lo n = 0 := by simp [fld]

@[simp] theorem fld_of_lt (h : x < 2 ^ n) : fld x 0 n = x := by simp [fld, Nat.mod_eq_of_lt h]

/-- A field below an added part. -/
theorem fld_below (h : lo + n ≤ k) : fld (x + y * 2 ^ k) lo n = fld x lo n := by
  obtain ⟨j, rfl⟩ := Nat.exists_eq_add_of_le h
  have hy : y * 2 ^ (lo + n + j) = 2 ^ lo * (2 ^ n * (y * 2 ^ j)) := by ring
  rw [fld, hy, Nat.add_mul_div_left _ _ (Nat.two_pow_pos lo), Nat.add_mul_mod_self_left, fld]

/-- A field in an added part. -/
theorem fld_above (hx : x < 2 ^ k) (h : k ≤ lo) : fld (x + y * 2 ^ k) lo n = fld y (lo - k) n := by
  obtain ⟨j, rfl⟩ := Nat.exists_eq_add_of_le h
  rw [fld, Nat.pow_add, ← Nat.div_div_eq_div_mul, Nat.add_mul_div_right _ _ (Nat.two_pow_pos k), Nat.div_eq_of_lt hx,
    Nat.zero_add, Nat.add_sub_cancel_left, fld]

end

/-! What is read from the number of an operand. The readers of operands are fields. -/

@[simp] theorem fld_toNat {n : Nat} (v : BitVec n) : fld v.toNat 0 n = v.toNat := fld_of_lt v.isLt

@[simp] theorem fld_bool (b : Bool) : fld b.toNat 0 1 = b.toNat := fld_of_lt b.toNat_lt

@[simp] theorem xAt_eq (w lo : Nat) : xAt w lo = Fin.ofNat 64 (fld w lo 6) := rfl
@[simp] theorem fAt_eq (w lo : Nat) : fAt w lo = Fin.ofNat 32 (fld w lo 6) := rfl
@[simp] theorem laAt_eq (w : Nat) : laAt w = Fin.ofNat 16 (fld w 10 4) := rfl
@[simp] theorem imm30_eq (w : Nat) : imm30 w = BitVec.ofNat 30 (fld w 34 30) := rfl
@[simp] theorem imm32_eq (w : Nat) : imm32 w = BitVec.ofNat 32 (fld w 64 32) := rfl
@[simp] theorem imm64_eq (w : Nat) : imm64 w = BitVec.ofNat 64 (fld w 64 64) := rfl
@[simp] theorem bit_eq (w lo : Nat) : bit w lo = decide (fld w lo 1 = 1) := rfl

theorem memAt_eq_of_fields {w : Nat} {m : MemOp} (hb : fld w 22 6 = m.base.val) (hi : fld w 28 6 = m.index.val)
    (hs : fld w 45 2 = m.scale.val) (ho : fld w 47 17 = m.off.toNat) : memAt w = m := by
  simp [memAt, hb, hi, hs, ho]

/-! Fields that are themselves sums: FN of the scalar FP instructions (R122) and SIZE (Table 3.1, R224). -/

section
variable {t rnd sub : Nat}

theorem fld_fpFn_fmt (ht : t < 64) : fld (fpFn t rnd sub) 0 6 = t := by
  unfold fpFn; simp (disch := omega) only [fld_below, fld_of_lt]

theorem fld_fpFn_rnd (ht : t < 64) (hr : rnd < 16) : fld (fpFn t rnd sub) 6 4 = rnd := by
  unfold fpFn; simp (disch := omega) only [fld_below, fld_above, fld_of_lt, Nat.sub_self]

theorem fld_fpFn_sub {lo n : Nat} (ht : t < 64) (hr : rnd < 16) (hlo : 10 ≤ lo) :
    fld (fpFn t rnd sub) lo n = fld sub (lo - 10) n := fld_above (by omega) hlo

end

theorem fld_amoSize_wide (wide sx : Bool) : fld (amoSize wide sx) 0 1 = wide.toNat := by
  cases wide <;> cases sx <;> rfl

theorem fld_amoSize_sx (wide sx : Bool) : fld (amoSize wide sx) 2 1 = sx.toNat := by
  cases wide <;> cases sx <;> rfl

theorem fld_sizeCode_log (sz : Fin 4) (sx : Bool) : fld (sizeCode sz sx) 0 2 = sz.val := by
  unfold sizeCode fld; omega

theorem fld_sizeCode_sx (sz : Fin 4) (sx : Bool) : fld (sizeCode sz sx) 2 1 = sx.toNat := by
  have := sx.toNat_lt
  unfold sizeCode fld; omega

/-! A code gives back what it is the code of (Tables 2.1, 2.7, 3.1, 5.1 and the reference entries). -/

@[simp] theorem Scope.ofCode_code (c : Scope) : Scope.ofCode c.code = c := by cases c <;> rfl
@[simp] theorem MemOrd.ofCode_code (c : MemOrd) : MemOrd.ofCode c.code = c := by cases c <;> rfl
@[simp] theorem Rnd.ofCode_code (c : Rnd) : Rnd.ofCode c.code = c := by cases c <;> rfl
@[simp] theorem FFmt.ofCode_code (c : FFmt) : FFmt.ofCode c.code = c := by cases c <;> rfl
@[simp] theorem CvtTy.ofCode_code (c : CvtTy) : CvtTy.ofCode c.code = c := by cases c <;> rfl
@[simp] theorem VTy.ofCode_code (c : VTy) : VTy.ofCode c.code = c := by cases c <;> rfl
@[simp] theorem LaneFmt.ofCode_code (c : LaneFmt) : LaneFmt.ofCode c.code = c := by
  cases c with
  | ty t => cases t <;> rfl
  | _ => rfl
@[simp] theorem BlkFmt.ofCode_code (c : BlkFmt) : BlkFmt.ofCode c.code = c := by cases c <;> rfl
@[simp] theorem FcmpCond.ofCode_code (c : FcmpCond) : FcmpCond.ofCode c.code = c := by cases c <;> rfl
@[simp] theorem AmoOp.ofCode?_code (c : AmoOp) : AmoOp.ofCode? c.code = some c := by cases c <;> rfl
@[simp] theorem RedOp.ofCode?_code (c : RedOp) : RedOp.ofCode? c.code = some c := by cases c <;> rfl
@[simp] theorem BccCond.ofCode?_code (c : BccCond) : BccCond.ofCode? c.code = some c := by cases c <;> rfl
@[simp] theorem BmaskCond.ofCode?_code (c : BmaskCond) : BmaskCond.ofCode? c.code = some c := by cases c <;> rfl
@[simp] theorem FsgnOp.ofCode?_code (c : FsgnOp) : FsgnOp.ofCode? c.code = some c := by cases c <;> rfl
@[simp] theorem VcmpCond.ofCode?_code (c : VcmpCond) : VcmpCond.ofCode? c.code = some c := by cases c <;> rfl
@[simp] theorem VredOp.ofCode?_code (c : VredOp) : VredOp.ofCode? c.code = some c := by cases c <;> rfl
@[simp] theorem VsfFn.ofCode?_code (c : VsfFn) : VsfFn.ofCode? c.code = some c := by cases c <;> rfl
@[simp] theorem MeshaForm.ofCode?_code (c : MeshaForm) : MeshaForm.ofCode? c.code = some c := by cases c <;> rfl
@[simp] theorem BankMode.ofCode?_code (c : BankMode) : BankMode.ofCode? c.code = some c := by cases c <;> rfl
@[simp] theorem XstatSel.ofCode?_code (c : XstatSel) : XstatSel.ofCode? c.code = some c := by cases c <;> rfl
@[simp] theorem PnstatSel.ofCode?_code (c : PnstatSel) : PnstatSel.ofCode? c.code = some c := by cases c <;> rfl

/-- An instruction other than the filler has a word with a right header, and the candidate of the word's opcode reads the
instruction back from it. -/
structure Decodes (i : Instr) : Prop where
  header : Header.Statement i
  len_ne_zero : encode i % 4 ≠ 0
  reads_back : candidate (encode i / 4 % 256) (encode i) = some i

namespace Decodes

/-! What an opcode's row of `candR` to `candK` answers. -/

section
variable {i j : Instr}

theorem zeroFn_eq_some {f : Nat} (hf : f = 0) (hj : j = i) : zeroFn f j = some i := (if_pos hf).trans (congrArg some hj)

theorem ite_eq_some {p : Prop} [Decidable p] {o : Option Instr} (hp : p) (hj : j = i) :
    (if p then some j else o) = some i := (if_pos hp).trans (congrArg some hj)

theorem ite_ite_eq_some {p q : Prop} [Decidable p] [Decidable q] {o o' : Option Instr} (hp : ¬ p) (hq : q) (hj : j = i) :
    (if p then o else if q then some j else o') = some i := (if_neg hp).trans (ite_eq_some hq hj)

theorem map_eq_some {α : Type} {o : Option α} {x : α} {f : α → Instr} (ho : o = some x) (hj : f x = i) :
    o.map f = some i := by rw [ho, ← hj]; rfl

end

/-! By format: it is enough that the candidate gives the instruction wherever the fields read as the word's. -/

section
variable {i : Instr} {opc d a b c la : Nat}

theorem of_word {w : Nat} (h : encode i = w) (hh : Header.Statement i) (hf : w % 4 ≠ 0 ∧ w / 4 % 256 = opc)
    (hc : candidate opc w = some i) : Decodes i := ⟨hh, h ▸ hf.1, by rw [h, hf.2, hc]⟩

/-- F64R (R61). -/
theorem ofR {fn : Nat} (h : encode i = encR opc d a b c fn la)
    (hc : ∀ w, (fld w 10 4 = la ∧ fld w 16 6 = d ∧ fld w 22 6 = a ∧ fld w 28 6 = b ∧ fld w 34 6 = c ∧
      ∀ lo n, 40 ≤ lo → fld w lo n = fld fn (lo - 40) n) → candidate opc w = some i)
    (ho : opcLen opc = some 1 := by decide) (hopc : opc < 256 := by decide)
    (hb : d < 64 ∧ a < 64 ∧ b < 64 ∧ c < 64 ∧ fn < 2 ^ 24 ∧ la < 16 := by omega) : Decodes i := by
  refine of_word h (Header.ofR h ho hopc hb) (by unfold encR; omega)
    (hc _ ⟨?_, ?_, ?_, ?_, ?_, fun lo n hlo => fld_above (by omega) hlo⟩)
  all_goals unfold encR; simp (disch := omega) only [fld_below, fld_above, fld_of_lt, Nat.sub_self]

/-- F64I (R62). -/
theorem ofI {fn imm : Nat} (h : encode i = encI opc d a fn imm)
    (hc : ∀ w, (fld w 16 6 = d ∧ fld w 22 6 = a ∧ fld w 28 6 = fn ∧
      ∀ lo n, 34 ≤ lo → fld w lo n = fld imm (lo - 34) n) → candidate opc w = some i)
    (ho : opcLen opc = some 1 := by decide) (hopc : opc < 256 := by decide)
    (hb : d < 64 ∧ a < 64 ∧ fn < 64 ∧ imm < 2 ^ 30 := by omega) : Decodes i := by
  refine of_word h (Header.ofI h ho hopc hb) (by unfold encI; omega)
    (hc _ ⟨?_, ?_, ?_, fun lo n hlo => fld_above (by omega) hlo⟩)
  all_goals unfold encI; simp (disch := omega) only [fld_below, fld_above, fld_of_lt, Nat.sub_self]

/-- F64M (R63). -/
theorem ofM {m : MemOp} {size ord sc : Nat} (h : encode i = encM opc d m size ord sc la)
    (hc : ∀ w, (fld w 10 4 = la ∧ fld w 16 6 = d ∧ memAt w = m ∧
      (∀ lo n, 34 ≤ lo → lo + n ≤ 38 → fld w lo n = fld size (lo - 34) n) ∧ fld w 38 4 = ord ∧ fld w 42 3 = sc) →
      candidate opc w = some i)
    (ho : opcLen opc = some 1 := by decide) (hopc : opc < 256 := by decide)
    (hb : d < 64 ∧ size < 16 ∧ ord < 16 ∧ sc < 8 ∧ la < 16 := by omega) : Decodes i := by
  refine of_word h (Header.ofM h ho hopc hb) (by unfold encM; omega)
    (hc _ ⟨?_, ?_, memAt_eq_of_fields ?_ ?_ ?_ ?_, fun lo n hlo hn => ?_, ?_, ?_⟩)
  all_goals unfold encM; simp (disch := omega) only [fld_below, fld_above, fld_of_lt, Nat.sub_self]

/-- F64B (R65). -/
theorem ofB {cond off : Nat} (h : encode i = encB opc a b cond off)
    (hc : ∀ w, (fld w 16 6 = a ∧ fld w 22 6 = b ∧ fld w 28 4 = cond ∧ fld w 32 32 = off) →
      candidate opc w = some i)
    (ho : opcLen opc = some 1 := by decide) (hopc : opc < 256 := by decide)
    (hb : a < 64 ∧ b < 64 ∧ cond < 16 ∧ off < 2 ^ 32 := by omega) : Decodes i := by
  refine of_word h (Header.ofB h ho hopc hb) (by unfold encB; omega)
    (hc _ ⟨?_, ?_, ?_, ?_⟩)
  all_goals unfold encB; simp (disch := omega) only [fld_below, fld_above, fld_of_lt, Nat.sub_self]

/-- F96V (R66). -/
theorem ofV {mask ty rnd vfn imm : Nat} (h : encode i = encV opc d a b c mask ty rnd vfn imm la)
    (hc : ∀ w, (fld w 10 4 = la ∧ fld w 16 6 = d ∧ fld w 22 6 = a ∧ fld w 28 6 = b ∧ fld w 34 6 = c ∧
      fld w 40 6 = mask ∧ fld w 46 6 + 64 * fld w 63 1 = ty ∧ fld w 52 4 = rnd ∧ fld w 56 7 = vfn ∧
      ∀ lo n, 64 ≤ lo → fld w lo n = fld imm (lo - 64) n) → candidate opc w = some i)
    (ho : opcLen opc = some 2 := by decide) (hopc : opc < 256 := by decide)
    (hb : d < 64 ∧ a < 64 ∧ b < 64 ∧ c < 64 ∧ mask < 64 ∧ ty < 128 ∧ rnd < 16 ∧ vfn < 128 ∧ imm < 2 ^ 32 ∧
      la < 16 := by omega) : Decodes i := by
  refine of_word h (Header.ofV h ho hopc hb) (by unfold encV; omega)
    (hc _ ⟨?_, ?_, ?_, ?_, ?_, ?_, ?_, ?_, ?_, fun lo n hlo => fld_above (by omega) hlo⟩)
  all_goals unfold encV; simp (disch := omega) only [fld_below, fld_above, fld_of_lt, Nat.sub_self, Nat.mod_add_div]

/-- F96J (R67). -/
theorem ofJ {efn imm : Nat} (h : encode i = encJ opc d a b c efn imm la)
    (hc : ∀ w, (fld w 10 4 = la ∧ fld w 16 6 = d ∧ fld w 22 6 = a ∧ fld w 28 6 = b ∧ fld w 34 6 = c ∧
      fld w 40 8 = efn ∧ ∀ lo n, 48 ≤ lo → fld w lo n = fld imm (lo - 48) n) → candidate opc w = some i)
    (ho : opcLen opc = some 2 := by decide) (hopc : opc < 256 := by decide)
    (hb : d < 64 ∧ a < 64 ∧ b < 64 ∧ c < 64 ∧ efn < 256 ∧ imm < 2 ^ 48 ∧ la < 16 := by omega) : Decodes i := by
  refine of_word h (Header.ofJ h ho hopc hb) (by unfold encJ; omega)
    (hc _ ⟨?_, ?_, ?_, ?_, ?_, ?_, fun lo n hlo => fld_above (by omega) hlo⟩)
  all_goals unfold encJ; simp (disch := omega) only [fld_below, fld_above, fld_of_lt, Nat.sub_self]

/-- F128K (R68). -/
theorem ofK {size ord sc op fmt imm : Nat} (h : encode i = encK opc d a b size ord sc op fmt imm la)
    (hc : ∀ w, (fld w 10 4 = la ∧ fld w 16 6 = d ∧ fld w 22 6 = a ∧ fld w 28 6 = b ∧
      (∀ lo n, 34 ≤ lo → lo + n ≤ 38 → fld w lo n = fld size (lo - 34) n) ∧ fld w 38 4 = ord ∧ fld w 42 3 = sc ∧
      fld w 47 4 = op ∧ fld w 64 64 = imm ∧
      fld w 34 30 = size + ord * 2 ^ 4 + sc * 2 ^ 8 + op * 2 ^ 13 + fmt * 2 ^ 17) → candidate opc w = some i)
    (ho : opcLen opc = some 3 := by decide) (hopc : opc < 256 := by decide)
    (hb : d < 64 ∧ a < 64 ∧ b < 64 ∧ size < 16 ∧ ord < 16 ∧ sc < 8 ∧ op < 16 ∧ fmt < 64 ∧
      imm < 2 ^ 64 ∧ la < 16 := by omega) : Decodes i := by
  refine of_word h (Header.ofK h ho hopc hb) (by unfold encK; omega)
    (hc _ ⟨?_, ?_, ?_, ?_, fun lo n hlo hn => ?_, ?_, ?_, ?_, ?_, by unfold fld encK; omega⟩)
  all_goals unfold encK; simp (disch := omega) only [fld_below, fld_above, fld_of_lt, Nat.sub_self]

end

/-! The instructions whose operands take more than one form or share a field. -/

theorem syswr (a : XReg) (num : BitVec 30) (hwf : WellFormed (.syswr a num) = true) : Decodes (.syswr a num) := by
  obtain ⟨hk, hn⟩ : sysRegKnown num.toNat = true ∧ num ≠ 0x012 := by simpa [WellFormed] using hwf
  exact .ofI rfl fun w hw => (if_pos (by simp [hw, hk])).trans (zeroFn_eq_some (by simp [hw]) (by simpa [hw] using hn))

theorem fcvt (o : CvtOp) (r : Rnd) : Decodes (.fcvt o r) := by
  have := rnd_code_lt r
  have := cvtty_code_lt o.dst
  have := cvtty_code_lt o.src
  have hdu : fld (o.dst.code / 64 + 2 * (o.src.code / 64)) 0 1 = o.dst.code / 64 := by unfold fld; omega
  have hsu : fld (o.dst.code / 64 + 2 * (o.src.code / 64)) 1 1 = o.src.code / 64 := by unfold fld; omega
  exact .ofR rfl (hb := by simp only [fpFn]; omega) fun w hw =>
    congrArg some (by simp (disch := omega) [hw, fld_fpFn_fmt, fld_fpFn_rnd, fld_fpFn_sub, hdu, hsu, Nat.mod_add_div])

theorem vbcast (t : VTy) (src : BcastSrc) (d : VReg) (m : XReg) : Decodes (.vbcast t src d m) := by
  have := vty_code_lt t
  cases src with
  | x r => exact .ofV rfl fun w hw => ite_eq_some (by simp [hw]) (by simp [hw])
  | f r => exact .ofV rfl fun w hw => ite_ite_eq_some (by simp [hw]) (by simp [hw]) (by simp [hw])
  | lane r n =>
    exact .ofV rfl fun w hw =>
      (if_neg (by simp [hw])).trans (ite_ite_eq_some (by simp [hw]) (by simp [hw]) (by simp [hw]))
  | imm v =>
    exact .ofV rfl fun w hw =>
      (if_neg (by simp [hw])).trans ((if_neg (by simp [hw])).trans
        (ite_ite_eq_some (by simp [hw]) (by simp [hw]) (by simp [hw])))

theorem redx (src : RedxSrc) (a : XReg) (ord : MemOrd) (sc : Scope) (off : BitVec 64) : Decodes (.redx src a ord sc off) := by
  have := memord_code_lt ord
  have := scope_code_lt sc
  cases src with
  | f r => exact .ofK rfl fun w hw => ite_eq_some (by simp [hw]) (by simp [hw])
  | exa r => exact .ofK rfl fun w hw => ite_ite_eq_some (by simp [hw]) (by simp [hw]) (by simp [hw])

theorem mma (d : AReg) (h k : Bool) (m1 : Fin 64) (la : LaCount) : Decodes (.mma d h k m1 la) := by
  have := h.toNat_lt
  have := k.toNat_lt
  have hk : k.toNat * 2 = k.toNat * 2 ^ 1 := rfl
  exact .ofJ rfl fun w hw =>
    zeroFn_eq_some (by simp [hw]) (by simp (disch := omega) [-Nat.reducePow, hw, hk, fld_below, fld_above])

/-- Every instruction that has a word, the filler apart, is read back: by format, and within a format by what the row of
its opcode in the decoder answers. -/
theorem of_wellFormed (i : Instr) (hwf : WellFormed i = true) (he : encode i ≠ 0) (hp : i ≠ .pad32) :
    Decodes i := by
  cases i with
  | pad32 => exact absurd rfl hp
  -- F64R
  | nop | rett => exact .ofR rfl fun w hw => zeroFn_eq_some (by simp [hw]) rfl
  | exit | add | sub | mul | mulh | mulhz | div | divz | rem | remz | and | or | xor | andn | shl | shr | sha | rot | slt
  | sltz | seq | min | max | minz | maxz | popc | clz | ctz | brev | sel | rankx | joinh | hstat | mrecv | munbind | cvdeleg
  | cvleave | cvstat | fmvx | fmvf | sstop | jwait | jpoll | jcancel | qpcancel | xrel | xseal | xstep | xretire | pnstep =>
    exact .ofR rfl fun w hw => zeroFn_eq_some (by simp [hw]) (by simp [hw])
  | bararr | barexp | barwait | waitany | bartest | mzero => exact .ofR rfl fun w hw => congrArg some (by simp [hw])
  | bfx | bfi =>
    exact .ofR rfl fun w hw => congrArg some (by simp (disch := omega) [-Nat.reducePow, hw, fld_below, fld_above])
  | barinitInit | jtake | semv | mprogRd | preq | resume =>
    exact .ofR rfl fun w hw => ite_eq_some (by simp [hw]) (by simp [hw])
  | barinitBind | jdone | semp | mprogWr | preqCtr | resumeCtr =>
    exact .ofR rfl fun w hw => ite_ite_eq_some (by simp [hw]) (by simp [hw]) (by simp [hw])
  | fence sc =>
    have := scope_code_lt sc
    exact .ofR rfl fun w hw =>
      ite_eq_some (by simp (disch := omega) only [hw, Nat.sub_self, fld_of_lt]; omega)
        (by simp (disch := omega) [hw])
  | cvjoin d a b hi =>
    have := hi.toNat_lt
    exact .ofR rfl fun w hw =>
      ite_eq_some (by simp (disch := omega) only [hw, Nat.sub_self, fld_of_lt]; omega)
        (by simp (disch := omega) [hw])
  | cvtexa r =>
    have := rnd_code_lt r
    exact .ofR rfl fun w hw => congrArg some (by simp (disch := omega) [hw])
  | bankcfg c =>
    have := bankmode_code_lt c
    exact .ofR rfl fun w hw => map_eq_some (x := c) (by simp (disch := omega) [hw]) (by simp [hw])
  | xstat c =>
    have := xstatsel_code_lt c
    exact .ofR rfl fun w hw => map_eq_some (x := c) (by simp (disch := omega) [hw]) (by simp [hw])
  | pnstat c =>
    have := pnstatsel_code_lt c
    exact .ofR rfl fun w hw => map_eq_some (x := c) (by simp (disch := omega) [hw]) (by simp [hw])
  | fadd t r | fsub t r | fmul t r | ffma t r | fdiv t r | fsqrt t r =>
    have := ffmt_code_lt t
    have := rnd_code_lt r
    exact .ofR rfl (hb := by simp only [fpFn]; omega) fun w hw =>
      zeroFn_eq_some (by simp (disch := omega) [hw, fld_fpFn_sub])
        (by simp (disch := omega) [hw, fld_fpFn_fmt, fld_fpFn_rnd])
  | fmin t | fmax t | fclass t =>
    have := ffmt_code_lt t
    exact .ofR rfl (hb := by simp only [fpFn]; omega) fun w hw =>
      zeroFn_eq_some (by simp (disch := omega) [hw, fld_fpFn_sub]) (by simp (disch := omega) [hw, fld_fpFn_fmt])
  | fcmp c t =>
    have := ffmt_code_lt t
    have := fcmpcond_code_lt c
    exact .ofR rfl (hb := by simp only [fpFn]; omega) fun w hw =>
      congrArg some (by simp (disch := omega) [hw, fld_fpFn_fmt, fld_fpFn_sub])
  | fsgn c t =>
    have := ffmt_code_lt t
    have := fsgnop_code_lt c
    exact .ofR rfl (hb := by simp only [fpFn]; omega) fun w hw =>
      map_eq_some (x := c) (by simp (disch := omega) [hw, fld_fpFn_sub]) (by simp (disch := omega) [hw, fld_fpFn_fmt])
  | fcvt o r => exact fcvt o r
  -- F64I
  | trap | brk | sleep | addi | andi | ori | xori | shli | shri | shai | li | addpc | jal | jalr =>
    exact .ofI rfl fun w hw => zeroFn_eq_some (by simp [hw]) (by simp [hw])
  | start => exact .ofI rfl fun w hw => ite_eq_some (by simp [hw]) (by simp [hw])
  | startW => exact .ofI rfl fun w hw => ite_ite_eq_some (by simp [hw]) (by simp [hw]) (by simp [hw])
  | sysrd d num =>
    exact .ofI rfl fun w hw =>
      (if_pos (by simpa [hw, WellFormed] using hwf)).trans (zeroFn_eq_some (by simp [hw]) (by simp [hw]))
  | syswr a num => exact syswr a num hwf
  | clflagsWrite a =>
    exact .ofI rfl fun w hw => (if_pos (by simp [hw, sysRegKnown])).trans (zeroFn_eq_some (by simp [hw]) (by simp [hw]))
  -- F64B
  | bcc c =>
    have := bcccond_code_lt c
    exact .ofB rfl fun w hw => map_eq_some (x := c) (by simp [hw]) (by simp [hw])
  | bmask c =>
    have := bmaskcond_code_lt c
    exact .ofB rfl fun w hw => map_eq_some (x := c) (by simp [hw]) (by simp [hw])
  -- F64M
  | ld d m sz sx ord sc =>
    have := memord_code_lt ord
    have := scope_code_lt sc
    have := sx.toNat_lt
    exact .ofM rfl (hb := by simp only [sizeCode]; omega) fun w hw =>
      congrArg some (by simp [hw, fld_sizeCode_log, fld_sizeCode_sx])
  | st d m sz ord sc =>
    have := memord_code_lt ord
    have := scope_code_lt sc
    exact .ofM rfl fun w hw => congrArg some (by simp [hw])
  | ldc d m sz sx =>
    have := sx.toNat_lt
    exact .ofM rfl (hb := by simp only [sizeCode]; omega) fun w hw =>
      congrArg some (by simp [hw, fld_sizeCode_log, fld_sizeCode_sx])
  | pfl | festat | feset | disc => exact .ofM rfl fun w hw => congrArg some (by simp [hw])
  | ldff | ste => exact .ofM rfl fun w hw => ite_eq_some (by simp [hw]) (by simp [hw])
  | ldf | stf | cinv => exact .ofM rfl fun w hw => (if_neg (by simp [hw])).trans (congrArg some (by simp [hw]))
  | cinvAll => exact .ofM rfl fun w hw => ite_eq_some (by simp [hw]) rfl
  -- F96V
  | vadd t sat r | vsub t sat r | vmul t sat r | vscan sat t r =>
    have := vty_code_lt t
    have := rnd_code_lt r
    have := sat.toNat_lt
    exact .ofV rfl fun w hw => ite_eq_some (by simp only [hw]; omega) (by simp [hw])
  | vqnt t r | vdq t r =>
    have := blkfmt_code_lt t
    have := rnd_code_lt r
    exact .ofV rfl fun w hw => zeroFn_eq_some (by simp [hw]) (by simp [hw])
  | vfma t r | vld t r | vst t r | vlds t r | vsts t r =>
    have := vty_code_lt t
    have := rnd_code_lt r
    exact .ofV rfl fun w hw => zeroFn_eq_some (by simp [hw]) (by simp [hw])
  | vmin t | vmax t | vsel t | vand t | vor t | vxor t | vperm t | vins t | vext t =>
    have := vty_code_lt t
    exact .ofV rfl fun w hw => zeroFn_eq_some (by simp [hw]) (by simp [hw])
  | vfence | vstat => exact .ofV rfl fun w hw => zeroFn_eq_some (by simp [hw]) (by simp [hw])
  | vcmp c t =>
    have := vty_code_lt t
    have := vcmpcond_code_lt c
    exact .ofV rfl fun w hw => map_eq_some (x := c) (by simp [hw]) (by simp [hw])
  | vred c t r =>
    have := vty_code_lt t
    have := rnd_code_lt r
    have := vredop_code_lt c
    exact .ofV rfl fun w hw => map_eq_some (x := c) (by simp [hw]) (by simp [hw])
  | vsf c r =>
    have := rnd_code_lt r
    have := vsffn_code_lt c
    exact .ofV rfl fun w hw => map_eq_some (x := c) (by simp [hw]) (by simp [hw])
  | vshl t d a s | vshr t d a s =>
    have := vty_code_lt t
    cases s with
    | reg r => exact .ofV rfl fun w hw => ite_eq_some (by simp [hw]) (by simp [hw])
    | imm v => exact .ofV rfl fun w hw => ite_ite_eq_some (by simp [hw]) (by simp [hw]) (by simp [hw])
  | vcvt dst src half r =>
    have := laneFmt_code_lt dst
    have := laneFmt_code_lt src
    have := rnd_code_lt r
    have := half.toNat_lt
    exact .ofV rfl fun w hw => ite_eq_some (by simp only [hw]; omega) (by simp (disch := omega) [hw])
  | vbcast t src d m => exact vbcast t src d m
  | vgath t r d a b sc | vscat t r d a b sc =>
    have := vty_code_lt t
    have := rnd_code_lt r
    exact .ofV rfl fun w hw => ite_eq_some (by simp only [hw]; omega) (by simp [hw])
  -- F96J
  | msend | msends | cvopen | cvsend | cvchoose | cpjob | mxjob | shpset | rtjob | drjob | mgjob | ctrset | ctradd | ctrwait
  | qppost | xreg | pnrule => exact .ofJ rfl fun w hw => zeroFn_eq_some (by simp [hw]) (by simp [hw])
  | xpol | xresv | xsend | xsendr | xjoin | xspawn | pnsend => exact .ofJ rfl fun w hw => congrArg some (by simp [hw])
  | srep | msta =>
    exact .ofJ rfl fun w hw =>
      zeroFn_eq_some (by simp [hw]) (by simp (disch := omega) [-Nat.reducePow, hw, fld_below, fld_above])
  | mlda h | mldb h =>
    have := h.toNat_lt
    exact .ofJ rfl fun w hw =>
      zeroFn_eq_some (by simp [hw]) (by simp (disch := omega) [-Nat.reducePow, hw, fld_below, fld_above])
  | mma d h k m1 la => exact mma d h k m1 la
  | mesha c =>
    have := meshaform_code_lt c
    exact .ofJ rfl fun w hw => map_eq_some (x := c) (by simp [hw]) (by simp [hw])
  | mbind d b a hi =>
    have := hi.toNat_lt
    exact .ofJ rfl fun w hw => ite_eq_some (by simp only [hw]; omega) (by simp [hw])
  | scfgMem t =>
    have := vty_code_lt t
    exact .ofJ rfl fun w hw => ite_eq_some (by simp [hw]) (by simp (disch := omega) [hw])
  | scfgMsg t =>
    have := vty_code_lt t
    exact .ofJ rfl fun w hw => ite_ite_eq_some (by simp [hw]) (by simp [hw]) (by simp (disch := omega) [hw])
  | xbatchFwd => exact .ofJ rfl fun w hw => ite_eq_some (by simp [hw]) (by simp [hw])
  | xbatchBwd => exact .ofJ rfl fun w hw => ite_ite_eq_some (by simp [hw]) (by simp [hw]) (by simp [hw])
  | xbatchReload =>
    exact .ofJ rfl fun w hw =>
      (if_neg (by simp [hw])).trans (ite_ite_eq_some (by simp [hw]) (by simp [hw]) (by simp [hw]))
  -- F128K
  | li64 => exact .ofK rfl fun w hw => zeroFn_eq_some (by simp [hw]) (by simp [hw])
  | amo c d b a wide sx ord sc =>
    have := amoop_code_lt c
    have := memord_code_lt ord
    have := scope_code_lt sc
    have := wide.toNat_lt
    have := sx.toNat_lt
    exact .ofK rfl (hb := by simp only [amoSize]; omega) fun w hw =>
      map_eq_some (x := c) (by simp [hw]) (by simp [hw, fld_amoSize_wide, fld_amoSize_sx])
  | cas d b a wide sx ord sc =>
    have := memord_code_lt ord
    have := scope_code_lt sc
    have := wide.toNat_lt
    have := sx.toNat_lt
    exact .ofK rfl (hb := by simp only [amoSize]; omega) fun w hw =>
      zeroFn_eq_some (by simp [hw]) (by simp [hw, fld_amoSize_wide, fld_amoSize_sx])
  | red c b a wide ord sc =>
    have := redop_code_lt c
    have := memord_code_lt ord
    have := scope_code_lt sc
    have := wide.toNat_lt
    exact .ofK rfl (hb := by simp only [amoSize, Bool.toNat_false]; omega) fun w hw =>
      map_eq_some (x := c) (by simp [hw]) (by simp [hw, fld_amoSize_wide])
  | redx src a ord sc off => exact redx src a ord sc off
  -- Events, which have no word
  | _ => exact absurd rfl he

end Decodes

/-- The bytes of an instruction whose word fits its length, and what follows them, are its word below its length. -/
theorem leNat_encodeBytes_append {i : Instr} (h : encode i < 2 ^ (8 * i.len)) (rest : List Byte) :
    leNat (encodeBytes i ++ rest) % 2 ^ (8 * i.len) = encode i := by
  have hp : 256 ^ i.len = 2 ^ (8 * i.len) := (Nat.pow_mul 2 8 i.len).symm
  rw [leNat_append, encodeBytes, leBytes_length, leNat_leBytes, hp, Nat.add_mul_mod_self_left, Nat.mod_mod,
    Nat.mod_eq_of_lt h]

/-- LEN and the opcode are among the bits that every instruction has. -/
theorem mod_len_mod (w m : Nat) : w % 2 ^ (8 * lenBytes m) % 2 ^ 10 = w % 2 ^ 10 :=
  Nat.mod_mod_of_dvd w (Nat.pow_dvd_pow 2 (by unfold lenBytes; omega))

theorem lenBytes_mod (w : Nat) : lenBytes (w % 2 ^ (8 * lenBytes w)) = lenBytes w := by
  have := mod_len_mod w w
  unfold lenBytes at *
  omega

/-- A word that begins with an instruction's has its LEN and its opcode. -/
theorem header_of_word {i : Instr} {w : Nat} (h : w % 2 ^ (8 * i.len) = encode i) :
    w % 4 = encode i % 4 ∧ fld w 2 8 = encode i / 4 % 256 := by
  have := h ▸ mod_len_mod w (encode i)
  unfold fld
  omega

/-- The decoder on a word that begins with an instruction's. -/
theorem decodeWord_of_decodes {i : Instr} {k : CoreKind} {addr w : Nat} (hd : Decodes i) (hwf : WellFormed i = true)
    (hk : opcOnCore k (encode i / 4 % 256) = true)
    (hm : ¬ (k = .compute ∧ 0xE8 ≤ encode i / 4 % 256 ∧ encode i / 4 % 256 ≤ 0xEF)) (hs : addr % 32 + i.len ≤ 32)
    (hw : w % 2 ^ (8 * i.len) = encode i) : decodeWord k addr w = .ok i := by
  obtain ⟨⟨-, hlen⟩, hne, hc⟩ := hd
  obtain ⟨h4, hopc⟩ := header_of_word hw
  have hlw : lenBytes w = i.len := by unfold Instr.len lenBytes; rw [h4]
  have ho : opcLen (encode i / 4 % 256) = some (encode i % 4) := by
    rcases hlen with h | h | h
    · exact absurd (by rw [h]) hne
    · exact absurd (by rw [h]) hne
    · exact h
  have hm' : k = .compute → 0xE8 ≤ encode i / 4 % 256 → 0xEF < encode i / 4 % 256 :=
    fun h1 h2 => Nat.lt_of_not_le fun h3 => hm ⟨h1, h2, h3⟩
  unfold decodeWord
  rw [if_neg (h4 ▸ hne), hlw, if_neg (by omega), hopc, hw, h4]
  simpa [ho, hk, hc, hwf] using hm'

/-- The decoder on a word that begins with the filler's (R56). -/
theorem decodeWord_pad32 {k : CoreKind} {addr w : Nat} (hw : w % 2 ^ 32 = 4) : decodeWord k addr w = .ok .pad32 := by
  unfold decodeWord
  rw [if_pos (by omega), if_pos hw]

/-- What the decoder gives is well-formed, and its word is what stands there: the last check of the decoder says so. -/
theorem decodeWord_sound {i : Instr} {k : CoreKind} {addr w : Nat} (h : decodeWord k addr w = .ok i) :
    WellFormed i = true ∧ w % 2 ^ (8 * i.len) = encode i := by
  unfold decodeWord at h
  dsimp only at h
  repeat' split at h
  all_goals cases h
  · next hw => exact ⟨rfl, hw⟩
  · next hacc =>
    obtain ⟨hwf, he⟩ : WellFormed i = true ∧ encode i = w % 2 ^ (8 * lenBytes w) := by simpa using hacc
    have hlen : i.len = lenBytes w := by rw [Instr.len, he, lenBytes_mod]
    exact ⟨hwf, by rw [hlen, he]⟩

/-- Settles O58: the word of an instruction is read back by its candidate, whatever follows it; and the decoder accepts a
candidate only where its encoding is the word. -/
theorem decodeInvertsEncode : Obligations.DecodeInvertsEncode := by
  unfold Obligations.DecodeInvertsEncode
  refine ⟨?_, fun i k addr bs h => decodeWord_sound h⟩
  intro i k addr rest hwf he opc hk hm hs
  by_cases hp : i = .pad32
  · subst hp
    exact decodeWord_pad32 (leNat_encodeBytes_append Header.pad32.1 rest)
  · have hd := Decodes.of_wellFormed i hwf he hp
    exact decodeWord_of_decodes hd hwf hk hm hs (leNat_encodeBytes_append hd.header.1 rest)

end Sys2Proof

namespace Sys2Proof.Machine

/-! PROOFS. The fillers (O8; 03 R56, 04 R92), and the instructions that only SUPER may execute (O11; 01 R15, 03 R76). -/

section
variable {s : State} {i : Instr}

/-- NOP has no check of its own and no effect (R92). -/
theorem nop_after (h : Calm s .nop = true) : exec .nop s = .next (s.after s.ctx 8) := by
  obtain ⟨hl, hw, -⟩ := calm_iff.1 h
  show execNop s = _
  unfold execNop
  rw [run_calm _ h (writesStream_of_dests fun _ => List.not_mem_nil) (Bool.or_true _), finish_done,
    retire_after Instr.len_nop hl hw]

/-- An instruction that USER may not execute is run through the checks, the level's among them. -/
theorem exec_eq_run_of_not_userMay (hp : userMay i = false) : ∃ body, exec i s = s.run i body := by
  cases i with
  | rett => exact ⟨_, show execRett s = _ from rfl⟩
  | preq d a => exact ⟨_, show execPreq d a s = _ from rfl⟩
  | preqCtr d a b => exact ⟨_, show execPreqCtr d a b s = _ from rfl⟩
  | resume d a => exact ⟨_, show execResume d a s = _ from rfl⟩
  | resumeCtr d a b => exact ⟨_, show execResumeCtr d a b s = _ from rfl⟩
  | sysrd d num => exact ⟨_, show execSysrd d num s = _ from rfl⟩
  | syswr a num => exact ⟨_, show execSyswr a num s = _ from rfl⟩
  | clflagsWrite a => exact ⟨_, show execClflagsWrite a s = _ from rfl⟩
  | _ => cases hp

/-- Such an instruction writes an x register or none, so that no stream holds it back. -/
theorem writesStream_of_not_userMay (c : Ctx) (hp : userMay i = false) : writesStream c i = false := by
  have hx (d : XReg) (v : VReg) : RegName.v v ∉ [RegName.x d] := by simp
  cases i with
  | rett | syswr | clflagsWrite => exact writesStream_of_dests fun _ => List.not_mem_nil
  | preq d | preqCtr d | resume d | resumeCtr d | sysrd d => exact writesStream_of_dests (hx d)
  | _ => cases hp

/-- In a calm state at USER an instruction that USER may not execute traps before its own effect (R76). -/
theorem exec_not_userMay (hp : userMay i = false) (hu : s.ctx.super = false) (ht : TrapReady s = true)
    (h : Calm s i = true) : exec i s = .next (s.trapped ⟨.priv, 0, instrBits i⟩) := by
  obtain ⟨hl, hw, -⟩ := calm_iff.1 h
  obtain ⟨body, hrun⟩ := exec_eq_run_of_not_userMay (s := s) hp
  rw [hrun, run_priv body hl (writesStream_of_not_userMay s.ctx hp) hu hp, enterTrap_ready _ ht hw]

end

/-- The registers of Table 1.1 that only SUPER may access, CLFLAGS apart. -/
theorem superReg_of_mem : ∀ n ∈ [0x003, 0x040, 0x041, 0x042, 0x043, 0x044], superReg n = true := by decide

/-- Settles O8: PAD32 is its own case of exec; NOP's body changes nothing, and its completion advances PC. -/
theorem fillersOnlyAdvancePc : Obligations.FillersOnlyAdvancePc := by
  unfold Obligations.FillersOnlyAdvancePc
  exact fun s => ⟨rfl, nop_after⟩

/-- Settles O11: USER may execute none of them, and the check of the level precedes their own. -/
theorem privilegedInstructionsTrapAtUser : Obligations.PrivilegedInstructionsTrapAtUser := by
  unfold Obligations.PrivilegedInstructionsTrapAtUser
  intro s d a b num hnum hu ht i hi
  have hsr : superReg num.toNat = true := superReg_of_mem _ hnum
  have hp : userMay i = false := by
    simp only [List.mem_cons, List.not_mem_nil, or_false] at hi
    rcases hi with rfl | rfl | rfl | rfl | rfl | rfl | rfl | rfl | rfl
    exacts [rfl, rfl, rfl, rfl, rfl, congrArg not hsr, rfl, congrArg not hsr, rfl]
  exact exec_not_userMay hp hu ht

end Sys2Proof.Machine

namespace Sys2Proof.Machine

/-! PROOFS. Integer, control and memory instructions (O2, O5, O6, O7, O9, O14-O19, O59; chapter 04).

What is shared comes first: what a calm state makes of an instruction that any level may execute, by what its body
answers (`run_done`, `run_jump`, `run_trap`, `run_wait`). One whose body writes an x register, and no more,
changes nothing else but PC (`writesX_of_value`). -/

section
variable {s t : State} {i : Instr} {body : State → Res} (h : Calm s i = true) (hs : writesStream s.ctx i = false)
  (hu : userMay i = true)
include h hs hu

/-- In a calm state an instruction of any level ends as its body answers. -/
theorem run_user : s.run i body = s.finish i (body s) := run_calm body h hs (by rw [hu, Bool.or_true])

/-- One that is performed, whose body leaves windows and loop, is followed by the next instruction. -/
theorem run_done {n : Nat} (hn : i.len = n) (hb : body s = .done t) (hl : t.ctx.loop = s.ctx.loop)
    (hw : t.ctx.windows = s.ctx.windows) : s.run i body = .next (t.after t.ctx n) := by
  obtain ⟨hloop, hwin, -⟩ := calm_iff.1 h
  rw [run_user h hs hu, hb, finish_done, retire_after hn (hl.trans hloop) (hw.trans hwin)]

/-- One that jumps is followed by the instruction at its target. -/
theorem run_jump {pc : Word} (hb : body s = .jump t pc) (hl : t.ctx.loop = s.ctx.loop)
    (hw : t.ctx.windows = s.ctx.windows) : s.run i body = .next (t.jumped t.ctx pc) := by
  obtain ⟨hloop, hwin, -⟩ := calm_iff.1 h
  rw [run_user h hs hu, hb, finish_jump, retire_jumped (hl.trans hloop) (hw.trans hwin)]

/-- One that traps changes nothing, where a trap can be taken. -/
theorem run_trap {tr : Trap} (ht : TrapReady s = true) (hb : body s = .trap tr) :
    s.run i body = .next (s.trapped tr) := by
  obtain ⟨-, hwin, -⟩ := calm_iff.1 h
  rw [run_user h hs hu, hb, finish_trap, enterTrap_ready _ ht hwin]

theorem run_wait (hb : body s = .wait t) : s.run i body = .next { t with ctx := { t.ctx with waiting := true } } := by
  rw [run_user h hs hu, hb, finish_wait]

end

section
variable {s : State} {i : Instr} {d : XReg} {n : Nat}

/-- An instruction whose body writes an x register, and no more, changes nothing else: `f` is the value that it
writes. -/
theorem writesX_of_value (f : State → Word) (he : exec i s = s.run i fun s => .done (s.wx d (f s)))
    (hs : writesStream s.ctx i = false) (hu : userMay i = true) (hn : i.len = n) : WritesX i s d (f s) n := by
  intro h
  rw [he, run_done (t := s.wx d (f s)) h hs hu hn rfl (s.ctx.wx_loop d _) (s.ctx.wx_windows d _)]
  simp [State.after, State.issueCycle, State.wx]

end

/-! Immediates (04 R103, R104). -/

/-- Settles O5: the value that each body writes is the one stated, a sign extension being that of its integer. -/
theorem immediatesWriteTheirValue : Obligations.ImmediatesWriteTheirValue := by
  unfold Obligations.ImmediatesWriteTheirValue
  intro s d a imm w A I
  exact ⟨
    writesX_of_value (fun s => s.rx a + sext30 imm) rfl rfl rfl (Instr.len_addi ..),
    writesX_of_value (fun s => s.rx a &&& sext30 imm) rfl rfl rfl (Instr.len_andi ..),
    writesX_of_value (fun s => s.rx a ||| sext30 imm) rfl rfl rfl (Instr.len_ori ..),
    writesX_of_value (fun s => s.rx a ^^^ sext30 imm) rfl rfl rfl (Instr.len_xori ..),
    writesX_of_value (fun _ => sext30 imm) rfl rfl rfl (Instr.len_li ..),
    writesX_of_value (fun s => s.ctx.pc + sext30 imm) rfl rfl rfl (Instr.len_addpc ..),
    writesX_of_value (fun _ => w) rfl rfl rfl (Instr.len_li64 ..)⟩

/-! Division (04 R101). -/

theorem quot_of_ne_zero {a b : Word} (h : b ≠ 0) : quot a b = a.sdiv b := by
  rw [quot, if_neg h, ← BitVec.toInt_inj, BitVec.toInt_ofInt, BitVec.toInt_sdiv]

theorem remn_eq_srem (a b : Word) : remn a b = a.srem b := by
  by_cases h : b = 0
  · subst h
    exact (if_pos rfl).trans BitVec.srem_zero.symm
  · rw [remn, if_neg h, ← BitVec.toInt_srem, BitVec.ofInt_toInt]

/-- The dividend is the quotient times the divisor, plus the remainder. -/
theorem quot_mul_add_remn (a b : Word) : a = quot a b * b + remn a b := by
  by_cases h : b = 0
  · simp [remn, h]
  · rw [quot, remn, if_neg h, if_neg h]
    calc a = BitVec.ofInt 64 (a.toInt.tdiv b.toInt * b.toInt + a.toInt.tmod b.toInt) := by
            rw [Int.tdiv_mul_add_tmod, BitVec.ofInt_toInt]
      _ = _ := by rw [BitVec.ofInt_add, BitVec.ofInt_mul, BitVec.ofInt_toInt]

/-- The remainder is below the divisor in magnitude, and has the sign of the dividend. -/
theorem remn_bounds {a b : Word} (h : b ≠ 0) :
    (remn a b).toInt.natAbs < b.toInt.natAbs ∧ (remn a b = 0 ∨ ((remn a b).toInt < 0 ↔ a.toInt < 0)) := by
  have hb : b.toInt ≠ 0 := fun hb => h (BitVec.toInt_inj.1 hb)
  have hz : remn a b = 0 ↔ a.toInt.tmod b.toInt = 0 := by
    rw [remn_eq_srem, ← BitVec.toInt_inj, BitVec.toInt_srem]
    rfl
  rw [hz, remn_eq_srem, BitVec.toInt_srem, Int.natAbs_tmod]
  refine ⟨Nat.mod_lt _ (Int.natAbs_pos.2 hb), ?_⟩
  have hsign := Int.sign_tmod a.toInt b.toInt
  split at hsign
  · exact .inl (Int.sign_eq_zero_iff_zero.1 hsign)
  · rw [← Int.sign_eq_neg_one_iff_neg, hsign, Int.sign_eq_neg_one_iff_neg]
    exact .inr Iff.rfl

theorem quotz_mul_add_remz (a b : Word) : a = quotz a b * b + remz a b := by
  by_cases h : b = 0
  · simp [remz, h]
  · have hdiv : a.toNat / b.toNat * b.toNat + a.toNat % b.toNat = a.toNat := by
      rw [Nat.mul_comm, Nat.div_add_mod]
    rw [quotz, remz, if_neg h, if_neg h]
    calc a = BitVec.ofNat 64 (a.toNat / b.toNat * b.toNat + a.toNat % b.toNat) := by
            rw [hdiv, BitVec.ofNat_toNat, BitVec.setWidth_eq]
      _ = _ := by rw [BitVec.ofNat_add, BitVec.ofNat_mul, BitVec.ofNat_toNat, BitVec.setWidth_eq]; rfl

/-- The one overflow of DIV: the least integer by -1. -/
theorem quot_overflow : quot (BitVec.intMin 64) (BitVec.allOnes 64) = BitVec.intMin 64 ∧
    remn (BitVec.intMin 64) (BitVec.allOnes 64) = 0 := by decide

theorem quotz_remz_toNat {a b : Word} (h : b ≠ 0) :
    (quotz a b).toNat = a.toNat / b.toNat ∧ (remz a b).toNat = a.toNat % b.toNat := by
  rw [quotz, remz, if_neg h, if_neg h]
  exact ⟨Nat.mod_eq_of_lt ((Nat.div_le_self ..).trans_lt a.isLt),
    Nat.mod_eq_of_lt ((Nat.mod_le ..).trans_lt a.isLt)⟩

/-- Settles O2: the quotients and the remainders are those of the integers that the words stand for, the signed quotient
where it fits. -/
theorem divisionTruncatesAndNeverTraps : Obligations.DivisionTruncatesAndNeverTraps := by
  unfold Obligations.DivisionTruncatesAndNeverTraps
  intro s d a b A B
  refine ⟨⟨quot A B, remn A B, ?div, ?rem, quot_mul_add_remn A B, fun hB => ⟨if_pos hB, if_pos hB⟩,
    fun hA hB => ?overflow, fun hB hov => ?truncated, remn_bounds⟩, quotz A B, remz A B, ?divz, ?remz,
    quotz_mul_add_remz A B, fun hB => ⟨if_pos hB, if_pos hB⟩, quotz_remz_toNat⟩
  case div => exact writesX_of_value (fun s => quot (s.rx a) (s.rx b)) rfl rfl rfl (Instr.len_div ..)
  case rem => exact writesX_of_value (fun s => remn (s.rx a) (s.rx b)) rfl rfl rfl (Instr.len_rem ..)
  case divz => exact writesX_of_value (fun s => quotz (s.rx a) (s.rx b)) rfl rfl rfl (Instr.len_divz ..)
  case remz => exact writesX_of_value (fun s => remz (s.rx a) (s.rx b)) rfl rfl rfl (Instr.len_remz ..)
  case overflow =>
    rw [hA, hB]
    exact quot_overflow
  case truncated =>
    have hfits : A ≠ BitVec.intMin 64 ∨ B ≠ -1#64 := not_and_or.1 hov
    rw [quot_of_ne_zero hB, BitVec.toInt_sdiv_of_ne_or_ne _ _ hfits]

end Sys2Proof.Machine

namespace Sys2Proof.Machine

/-! RANKX (04 R105) and MESHA (04 R106, R107). -/

theorem rankPartner_idle {r n k : Int} (h : n < 1 ∨ r < 0 ∨ n ≤ r) : rankPartner r n k = -1 := if_pos h

/-- The partner's rank where the rank is one of the n, given the power of two that p = 2 ^ L is (R105). -/
theorem rankPartner_of_mem {r n k : Int} {L : Nat} (h0 : 0 ≤ r) (h1 : r < n) (hlo : (2 : Int) ^ L ≤ n)
    (hhi : n < 2 ^ (L + 1)) : rankPartner r n k =
      if k = -1 then (if 2 ^ L ≤ r then r - 2 ^ L else if r < n - 2 ^ L then r + 2 ^ L else -1)
      else if 0 ≤ k ∧ k < L then (if 2 ^ L ≤ r then -1 else ((r.toNat ^^^ 2 ^ k.toNat : Nat) : Int))
      else -1 := by
  obtain ⟨m, rfl⟩ : ∃ m : Nat, n = m := ⟨n.toNat, by omega⟩
  have hlog : Nat.log2 m = L := by
    refine (Nat.log2_eq_iff (by omega)).2 ⟨?_, ?_⟩
    · exact_mod_cast hlo
    · exact_mod_cast hhi
  rw [rankPartner, if_neg (by omega), Int.toNat_natCast, hlog]
  push_cast
  rfl

/-- Two fields side by side, the low one of n bits: they are one field. -/
theorem or_fields {b n : Nat} (h : b < 2 ^ n) (a lo : Nat) :
    a * 2 ^ (n + lo) ||| b * 2 ^ lo = (a * 2 ^ n + b) * 2 ^ lo := by
  have hb : b * 2 ^ lo < 2 ^ (n + lo) := by
    rw [Nat.pow_add]
    exact Nat.mul_lt_mul_of_pos_right h (by positivity)
  rw [Nat.mul_comm, ← Nat.two_pow_add_eq_or_of_lt hb, Nat.pow_add]
  ring

theorem lowBits_lt (n : Nat) (i : Int) : lowBits n i < 2 ^ n := by
  unfold lowBits
  have := Int.emod_lt_of_pos i (b := (2 ^ n : Nat)) (by positivity)
  omega

theorem toNat_field {n lo : Nat} (h : n + lo ≤ 64) (i : Int) :
    ((BitVec.ofInt n i).setWidth 64 <<< lo).toNat = lowBits n i * 2 ^ lo := by
  have hlt := lowBits_lt n i
  have hn : 2 ^ n * 2 ^ lo ≤ 2 ^ 64 := by
    rw [← Nat.pow_add]
    exact Nat.pow_le_pow_right (by decide) h
  have hn' : 2 ^ n ≤ 2 ^ 64 := Nat.pow_le_pow_right (by decide) (by omega)
  have hfield : lowBits n i * 2 ^ lo < 2 ^ 64 := (Nat.mul_lt_mul_of_pos_right hlt (by positivity)).trans_le hn
  rw [BitVec.toNat_shiftLeft, BitVec.toNat_setWidth, BitVec.toNat_ofInt, Nat.shiftLeft_eq]
  change lowBits n i % 2 ^ 64 * 2 ^ lo % 2 ^ 64 = _
  rw [Nat.mod_eq_of_lt (hlt.trans_le hn'), Nat.mod_eq_of_lt hfield]

/-- A mesh-space address is its fields, each in its place (R106). -/
theorem meshWord_eq_or (rel : Bool) (e x y : Int) (off : BitVec 22) :
    meshWord rel e x y off.toNat = BitVec.ofNat 64 (0xFE * 2 ^ 56 + rel.toNat * 2 ^ 55) |||
      ((BitVec.ofInt 4 e).setWidth 64 <<< 51) ||| ((BitVec.ofInt 5 x).setWidth 64 <<< 46) |||
      ((BitVec.ofInt 5 y).setWidth 64 <<< 41) ||| off.setWidth 64 := by
  have he := lowBits_lt 4 e
  have hx := lowBits_lt 5 x
  have hy := lowBits_lt 5 y
  have hrel : rel.toNat < 2 := rel.toNat_lt
  have hoff := off.isLt
  refine BitVec.eq_of_toNat_eq ?_
  rw [BitVec.toNat_or, BitVec.toNat_or, BitVec.toNat_or, BitVec.toNat_or,
    toNat_field (by decide), toNat_field (by decide), toNat_field (by decide), BitVec.toNat_setWidth,
    Nat.mod_eq_of_lt (show off.toNat < 2 ^ 64 by omega), BitVec.toNat_ofNat,
    Nat.mod_eq_of_lt (show 0xFE * 2 ^ 56 + rel.toNat * 2 ^ 55 < 2 ^ 64 by omega), meshWord, word, BitVec.toNat_ofNat,
    Nat.mod_eq_of_lt (by omega)]
  have hlow : off.toNat < 2 ^ 41 := hoff.trans (by decide)
  have htop : 0xFE * 2 ^ 56 + rel.toNat * 2 ^ 55 = (0xFE * 2 + rel.toNat) * 2 ^ (4 + 51) := by ring
  have hoff0 : off.toNat = off.toNat * 2 ^ 0 := (Nat.mul_one _).symm
  rw [htop, or_fields he _ 51, or_fields hx _ 46, or_fields hy _ 41, hoff0, or_fields hlow _ 0]
  ring

theorem gridHas_iff (g : Grade) (d x y : Int) :
    gridHas g d x y = true ↔ 0 ≤ d ∧ d ≤ 7 ∧ 0 ≤ x ∧ x < g.gx ∧ 0 ≤ y ∧ y < g.gy := by
  simp [gridHas, and_assoc]

theorem mesha_writes {s : State} {form : MeshaForm} {d a b c : XReg} {off : BitVec 22} {v : Word}
    (h : meshAddress s.pkg.grade s.cl form (s.ctx.rx a).toInt (s.ctx.rx b).toInt (s.ctx.rx c).toInt off.toNat = v) :
    WritesX (.mesha form d a b c off) s d v 12 :=
  h ▸ writesX_of_value
    (fun s => meshAddress s.pkg.grade s.cl form (s.rx a).toInt (s.rx b).toInt (s.rx c).toInt off.toNat)
    rfl rfl rfl (Instr.len_mesha ..)

/-- Settles O6: RANKX's value is R105's in each of its cases, MESHA's is its fields where the position is allowed. -/
theorem ranksAndMeshAddresses : Obligations.RanksAndMeshAddresses := by
  unfold Obligations.RanksAndMeshAddresses
  intro s d a b c off r n k gx gy o addr
  refine ⟨⟨rankPartner r n k, ?rankx, rankPartner_idle, fun L h0 h1 hlo hhi => ?partner⟩, mesha_writes ?abs,
    mesha_writes ?delta, mesha_writes ?resolve⟩
  case rankx =>
    exact writesX_of_value (fun s => BitVec.ofInt 64 (rankPartner (s.rx a).toInt (s.rx b).toInt (s.rx c).toInt))
      rfl rfl rfl (Instr.len_rankx ..)
  case partner =>
    rw [rankPartner_of_mem h0 h1 hlo hhi]
    refine ⟨fun hk => if_pos hk, fun hk hL => ?_, fun hk => ?_⟩
    · rw [if_neg (by omega), if_pos ⟨hk, hL⟩]
    · rw [if_neg (by omega), if_neg (by omega)]
  case abs => simp only [meshAddress, gridHas_iff, meshWord_eq_or]; rfl
  case delta => simp only [meshAddress, meshWord_eq_or]; rfl
  case resolve => simp only [meshAddress, gridHas_iff, meshWord_eq_or]; rfl

end Sys2Proof.Machine

namespace Sys2Proof.Machine

/-! Branches and jumps (04 R108, R109). -/

section
variable {s : State} {d a b : XReg} {off : BitVec 32}

theorem sext32_mul_four (off : BitVec 32) : sext32 off * 4 = BitVec.ofInt 64 (off.toInt * 4) := by
  rw [BitVec.ofInt_mul]
  rfl

theorem sext30_mul_four (imm : BitVec 30) : sext30 imm * 4 = BitVec.ofInt 64 (imm.toInt * 4) := by
  rw [BitVec.ofInt_mul]
  rfl

/-- A branch is taken where its condition holds, and writes no register. -/
theorem branch_next {i : Instr} (taken : State → Bool) (he : exec i s = s.run i fun s =>
      if taken s then .jump s (branchTarget s.ctx.pc off) else .done s)
    (hs : writesStream s.ctx i = false) (hu : userMay i = true) (hn : i.len = 8) (h : Calm s i = true)
    {c : Prop} [Decidable c] (hc : taken s = true ↔ c) :
    exec i s = .next (if c then s.jumped s.ctx (s.ctx.pc + BitVec.ofInt 64 (off.toInt * 4)) else s.after s.ctx 8) := by
  rw [he, ← sext32_mul_four]
  by_cases hcond : c
  · rw [if_pos hcond]
    exact run_jump h hs hu (if_pos (hc.2 hcond)) rfl rfl
  · rw [if_neg hcond]
    exact run_done h hs hu hn (if_neg (mt hc.1 hcond)) rfl rfl

theorem bcc_next {cond : BccCond} {c : Prop} [Decidable c]
    (hc : bccTaken cond (s.ctx.rx a) (s.ctx.rx b) = true ↔ c) (h : Calm s (.bcc cond a b off) = true) :
    exec (.bcc cond a b off) s =
      .next (if c then s.jumped s.ctx (s.ctx.pc + BitVec.ofInt 64 (off.toInt * 4)) else s.after s.ctx 8) :=
  branch_next (fun s => bccTaken cond (s.rx a) (s.rx b)) rfl rfl rfl (Instr.len_bcc ..) h hc

theorem bmask_next {cond : BmaskCond} {c : Prop} [Decidable c] (hc : bmaskTaken cond (s.ctx.rx a) = true ↔ c)
    (h : Calm s (.bmask cond a off) = true) : exec (.bmask cond a off) s =
      .next (if c then s.jumped s.ctx (s.ctx.pc + BitVec.ofInt 64 (off.toInt * 4)) else s.after s.ctx 8) :=
  branch_next (fun s => bmaskTaken cond (s.rx a)) rfl rfl rfl (Instr.len_bmask ..) h hc

/-- A jump links and goes to an aligned target; a misaligned one traps at the jump. -/
theorem link_next {i : Instr} (target : State → Word) (he : exec i s = s.run i fun s => jumpLink d (target s) s)
    (hs : writesStream s.ctx i = false) (hu : userMay i = true) (h : Calm s i = true) :
    ((target s).toNat % 4 = 0 → exec i s = .next (s.jumped (s.ctx.wx d (s.ctx.pc + 8)) (target s))) ∧
      ((target s).toNat % 4 ≠ 0 → TrapReady s = true → exec i s = .next (s.trapped ⟨.align, target s, 0⟩)) := by
  rw [he]
  refine ⟨fun ha => ?_, fun ha ht => run_trap h hs hu ht (if_pos ha)⟩
  rw [run_jump (t := s.wx d (s.ctx.pc + 8)) h hs hu (if_neg (not_not.2 ha)) (s.ctx.wx_loop d _) (s.ctx.wx_windows d _)]
  simp [State.jumped, State.issueCycle, State.wx]

end

theorem slt_iff (a b : Word) : a.slt b = true ↔ a.toInt < b.toInt := decide_eq_true_iff
theorem ult_iff (a b : Word) : a.ult b = true ↔ a.toNat < b.toNat := decide_eq_true_iff

theorem not_slt_iff (a b : Word) : (!a.slt b) = true ↔ b.toInt ≤ a.toInt := by
  rw [Bool.not_eq_true', ← Bool.not_eq_true, slt_iff, not_lt]

theorem not_ult_iff (a b : Word) : (!a.ult b) = true ↔ b.toNat ≤ a.toNat := by
  rw [Bool.not_eq_true', ← Bool.not_eq_true, ult_iff, not_lt]

/-- BMASK looks at bits 31:0. -/
theorem low32_eq_iff (a : Word) (n : BitVec 32) : a.setWidth 32 = n ↔ a.toNat % 2 ^ 32 = n.toNat := by
  rw [← BitVec.toNat_inj, BitVec.toNat_setWidth]

/-- Settles O7: each condition of Table 4.5 is the comparison stated, and a branch goes by its condition. -/
theorem branchesAndJumps : Obligations.BranchesAndJumps := by
  unfold Obligations.BranchesAndJumps
  intro s d a b off imm A B T J R go link
  refine ⟨bcc_next decide_eq_true_iff, bcc_next decide_eq_true_iff, bcc_next (slt_iff A B), bcc_next (not_slt_iff A B),
    bcc_next (ult_iff A B), bcc_next (not_ult_iff A B), bmask_next ?any, bmask_next ?all, bmask_next ?none, ?jal, ?jalr⟩
  case any => exact decide_eq_true_iff.trans (not_congr (low32_eq_iff A 0))
  case all => exact decide_eq_true_iff.trans (low32_eq_iff A _)
  case none => exact decide_eq_true_iff.trans (low32_eq_iff A 0)
  case jal =>
    rw [show J = s.ctx.pc + sext30 imm * 4 from congrArg (s.ctx.pc + ·) (sext30_mul_four imm).symm]
    exact link_next (fun s => s.ctx.pc + sext30 imm * 4) rfl rfl rfl
  case jalr => exact link_next (fun s => s.rx a + sext30 imm) rfl rfl rfl

/-! TRAP and BRK (04 R96, 01 R25, R27, R29). -/

section
variable {s : State} {t : Trap}

/-- A trap waits for the vector commands of the context that are queued (R25, assumption 9). -/
theorem enterTrap_queued (hq : (s.queued s.cur).isEmpty = false) :
    s.enterTrap t = { s with ctx := { s.ctx with waiting := true } } :=
  if_pos fun h => by simp [h] at hq

/-- With no window and no loop, a context that stops in a double trap keeps its registers and its PC (R29). -/
theorem stop_of_calm {c : Ctx} (hl : c.loop = none) (hw : c.windows = []) :
    c.stop = { c with waiting := false, wake := none, doing := none, asked := none } := by
  simp [Ctx.stop, Ctx.settle, hl, hw]

/-- A trap where INH is 1 halts the partition, which is to be dumped (R29, R346). -/
theorem enterTrap_inh {p : Nat} {v : Part} (hl : s.ctx.loop = none) (hw : s.ctx.windows = [])
    (hq : (s.queued s.cur).isEmpty = true) (hi : s.ctx.inh = true) (hp : (s.getCl s.cur.core.cl).part = some p)
    (hv : s.part? p = some v) (hd : v.dumpRec = none) :
    s.enterTrap t =
      { s with ctx := { s.ctx with waiting := false, wake := none, doing := none, asked := none } }.setPart p { v with
        state := .dumping
        haltCycle := s.cycle
        dumpRec := some (2, coreIdBits s.cur, 0,
          wordBytes (trapCauseWord t s.ctx.super) ++ wordBytes s.ctx.pc, s.cycle) } := by
  have hno : s.partNo = p := by simp [State.partNo, State.part, State.cl, hp]
  rw [State.enterTrap, if_neg (not_not.2 (List.isEmpty_iff.1 hq)), if_pos hi, State.doubleTrap, hno, hv]
  simp only [stop_of_calm hl hw, hd, Option.getD_none]

end

/-- TRAPCAUSE of a trap without a subcode: the cause and the level (Table 1.5). -/
theorem trapCauseWord_toNat {t : Trap} (hs : t.cause.sub = 0) (b : Bool) :
    (trapCauseWord t b).toNat = t.cause.code + if b then 2 ^ 16 else 0 := by
  have hc : t.cause.code < 2 ^ 16 := by cases t.cause <;> simp [Cause.code]
  cases b <;> simp [trapCauseWord, word, hs] <;> omega

/-- TRAP and BRK are traps of their cause, without a subcode (R96). -/
theorem softwareTrap_run {i : Instr} {imm : BitVec 30} {cause : Nat}
    (hi : (i = .trap imm ∧ cause = 0x0C) ∨ (i = .brk imm ∧ cause = 0x0B)) (s : State) (h : Calm s i = true) :
    ∃ c : Cause, c.code = cause ∧ c.sub = 0 ∧ exec i s = .next (s.enterTrap ⟨c, 0, sext30 imm⟩) := by
  rcases hi with ⟨rfl, rfl⟩ | ⟨rfl, rfl⟩
  · refine ⟨.trap, rfl, rfl, ?_⟩
    show execTrap imm s = _
    rw [execTrap, run_user h rfl rfl, finish_trap]
  · refine ⟨.brk, rfl, rfl, ?_⟩
    show execBrk imm s = _
    rw [execBrk, run_user h rfl rfl, finish_trap]

/-- Settles O9: TRAP and BRK are traps; a trap waits, halts the partition, or enters the handler. -/
theorem softwareTrapsEnterTheHandler : Obligations.SoftwareTrapsEnterTheHandler := by
  unfold Obligations.SoftwareTrapsEnterTheHandler
  intro s imm i cause hi h level
  obtain ⟨hl, hw, -⟩ := calm_iff.1 h
  obtain ⟨c, rfl, hsub, hrun⟩ := softwareTrap_run hi s h
  have hcause := trapCauseWord_toNat (t := ⟨c, 0, sext30 imm⟩) hsub s.ctx.super
  rw [hrun]
  refine ⟨fun hq => by rw [enterTrap_queued hq], fun hq hinh p v hp hv hd => ?_, fun ht => ?_⟩
  · rw [enterTrap_inh hl hw hq hinh hp hv hd, wordBytes, hcause]
    rfl
  · rw [enterTrap_ready _ ht hw]
    exact ⟨_, rfl, rfl, rfl, hcause, rfl, rfl, rfl, rfl, rfl, rfl, rfl, rfl, rfl, rfl, rfl, rfl⟩

end Sys2Proof.Machine

namespace Sys2Proof.Machine

/-! FENCE and SLEEP (04 R93, R99; 18 R339, R340). -/

/-- What a FENCE leaves as it completes: an acquire of its scope, no fetched block, and, from scope core on, a new
region. -/
def State.fenced (s : State) (sc : Scope) : State :=
  { s with
    ctx := { s.ctx with
      fetched := [], fence := s.mem.stores, regionid := if sc = .ctx then s.ctx.regionid else s.ctx.regionid + 1 }
    clusters := if sc = .die ∨ sc = .pkg ∨ sc = .sys
      then Map.put s.clusters s.cur.core.cl { s.getCl s.cur.core.cl with ways := [] } else s.clusters
    mem := { s.mem with accesses :=
      if sc = .ctx then s.mem.accesses else s.mem.accesses.filter fun a => a.agent ≠ .ctx s.cur } }

/-- FENCE has nothing to wait for but the vector memory commands of its context (R93). -/
theorem fence_next {s : State} {sc : Scope} (h : Calm s (.fence sc) = true) (hq : s.vecMemBusy = false) :
    exec (.fence sc) s = .next ((s.fenced sc).after (s.fenced sc).ctx 8) := by
  show execFence sc s = _
  refine run_done h rfl rfl (Instr.len_fence sc) ?_ rfl rfl
  rw [hq]
  cases sc <;> rfl

section
variable {s : State} {a : XReg} {imm : BitVec 30}

/-- A SLEEP that has not begun completes at once, or waits until its cycles have passed (R99). -/
theorem sleep_begins (h : Calm s (.sleep a imm) = true) (hw : s.ctx.wake = none) :
    exec (.sleep a imm) s = .next (if sleepCycles (s.rx a) imm = 0 then s.after s.ctx 8 else
      { s with ctx := { s.ctx with
        wake := some (s.cycle + sleepCycles (s.rx a) imm), waiting := true, lastIssue := some s.cycle } }) := by
  obtain ⟨hl, hi, -⟩ := calm_iff.1 h
  show execSleep a imm s = _
  rw [execSleep, run_user h rfl rfl]
  simp only [hw]
  split
  · rw [finish_done, retire_after (Instr.len_sleep ..) hl hi]
  · rw [finish_wait]

/-- A SLEEP that has begun completes once its cycles have passed. -/
theorem sleep_goesOn {w : Nat} (h : Calm s (.sleep a imm) = true) (hw : s.ctx.wake = some w) :
    exec (.sleep a imm) s = .next (if w ≤ s.cycle then s.after { s.ctx with wake := none } 8 else
      { s with ctx := { s.ctx with waiting := true } }) := by
  obtain ⟨hl, hi, -⟩ := calm_iff.1 h
  show execSleep a imm s = _
  rw [execSleep, run_user h rfl rfl]
  simp only [hw]
  split
  · exact congrArg Host.Outcome.next
      (retire_after (s := { s with ctx := { s.ctx with wake := none } }) (Instr.len_sleep ..) hl hi)
  · rw [finish_wait, ← hw]

theorem getCtx_cur (s : State) : s.getCtx s.cur = s.ctx := if_pos rfl

theorem switchTo_self (s : State) : s.switchTo s.cur = s := if_pos rfl

/-- SLEEP_EXPIRY completes the issuing context's SLEEP once its cycles have passed, unless the context is at its
halt. -/
theorem sleepExpiry_next {w : Nat} (hl : s.ctx.loop = none) (hi : s.ctx.windows = []) (hw : s.ctx.wake = some w)
    (hc : w ≤ s.cycle) (hg : s.goesOn s.cur = true) : exec (.sleepExpiry s.cur) s = .next { s with ctx := { s.ctx with
      wake := none, pc := s.ctx.pc + 8, waiting := false, doing := none, asked := none, pos := 0, plan := [],
      awaits := [] } } := by
  show execSleepExpiry s.cur s = _
  simp only [execSleepExpiry, getCtx_cur, hw, switchTo_self, if_pos (And.intro hc hg),
    retire_after (Instr.len_sleep 0 0) hl hi]
  exact congrArg Host.Outcome.next (if_pos rfl)

theorem sleepExpiry_refused {w : Nat} (hw : s.ctx.wake = some w) (h : s.cycle < w ∨ s.goesOn s.cur = false) :
    exec (.sleepExpiry s.cur) s = disabled "SLEEP_EXPIRY" := by
  show execSleepExpiry s.cur s = _
  simp only [execSleepExpiry, getCtx_cur, hw]
  refine if_neg fun ⟨hc, hg⟩ => ?_
  rcases h with h | h
  · omega
  · simp [hg] at h

end

/-- Settles O14: a FENCE's effect is `State.fenced`, field by field; a SLEEP waits by the cycle at which it ends. -/
theorem fenceAndSleep : Obligations.FenceAndSleep := by
  unfold Obligations.FenceAndSleep
  refine ⟨fun s sc h hq => ⟨_, fence_next h hq, rfl, rfl, fun hsc => if_pos hsc, fun hsc x => ?_⟩,
    fun s a imm h hw => ?_,
    fun s a imm w h hw => ?_⟩
  · simp [State.after, State.fenced, hsc]
  · rw [sleep_begins h hw]
    refine ⟨fun hn => congrArg Host.Outcome.next (if_pos (if_pos hn)), fun hn => ?_⟩
    have hcycles : sleepCycles (s.rx a) imm =
        min (s.ctx.rx a + BitVec.ofInt 64 imm.toInt).toInt.toNat (2 ^ 32 - 1) := if_neg (not_le.2 hn)
    rw [if_neg (by omega), hcycles]
  · obtain ⟨hl, hi, -⟩ := calm_iff.1 h
    rw [sleep_goesOn h hw]
    exact ⟨fun hc => by rw [if_pos hc], fun hc => by rw [if_neg (by omega)],
      fun hc hg => sleepExpiry_next hl hi hw hc hg,
      fun hh => ⟨_, sleepExpiry_refused hw hh⟩⟩

end Sys2Proof.Machine

namespace Sys2Proof.Machine

/-! What an access answers (01 R23, R26; 04 R112; 09 R218). -/

section
variable {s : State} {k : AccKind} {ea : Word} {n : Nat}

theorem isMesh_iff : isMesh ea = true ↔ ea.toNat / 2 ^ 56 = 0xFE := decide_eq_true_iff

theorem canonical_iff : canonical ea = true ↔ ea.toNat / 2 ^ 56 = 0 ∨ ea.toNat / 2 ^ 56 = 0xFF := by
  simp [canonical]

/-- An address is of neither kind (R23). -/
theorem noKind_iff : (!isMesh ea && !canonical ea) = true ↔ ea.toNat / 2 ^ 56 ∉ [0x00, 0xFE, 0xFF] := by
  rw [Bool.and_eq_true, Bool.not_eq_true', Bool.not_eq_true', ← Bool.not_eq_true, ← Bool.not_eq_true, isMesh_iff,
    canonical_iff]
  simp only [List.mem_cons, List.not_mem_nil, or_false]
  tauto

theorem aligned_iff (h : n ≠ 0) : aligned ea n = true ↔ ea.toNat % n = 0 := by
  simp [aligned, h]

/-- An address of neither kind traps first. -/
theorem access_badKind (h : ea.toNat / 2 ^ 56 ∉ [0x00, 0xFE, 0xFF]) :
    s.access k ea n n = .trap ⟨.notPresent, ea, 0⟩ :=
  if_pos (noKind_iff.2 h)

/-- A misaligned address of a kind that there is traps next. -/
theorem access_misaligned (hn : n ≠ 0) (h : ea.toNat / 2 ^ 56 ∈ [0x00, 0xFE, 0xFF]) (ha : ea.toNat % n ≠ 0) :
    s.access k ea n n = .trap ⟨.align, ea, 0⟩ := by
  rw [State.access, if_neg (mt noKind_iff.1 (not_not.2 h)), if_pos]
  rw [Bool.not_eq_true', ← Bool.not_eq_true, aligned_iff hn]
  exact ha

/-- An aligned canonical address traps as its translation does. -/
theorem access_untranslated (hn : n ≠ 0) (h : ea.toNat / 2 ^ 56 ∈ [0x00, 0xFF]) (ha : ea.toNat % n = 0) {t : Trap}
    (hx : s.xlate s.partNo s.ctx.super k ea = .error t) : s.access k ea n n = .trap t := by
  have hc : canonical ea = true := canonical_iff.2 (by simpa using h)
  have hm : isMesh ea = false := by
    rw [← Bool.not_eq_true, isMesh_iff]
    rcases canonical_iff.1 hc with h | h <;> omega
  simp [State.access, State.locate, hc, hm, (aligned_iff hn).2 ha, hx, Chk.bind]

end

section
variable {s : State} {i : Instr} {k : AccKind} {ea : Word} {n : Nat} {f : Target → Res} {body : State → Res} {t : Trap}

/-- Where its access traps, a load or a store performs nothing (R112). -/
theorem run_access_trap (h : Calm s i = true) (hs : writesStream s.ctx i = false) (hu : userMay i = true)
    (ht : TrapReady s = true) (hb : body s = (s.access k ea n n).res s f) (ha : s.access k ea n n = .trap t) :
    s.run i body = .next (s.trapped t) :=
  run_trap h hs hu ht (by rw [hb, ha, Chk.res])

end

/-- Settles O18: the body of each is its access check first, and the check answers in R26's order. -/
theorem trappingAccessesChangeNothing : Obligations.TrappingAccessesChangeNothing := by
  unfold Obligations.TrappingAccessesChangeNothing
  intro s r m sz sx la load i k ea h hq ht
  have htrap : ∀ t, s.access k ea (2 ^ sz.val) (2 ^ sz.val) = .trap t → exec i s = .next (s.trapped t) := by
    intro t ha
    cases load with
    | true =>
      show execLd r m sz sx .plain .ctx la s = _
      exact run_access_trap h rfl rfl ht (by rw [hq]; rfl) ha
    | false =>
      show execSt r m sz .plain .ctx s = _
      exact run_access_trap h rfl rfl ht (by rw [hq]; rfl) ha
  exact ⟨fun hk => htrap _ (access_badKind hk), fun hk ha => htrap _ (access_misaligned (by positivity) hk ha),
    fun hk ha t hx => htrap _ (access_untranslated (by positivity) hk ha hx), htrap⟩

end Sys2Proof.Machine

namespace Sys2Proof.Machine

/-! What a load leaves (04 R110, 08 R195, 09 R218): memories that are held otherwise, and clusters that hold or request
other lines. -/

/-- The log of accesses is not what a byte reads as. -/
theorem Mem.Keeps.withAccesses {m n : Mem} (h : m.Keeps n) (l : List Access) : m.Keeps { n with accesses := l } :=
  h.of_eq rfl rfl rfl rfl

/-- A state differs from another only in what clusters hold and in how the memories are held: every byte reads alike. -/
def State.HeldAs (s u : State) : Prop := ∃ m cls, s.mem.Keeps m ∧ u = { s with mem := m, clusters := cls }

section
variable {s t u : State}

theorem State.HeldAs.refl (h : s.mem.wf) : s.HeldAs s := ⟨_, _, .refl h, rfl⟩

theorem State.HeldAs.trans (h : s.HeldAs t) (h' : t.HeldAs u) : s.HeldAs u := by
  obtain ⟨m, cls, hk, rfl⟩ := h
  obtain ⟨m', cls', hk', rfl⟩ := h'
  exact ⟨m', cls', hk.trans hk', rfl⟩

theorem State.HeldAs.wf (h : s.HeldAs u) : u.mem.wf := by
  obtain ⟨m, cls, hk, rfl⟩ := h
  exact hk.wf

theorem State.HeldAs.reads (h : s.HeldAs u) (hw : s.mem.wf) (p : Place) : u.mem.reads p = s.mem.reads p := by
  obtain ⟨m, cls, hk, rfl⟩ := h
  exact hk.reads hw p

/-- Clusters hold other lines. -/
theorem heldAs_setCl (h : s.mem.wf) (c : ClusterId) (k : Cluster) : s.HeldAs (s.setCl c k) := ⟨_, _, .refl h, rfl⟩

theorem heldAs_acquire (h : s.mem.wf) (sc : Scope) : s.HeldAs (s.acquire sc) := by
  unfold State.acquire
  split
  · exact heldAs_setCl h _ _
  · exact .refl h

theorem heldAs_noteAccess (h : s.mem.wf) (ea : Word) : s.HeldAs (s.noteAccess ea) := by
  obtain ⟨m, hk, he⟩ := noteAccess_keeps (ea := ea) h
  exact ⟨m, _, hk, he⟩

theorem noteAccess_clusters (s : State) (ea : Word) : (s.noteAccess ea).clusters = s.clusters := by
  unfold State.noteAccess
  split <;> rfl

theorem heldAs_readHome (h : s.mem.wf) (pa n : Nat) : s.HeldAs (s.readHome pa n).1 :=
  ⟨_, _, Mem.keeps_visitRange h pa n, rfl⟩

theorem Mem.keeps_log {m : Mem} (h : m.wf) (a : Access) : m.Keeps (m.log a) := by
  unfold Mem.log
  split
  · exact .refl h
  · exact (Mem.Keeps.refl h).withAccesses _

theorem heldAs_note (h : s.mem.wf) (p : Page) (lo n : Nat) (k : AccKind) : s.HeldAs (s.note p lo n k) := by
  unfold State.note
  split
  · exact ⟨_, _, Mem.keeps_log h _, rfl⟩
  · exact .refl h

theorem heldAs_readVia (h : s.mem.wf) (c : ClusterId) (pa n : Nat) : s.HeldAs (s.readVia c pa n).1 := by
  unfold State.readVia
  split
  · exact .refl h
  · exact (heldAs_readHome h pa n).trans (heldAs_setCl (heldAs_readHome h pa n).wf _ _)

theorem heldAs_load (h : s.mem.wf) (t : Target) (n : Nat) : s.HeldAs (s.load t n).1 := by
  cases t with
  | mesh c off => exact .refl h
  | glob p pa =>
    show s.HeldAs (s.loadGlob p pa n).1
    unfold State.loadGlob
    split
    · exact (heldAs_readHome h pa n).trans (heldAs_note (heldAs_readHome h pa n).wf ..)
    · exact heldAs_readVia h _ pa n

end

/-! What a load reads. -/

/-- Bytes are those of a load of a target by the issuing context: those of the scratchpad, of the home, or of the
copy of the line that the context's cluster holds. -/
structure State.LoadGives (s : State) (t : Target) (n : Nat) (bs : List Byte) : Prop where
  mesh : ∀ c off, t = .mesh c off → ∀ j < n, bs[j]? = some (s.mem.reads (.scr (scrKey c off + j)))
  home : ∀ p pa, t = .glob p pa → p.checked = true ∨ (s.getCl s.cl).wayOf (lineOf pa) = none →
    ∀ j < n, bs[j]? = some (s.mem.reads (.glob (pa + j)))
  copy : ∀ p pa w, t = .glob p pa → p.checked = false → (s.getCl s.cl).wayOf (lineOf pa) = some w →
    bs = (w.bytes.drop (pa % 128)).take n ∨ w.bytes.length ≠ 128

section
variable {s u : State} {t : Target} {n : Nat}

theorem loadGives_load (h : s.mem.wf) : s.LoadGives t n (s.load t n).2 := by
  refine ⟨?_, ?_, ?_⟩
  · rintro c off rfl j hj
    exact cellsRead_getElem? _ _ hj
  · rintro p pa rfl hp j hj
    show (s.loadGlob p pa n).2[j]? = _
    unfold State.loadGlob
    split
    · exact State.readHome_getElem? h pa hj
    · next hc =>
      rw [State.readVia, hp.resolve_left hc]
      exact State.readHome_getElem? h pa hj
  · rintro p pa w rfl hc hw
    left
    show (s.loadGlob p pa n).2 = _
    rw [State.loadGlob, hc, if_neg Bool.false_ne_true, State.readVia, hw]

/-- A load of bytes within a line finds them all, unless the cluster's copy of the line is not a whole one. -/
theorem load_length (hf : t.Fits n) : (s.load t n).2.length = n ∨ (s.load t n).2.length ≤ n ∧
    ∃ p pa w, t = .glob p pa ∧
    p.checked = false ∧ (s.getCl s.cl).wayOf (lineOf pa) = some w ∧ w.bytes.length ≠ 128 := by
  cases t with
  | mesh c off => exact .inl (cellsRead_length ..)
  | glob p pa =>
    have hfits : pa % 128 + n ≤ 128 := hf
    show (s.loadGlob p pa n).2.length = n ∨ (s.loadGlob p pa n).2.length ≤ n ∧ _
    unfold State.loadGlob
    split
    · exact .inl (cellsRead_length ..)
    · next hc =>
      unfold State.readVia
      split
      · next w hw =>
        by_cases hlen : w.bytes.length = 128
        · left
          simp [hlen]
          omega
        · exact .inr ⟨List.length_take_le .., p, pa, w, rfl, by simpa using hc, hw, hlen⟩
      · exact .inl (cellsRead_length ..)

/-- What a load gives in a state that is held otherwise, its cluster's copies apart. -/
theorem State.LoadGives.of_heldAs {bs : List Byte} (hw : s.mem.wf) (h : s.HeldAs u) (hc : u.clusters = s.clusters)
    (hl : u.LoadGives t n bs) : s.LoadGives t n bs := by
  have hr := h.reads hw
  obtain ⟨m, cls, -, rfl⟩ := h
  obtain rfl : cls = s.clusters := hc
  exact ⟨fun c off ht j hj => (hl.mesh c off ht j hj).trans (congrArg some (hr _)),
    fun p pa ht hp j hj => (hl.home p pa ht hp j hj).trans (congrArg some (hr _)), hl.copy⟩

end

/-! The value of a load: zero- or sign-extended (04 R110). -/

/-- The value that n bytes stand for. -/
def loadedValue (sx : Bool) (n : Nat) (bs : List Byte) : Word :=
  if sx then (BitVec.ofNat (8 * n) (leNat bs)).signExtend 64 else BitVec.ofNat 64 (leNat bs)

/-- The low bits of a number, read as signed, are those of a word of that width. -/
theorem readInt_signed (w n : Nat) : readInt true w n = (BitVec.ofNat w n).toInt := by
  rw [BitVec.toInt_eq_toNat_cond, BitVec.toNat_ofNat]
  cases w with
  | zero => simp [readInt, Nat.mod_one]
  | succ k =>
    have hp : 2 ^ (k + 1) = 2 * 2 ^ k := Nat.pow_succ'
    simp only [readInt, Bool.true_and, decide_eq_true_eq, Nat.add_sub_cancel, hp]
    split <;> split <;> omega

theorem loadedValue_eq {sx : Bool} {bs : List Byte} {n : Nat} (hl : bs.length = n) :
    loadedValue sx n bs = extendBytes sx bs := by
  cases sx with
  | false => rfl
  | true =>
    show _ = BitVec.ofInt 64 (readInt true (8 * bs.length) (leNat bs))
    rw [hl, readInt_signed]
    rfl

/-- What fewer bytes stand for, n bytes stand for too. -/
theorem exists_loadedValue (sx : Bool) {bs : List Byte} {n : Nat} (hl : bs.length ≤ n) :
    ∃ bs' : List Byte, bs'.length = n ∧ loadedValue sx n bs' = extendBytes sx bs := by
  have hpow : (256 : Nat) ^ n = 2 ^ (8 * n) := Nat.pow_mul 2 8 n ▸ rfl
  cases sx with
  | false =>
    have hlt : leNat bs < 256 ^ n := (leNat_lt bs).trans_le (Nat.pow_le_pow_right (by decide) hl)
    refine ⟨leBytes n (leNat bs), leBytes_length .., ?_⟩
    show BitVec.ofNat 64 (leNat (leBytes n (leNat bs))) = word (leNat bs)
    rw [leNat_leBytes, Nat.mod_eq_of_lt hlt]
    rfl
  | true =>
    let V := (BitVec.ofNat (8 * bs.length) (leNat bs)).toInt
    have hle : (2 : Int) ^ (8 * bs.length) ≤ 2 ^ (8 * n) := pow_le_pow_right₀ (by decide) (by omega)
    have hlo : -(2 : Int) ^ (8 * n) ≤ 2 * V := (neg_le_neg hle).trans BitVec.le_two_mul_toInt
    have hhi : 2 * V < (2 : Int) ^ (8 * n) := BitVec.two_mul_toInt_lt.trans_le hle
    have hV : (BitVec.ofInt (8 * n) V).toInt = V := by
      rw [BitVec.toInt_ofInt]
      refine Int.bmod_eq_of_le_mul_two ?_ ?_ <;> push_cast <;> omega
    refine ⟨leBytes n (BitVec.ofInt (8 * n) V).toNat, leBytes_length .., ?_⟩
    show (BitVec.ofNat (8 * n) (leNat (leBytes n _))).signExtend 64 = BitVec.ofInt 64 (readInt true _ _)
    rw [leNat_leBytes, hpow, Nat.mod_eq_of_lt (BitVec.isLt _), BitVec.ofNat_toNat, BitVec.setWidth_eq, readInt_signed,
      BitVec.signExtend, hV]

section
variable {s : State} {t : Target} {n : Nat}

/-- A load's value is that of n bytes as `State.LoadGives` says. -/
theorem load_value (h : s.mem.wf) (hf : t.Fits n) (sx : Bool) : ∃ bs : List Byte, bs.length = n ∧ s.LoadGives t n bs ∧
    loadedValue sx n bs = extendBytes sx (s.load t n).2 := by
  rcases load_length (s := s) hf with hl | ⟨hl, p, pa, w, rfl, hc, hw, hlen⟩
  · exact ⟨_, hl, loadGives_load h, loadedValue_eq hl⟩
  · obtain ⟨bs, hbs, hv⟩ := exists_loadedValue sx hl
    refine ⟨bs, hbs, ⟨nofun, fun p' pa' ht hp => ?_, fun p' pa' w' ht _ hw' => .inr ?_⟩, hv⟩
    · cases ht
      simp [hc, hw] at hp
    · cases ht
      cases hw.symm.trans hw'
      exact hlen

end

/-! LD, LD.acq and LDC (04 R110, R114). -/

section
variable {s u : State} {i : Instr} {d : XReg} {v : Word} {la : LaCount} {t : Target}

/-- A long-latency result without lookahead is written, and with it is pending in the one window that is open; then the
next instruction follows (03 R71). -/
theorem retire_longResult (hd : dests i = [.x d]) (hn : i.len = 8) (hl : u.ctx.loop = none) (hw : u.ctx.windows = []) :
    (u.longResult i la [.x d v]).retire i none = { u with ctx := { (if la = 0 then u.ctx.wx d v else u.ctx) with
      pc := u.ctx.pc + 8, lastIssue := u.issueCycle, waiting := false, doing := none, asked := none,
      pos := 0, plan := [],
      awaits := []
      windows := if la = 0 then [] else [⟨u.ctx.pc, la.val, [.x d], [.x d v], none⟩] } } := by
  by_cases h : la = 0
  · have hr : u.longResult i la [.x d v] = { u with ctx := u.ctx.wx d v } := if_pos h
    rw [hr, retire_after hn (by simpa using hl) (by simpa using hw)]
    simp [State.after, State.issueCycle, h, hw]
    rfl
  · have hr : u.longResult i la [.x d v] = { u with ctx := { u.ctx with
        windows := [⟨u.ctx.pc, la.val + 1, [.x d], [.x d v], none⟩] } } := by
      rw [State.longResult, if_neg h, hd, hw]
      rfl
    have hla : la.val ≠ 0 := fun h0 => h (Fin.ext h0)
    rw [hr]
    simp [State.retire, State.issueCycle, Ctx.tick, Ctx.advance, hl, hn, h, hla]
    rfl

/-- The state in which a load of a target has read, and what it has read: an acquire has removed stale copies before,
and has ended the region after. -/
def State.afterLoad (s : State) (acq : Bool) (sc : Scope) (ea : Word) (t : Target) (n : Nat) : State × List Byte :=
  let r := ((if acq then s.acquire sc else s).noteAccess ea).load t n
  (if acq then r.1.endRegion else r.1, r.2)

/-- The instruction is a load of bytes into an x register, an acquire or not: its body is as R110 and R114 say. -/
theorem load_run {m : MemOp} {sz : Fin 4} {sx : Bool} {sc : Scope} {acq : Bool}
    (hi : (i = .ld d m sz sx .plain sc la ∧ acq = false) ∨ (i = .ld d m sz sx .acq sc la ∧ acq = true) ∨
      (i = .ldc d m sz sx la ∧ acq = false)) (h : Calm s i = true) (hq : s.vecMemBusy = false)
    (ha : s.access .load (memEa m s.ctx) (2 ^ sz.val) (2 ^ sz.val) = .ok t) :
    dests i = [.x d] ∧ i.len = 8 ∧
      exec i s = .next (((s.afterLoad acq sc (memEa m s.ctx) t (2 ^ sz.val)).1.longResult i la
        [.x d (extendBytes sx (s.afterLoad acq sc (memEa m s.ctx) t (2 ^ sz.val)).2)]).retire i none) := by
  rcases hi with ⟨rfl, rfl⟩ | ⟨rfl, rfl⟩ | ⟨rfl, rfl⟩
  · refine ⟨rfl, Instr.len_ld .., ?_⟩
    show execLd d m sz sx .plain sc la s = _
    rw [execLd, run_user h rfl rfl]
    simp only [hq, State.loadInto, sizeBytes, ha, Chk.res]
    rfl
  · refine ⟨rfl, Instr.len_ld .., ?_⟩
    show execLd d m sz sx .acq sc la s = _
    rw [execLd, run_user h rfl rfl]
    simp only [hq, sizeBytes, ha, Chk.res]
    rfl
  · refine ⟨rfl, Instr.len_ldc .., ?_⟩
    show execLdc d m sz sx la s = _
    rw [execLdc, run_user h rfl rfl]
    simp only [hq, State.loadInto, sizeBytes, ha, Chk.res]
    rfl

end

section
variable {s : State} {acq : Bool} {sc : Scope} {ea : Word} {t : Target} {n : Nat}

theorem heldAs_acquired (h : s.mem.wf) : s.HeldAs (if acq then s.acquire sc else s) := by
  split
  · exact heldAs_acquire h sc
  · exact .refl h

/-- A load reads the memories, and an acquire ends the region: nothing else is changed but what clusters hold. -/
theorem afterLoad_eq (h : s.mem.wf) : ∃ m cls, s.mem.Keeps m ∧ (s.afterLoad acq sc ea t n).1 = { s with
    ctx := { s.ctx with regionid := if acq then s.ctx.regionid + 1 else s.ctx.regionid },
      mem := m, clusters := cls } := by
  have hacq := heldAs_acquired (acq := acq) (sc := sc) h
  have hnote := hacq.trans (heldAs_noteAccess hacq.wf ea)
  obtain ⟨m, cls, hk, he⟩ := hnote.trans (heldAs_load hnote.wf t n)
  unfold State.afterLoad
  dsimp only
  rw [he]
  cases acq with
  | false => exact ⟨m, cls, hk, rfl⟩
  | true => exact ⟨{ m with accesses := m.accesses.filter fun a => a.agent ≠ .ctx s.cur }, cls, hk.withAccesses _, rfl⟩

/-- An acquire that reaches beyond the cluster leaves its cluster without a copy; no other load removes one (R215). -/
theorem acquired_wayOf (line : Nat) : let u := if acq then s.acquire sc else s
    (u.getCl u.cl).wayOf line =
      if acq = true ∧ wideScope sc = true then none else (s.getCl s.cur.core.cl).wayOf line := by
  cases acq with
  | false => rfl
  | true =>
    cases hw : wideScope sc with
    | false => simp [State.acquire, hw, State.cl]
    | true => simp [State.acquire, hw, State.dropWays, State.getCl, State.setCl, Map.getD, Cluster.wayOf, State.cl]

/-- What a load of an acquiring state gives, said of the state before. -/
theorem acquired_gives (h : s.mem.wf) {bs : List Byte} (hg : (if acq then s.acquire sc else s).LoadGives t n bs) :
    (∀ c off, t = .mesh c off → ∀ j < n, bs[j]? = some (s.mem.reads (.scr (scrKey c off + j)))) ∧
    (∀ p pa, t = .glob p pa → (p.checked = true ∨ (s.getCl s.cur.core.cl).wayOf (pa / 128) = none ∨
      (acq = true ∧ wideScope sc = true)) → ∀ j < n, bs[j]? = some (s.mem.reads (.glob (pa + j)))) ∧
    (∀ p pa w, t = .glob p pa → p.checked = false → (s.getCl s.cur.core.cl).wayOf (pa / 128) = some w →
      (acq = true → wideScope sc = false) → bs = (w.bytes.drop (pa % 128)).take n ∨ w.bytes.length ≠ 128) := by
  have hr := (heldAs_acquired (acq := acq) (sc := sc) h).reads h
  refine ⟨fun c off ht j hj => (hg.mesh c off ht j hj).trans (congrArg some (hr _)), fun p pa ht hp j hj =>
    (hg.home p pa ht (hp.imp_right fun hway => ?_) j hj).trans (congrArg some (hr _)), fun p pa w ht hc hw hn =>
    hg.copy p pa w ht hc ?_⟩
  · rw [acquired_wayOf]
    split
    · rfl
    · next hno => exact hway.resolve_right hno
  · rw [acquired_wayOf, if_neg fun ha => by simp [hn ha.1] at ha]
    exact hw

/-- A load's value is that of n bytes: those that the acquiring state gives. -/
theorem afterLoad_value (h : s.mem.wf) (hf : t.Fits n) (sx : Bool) : ∃ bs : List Byte, bs.length = n ∧
    (if acq then s.acquire sc else s).LoadGives t n bs ∧
    loadedValue sx n bs = extendBytes sx (s.afterLoad acq sc ea t n).2 := by
  have hw := (heldAs_acquired (acq := acq) (sc := sc) h).wf
  have hnote := heldAs_noteAccess hw ea
  obtain ⟨bs, hl, hg, hv⟩ := load_value (s := (if acq then s.acquire sc else s).noteAccess ea) hnote.wf hf sx
  exact ⟨bs, hl, hg.of_heldAs hw hnote (noteAccess_clusters _ ea), hv⟩

theorem wx_withRegion (c : Ctx) (d : XReg) (v r : Word) :
    ({ c with regionid := r } : Ctx).wx d v = { c.wx d v with regionid := r } := by
  unfold Ctx.wx
  split <;> rfl

theorem two_pow_dvd (sz : Fin 4) : 2 ^ sz.val ∣ 128 := Nat.pow_dvd_pow 2 (show sz.val ≤ 7 by omega)

/-- Settles O16: the access is checked, the bytes are read as `State.LoadGives` says in the state that the acquire
leaves, and the result is given at once or in a window. -/
theorem loadsReadMemory : Obligations.LoadsReadMemory := by
  unfold Obligations.LoadsReadMemory
  intro s d m sz sx sc la t i acq hwf hi h hq ha
  obtain ⟨hl, hw, -⟩ := calm_iff.1 h
  obtain ⟨hd, hn, hrun⟩ := load_run hi h hq ha
  have hfits : t.Fits (2 ^ sz.val) := by
    have := s.access_fits .load (memEa m s.ctx) (two_pow_dvd sz)
    rwa [ha] at this
  obtain ⟨bs, hbs, hg, hv⟩ := afterLoad_value (acq := acq) (sc := sc) (ea := memEa m s.ctx) hwf hfits sx
  obtain ⟨m', cls, hk, he⟩ := afterLoad_eq (acq := acq) (sc := sc) (ea := memEa m s.ctx) (t := t) (n := 2 ^ sz.val) hwf
  obtain ⟨hmesh, hhome, hcopy⟩ := acquired_gives hwf hg
  rw [he, ← hv, retire_longResult hd hn (by exact hl) (by exact hw)] at hrun
  refine ⟨_, bs, hrun, hbs, hmesh, hhome, hcopy, ?ctx, hk.reads hwf, rfl, rfl, rfl, rfl, rfl, rfl, rfl, rfl, rfl⟩
  case ctx =>
    by_cases h0 : la = 0
    · simp only [if_pos h0, wx_withRegion]
      rfl
    · simp only [if_neg h0]
      rfl

end

end Sys2Proof.Machine

namespace Sys2Proof.Machine

/-! ST and ST.rel (04 R110). -/

section
variable {s u v : State} {bs : List Byte}

/-- Scratchpad bytes are not what a byte of global memory reads as. -/
theorem reads_glob_withSram {m : Mem} (h : m.wf) {c : List Host.Cell} (hc : cellsWf c = true) (pa : Nat) :
    ({ m with sram := c } : Mem).reads (.glob pa) = m.reads (.glob pa) := by
  rw [Mem.reads_glob (m := { m with sram := c }) ⟨h.1, hc⟩, Mem.reads_glob h]
  rfl

/-- A store to a scratchpad: its bytes read as stored, and every other byte as before. -/
theorem storesBytes_mesh (h : s.mem.wf) (c : ClusterId) (off : Nat) :
    StoresBytes s (s.store (.mesh c off) bs) (.scr (scrKey c off)) bs := by
  refine ⟨fun i b hb => cellsGet_write_same h.2 hb, fun q hq => ?_⟩
  cases q with
  | glob pa => exact reads_glob_withSram h (cellsWrite_wf _ _ _ h.2) pa
  | scr k =>
    refine cellsGet_write_other _ _ _ _ h.2 ?_
    by_contra hin
    exact hq (k - scrKey c off) (by omega) (congrArg Place.scr (by omega))

/-- A store to a page: the same at the homes (R201). -/
theorem storesBytes_glob (h : s.mem.wf) (p : Page) (pa : Nat) :
    StoresBytes s (s.store (.glob p pa) bs) (.glob pa) bs := by
  have hw : (s.writeHome s.cl pa bs).mem.wf := s.writeHome_wf _ pa bs h
  have hnote := (heldAs_note hw p pa bs.length .store).reads hw
  exact ⟨fun i b hb => (hnote _).trans (Mem.write_reads_same h hb),
    fun q hq => (hnote q).trans (Mem.write_reads_other h hq)⟩

theorem storesBytes_store (h : s.mem.wf) (t : Target) : StoresBytes s (s.store t bs) t.place bs := by
  cases t with
  | glob p pa => exact storesBytes_glob h p pa
  | mesh c off => exact storesBytes_mesh h c off

/-- A store changes memory, and the copies that clusters hold. -/
theorem store_eq (s : State) (t : Target) (bs : List Byte) :
    ∃ m cls, s.store t bs = { s with mem := m, clusters := cls } := by
  cases t with
  | mesh c off => exact ⟨_, _, rfl⟩
  | glob p pa =>
    show ∃ m cls, (s.writeHome s.cl pa bs).note p pa bs.length .store = _
    unfold State.note
    split <;> exact ⟨_, _, rfl⟩

/-- What is stored into a state that is held otherwise is stored into the state before. -/
theorem storesBytes_of_heldAs {pl : Place} (hw : s.mem.wf) (h : s.HeldAs v) (hs : StoresBytes v u pl bs) :
    StoresBytes s u pl bs :=
  ⟨hs.1, fun q hq => (hs.2 q hq).trans (h.reads hw q)⟩

/-- The state in which a store to a target is performed: a release has ended the region after it. -/
def State.afterStore (s : State) (rel : Bool) (ea : Word) (t : Target) (bs : List Byte) : State :=
  let u := (s.noteAccess ea).store t bs
  if rel then u.endRegion else u

/-- A store changes memory and clusters, and a release the region. -/
theorem afterStore_eq (h : s.mem.wf) (rel : Bool) (ea : Word) (t : Target) :
    ∃ m cls, s.afterStore rel ea t bs = { s with
      ctx := { s.ctx with regionid := if rel then s.ctx.regionid + 1 else s.ctx.regionid },
      mem := m, clusters := cls } := by
  obtain ⟨m, cls, -, hn⟩ := heldAs_noteAccess h ea
  obtain ⟨m', cls', he⟩ := store_eq { s with mem := m, clusters := cls } t bs
  unfold State.afterStore
  dsimp only
  rw [hn, he]
  cases rel <;> exact ⟨_, cls', rfl⟩

theorem storesBytes_afterStore (h : s.mem.wf) (rel : Bool) (ea : Word) (t : Target) :
    StoresBytes s (s.afterStore rel ea t bs) t.place bs := by
  have hn := heldAs_noteAccess h ea
  have hs := storesBytes_of_heldAs h hn (storesBytes_store (bs := bs) hn.wf t)
  cases rel with
  | false => exact hs
  | true =>
    have hw := State.store_wf _ t bs hn.wf
    have hr := ((Mem.Keeps.refl hw).withAccesses (((s.noteAccess ea).store t bs).mem.accesses.filter
      fun a => a.agent ≠ .ctx ((s.noteAccess ea).store t bs).cur)).reads hw
    exact ⟨fun i b hb => (hr _).trans (hs.1 i b hb), fun q hq => (hr q).trans (hs.2 q hq)⟩

/-- A store whose access passes its checks is performed (R110). -/
theorem st_next (hwf : s.mem.wf) {src : XReg} {m : MemOp} {sz : Fin 4} {sc : Scope} {rel : Bool} {t : Target}
    (h : Calm s (.st src m sz (if rel then .rel else .plain) sc) = true) (hq : s.vecMemBusy = false)
    (ha : s.access .store (memEa m s.ctx) (2 ^ sz.val) (2 ^ sz.val) = .ok t) :
    let u := s.afterStore rel (memEa m s.ctx) t (leBytes (2 ^ sz.val) (s.ctx.rx src).toNat)
    exec (.st src m sz (if rel then .rel else .plain) sc) s = .next (u.after u.ctx 8) := by
  intro u
  have hctx : u.ctx = { s.ctx with regionid := if rel then s.ctx.regionid + 1 else s.ctx.regionid } := by
    obtain ⟨m', cls, he⟩ := afterStore_eq (bs := leBytes (2 ^ sz.val) (s.ctx.rx src).toNat) hwf rel (memEa m s.ctx) t
    exact congrArg State.ctx he
  show execSt src m sz (if rel then .rel else .plain) sc s = _
  refine run_done (t := u) h rfl rfl (Instr.len_st ..) ?_ (by rw [hctx]) (by rw [hctx])
  simp only [hq, sizeBytes, ha, Chk.res]
  cases rel <;> rfl

end

/-- Settles O17: the store at its target's place, seen through how the memories are held. -/
theorem storesWriteTheirBytesOnly : Obligations.StoresWriteTheirBytesOnly := by
  unfold Obligations.StoresWriteTheirBytesOnly
  intro s src m sz sc rel t hwf i h hq ha
  have hrun := st_next hwf h hq ha
  have hs := storesBytes_afterStore (bs := leBytes (2 ^ sz.val) (s.ctx.rx src).toNat) hwf rel (memEa m s.ctx) t
  obtain ⟨m', cls, he⟩ := afterStore_eq (bs := leBytes (2 ^ sz.val) (s.ctx.rx src).toNat) hwf rel (memEa m s.ctx) t
  rw [he] at hrun hs
  exact ⟨_, hrun, hs, rfl, rfl, rfl, rfl, rfl, rfl, rfl, rfl, rfl, rfl⟩

/-! PFL (04 R115) and the early completion of a long-latency instruction (03 R71). -/

section
variable {s : State}

@[simp] theorem getCl_setCl_same (s : State) (c : ClusterId) (k : Cluster) : (s.setCl c k).getCl c = k := by
  simp [State.getCl, State.setCl, Map.getD]

theorem mem_l2_allocate (m : Mem) (line : Nat) : line ∈ (m.allocate line).l2 := by
  unfold Mem.allocate
  split
  · next h => simpa using h
  · simp

theorem mem_fills_request {k : Cluster} (h : k.hasCache = true) (line : Nat) : line ∈ (k.request line).fills := by
  unfold Cluster.request
  rw [h, Bool.true_and]
  split
  · simp
  · next hc => simpa using hc

/-- PFL of an address that does not translate for loads performs nothing (R115). -/
theorem prefetch_of_not_canonical {ea : Word} (h : canonical ea = false) : s.prefetch ea = s :=
  if_pos (by rw [h]; rfl)

theorem prefetch_of_error {ea : Word} {e : Trap} (hx : s.xlate s.partNo s.ctx.super .load ea = .error e) :
    s.prefetch ea = s := by
  unfold State.prefetch
  rw [hx, ite_self]

/-- PFL of one that does requests its line through its home slice, and into the ways of a cluster that has any. -/
theorem prefetch_of_page {ea : Word} {p : Page} (h : s.mem.wf) (hc : canonical ea = true)
    (hx : s.xlate s.partNo s.ctx.super .load ea = .ok p) : s.HeldAs (s.prefetch ea) ∧
      if (s.getCl s.cur.core.cl).hasCache then lineOf (p.pa ea.toNat) ∈ ((s.prefetch ea).getCl s.cur.core.cl).fills
      else lineOf (p.pa ea.toNat) ∈ (s.prefetch ea).mem.l2 := by
  obtain ⟨m, hk, hn⟩ := noteAccess_keeps (ea := ea) h
  have hheld : s.HeldAs { s with mem := m.allocate (lineOf (p.pa ea.toNat)) } :=
    ⟨_, _, hk.trans (Mem.keeps_allocate hk.wf _), rfl⟩
  have he : s.prefetch ea = if (s.getCl s.cur.core.cl).hasCache then
      { s with mem := m.allocate (lineOf (p.pa ea.toNat)) }.setCl s.cur.core.cl
        ((s.getCl s.cur.core.cl).request (lineOf (p.pa ea.toNat)))
      else { s with mem := m.allocate (lineOf (p.pa ea.toNat)) } := by
    unfold State.prefetch
    rw [hc, hx, hn]
    rfl
  rw [he]
  split
  · next hcache =>
    refine ⟨hheld.trans (heldAs_setCl hheld.wf _ _), ?_⟩
    rw [getCl_setCl_same]
    exact mem_fills_request hcache _
  · exact ⟨hheld, mem_l2_allocate ..⟩

/-- PFL completes whatever its address is. -/
theorem pfl_next {m : MemOp} (h : Calm s (.pfl m) = true) (hheld : s.HeldAs (s.prefetch (memEa m s.ctx))) :
    exec (.pfl m) s = .next ((s.prefetch (memEa m s.ctx)).after s.ctx 8) := by
  obtain ⟨m', cls, -, he⟩ := hheld
  have hctx : (s.prefetch (memEa m s.ctx)).ctx = s.ctx := by rw [he]
  show execPfl m s = _
  exact (run_done (t := s.prefetch (memEa m s.ctx)) h rfl rfl (Instr.len_pfl ..) rfl
    (by rw [hctx]) (by rw [hctx])).trans
    (by rw [hctx])

/-- Every effect of PFL: none where the address does not translate for loads, and else the request of its line. -/
theorem heldAs_prefetch (h : s.mem.wf) (ea : Word) : s.HeldAs (s.prefetch ea) := by
  cases hc : canonical ea with
  | false => rw [prefetch_of_not_canonical hc]; exact .refl h
  | true =>
    cases hx : s.xlate s.partNo s.ctx.super .load ea with
    | error e => rw [prefetch_of_error hx]; exact .refl h
    | ok p => exact (prefetch_of_page h hc hx).1

theorem getCtx_setCtx_other {c k : CtxId} (v : Ctx) (h : k ≠ c) : (s.setCtx c v).getCtx k = s.getCtx k := by
  unfold State.setCtx
  split
  · next hc => rw [State.getCtx, State.getCtx, if_neg (hc ▸ h), if_neg (hc ▸ h)]
  · unfold State.getCtx Map.getD
    rw [Map.get?_put_other _ _ _ _ h]

/-- The results of a window reach their registers early, and the window goes on (R71). -/
theorem longLatencyComplete_next {c : CtxId} {w : Window} {r : XReg} {v : Word} (hw : (s.getCtx c).windows = [w])
    (hp : w.pend = [.x r v]) (hu : s.unsaved c = true) : exec (.longLatencyComplete c) s =
      .next (s.setCtx c { (s.getCtx c).wx r v with windows := [{ w with pend := [] }] }) := by
  show execLongLatencyComplete c s = _
  unfold execLongLatencyComplete
  simp [hu, hw, hp, Ctx.settle, Ctx.applyWrites, Ctx.applyWrite]

end

/-- Settles O19: PFL by its address; the early completion as a write of the context's registers. -/
theorem prefetchAndEarlyCompletion : Obligations.PrefetchAndEarlyCompletion := by
  unfold Obligations.PrefetchAndEarlyCompletion
  refine ⟨fun s m hwf h => ?_, fun s c w r v hw hp hu => ?_⟩
  · have hheld := heldAs_prefetch hwf (memEa m s.ctx)
    refine ⟨_, pfl_next h hheld, hheld.reads hwf, ?units, ?ctx, fun hk => ?_,
      fun hk => ⟨fun e hx => ?_, fun p hx => ?_⟩⟩
    case units =>
      obtain ⟨m', cls, -, he⟩ := hheld
      rw [he]
      exact ⟨rfl, rfl, rfl, rfl, rfl, rfl, rfl, rfl, rfl⟩
    case ctx =>
      obtain ⟨m', cls, -, he⟩ := hheld
      rw [he]
      rfl
    · have hc : canonical (memEa m s.ctx) = false := by
        rw [← Bool.not_eq_true, canonical_iff]
        simpa using hk
      rw [prefetch_of_not_canonical hc]
    · rw [prefetch_of_error hx]
    · exact (prefetch_of_page hwf (canonical_iff.2 (by simpa using hk)) hx).2
  · exact ⟨_, longLatencyComplete_next hw hp hu, s.setCtx_mem .., s.setCtx_clusters .., s.setCtx_pkg ..,
      s.getCtx_setCtx_same .., fun k hk => getCtx_setCtx_other _ hk⟩

end Sys2Proof.Machine

namespace Sys2Proof.Machine

/-! The log of accesses is not what a byte reads as, whatever form the memories are in (09 R218, R221). -/

section
variable {a : List Access}

theorem Mem.foldl_withAccesses {α : Type} {f : Mem → α → Mem}
    (hf : ∀ (m : Mem) x, f { m with accesses := a } x = { f m x with accesses := a }) (l : List α) (m : Mem) :
    l.foldl f { m with accesses := a } = { l.foldl f m with accesses := a } := by
  induction l generalizing m with
  | nil => rfl
  | cons x l ih => rw [List.foldl_cons, hf, ih, List.foldl_cons]

theorem Mem.dirtyLine_withAccesses (m : Mem) (line : Nat) :
    ({ m with accesses := a } : Mem).dirtyLine line = { m.dirtyLine line with accesses := a } := by
  unfold Mem.dirtyLine Mem.allocate
  dsimp only
  split <;> rfl

theorem Mem.flushWith_withAccesses {merge : Mem → Nat → Mem}
    (hm : ∀ (m : Mem) l, merge { m with accesses := a } l = { merge m l with accesses := a }) (m : Mem) (pa n : Nat) :
    ({ m with accesses := a } : Mem).flushWith merge pa n = { m.flushWith merge pa n with accesses := a } := by
  unfold Mem.flushWith
  dsimp only
  rw [Mem.foldl_withAccesses hm]

theorem Mem.recallN_withAccesses (k : Nat) (m : Mem) (line : Nat) (f : Partial → Bool) :
    Mem.recallN k { m with accesses := a } line f = { Mem.recallN k m line f with accesses := a } := by
  induction k generalizing m line f with
  | zero => rfl
  | succ k ih =>
    have hfold := Mem.foldl_withAccesses
      (f := fun m (r : Nat × Nat) => m.flushWith (fun m l => Mem.recallN k m l fun _ => true) r.1 r.2) (a := a)
      fun m r => Mem.flushWith_withAccesses (fun m l => ih m l _) m r.1 r.2
    unfold Mem.recallN
    rw [show ({ m with accesses := a } : Mem).partialsOf line f = m.partialsOf line f from rfl]
    split
    · rfl
    · extract_lets m₁ pages m₂ m₃ m₁' pages' m₂' m₃'
      have h₂ : m₂ = { m₂' with accesses := a } := hfold pages (m₁'.dropTlbs (128 * line) 128)
      have h₃ : m₃ = { m₃' with accesses := a } := by
        show m₂.dirtyLine line = _
        rw [h₂, Mem.dirtyLine_withAccesses]
      rw [h₃]

/-- What a byte reads as does not depend on the log. -/
theorem Mem.reads_withAccesses (m : Mem) (p : Place) : ({ m with accesses := a } : Mem).reads p = m.reads p := by
  cases p with
  | scr k => rfl
  | glob pa =>
    have hrecall : ∀ (m : Mem) line,
        ({ m with accesses := a } : Mem).recall line = { m.recall line with accesses := a } :=
      fun m line => Mem.recallN_withAccesses m.partials.length m line _
    show (cellsRead ((linesOf pa 1).foldl Mem.recall { m with accesses := a }).home pa 1).headD 0 =
      (m.peek pa 1).headD 0
    rw [Mem.foldl_withAccesses hrecall]
    rfl

end

/-! The end of a context (04 R94, 06 R152). -/

/-- What the end of the issuing context leaves of the machine. -/
structure Ended (s t : State) : Prop where
  cur : t.cur = s.cur
  ctx : t.ctx = { Ctx.init with lastIssue := some s.cycle }
  mem : ∃ l, t.mem = { s.mem with accesses := l }
  leaves : t.leaves = s.leaves
  launches : t.launches = s.launches
  hdone : ∀ c ≠ s.cur, (t.getCtx c).hdone = (s.getCtx c).hdone
  start : s.core.firstStart = none → (t.getCore s.cur.core).firstStart = none

section
variable {s t : State}

theorem getCtx_setCtx (s : State) (c k : CtxId) (v : Ctx) :
    (s.setCtx c v).getCtx k = if k = c then v else s.getCtx k := by
  split
  · next h => rw [h, State.getCtx_setCtx_same]
  · next h => exact getCtx_setCtx_other v h

/-- States that differ in contexts only, HDONE apart. -/
def SameButCtxs (s t : State) : Prop :=
  (∃ c cs, t = { s with ctx := c, ctxs := cs }) ∧ ∀ k, (t.getCtx k).hdone = (s.getCtx k).hdone

theorem sameButCtxs_setCtx {c : CtxId} {v : Ctx} (h : v.hdone = (s.getCtx c).hdone) : SameButCtxs s (s.setCtx c v) := by
  refine ⟨?_, fun k => ?_⟩
  · unfold State.setCtx
    split <;> exact ⟨_, _, rfl⟩
  · rw [getCtx_setCtx]
    split
    · next hk => rw [hk, h]
    · rfl

theorem SameButCtxs.refl (s : State) : SameButCtxs s s := ⟨⟨_, _, rfl⟩, fun _ => rfl⟩

theorem SameButCtxs.trans {u : State} (h : SameButCtxs s t) (h' : SameButCtxs t u) : SameButCtxs s u := by
  obtain ⟨⟨c, cs, rfl⟩, hh⟩ := h
  obtain ⟨⟨c', cs', rfl⟩, hh'⟩ := h'
  exact ⟨⟨c', cs', rfl⟩, fun k => (hh' k).trans (hh k)⟩

/-- A fold whose steps all give something gives nothing only where it takes none. -/
theorem foldl_eq_none_iff {α β : Type} {f : Option β → α → Option β} (hf : ∀ b x, f b x ≠ none) {l : List α}
    {b : Option β} :
    l.foldl f b = none ↔ b = none ∧ l = [] := by
  induction l generalizing b with
  | nil => simp
  | cons x l ih => simp [ih, hf]

theorem mem_entries {k : CoreSt} {n : Fin 16} {e : TableEntry} : (n, e) ∈ k.entries ↔ k.table.get n = some e := by
  simp [CoreSt.entries]

/-- No handler start is pending where no entry of the stream table has one. -/
theorem firstStart_eq_none_iff {k : CoreSt} :
    k.firstStart = none ↔ ∀ n e, k.table.get n = some e → e.pending = none := by
  unfold CoreSt.firstStart
  rw [foldl_eq_none_iff, and_iff_right rfl, List.filter_eq_nil_iff]
  · refine ⟨fun h n e he => ?_, fun h p hp => ?_⟩
    · simpa using h (n, e) (mem_entries.2 he)
    · simp [h p.1 p.2 (mem_entries.1 hp)]
  · intro b x
    split
    · simp
    · split <;> simp

/-- Releasing entries makes no handler start. -/
theorem firstStart_release {k : CoreSt} {p : TableEntry → Bool} (h : k.firstStart = none) :
    ({ k with table := k.table.map fun e => e.bind fun e => if p e then none else some e } :
      CoreSt).firstStart = none := by
  rw [firstStart_eq_none_iff] at h ⊢
  intro n e he
  have hget : (k.table.get n).bind (fun e => if p e then none else some e) = some e :=
    (Vector.getElem_map _ n.isLt).symm.trans he
  obtain ⟨e', he', hp⟩ := Option.bind_eq_some_iff.1 hget
  split at hp
  · cases hp
  · cases hp
    exact h n e he'

@[simp] theorem getCore_setCore_same (s : State) (k : CoreId) (v : CoreSt) : (s.setCore k v).getCore k = v := by
  simp [State.getCore, State.setCore, Map.getD]

theorem getCtx_of_ne {c : CtxId} (h : c ≠ s.cur) : s.getCtx c = Map.getD s.ctxs c Ctx.init := if_neg h

/-- The issuing context is no more: its commands go from the queue, and its accesses from the log. -/
theorem dropCtx_cur (s : State) : s.dropCtx s.cur =
    { s.setCore s.cur.core { s.core with vq := s.core.vq.filter fun q => q.ctx ≠ s.cur.idx } with
      ctx := { s.ctx with live := false, waiting := false, windows := [], wake := none }
      mem := { s.mem with accesses := s.mem.accesses.filter fun a => a.agent ≠ .ctx s.cur } } := by
  have hset : ∀ v, s.setCtx s.cur v = { s with ctx := v } := fun v => if_pos rfl
  unfold State.dropCtx
  rw [hset, getCtx_cur]
  rfl

/-- The context's entries go, it is no more, and its helpers have no starter:
what is left of the machine (R94, R152). -/
theorem ended_endContext (s : State) : Ended s s.endContext := by
  let u := (s.unbind s.cur fun _ => true).dropCtx s.cur
  let orphan := fun (v : State) (n : Nat) =>
    let h : CtxId := ⟨s.cur.core, n⟩
    if (v.getCtx h).starter = some s.cur then v.setCtx h { v.getCtx h with starter := none } else v
  have hu : u = _ := dropCtx_cur (s.unbind s.cur fun _ => true)
  have hcur : u.cur = s.cur := by rw [hu]; rfl
  have hctxs : u.ctxs = s.ctxs := by rw [hu]; rfl
  have hcycle : u.cycle = s.cycle := by rw [hu]; rfl
  have hmem : u.mem = { s.mem with accesses := s.mem.accesses.filter fun a => a.agent ≠ .ctx s.cur } := by
    rw [hu]; rfl
  have hleaves : u.leaves = s.leaves := by rw [hu]; rfl
  have hlaunches : u.launches = s.launches := by rw [hu]; rfl
  have hfold : SameButCtxs u ((List.range 11).foldl orphan u) := by
    refine List.foldlRecOn (motive := SameButCtxs u) _ orphan (.refl u) fun v hv n _ => hv.trans ?_
    show SameButCtxs v (ite _ _ _)
    split
    · exact sameButCtxs_setCtx rfl
    · exact .refl v
  obtain ⟨⟨c, cs, he⟩, hh⟩ := hfold
  have hend : s.endContext = { u with ctx := { Ctx.init with lastIssue := some u.cycle }, ctxs := cs } := by
    show ({ (List.range 11).foldl orphan u with
      ctx := { Ctx.init with lastIssue := some ((List.range 11).foldl orphan u).cycle } } : State) = _
    rw [he]
  rw [he] at hh
  rw [hend]
  refine ⟨hcur, by rw [hcycle], ⟨_, hmem⟩, hleaves, hlaunches, fun c hc => ?hdone, fun hs => ?start⟩
  case hdone =>
    have hc' : c ≠ u.cur := hcur ▸ hc
    calc _ = (Map.getD cs c Ctx.init).hdone := congrArg Ctx.hdone (if_neg hc')
      _ = _ := congrArg Ctx.hdone (if_neg hc').symm
      _ = (u.getCtx c).hdone := hh c
      _ = (s.getCtx c).hdone := by rw [getCtx_of_ne hc', getCtx_of_ne hc, hctxs]
  case start =>
    show (u.getCore s.cur.core).firstStart = none
    rw [hu]
    show ((State.setCore _ s.cur.core _).getCore s.cur.core).firstStart = none
    rw [getCore_setCore_same]
    show ((s.setCore s.cur.core _).getCore s.cur.core).firstStart = none
    rw [getCore_setCore_same]
    exact firstStart_release (p := fun e => e.ctx = s.cur.idx && true) hs

/-- The end of the context changes no byte. -/
theorem Ended.reads {u : State} (h : Ended u t) (hm : u.mem = s.mem) : SameBytes s t := by
  obtain ⟨l, hl⟩ := h.mem
  intro p
  rw [hl, Mem.reads_withAccesses, hm]

/-- Slots are given to pending handler starts only. -/
theorem grantSlots_of_none {k : CoreId} (h : (s.getCore k).firstStart = none) : s.grantSlots k = s := by
  have hstart : s.startHandler k = s := by
    unfold State.startHandler
    rw [h]
    split
    · next hno => cases hno
    · rfl
  exact List.foldlRecOn (motive := fun t => t = s) _ _ rfl fun t ht _ _ => ht ▸ hstart

/-- What a helper's starter is told: its bit of HDONE (R31). -/
def State.tellStarter (s : State) : State :=
  match s.ctx.starter with
  | some c => s.setCtx c { s.getCtx c with hdone := (s.getCtx c).hdone ||| BitVec.twoPow 11 s.cur.idx }
  | none => s

theorem tellStarter_eq (s : State) : ∃ c cs, s.tellStarter = { s with ctx := c, ctxs := cs } := by
  unfold State.tellStarter State.setCtx
  split
  · split <;> exact ⟨_, _, rfl⟩
  · exact ⟨_, _, rfl⟩

/-- A helper ends once its starter has been told (R94). -/
theorem exitHelper_eq (hs : s.core.firstStart = none) : s.exitHelper = s.tellStarter.endContext := by
  obtain ⟨c, cs, he⟩ := tellStarter_eq s
  have hend := ended_endContext s.tellStarter
  show s.tellStarter.endContext.grantSlots s.tellStarter.cur.core = _
  exact grantSlots_of_none (hend.start (by rw [he]; exact hs))

/-- What a control context leaves to its launch before it ends: its status word, and no leaf (R94, R163). -/
def State.leaveLeaf (s : State) (v : Word) : State :=
  let busy := if s.pkg.busy.contains s.cur then s.pkg.busy else s.pkg.busy ++ [s.cur]
  let s := { s with pkg := { s.pkg with busy := busy } }
  match s.ctx.leaf, s.leaf? with
  | some n, some l => { s.sendStatus l (leafStatus v) with leaves := Map.del s.leaves n }
  | _, _ => s

theorem exitControl_eq (s : State) (v : Word) : s.exitControl v = (s.leaveLeaf v).endContext := rfl

theorem leaveLeaf_eq (s : State) (v : Word) :
    ∃ p ls xs, s.leaveLeaf v = { s with pkg := p, leaves := ls, launches := xs } := by
  unfold State.leaveLeaf State.sendStatus
  dsimp only
  split
  · split
    · exact ⟨_, _, _, rfl⟩
    · split <;> exact ⟨_, _, _, rfl⟩
  · exact ⟨_, _, _, rfl⟩

theorem get?_del_same {α β : Type} [DecidableEq α] (m : Map α β) (a : α) : Map.get? (Map.del m a) a = none := by
  rw [Map.get?_eq_none_iff, Map.keys, Map.del]
  simp

/-- A leaf of a launch is no more, and its status word arrives at the node of its parent. -/
theorem leaveLeaf_launch {v : Word} {n m : Nat} {l : Leaf} {x : Launch} (hn : s.ctx.leaf = some n)
    (hl : Map.get? s.leaves n = some l) (hm : l.launch = some m) (hx : Map.get? s.launches m = some x) :
    Map.get? (s.leaveLeaf v).leaves n = none ∧ (s.leaveLeaf v).launches = Map.put s.launches m
      (x.arrive ((l.levelix.toList.map BitVec.toNat).take (x.counts.length - 1)) (leafStatus v)) := by
  have hleaf : s.leaf? = some l := by rw [State.leaf?, hn]; exact hl
  unfold State.leaveLeaf
  simp only [hn, State.leaf?, Option.bind_some, hl, State.sendStatus, hm, hx]
  exact ⟨get?_del_same .., trivial⟩

end

section
variable {s : State} {a : XReg}

/-- EXIT waits for the vector commands of its context, and a control context for its helpers. -/
theorem exit_waits (h : Calm s (.exit a) = true) (hk : coreKind s.cur.core = .compute)
    (hw : (s.queued s.cur).isEmpty = false ∨ (s.cur.idx = 0 ∧ s.helpersLive = true)) :
    exec (.exit a) s = .next { s with ctx := { s.ctx with waiting := true } } := by
  show execExit a s = _
  refine run_wait h rfl rfl ?_
  rcases hw with hq | ⟨hi, hl⟩
  · rw [hq]; rfl
  · cases hq : (s.queued s.cur).isEmpty with
    | false => rfl
    | true => simp [hk, hi, hl]

/-- Else the helper is no more. -/
theorem exit_helper (h : Calm s (.exit a) = true) (hk : coreKind s.cur.core = .compute)
    (hq : (s.queued s.cur).isEmpty = true) (hi : s.cur.idx ≠ 0) : exec (.exit a) s = .next s.exitHelper := by
  show execExit a s = _
  rw [execExit, run_user h rfl rfl]
  simp [hq, hk, hi]

/-- Else the control context is no more. -/
theorem exit_control (h : Calm s (.exit a) = true) (hk : coreKind s.cur.core = .compute)
    (hq : (s.queued s.cur).isEmpty = true) (hi : s.cur.idx = 0) (hl : s.helpersLive = false) :
    exec (.exit a) s = .next (s.exitControl (s.ctx.rx a)) := by
  show execExit a s = _
  rw [execExit, run_user h rfl rfl]
  simp [hq, hk, hi, hl, State.rx]

/-- A helper's end: its starter has its bit of HDONE, and nothing else is left of it. -/
theorem exitHelper_ends (hs : s.core.firstStart = none) : s.exitHelper.cur = s.cur ∧
    s.exitHelper.ctx = { Ctx.init with lastIssue := some s.cycle } ∧ SameBytes s s.exitHelper ∧
    s.exitHelper.leaves = s.leaves ∧ s.exitHelper.launches = s.launches ∧
    ∀ c, s.ctx.starter = some c → c ≠ s.cur →
      (s.exitHelper.getCtx c).hdone = (s.getCtx c).hdone ||| BitVec.twoPow 11 s.cur.idx := by
  have hend := ended_endContext s.tellStarter
  rw [← exitHelper_eq hs] at hend
  have htold : ∀ c, s.ctx.starter = some c →
      (s.tellStarter.getCtx c).hdone = (s.getCtx c).hdone ||| BitVec.twoPow 11 s.cur.idx := by
    intro c hc
    rw [State.tellStarter, hc]
    simp only [State.getCtx_setCtx_same]
  obtain ⟨c, cs, he⟩ := tellStarter_eq s
  rw [he] at hend htold
  exact ⟨hend.cur, hend.ctx, hend.reads rfl, hend.leaves, hend.launches,
    fun c hc hne => (hend.hdone c hne).trans (htold c hc)⟩

/-- A control context's end: what it leaves to its launch. -/
theorem exitControl_ends (v : Word) : (s.exitControl v).cur = s.cur ∧
    (s.exitControl v).ctx = { Ctx.init with lastIssue := some s.cycle } ∧ SameBytes s (s.exitControl v) ∧
    (s.exitControl v).leaves = (s.leaveLeaf v).leaves ∧ (s.exitControl v).launches = (s.leaveLeaf v).launches := by
  have hend := ended_endContext (s.leaveLeaf v)
  rw [← exitControl_eq] at hend
  obtain ⟨p, ls, xs, he⟩ := leaveLeaf_eq s v
  rw [he] at hend ⊢
  exact ⟨hend.cur, hend.ctx, hend.reads rfl, hend.leaves, hend.launches⟩

end

/-- Settles O15: EXIT by its cases; a context's end is `Ended`, after what it tells its starter or its launch. -/
theorem exitEndsTheContext : Obligations.ExitEndsTheContext := by
  unfold Obligations.ExitEndsTheContext
  intro s a h hcore
  have hk : coreKind s.cur.core = .compute := by rw [coreKind, if_neg (by omega), if_neg (by omega)]
  refine ⟨fun hq => exit_waits h hk (.inl hq), fun _ hi hl => exit_waits h hk (.inr ⟨hi, hl⟩),
    fun hq hi hs => ⟨_, exit_helper h hk hq hi, exitHelper_ends hs⟩, fun hq hi hl => ?_⟩
  obtain ⟨hcur, hctx, hbytes, hleaves, hlaunches⟩ := exitControl_ends (s := s) (s.ctx.rx a)
  refine ⟨_, exit_control h hk hq hi hl, hcur, hctx, hbytes, fun n l m x hn hl hm hx => ?_⟩
  have hleft := leaveLeaf_launch (v := s.ctx.rx a) hn hl hm hx
  rwa [← hleaves, ← hlaunches, leafStatus, bits_low] at hleft

/-! Words that the spec gives with their instructions (chapters 3, 4 and 7). -/

/-- Settles O59: the decoder is run on the seven words. -/
theorem exampleWordsDecode : Obligations.ExampleWordsDecode := by
  unfold Obligations.ExampleWordsDecode
  decide

end Sys2Proof.Machine

namespace Sys2Proof.Machine

/-! PROOFS. Floating-point arithmetic rounds an exact result once (02 R46, R47, R54): what the scalar instructions of
chapter 5 and the elements of the vector commands share (O28, O29, O32). -/

-- Exact sums

theorem real_fin (n : Bool) (m : Nat) (e : Int) : (FVal.fin n m e).real = signum n * (m * 2 ^ e) := by
  cases n <;> simp [FVal.real, signum]

theorem real_neg (v : FVal) : v.neg.real = -v.real := by
  cases v with
  | nan g => simp [FVal.neg, FVal.real]
  | inf n => simp [FVal.neg, FVal.real]
  | fin n m e => cases n <;> simp [FVal.neg, FVal.real]

theorem real_eq_zero_iff {n : Bool} {m : Nat} {e : Int} : (FVal.fin n m e).real = 0 ↔ m = 0 := by
  simp [real_fin, signum_ne_zero, zpow_ne_zero]

theorem signum_mul_signum (n n' : Bool) : signum n * signum n' = signum (n != n') := by
  cases n <;> cases n' <;> simp [signum]

/-- A product of finite values, exactly. -/
theorem real_mul_real (n₁ n₂ : Bool) (m₁ m₂ : Nat) (e₁ e₂ : Int) :
    (FVal.fin n₁ m₁ e₁).real * (FVal.fin n₂ m₂ e₂).real = (FVal.fin (n₁ != n₂) (m₁ * m₂) (e₁ + e₂)).real := by
  rw [real_fin, real_fin, real_fin, ← signum_mul_signum, zpow_add₀ two_ne_zero]
  push_cast
  ring

/-- A finite value in units of a power of two at most its own. -/
theorem scaled_mul_zpow (n : Bool) (m : Nat) {e q : Int} (h : q ≤ e) :
    (scaled n m e q : ℝ) * 2 ^ q = (FVal.fin n m e).real := by
  obtain ⟨k, hk⟩ := Int.eq_ofNat_of_zero_le (sub_nonneg.2 h)
  have he : (2 : ℝ) ^ e = 2 ^ k * 2 ^ q := by
    rw [← zpow_natCast, ← zpow_add₀ two_ne_zero, ← hk, sub_add_cancel]
  rw [real_fin, he, scaled, hk]
  cases n <;> simp [signum] <;> ring

theorem signum_mul_natAbs (t : Int) : signum (decide (t < 0)) * (t.natAbs : ℝ) = t := by
  rw [Nat.cast_natAbs, Int.cast_abs, signum]
  rcases lt_or_ge t 0 with h | h
  · have h' : (t : ℝ) < 0 := by exact_mod_cast h
    simp [h, abs_of_neg h']
  · have h' : (0 : ℝ) ≤ t := by exact_mod_cast h
    simp [not_lt.2 h, abs_of_nonneg h']

/-- `exactAdd` is exact. -/
theorem exactAdd_real (n₁ : Bool) (m₁ : Nat) (e₁ : Int) (n₂ : Bool) (m₂ : Nat) (e₂ : Int) :
    let t := exactAdd n₁ m₁ e₁ n₂ m₂ e₂
    (FVal.fin t.1 t.2.1 t.2.2).real = (FVal.fin n₁ m₁ e₁).real + (FVal.fin n₂ m₂ e₂).real := by
  intro t
  rw [← scaled_mul_zpow n₁ m₁ (min_le_left e₁ e₂), ← scaled_mul_zpow n₂ m₂ (min_le_right e₁ e₂), real_fin, ← add_mul,
    ← mul_assoc]
  exact congrArg (· * _) ((signum_mul_natAbs _).trans (Int.cast_add _ _))

-- Rounding the results

section
variable {F : FSpec} (hF : F.Ieee) {rm : RMode} {n₁ n₂ : Bool} {m₁ m₂ : Nat} {e₁ e₂ : Int}
include hF

theorem round_rounds_real {n : Bool} {m : Nat} {e : Int} (h : (FVal.fin n m e).real ≠ 0) :
    F.Rounds rm (FVal.fin n m e).real (F.round rm n m e) := by
  have hr := round_rounds hF rm n (mt real_eq_zero_iff.2 h) e (sticky := false) (d := 0) rfl nofun
  rwa [add_zero, ← real_fin] at hr

theorem sum_rounds (h : (FVal.fin n₁ m₁ e₁).real + (FVal.fin n₂ m₂ e₂).real ≠ 0) :
    F.Rounds rm ((FVal.fin n₁ m₁ e₁).real + (FVal.fin n₂ m₂ e₂).real) (F.sum rm n₁ m₁ e₁ n₂ m₂ e₂) := by
  rw [← exactAdd_real] at h ⊢
  unfold FSpec.sum
  rw [if_neg (mt real_eq_zero_iff.2 h)]
  exact round_rounds_real hF h

omit hF in
/-- The sign of an exact zero sum (R46). -/
theorem sum_zero (h : (FVal.fin n₁ m₁ e₁).real + (FVal.fin n₂ m₂ e₂).real = 0) :
    F.sum rm n₁ m₁ e₁ n₂ m₂ e₂ = (F.sign (if m₁ = 0 ∧ m₂ = 0 ∧ n₁ = n₂ then n₁ else decide (rm = .rdn)), 0) := by
  rw [← exactAdd_real] at h
  unfold FSpec.sum
  rw [if_pos (real_eq_zero_iff.1 h)]
  simp [and_assoc]

theorem fMul_rounds (h : (FVal.fin n₁ m₁ e₁).real * (FVal.fin n₂ m₂ e₂).real ≠ 0) :
    F.Rounds rm ((FVal.fin n₁ m₁ e₁).real * (FVal.fin n₂ m₂ e₂).real)
      (fMul F rm (.fin n₁ m₁ e₁) (.fin n₂ m₂ e₂)) := by
  rw [real_mul_real] at h ⊢
  show F.Rounds rm _ (if m₁ * m₂ = 0 then _ else _)
  rw [if_neg (mt real_eq_zero_iff.2 h)]
  exact round_rounds_real hF h

/-- A truncated quotient with the bits that division computes has more of them than any significand of the scalar and
vector formats. -/
theorem fDiv_rounds (hmb : F.mb < guardBits) (h₁ : m₁ ≠ 0) (h₂ : m₂ ≠ 0) :
    F.Rounds rm ((FVal.fin n₁ m₁ e₁).real / (FVal.fin n₂ m₂ e₂).real)
      (fDiv F rm (.fin n₁ m₁ e₁) (.fin n₂ m₂ e₂)) := by
  have hk : 2 ^ guardBits * m₂ ≤ 2 ^ (guardBits + bitLen m₂) := by
    rw [pow_add, bitLen, if_neg h₂]
    exact Nat.mul_le_mul_left _ Nat.lt_log2_self.le
  show F.Rounds rm _ (if m₂ = 0 then _ else if m₁ = 0 then _ else _)
  rw [if_neg h₂, if_neg h₁]
  extract_lets k p
  have hq : 2 ^ guardBits ≤ p / m₂ := by
    rw [Nat.le_div_iff_mul_le (Nat.pos_of_ne_zero h₂)]
    exact hk.trans (Nat.le_mul_of_pos_left _ (Nat.pos_of_ne_zero h₁))
  have hq0 : p / m₂ ≠ 0 := (Nat.two_pow_pos _).trans_le hq |>.ne'
  have hm₂ : (0 : ℝ) < m₂ := by exact_mod_cast Nat.pos_of_ne_zero h₂
  have hd : Discards (decide (p % m₂ ≠ 0)) ((p % m₂ : Nat) / m₂) := by
    unfold Discards
    split
    · next hr =>
      have hpos : 0 < p % m₂ := Nat.pos_of_ne_zero (of_decide_eq_true hr)
      exact ⟨by positivity, (div_lt_one hm₂).2 (by exact_mod_cast Nat.mod_lt _ (Nat.pos_of_ne_zero h₂))⟩
    · next hr =>
      have hr0 : p % m₂ = 0 := by simpa using hr
      simp [hr0]
  have hr := round_rounds hF rm (n₁ != n₂) hq0 (e₁ - e₂ - k) hd fun _ => by
    have : guardBits ≤ (p / m₂).log2 := (Nat.le_log2 hq0).2 hq
    rw [bitLen, if_neg hq0]
    omega
  convert hr using 1
  have hp : ((p / m₂ : Nat) : ℝ) + (p % m₂ : Nat) / m₂ = m₁ * 2 ^ k / m₂ := by
    have : (p : ℝ) = m₂ * (p / m₂ : Nat) + (p % m₂ : Nat) := by exact_mod_cast (Nat.div_add_mod p m₂).symm
    rw [show (m₁ : ℝ) * 2 ^ k = p by simp [p], this]
    field_simp
  have hs : signum n₁ / signum n₂ = signum (n₁ != n₂) := by
    cases n₁ <;> cases n₂ <;> simp [signum]
  rw [hp, real_fin, real_fin, mul_div_mul_comm, hs, zpow_sub₀ two_ne_zero, zpow_sub₀ two_ne_zero, zpow_natCast]
  field_simp

omit hF in
theorem isqrtFrom_eq (n : Nat) : ∀ k r, r * r ≤ n → n < (r + 2 ^ k) * (r + 2 ^ k) → isqrtFrom n k r = n.sqrt
  | 0, r, hr, hn => (Nat.eq_sqrt.2 ⟨hr, hn⟩)
  | k + 1, r, hr, hn => by
    unfold isqrtFrom
    split
    · next h => exact isqrtFrom_eq n k _ h (by rwa [add_assoc, ← two_mul, ← pow_succ'])
    · next h => exact isqrtFrom_eq n k r hr (not_le.1 h)

omit hF in
theorem isqrt_eq (n : Nat) : isqrt n = n.sqrt := by
  refine isqrtFrom_eq n _ 0 (Nat.zero_le n) ?_
  rw [zero_add, ← pow_add]
  rcases eq_or_ne n 0 with rfl | hn
  · exact Nat.two_pow_pos _
  · refine Nat.lt_log2_self.trans_le (Nat.pow_le_pow_right two_pos ?_)
    rw [bitLen, if_neg hn]
    omega

omit hF in
/-- What an integer square root discards of the root of a real number that it truncates, too. -/
theorem discards_sqrt {x : ℝ} {v : Nat} (hv : v ≤ x) (hx : x < v + 1) :
    Discards (decide ((v.sqrt : ℝ) * v.sqrt ≠ x)) (√x - v.sqrt) := by
  have h0 : (0 : ℝ) ≤ v.sqrt := Nat.cast_nonneg _
  have hlo : (v.sqrt : ℝ) * v.sqrt ≤ x := le_trans (by exact_mod_cast Nat.sqrt_le v) hv
  have hhi : x < (v.sqrt + 1) * (v.sqrt + 1) :=
    hx.trans_le (by exact_mod_cast Nat.succ_le_of_lt (Nat.lt_succ_sqrt v))
  have hle : (v.sqrt : ℝ) ≤ √x := Real.le_sqrt_of_sq_le (by rwa [sq])
  unfold Discards
  split
  · next h =>
    refine ⟨sub_pos.2 (lt_of_le_of_ne hle fun he => of_decide_eq_true h ?_), ?_⟩
    · rw [he, Real.mul_self_sqrt ((mul_self_nonneg _).trans hlo)]
    · rw [sub_lt_iff_lt_add, Real.sqrt_lt' (by linarith)]
      linarith [sq ((v.sqrt : ℝ) + 1)]
  · next h =>
    have he : (v.sqrt : ℝ) * v.sqrt = x := by simpa using h
    rw [← he, Real.sqrt_mul_self h0, sub_self]

/-- The root of a real number from its integer part, which must leave more bits than any significand of the scalar and
vector formats has. -/
theorem sqrt_rounds (hmb : F.mb < guardBits) {x : ℝ} {v : Nat} (hv : v ≤ x) (hx : x < v + 1)
    (hle : 2 ^ (guardBits + guardBits) ≤ v) {sticky : Bool} (hs : sticky = true ↔ (isqrt v : ℝ) * isqrt v ≠ x) (j : Int) :
    F.Rounds rm (√x * 2 ^ j) (F.round rm false (isqrt v) j sticky) := by
  rw [isqrt_eq] at hs ⊢
  have hr : 2 ^ guardBits ≤ v.sqrt := by rwa [Nat.le_sqrt, ← pow_add]
  have hr0 : v.sqrt ≠ 0 := (Nat.two_pow_pos _).trans_le hr |>.ne'
  have hd := discards_sqrt hv hx
  rw [show decide ((v.sqrt : ℝ) * v.sqrt ≠ x) = sticky by rw [Bool.eq_iff_iff, hs, decide_eq_true_iff]] at hd
  have hround := round_rounds hF rm false hr0 j hd fun _ => by
    have : guardBits ≤ v.sqrt.log2 := (Nat.le_log2 hr0).2 hr
    rw [bitLen, if_neg hr0]
    omega
  rwa [add_sub_cancel, signum, if_neg Bool.false_ne_true, one_mul] at hround

omit hF in
/-- Half of an even power of two, under the root. -/
theorem sqrt_mul_two_zpow {x : ℝ} (hx : 0 ≤ x) (j : Int) : √(x * 2 ^ (j + j)) = √x * 2 ^ j := by
  rw [zpow_add₀ two_ne_zero, Real.sqrt_mul hx, Real.sqrt_mul_self (by positivity)]

theorem fSqrt_rounds (hmb : F.mb < guardBits) (h₁ : m₁ ≠ 0) :
    F.Rounds rm √(FVal.fin false m₁ e₁).real (fSqrt F rm (.fin false m₁ e₁)) := by
  show F.Rounds rm _ (if m₁ = 0 then _ else _)
  rw [if_neg h₁, if_neg Bool.false_ne_true]
  extract_lets k v r
  have hle : 2 ^ (guardBits + guardBits) ≤ v :=
    (Nat.pow_le_pow_right two_pos (by omega)).trans (Nat.le_mul_of_pos_left _ (Nat.pos_of_ne_zero h₁))
  obtain ⟨j, hj⟩ : ∃ j : Int, e₁ - k = 2 * j := ⟨(e₁ - k) / 2, by simp only [k]; split <;> omega⟩
  have hx : (FVal.fin false m₁ e₁).real = v * 2 ^ (j + j) := by
    rw [real_fin, show e₁ = k + (j + j) by omega, zpow_add₀ two_ne_zero, zpow_natCast, ← mul_assoc (m₁ : ℝ)]
    simp [signum, v]
  rw [hx, sqrt_mul_two_zpow (Nat.cast_nonneg v), hj, Int.mul_ediv_cancel_left _ two_ne_zero]
  refine sqrt_rounds hF hmb le_rfl (lt_add_one _) hle ?_ j
  rw [decide_eq_true_iff]
  exact_mod_cast Iff.rfl

end

end Sys2Proof.Machine

namespace Sys2Proof.Machine

/-! Scalar floating-point arithmetic (05 R122, 02 R46, R47, R54). What is shared comes first: an instruction that writes
registers and raises flags (`givesFlags_of_body`). -/

section
variable {s : State} {i : Instr} {d : FReg} {x : XReg}

theorem mode_eq_roundingMode (s : State) (rnd : Rnd) : s.mode rnd = roundingMode s rnd := by cases rnd <;> rfl

theorem flagged_ctx (s : State) (fl : Flags) : (s.flagged fl).ctx = s.ctx := by
  unfold State.flagged
  split <;> rfl

theorem flagged_cur (s : State) (fl : Flags) : (s.flagged fl).cur = s.cur := by
  unfold State.flagged
  split <;> rfl

theorem flagged_mem (s : State) (fl : Flags) : (s.flagged fl).mem = s.mem := by
  unfold State.flagged
  split <;> rfl

theorem flagged_cycle (s : State) (fl : Flags) : (s.flagged fl).cycle = s.cycle := by
  unfold State.flagged
  split <;> rfl

/-- Flags of the issuing context are in FPFLAGS at once and on their way to CLFLAGS (R48, R49). -/
theorem raise_eq (s : State) (fl : Flags) :
    s.raise fl = { s.flagged fl with ctx := { s.ctx with fpflags := s.ctx.fpflags ||| fl } } := by
  unfold State.raise State.raiseAt State.flagged State.raiseCluster
  split
  · next h => simp [h]
  · rw [getCtx_cur, State.setCtx, if_pos rfl]
    rfl

/-- Completion of an instruction that has raised flags, the context's registers apart as it was. -/
theorem after_flagged {fl : Flags} {c : Ctx} {n : Nat} (hp : c.pc = s.ctx.pc) (hd : c.doing = s.ctx.doing)
    (hl : c.lastIssue = s.ctx.lastIssue) :
    ({ s.flagged fl with ctx := c } : State).after c n = (s.flagged fl).after c n := by
  simp [State.after, State.issueCycle, flagged_ctx, flagged_cycle, hp, hd, hl]

/-- An instruction whose body writes registers and raises flags changes nothing else. -/
theorem givesFlags_of_body {c : Ctx} {fl : Flags} {body : State → Res} (he : exec i s = s.run i body)
    (hb : body s = .done { s.flagged fl with ctx := { c with fpflags := s.ctx.fpflags ||| fl } })
    (hl : c.loop = s.ctx.loop) (hw : c.windows = s.ctx.windows) (hp : c.pc = s.ctx.pc)
    (hd : c.doing = s.ctx.doing) (hi : c.lastIssue = s.ctx.lastIssue)
    (hs : writesStream s.ctx i = false) (hu : userMay i = true) : GivesFlags i s c fl := fun h => by
  rw [he, run_done h hs hu rfl hb hl hw]
  exact congrArg Host.Outcome.next (after_flagged hp hd hi)

theorem givesFlags_wf (r : Nat × Flags) {body : State → Res} (he : exec i s = s.run i body)
    (hb : body s = .done (s.fput d r)) (hs : writesStream s.ctx i = false) (hu : userMay i = true) :
    GivesFlags i s (s.ctx.wf d (BitVec.ofNat 64 r.1)) r.2 :=
  givesFlags_of_body he (by rw [hb, State.fput, raise_eq]; rfl) rfl rfl rfl rfl rfl hs hu

theorem wx_withFlags (c : Ctx) (x : XReg) (v : Word) (fl : Flags) :
    ({ c with fpflags := fl } : Ctx).wx x v = { c.wx x v with fpflags := fl } := by
  unfold Ctx.wx
  split <;> rfl

theorem givesFlags_wx (v : Word) (fl : Flags) {body : State → Res} (he : exec i s = s.run i body)
    (hb : body s = .done ((s.raise fl).wx x v)) (hs : writesStream s.ctx i = false) (hu : userMay i = true) :
    GivesFlags i s (s.ctx.wx x v) fl :=
  givesFlags_of_body he (by rw [hb, State.wx, raise_eq]; simp only [wx_withFlags]) (by simp) (by simp) (by simp)
    (by simp) (by simp) hs hu

end

section
variable (s : State) (t : FFmt) (rnd : Rnd) (d a b c : FReg)

theorem fadd_gives : let r := fAdd (ffmtSpec t) (roundingMode s rnd) (s.fval t a) (s.fval t b)
    GivesFlags (.fadd t rnd d a b) s (s.ctx.wf d (BitVec.ofNat 64 r.1)) r.2 := by
  rw [← mode_eq_roundingMode]
  exact givesFlags_wf _ (show execFadd t rnd d a b s = _ from rfl) rfl rfl rfl

theorem fsub_gives : let r := fSub (ffmtSpec t) (roundingMode s rnd) (s.fval t a) (s.fval t b)
    GivesFlags (.fsub t rnd d a b) s (s.ctx.wf d (BitVec.ofNat 64 r.1)) r.2 := by
  rw [← mode_eq_roundingMode]
  exact givesFlags_wf _ (show execFsub t rnd d a b s = _ from rfl) rfl rfl rfl

theorem fmul_gives : let r := fMul (ffmtSpec t) (roundingMode s rnd) (s.fval t a) (s.fval t b)
    GivesFlags (.fmul t rnd d a b) s (s.ctx.wf d (BitVec.ofNat 64 r.1)) r.2 := by
  rw [← mode_eq_roundingMode]
  exact givesFlags_wf _ (show execFmul t rnd d a b s = _ from rfl) rfl rfl rfl

theorem fdiv_gives : let r := fDiv (ffmtSpec t) (roundingMode s rnd) (s.fval t a) (s.fval t b)
    GivesFlags (.fdiv t rnd d a b) s (s.ctx.wf d (BitVec.ofNat 64 r.1)) r.2 := by
  rw [← mode_eq_roundingMode]
  exact givesFlags_wf _ (show execFdiv t rnd d a b s = _ from rfl) rfl rfl rfl

theorem fsqrt_gives : let r := fSqrt (ffmtSpec t) (roundingMode s rnd) (s.fval t a)
    GivesFlags (.fsqrt t rnd d a) s (s.ctx.wf d (BitVec.ofNat 64 r.1)) r.2 := by
  rw [← mode_eq_roundingMode]
  exact givesFlags_wf _ (show execFsqrt t rnd d a s = _ from rfl) rfl rfl rfl

theorem ffma_gives : let r := fFma (ffmtSpec t) (roundingMode s rnd) (s.fval t a) (s.fval t b) (s.fval t c)
    GivesFlags (.ffma t rnd d a b c) s (s.ctx.wf d (BitVec.ofNat 64 r.1)) r.2 := by
  rw [← mode_eq_roundingMode]
  exact givesFlags_wf _ (show execFfma t rnd d a b c s = _ from rfl) rfl rfl rfl

end
end Sys2Proof.Machine

namespace Sys2Proof.Machine

/-! The cases of R46, R47 and R54 without rounding: NaNs, infinities, zeros. -/

/-- Only a signalling NaN among the operands sets NV (R47). -/
theorem sigFlag_eq (l : List FVal) : sigFlag l = if FVal.nan true ∈ l then flNV else 0 := by
  induction l with
  | nil => rfl
  | cons v l ih =>
    cases v with
    | nan g => cases g <;> simp [sigFlag, ih]
    | inf n => simp [sigFlag, ih]
    | fin n m e => simp [sigFlag, ih]

theorem isNan_iff {v : FVal} : v.isNan = true ↔ ∃ g, v = .nan g := by cases v <;> simp [FVal.isNan]

theorem isNan_neg (v : FVal) : v.neg.isNan = v.isNan := by cases v <;> rfl

theorem nan_eq_neg_iff (v : FVal) : FVal.nan true = v.neg ↔ FVal.nan true = v := by cases v <;> simp [FVal.neg]

/-- The flag of a NaN that an operation has as its one operand, or as the addend of a finite product. -/
theorem nanAddend (g : Bool) {F : FSpec} :
    (F.nanBits, flagIf g flNV) = (F.nanBits, if FVal.nan true ∈ [FVal.nan g] then flNV else (0 : Flags)) := by
  cases g <;> simp [flagIf]

section
variable {F : FSpec} {rm : RMode} {a b : FVal} (h : a.isNan = true ∨ b.isNan = true)
include h

theorem fAdd_nan : fAdd F rm a b = (F.nanBits, sigFlag [a, b]) := by
  obtain ⟨g, rfl⟩ | ⟨g, rfl⟩ := h.imp isNan_iff.1 isNan_iff.1
  · rfl
  · cases a <;> rfl

theorem fSub_nan : fSub F rm a b = (F.nanBits, sigFlag [a, b]) := by
  rw [fSub, fAdd_nan (by rwa [isNan_neg])]
  simp [sigFlag_eq, nan_eq_neg_iff]

theorem fMul_nan : fMul F rm a b = (F.nanBits, sigFlag [a, b]) := by
  obtain ⟨g, rfl⟩ | ⟨g, rfl⟩ := h.imp isNan_iff.1 isNan_iff.1
  · rfl
  · cases a <;> rfl

theorem fDiv_nan : fDiv F rm a b = (F.nanBits, sigFlag [a, b]) := by
  obtain ⟨g, rfl⟩ | ⟨g, rfl⟩ := h.imp isNan_iff.1 isNan_iff.1
  · rfl
  · cases a <;> rfl

theorem fFma_nan (c : FVal) : fFma F rm a b c = (F.nanBits, sigFlag [a, b, c]) := by
  obtain ⟨g, rfl⟩ | ⟨g, rfl⟩ := h.imp isNan_iff.1 isNan_iff.1
  · rfl
  · cases a <;> rfl

end

/-- The shapes of an infinite product with the sign `n != n'`. -/
theorem fFma_infProduct {F : FSpec} {rm : RMode} {a b : FVal} (c : FVal) {n n' : Bool} {m : Nat} {e : Int}
    (h : (a = .inf n ∧ (b = .inf n' ∨ (b = .fin n' m e ∧ m ≠ 0))) ∨ (a = .fin n m e ∧ m ≠ 0 ∧ b = .inf n')) :
    fFma F rm a b c = fFma.infPlus F c (n != n') := by
  rcases h with ⟨rfl, rfl | ⟨rfl, hm⟩⟩ | ⟨rfl, hm, rfl⟩
  · rfl
  · exact if_neg hm
  · exact (if_neg hm).trans (by rw [bne_comm])

/-- Settles O28: each instruction gives what its exact operation of R54 gives, and that is the exact result rounded
(`sum_rounds`, `fMul_rounds`, `fDiv_rounds`, `fSqrt_rounds`) or the value of its own case. -/
theorem floatArithmeticRoundsOnce : Obligations.FloatArithmeticRoundsOnce := by
  unfold Obligations.FloatArithmeticRoundsOnce
  intro s t rnd d a b c F op rm val gives rounds nv invalid inf zero zeroSum fadd fsub fmul fdiv ffma fsqrt
  have hF : F.Ieee := ffmtSpec_ieee t
  have hmb : F.mb < guardBits := by cases t <;> decide
  have hval : val = FVal.real := by ext v; cases v <;> rfl
  have hadd : gives fadd (fAdd F rm (op a) (op b)) := fadd_gives s t rnd d a b
  have hsub : gives fsub (fSub F rm (op a) (op b)) := fsub_gives s t rnd d a b
  have hmul : gives fmul (fMul F rm (op a) (op b)) := fmul_gives s t rnd d a b
  have hdiv : gives fdiv (fDiv F rm (op a) (op b)) := fdiv_gives s t rnd d a b
  have hfma : gives ffma (fFma F rm (op a) (op b) (op c)) := ffma_gives s t rnd d a b c
  have hsqrt : gives fsqrt (fSqrt F rm (op a)) := fsqrt_gives s t rnd d a
  have becomes {i : Instr} {r r' : Nat × Flags} (hg : gives i r) (hr : r = r') : gives i r' := hr ▸ hg
  generalize op a = A at *
  generalize op b = B at *
  generalize op c = C at *
  rw [hval]
  refine ⟨fun n₁ m₁ e₁ n₂ m₂ e₂ hA hB => ?finite, fun h => ⟨fun i hi => ?nanOperand, ?nanProduct⟩, fun h => ?nanRoot,
    fun hA => ?infRoot, fun hA => ?negInfRoot, fun n n' m e =>
    ⟨fun hA hB => ?infInf, fun hA hB => ?infFin, fun hA hB => ?finInf, fun h => ?infProduct, fun h => ?infSum⟩⟩
  case finite =>
    subst hA hB
    refine ⟨fun h => ⟨_, sum_rounds hF h, hadd⟩, fun h => ⟨_, ?_, hsub⟩, fun h => ⟨_, fMul_rounds hF h, hmul⟩,
      fun h₂ h => ⟨_, fDiv_rounds hF hmb (fun h₁ => h ?_) h₂, hdiv⟩,
      fun hn h => ⟨_, ?_, hsqrt⟩, fun h => becomes hadd (sum_zero h), fun h => becomes hsub (sum_zero ?_),
      fun h => becomes hmul (if_pos (Nat.mul_eq_zero.2 h)), fun h₁ h₂ => becomes hdiv ((if_neg h₂).trans (if_pos h₁)),
      fun h₁ => becomes hsqrt (if_pos h₁), fun h₁ h₂ => becomes hdiv ((if_pos h₂).trans (if_neg h₁)),
      fun h₁ h₂ => becomes hdiv ((if_pos h₂).trans (if_pos h₁)), fun hn h₁ => becomes hsqrt ((if_neg h₁).trans (if_pos hn)),
      fun n₃ m₃ e₃ hC => ⟨fun h => ⟨_, ?_, hfma⟩, fun h => becomes hfma ?_⟩, fun n₃ hC => becomes hfma (by rw [hC]; rfl),
      fun g hC => becomes hfma (by rw [hC]; exact nanAddend g)⟩
    · rw [sub_eq_add_neg, ← real_neg] at h ⊢
      exact sum_rounds hF h
    · rw [h₁]
      simp [FVal.real]
    · subst hn
      exact fSqrt_rounds hF hmb fun h₁ => h (by simp [h₁, FVal.real])
    · rwa [sub_eq_add_neg, ← real_neg] at h
    · subst hC
      rw [real_mul_real] at h ⊢
      exact sum_rounds hF h
    · subst hC
      rw [real_mul_real] at h
      exact sum_zero h
  case nanOperand =>
    simp only [List.mem_cons, List.not_mem_nil, or_false] at hi
    rcases hi with rfl | rfl | rfl | rfl
    · exact becomes hadd (by rw [fAdd_nan h, sigFlag_eq])
    · exact becomes hsub (by rw [fSub_nan h, sigFlag_eq])
    · exact becomes hmul (by rw [fMul_nan h, sigFlag_eq])
    · exact becomes hdiv (by rw [fDiv_nan h, sigFlag_eq])
  case nanProduct => exact becomes hfma (by rw [fFma_nan h, sigFlag_eq])
  case nanRoot =>
    obtain ⟨g, rfl⟩ := isNan_iff.1 h
    exact becomes hsqrt (nanAddend g)
  case infRoot => exact becomes hsqrt (by rw [hA]; simp [fSqrt, FSpec.sign])
  case negInfRoot => exact becomes hsqrt (by rw [hA]; rfl)
  case infInf =>
    subst hA hB
    have hsign : n = !n' ↔ ¬ n = n' := by cases n <;> cases n' <;> decide
    refine ⟨?_, ?_, hmul, hdiv⟩
    · split
      · next hn => exact becomes hadd (if_pos hn)
      · next hn => exact becomes hadd (if_neg hn)
    · split
      · next hn => exact becomes hsub (if_neg (by rwa [hsign, not_not]))
      · next hn => exact becomes hsub (if_pos (hsign.2 hn))
  case infFin =>
    subst hA hB
    exact ⟨hadd, hsub, hdiv⟩
  case finInf =>
    subst hA hB
    exact ⟨hadd, hsub, hdiv⟩
  case infProduct =>
    split
    · next hm => rcases h with ⟨rfl, rfl⟩ | ⟨rfl, rfl⟩ <;> exact ⟨becomes hmul (if_pos hm), becomes hfma (if_pos hm)⟩
    · next hm =>
      rcases h with ⟨rfl, rfl⟩ | ⟨rfl, rfl⟩
      · exact becomes hmul (if_neg hm)
      · exact becomes hmul ((if_neg hm).trans (by rw [bne_comm]))
  case infSum =>
    have hplus := becomes hfma (fFma_infProduct C h)
    refine ⟨fun k j q hC => ?_, fun k hC => ?_, fun g hC => ?_⟩ <;> rw [hC] at hplus
    · exact hplus
    · split
      · next hk =>
        subst hk
        exact becomes hplus (if_pos rfl)
      · next hk => exact becomes hplus (if_neg (Ne.symm hk))
    · exact becomes hplus (by rw [hC]; exact nanAddend g)

end Sys2Proof.Machine

namespace Sys2Proof.Machine

/-! PROOFS. Issue of the vector arithmetic instructions, VFENCE and VSTAT (O31; 05 R116, R117, R142, R143). -/

section
variable {s : State} {i : Instr} {m : XReg}

/-- Where no stream register is configured, every register may be written. -/
theorem writesStream_of_no_streams {c : Ctx} (hn : ∀ j, c.streams.get j = none) (i : Instr) :
    writesStream c i = false := by
  refine List.any_eq_false.2 fun r _ => ?_
  cases r with
  | v v => cases hv : streamOf? v <;> simp [hv, hn]
  | _ => exact Bool.false_ne_true

/-- Where no stream register is configured, no head group is captured. -/
theorem heads_of_no_streams (hn : ∀ j, s.ctx.streams.get j = none) : ∀ rs : List RegName, s.heads rs = .ok []
  | [] => rfl
  | .v r :: rest => by
    have hr : ((streamOf? r).bind fun j => s.ctx.streams.get j) = none := by cases streamOf? r <;> simp [hn]
    rw [State.heads, hr]
    exact heads_of_no_streams hn rest
  | .x _ :: rest | .f _ :: rest | .a _ :: rest => heads_of_no_streams hn rest

/-- The register that a vector arithmetic instruction reads at issue, the mask apart (R133, R137). -/
def issueOperand (s : State) : Instr → Word
  | .vdq _ _ _ _ x _ | .vins _ _ x _ | .vbcast _ (.x x) _ _ => s.ctx.rx x
  | .vbcast _ (.f x) _ _ => s.ctx.rf x
  | _ => 0

theorem exec_arith (h : maskReg i = some m) : exec i s = s.vec i m (rndOf i) (issueOperand s i) := by
  cases i with
  | vbcast t src d m =>
    obtain rfl := Option.some.inj h
    cases src <;> rfl
  | vadd | vsub | vmul | vfma | vmin | vmax | vcmp | vsel | vand | vor | vxor | vshl | vshr | vcvt | vqnt | vdq | vred
  | vscan | vsf | vperm | vins | vext =>
    obtain rfl := Option.some.inj h
    rfl
  | _ => cases h

theorem userMay_arith (h : maskReg i = some m) : userMay i = true := by
  refine Bool.eq_true_of_not_eq_false fun hp => ?_
  cases i with
  | rett | preq | preqCtr | resume | resumeCtr | sysrd | syswr | clflagsWrite => cases h
  | _ => cases hp

theorem maskOf_eq (s : State) (m : XReg) : s.maskOf m = if m = 0 then BitVec.allOnes 64 else s.ctx.rx m := rfl

theorem loopLanes_of_no_loop {c : Ctx} (h : c.loop = none) : c.loopLanes = BitVec.allOnes 32 := by
  rw [Ctx.loopLanes, h]

/-- The command that a vector arithmetic instruction queues where no SREP is active and no stream is configured. -/
def arithCommand (s : State) (i : Instr) (m : XReg) : VCmd :=
  ⟨s.core.vseq, s.cur.idx, i, s.maskOf m, issueOperand s i, 0, roundingMode s (rndOf i), BitVec.allOnes 32, [], [],
    s.mem.stores⟩

section
variable (hm : maskReg i = some m) (hn : ∀ j, s.ctx.streams.get j = none)
include hm hn

theorem arith_queues (hq : s.core.vq.length < 16) (h : Calm s i = true) :
    exec i s = .next ((s.setCore s.cur.core { s.core with
      vq := s.core.vq ++ [arithCommand s i m], vseq := s.core.vseq + 1 }).after s.ctx i.len) := by
  obtain ⟨hl, -, -⟩ := calm_iff.1 h
  rw [exec_arith hm]
  refine run_done h (writesStream_of_no_streams hn i) (userMay_arith hm) rfl
    (t := s.enqueue i m (issueOperand s i) 0 (rndOf i) [] []) ?_ rfl rfl |>.trans ?_
  · rw [if_neg (show ¬vqSize ≤ _ from not_le.2 hq), heads_of_no_streams hn]
    rfl
  · rw [State.enqueue, loopLanes_of_no_loop hl, mode_eq_roundingMode]
    rfl

theorem arith_waits (hq : 16 ≤ s.core.vq.length) : Waits i s := fun h => by
  rw [exec_arith hm]
  exact run_wait h (writesStream_of_no_streams hn i) (userMay_arith hm) (if_pos hq)

end

theorem vfence_completes (hq : (s.queued s.cur).isEmpty = true) (h : Calm s .vfence = true) :
    exec .vfence s = .next (s.after s.ctx 12) := by
  show execVfence s = _
  exact run_done h rfl rfl rfl (if_pos (List.isEmpty_iff.1 hq)) rfl rfl

theorem vfence_waits (hq : (s.queued s.cur).isEmpty = false) : Waits .vfence s := fun h => by
  show execVfence s = _
  exact run_wait h rfl rfl (if_neg fun he => by simp [he] at hq)

/-- A field of VSTAT is the number of its bits. -/
theorem streamBits_eq (f : Fin 8 → Bool) : streamBits f = Nat.ofBits f := by
  simp [streamBits, List.finRange_succ, Nat.ofBits_succ]
  ring

/-- Three fields of 8 bits and one above them, bit by bit. -/
theorem testBit_fields {a b c : Nat} (o : Nat) (ha : a < 2 ^ 8) (hb : b < 2 ^ 8) (hc : c < 2 ^ 8) (n : Nat) :
    (a + b * 2 ^ 8 + c * 2 ^ 16 + o * 2 ^ 24).testBit n =
      if n < 8 then a.testBit n else if n - 8 < 8 then b.testBit (n - 8)
      else if n - 8 - 8 < 8 then c.testBit (n - 8 - 8) else o.testBit (n - 8 - 8 - 8) := by
  rw [show a + b * 2 ^ 8 + c * 2 ^ 16 + o * 2 ^ 24 = 2 ^ 8 * (2 ^ 8 * (2 ^ 8 * o + c) + b) + a by ring,
    Nat.testBit_two_pow_mul_add _ ha, Nat.testBit_two_pow_mul_add _ hb, Nat.testBit_two_pow_mul_add _ hc]

/-- Table 5.6, for a stream register in each field. -/
theorem vstat_bits (c : Ctx) (j : Fin 8) :
    c.vstat.getLsbD j.val = (c.streams.get j).isSome ∧
    c.vstat.getLsbD (8 + j.val) = (c.streams.get j).any (fun st => st.ended) ∧
    c.vstat.getLsbD (16 + j.val) = (c.streams.get j).any (fun st => !st.groups.isEmpty) ∧
    c.vstat.getLsbD (24 + j.val) = c.ovr.getLsbD j.val := by
  obtain ⟨j, hj⟩ := j
  have h64 : j < 64 ∧ 8 + j < 64 ∧ 16 + j < 64 ∧ 24 + j < 64 := by omega
  simp only [Ctx.vstat, word, streamBits_eq, BitVec.getLsbD_ofNat,
    testBit_fields _ (Nat.ofBits_lt_two_pow _) (Nat.ofBits_lt_two_pow _) (Nat.ofBits_lt_two_pow _)]
  refine ⟨?_, ?_, ?_, ?_⟩
  · rw [if_pos hj, Nat.testBit_ofBits_lt _ j hj, decide_eq_true h64.1, Bool.true_and]
    cases c.streams.get ⟨j, hj⟩ <;> rfl
  · rw [if_neg (by omega), if_pos (by omega), Nat.add_sub_cancel_left, Nat.testBit_ofBits_lt _ j hj,
      decide_eq_true h64.2.1, Bool.true_and]
    cases c.streams.get ⟨j, hj⟩ <;> rfl
  · rw [if_neg (by omega), if_neg (by omega), if_pos (by omega), show 16 + j - 8 - 8 = j by omega,
      Nat.testBit_ofBits_lt _ j hj, decide_eq_true h64.2.2.1, Bool.true_and]
    cases c.streams.get ⟨j, hj⟩ with
    | none => rfl
    | some st => cases hg : st.groups <;> simp [hg]
  · rw [if_neg (by omega), if_neg (by omega), if_neg (by omega), show 24 + j - 8 - 8 - 8 = j by omega,
      decide_eq_true h64.2.2.2, Bool.true_and, BitVec.getLsbD]

theorem vstat_high (c : Ctx) {n : Nat} (hn : 32 ≤ n) : c.vstat.getLsbD n = false := by
  simp only [Ctx.vstat, word, streamBits_eq, BitVec.getLsbD_ofNat,
    testBit_fields _ (Nat.ofBits_lt_two_pow _) (Nat.ofBits_lt_two_pow _) (Nat.ofBits_lt_two_pow _)]
  rw [if_neg (by omega), if_neg (by omega), if_neg (by omega), ← BitVec.getLsbD, BitVec.getLsbD_of_ge _ _ (by omega),
    Bool.and_false]

end

/-- Settles O31: the body of each arithmetic instruction is `State.vec`, which waits at 16 commands and else puts
`arithCommand` at the queue's end; VFENCE and VSTAT by their own bodies. -/
theorem vectorIssue : Obligations.VectorIssue := by
  unfold Obligations.VectorIssue
  refine ⟨fun s i m hm hn => ⟨fun hq h => ⟨_, arith_queues hm hn hq h, rfl, rfl, arithCommand s i m, rfl, rfl, rfl, rfl,
    rfl, maskOf_eq s m, rfl, rfl, ?_, ?_, ?_, ?_⟩, arith_waits hm hn⟩,
    fun s d => ⟨vfence_completes, vfence_waits, s.ctx.vstat, ?_, fun n => vstat_high s.ctx, fun j => ?_⟩⟩
  · rintro t rnd d a x m rfl
    rfl
  · rintro t d x n rfl
    rfl
  · rintro t d x m rfl
    rfl
  · rintro t d x m rfl
    rfl
  · exact writesX_of_value (fun s => s.ctx.vstat) (show execVstat d s = _ from rfl) rfl rfl (Instr.len_vstat d)
  · obtain ⟨hcfg, hended, hgroups, hovr⟩ := vstat_bits s.ctx j
    refine ⟨hovr, ?_⟩
    split <;> next hj => simp [hcfg, hended, hgroups, hj]

end Sys2Proof.Machine

namespace Sys2Proof.Machine

/-! PROOFS. Stream registers (O34; 05 R144-R149): SCFG and SSTOP, the reads of a memory stream, and SREP. -/

section
variable {s t : State}

theorem set_get_self {α : Type} {n : Nat} (v : Vector α n) (j : Fin n) {a : α} (h : v.get j = a) :
    v.set j.val a = v := by
  subst h
  ext i hi
  rw [Vector.getElem_set]
  split
  · next hij => subst hij; rfl
  · rfl

/-- The context of SSTOP and SCFG: a configured register reads zero in every lane (R149). -/
theorem stopStream_ctx (s : State) (j : StreamIx) : (s.stopStream j).ctx =
    { (if (s.ctx.streams.get j).isSome then s.ctx.wv (vOfStream j) (Vector.replicate 32 0) else s.ctx) with
      streams := s.ctx.streams.set j.val none } := by
  unfold State.stopStream
  split
  · next h => simp [h, set_get_self _ _ h]
  · next h => simp [h, Ctx.setStream, Ctx.wv]

theorem startStream_ctx (s : State) (j : StreamIx) (st : StreamSt) : (s.startStream j st).ctx =
    { (if (s.ctx.streams.get j).isSome then s.ctx.wv (vOfStream j) (Vector.replicate 32 0) else s.ctx) with
      streams := s.ctx.streams.set j.val (some st), ovr := s.ctx.ovr &&& ~~~(1#8 <<< j.val) } := by
  have hovr : (s.stopStream j).ctx.ovr = s.ctx.ovr := by rw [stopStream_ctx]; split <;> rfl
  unfold State.startStream Ctx.setStream
  dsimp only
  rw [hovr, stopStream_ctx]
  simp

theorem stopStream_mem (s : State) (j : StreamIx) : (s.stopStream j).mem = s.mem := by
  unfold State.stopStream
  split <;> rfl

/-- SSTOP detaches what the context has attached to the register (R149). -/
theorem stopStream_getCore {j : StreamIx} (h : (s.ctx.streams.get j).isSome = true) :
    (s.stopStream j).getCore s.cur.core = s.core.detach s.cur.idx j := by
  obtain ⟨st, hst⟩ := Option.isSome_iff_exists.1 h
  rw [State.stopStream, hst]
  exact getCore_setCore_same s _ _

theorem stopStream_cur (s : State) (j : StreamIx) : (s.stopStream j).cur = s.cur := by
  unfold State.stopStream
  split <;> rfl

theorem stopStream_cycle (s : State) (j : StreamIx) : (s.stopStream j).cycle = s.cycle := by
  unfold State.stopStream
  split <;> rfl

/-- The entries of a core's stream table that a context has attached to a register are detached (R149). -/
theorem detach_attached {k : CoreSt} {idx : Nat} {j : StreamIx} {ix : Fin 16} {e : TableEntry}
    (h : (k.detach idx j).table.get ix = some e) (hc : e.ctx = idx) (hr : e.reg = j) : e.attached = false := by
  simp only [CoreSt.detach, Vector.get_map, Option.map_eq_some_iff] at h
  obtain ⟨e₀, -, rfl⟩ := h
  simp [show e₀.ctx = idx from hc, show e₀.reg = j from hr]

end

section
variable {s t : State} {i : Instr} {c : Ctx} {P : State → Prop} {body : State → Res}

/-- An instruction whose body is done and leaves the context as given, its loop, windows and place as they were. -/
theorem performs_of_done (he : exec i s = s.run i body) (hs : writesStream s.ctx i = false) (hu : userMay i = true)
    (hb : body s = .done t) (hcur : t.cur = s.cur) (hcyc : t.cycle = s.cycle) (hc : t.ctx = c)
    (hl : c.loop = s.ctx.loop) (hw : c.windows = s.ctx.windows) (hp : c.pc = s.ctx.pc) (hd : c.doing = s.ctx.doing)
    (hi : c.lastIssue = s.ctx.lastIssue) (hP : P (t.after c i.len)) : Performs i s c P := fun h => by
  subst hc
  refine ⟨t.after t.ctx i.len, ?_, hcur, ?_, hP⟩
  · rw [he]
    exact run_done h hs hu rfl hb hl hw
  · simp [State.after, State.issueCycle, hp, hd, hi, hcyc]

theorem waits_of_wait (he : exec i s = s.run i body) (hs : writesStream s.ctx i = false) (hu : userMay i = true)
    (hb : body s = .wait s) : Waits i s := fun h => he ▸ run_wait h hs hu hb

end

section

/-- The context whose stream register is configured afresh. -/
def Ctx.configured (c : Ctx) (j : StreamIx) (st : StreamSt) : Ctx :=
  { (if (c.streams.get j).isSome then c.wv (vOfStream j) (Vector.replicate 32 0) else c) with
    streams := c.streams.set j.val (some st), ovr := c.ovr &&& ~~~(1#8 <<< j.val) }

/-- The context whose stream register is ordinary again. -/
def Ctx.unconfigured (c : Ctx) (j : StreamIx) : Ctx :=
  { (if (c.streams.get j).isSome then c.wv (vOfStream j) (Vector.replicate 32 0) else c) with
    streams := c.streams.set j.val none }

/-- Stopping a configured stream register clears it and detaches what is attached to it. -/
theorem performs_stopStream {s : State} {i : Instr} {j : StreamIx} {body : State → Res}
    (he : exec i s = s.run i body) (hs : writesStream s.ctx i = false) (hu : userMay i = true)
    (hb : body s = .done (s.stopStream j)) (hj : (s.ctx.streams.get j).isSome = true) :
    Performs i s (s.ctx.unconfigured j) fun t => t.mem = s.mem ∧
      ∀ (ix : Fin 16) e, (t.getCore s.cur.core).table.get ix = some e → e.ctx = s.cur.idx → e.reg = j →
        e.attached = false := by
  refine performs_of_done he hs hu hb (stopStream_cur s j) (stopStream_cycle s j) (stopStream_ctx s j) ?_ ?_ ?_ ?_ ?_
    ⟨stopStream_mem s j, fun ix e he hc hr => detach_attached (stopStream_getCore hj ▸ he) hc hr⟩
  all_goals
    unfold Ctx.unconfigured
    split <;> rfl

/-- Configuring a stream register changes its registers, and no memory. -/
theorem performs_startStream {s : State} {i : Instr} {j : StreamIx} {st : StreamSt} {body : State → Res}
    (he : exec i s = s.run i body) (hs : writesStream s.ctx i = false) (hu : userMay i = true)
    (hb : body s = .done (s.startStream j st)) : Performs i s (s.ctx.configured j st) fun t => t.mem = s.mem := by
  refine performs_of_done he hs hu hb (stopStream_cur s j) (stopStream_cycle s j) (startStream_ctx s j st) ?_ ?_ ?_ ?_ ?_
    (stopStream_mem s j)
  all_goals
    unfold Ctx.configured
    split <;> rfl

end

/-! What the reads of a vector access leave: as a load, and free choices are consumed. -/

/-- A state differs from another in what clusters hold, in how the memories are held, and in the free choices that are
left: every byte reads alike. -/
def State.ReadAs (s u : State) : Prop :=
  ∃ m cls n, s.mem.Keeps m ∧ u = { s with mem := m, clusters := cls, fresh := n }

section
variable {s t u : State}

theorem State.HeldAs.readAs (h : s.HeldAs u) : s.ReadAs u := by
  obtain ⟨m, cls, hk, rfl⟩ := h
  exact ⟨m, cls, s.fresh, hk, rfl⟩

theorem State.ReadAs.refl (h : s.mem.wf) : s.ReadAs s := (State.HeldAs.refl h).readAs

theorem State.ReadAs.trans (h : s.ReadAs t) (h' : t.ReadAs u) : s.ReadAs u := by
  obtain ⟨m, cls, n, hk, rfl⟩ := h
  obtain ⟨m', cls', n', hk', rfl⟩ := h'
  exact ⟨m', cls', n', hk.trans hk', rfl⟩

theorem State.ReadAs.wf (h : s.ReadAs u) : u.mem.wf := by
  obtain ⟨m, cls, n, hk, rfl⟩ := h
  exact hk.wf

theorem raise_switchTo {c : CtxId} (h : s.cur = c) (fl : Flags) : (s.raise fl).switchTo c = s.raise fl := by
  subst h
  have hc : (s.raise fl).cur = s.cur := by
    rw [raise_eq]
    exact flagged_cur s fl
  exact hc ▸ switchTo_self (s.raise fl)

theorem State.ReadAs.sameBytes (h : s.ReadAs u) (hw : s.mem.wf) : SameBytes s u := by
  obtain ⟨m, cls, n, hk, rfl⟩ := h
  exact hk.reads hw

theorem State.ReadAs.ctx (h : s.ReadAs u) : u.ctx = s.ctx := by
  obtain ⟨m, cls, n, hk, rfl⟩ := h
  rfl

theorem State.ReadAs.cur (h : s.ReadAs u) : u.cur = s.cur := by
  obtain ⟨m, cls, n, hk, rfl⟩ := h
  rfl

theorem State.ReadAs.fresh (h : s.ReadAs u) (n : Nat) : s.ReadAs { u with fresh := n } := by
  obtain ⟨m, cls, n', hk, rfl⟩ := h
  exact ⟨m, cls, n, hk, rfl⟩

theorem readAs_readPlace (h : s.mem.wf) (c : ClusterId) (home : Bool) (pl : Place) (n : Nat) :
    s.ReadAs (s.readPlace c home pl n).1 := by
  induction n generalizing s pl with
  | zero => cases pl <;> exact .refl h
  | succ n ih =>
    cases pl with
    | scr k => exact .refl h
    | glob pa =>
      unfold State.readPlace
      split
      · exact (heldAs_readHome h pa (n + 1)).readAs
      · split
        · exact (heldAs_readVia h c pa (n + 1)).readAs
        · exact (heldAs_readVia h c pa 1).readAs.trans (ih (heldAs_readVia h c pa 1).wf (.glob (pa + 1)))

theorem readAs_readSince (h : s.mem.wf) (c : ClusterId) (home : Bool) (since : Nat) (pl : Place) (n : Nat) :
    s.ReadAs (s.readSince c home since pl n).1 := by
  obtain ⟨⟨k, hk⟩, -⟩ := s.readSince_cases c home since pl n
  rw [hk]
  exact (readAs_readPlace h c home pl n).fresh k

theorem readAs_loadElem (h : s.mem.wf) (c : ClusterId) (t : VTy) (rm : RMode) (since : Nat) (e : ElemPlan) :
    s.ReadAs (s.loadElem c t rm since e).1 := by
  have hr := readAs_readSince h c e.home since e.place (e.span t)
  unfold State.loadElem
  dsimp only
  split
  · exact hr
  · split
    · exact hr.trans (readAs_readPlace hr.wf ..)
    · split <;> exact hr

theorem readAs_loadElems (h : s.mem.wf) (c : ClusterId) (t : VTy) (rm : RMode) (since : Nat) (es : List ElemPlan) :
    s.ReadAs (s.loadElems c t rm since es).1 := by
  induction es generalizing s with
  | nil => exact .refl h
  | cons e es ih =>
    have he := readAs_loadElem h c t rm since e
    exact he.trans (ih he.wf)

/-- What every step of a fold leaves, the fold leaves. -/
theorem heldAs_foldl {α : Type} {f : State → α → State} (hf : ∀ (s : State) a, s.mem.wf → s.HeldAs (f s a)) (l : List α)
    (h : s.mem.wf) : s.HeldAs (l.foldl f s) := by
  induction l generalizing s with
  | nil => exact .refl h
  | cons a l ih => exact (hf s a h).trans (ih (hf s a h).wf)

theorem heldAs_noteElems (h : s.mem.wf) (v : VecAccess) (es : List Planned) : s.HeldAs (s.noteElems v es) :=
  heldAs_foldl (fun _ _ h => heldAs_note h ..) _ h

theorem heldAs_noteWalks (h : s.mem.wf) (es : List Planned) : s.HeldAs (s.noteWalks es) := by
  refine heldAs_foldl (fun s e h => ?_) _ h
  split
  · exact (heldAs_noteAccess h _).trans (heldAs_noteAccess (heldAs_noteAccess h _).wf _)
  · exact heldAs_noteAccess h _

theorem planElems_length {v : VecAccess} {first : PageConv} {is : List Nat} {es : List Planned}
    (h : s.planElems v first is = .ok es) : es.length = is.length := by
  induction is generalizing es with
  | nil =>
    cases h
    rfl
  | cons i is ih =>
    unfold State.planElems at h
    cases hi : s.planElem v first i with
    | ok e =>
      rw [hi] at h
      cases hr : s.planElems v first is with
      | ok es' =>
        rw [hr] at h
        cases h
        exact congrArg (· + 1) (ih hr)
      | _ => rw [hr] at h; cases h
    | _ => rw [hi] at h; cases h

theorem checkGroup_length {st : StreamSt} {base : Word} {es : List Planned} (h : s.checkGroup st base = .ok es) :
    es.length = min 32 (st.bound - st.delivered) := by
  unfold State.checkGroup at h
  dsimp only at h
  split at h
  · next es' hp =>
    cases hr : s.raceElems (st.access (s.convAt st.ty base) base) es' with
    | ok _ =>
      rw [hr] at h
      cases h
      rw [planElems_length hp, List.length_range]
    | _ => rw [hr] at h; cases h
  · cases h
  · cases h

end

/-- A memory stream that may read gets its next group (R145). -/
theorem memoryStreamRead_group {s : State} {j : StreamIx} {st : StreamSt} {base : Word} {es : List Planned}
    (h : s.mem.wf) (hgo : s.goesOn s.cur = true) (hst : s.ctx.streams.get j = some st) (hsrc : st.src = .mem base)
    (hend : st.ended = false) (hlen : st.groups.length < 4) (hes : s.checkGroup st base = .ok es) :
    ∃ u l fl, s.ReadAs u ∧ exec (.memoryStreamRead s.cur j) s = .next ((({ u with
      ctx := u.ctx.setStream j (some { st with
        groups := st.groups ++ [⟨l, es.length⟩]
        delivered := st.delivered + es.length
        ended := decide (st.bound ≤ st.delivered + es.length) }) } : State).raise fl).switchTo s.cur) := by
  have hw := heldAs_noteWalks h es
  have hn := hw.trans (heldAs_noteElems hw.wf (st.access (s.convAt st.ty base) base) es)
  have hl := hn.readAs.trans (readAs_loadElems hn.wf s.cur.core.cl st.ty st.rm s.mem.stores (es.map Planned.plan))
  obtain ⟨r, hr⟩ : ∃ r, ((s.noteWalks es).noteElems (st.access (s.convAt st.ty base) base) es).loadElems s.cur.core.cl
      st.ty st.rm s.mem.stores (es.map Planned.plan) = r := ⟨_, rfl⟩
  rw [hr] at hl
  refine ⟨r.1, putElems st.ty (Vector.replicate 32 0) r.2.1, r.2.2, hl, ?_⟩
  have hmay : (st.ended || decide (readAhead ≤ st.groups.length) || !s.goesOn s.cur) = false := by
    rw [hend, hgo, decide_eq_false (show ¬readAhead ≤ _ from Nat.not_le.2 hlen)]
    rfl
  show execMemoryStreamRead s.cur j s = _
  unfold execMemoryStreamRead
  simp only [switchTo_self, hst, hsrc, hmay, hes, hr, Bool.false_eq_true, if_false]

end Sys2Proof.Machine

namespace Sys2Proof.Machine

/-! SREP (R146, R147). Passing over the words of a body fetches them, and does no more. -/

/-- What the fetches of words leave: the memories held otherwise, blocks held, and free choices consumed. -/
def State.Fetches (s t : State) : Prop :=
  ∃ m n f, t = { s with mem := m, fresh := n, ctx := { s.ctx with fetched := f } }

section
variable {s t u : State}

theorem State.Fetches.refl (s : State) : s.Fetches s := ⟨_, _, _, rfl⟩

theorem State.Fetches.trans (h : s.Fetches t) (h' : t.Fetches u) : s.Fetches u := by
  obtain ⟨m, n, f, rfl⟩ := h
  obtain ⟨m', n', f', rfl⟩ := h'
  exact ⟨m', n', f', rfl⟩

theorem fetches_chooseGranule (s : State) (pa : Nat) (now : List Byte) (seen : Option (List Byte)) :
    s.Fetches (s.chooseGranule pa now seen).1 := by
  rcases pick_snd s (s.granuleChoices pa now seen).length with h | h
  · exact ⟨s.mem, s.fresh, s.ctx.fetched, h⟩
  · exact ⟨s.mem, s.fresh + 1, s.ctx.fetched, h⟩

theorem fetches_chooseBlock (s : State) (k pa : Nat) (now : List Byte) (seen : Option (List Byte)) :
    s.Fetches (s.chooseBlock k pa now seen).1 := by
  induction k generalizing s pa now seen with
  | zero => exact .refl s
  | succ k ih => exact (fetches_chooseGranule s ..).trans (ih ..)

theorem fetches_fetchBlock (s : State) (va pa : Nat) : s.Fetches (s.fetchBlock va pa).1 := by
  have hr : s.Fetches (s.readHome pa 32).1 := ⟨_, s.fresh, s.ctx.fetched, rfl⟩
  obtain ⟨m, n, f, h⟩ := hr.trans (fetches_chooseBlock _ 4 pa (s.readHome pa 32).2
    (Map.get? (s.readHome pa 32).1.ctx.fetched va))
  unfold State.fetchBlock
  dsimp only
  rw [h]
  exact ⟨m, n, _, rfl⟩

theorem fetches_noteAccess (s : State) (ea : Word) : s.Fetches (s.noteAccess ea) := by
  unfold State.noteAccess
  split
  · exact .refl s
  · exact ⟨_, s.fresh, s.ctx.fetched, rfl⟩

theorem fetches_fetchBytes (s : State) (a : Word) : s.Fetches (s.fetchBytes a).1 := by
  unfold State.fetchBytes
  split
  · exact .refl s
  · split
    · exact .refl s
    · split
      · exact .refl s
      · exact (fetches_noteAccess s a).trans (fetches_fetchBlock ..)

theorem fetches_passOver (s : State) (k n : Nat) (a : Word) : s.Fetches (s.passOver k n a).1 := by
  induction k generalizing s n a with
  | zero => exact .refl s
  | succ k ih =>
    unfold State.passOver
    split
    · exact .refl s
    · have hf := fetches_fetchBytes s a
      split
      · next u tr h => exact (congrArg Prod.fst h) ▸ hf
      · next u bs h => exact hf.trans ((congrArg Prod.fst h) ▸ ih ..)

end


-- The head of a loop

section
variable {s : State} {mask : BitVec 8}

theorem mem_maskStreams {j : StreamIx} : j ∈ maskStreams mask ↔ mask.getLsbD j.val = true := by
  simp [maskStreams]

theorem head_of_group {st : StreamSt} {g : Group} {gs : List Group} (h : st.groups = g :: gs) :
    s.head st = .lanes g.lanes g.n := by
  rw [State.head, h]

theorem head_of_ended {st : StreamSt} (h : st.groups = []) (he : st.ended = true) : s.head st = .empty := by
  rw [State.head, h]
  exact if_pos he

/-- A message stream that has no group and no end is awaited. -/
theorem head_of_awaited {st : StreamSt} (hsrc : st.src = .msg) (h : st.groups = []) (he : st.ended = false) :
    s.head st = .wait := by
  rw [State.head, h, he, hsrc]
  rfl

theorem loopHead_wait {j : StreamIx} {st : StreamSt} (hj : mask.getLsbD j.val = true)
    (hst : s.ctx.streams.get j = some st) (hw : s.head st = .wait) : s.loopHead mask = .wait := by
  have hm : mask ≠ 0 := by
    rintro rfl
    simp at hj
  have hwait : s.streamsWait (maskStreams mask) = true :=
    List.any_eq_true.2 ⟨j, mem_maskStreams.2 hj, by simp [hst, hw]⟩
  rw [State.loopHead, if_neg hm, if_pos hwait]

/-- No stream of a mask is awaited where each configured one has a group or an end. -/
theorem streamsWait_eq_false (h : ∀ j st, mask.getLsbD j.val = true → s.ctx.streams.get j = some st →
    st.groups ≠ [] ∨ st.ended = true) : s.streamsWait (maskStreams mask) = false := by
  refine List.any_eq_false.2 fun j hj => ?_
  cases hst : s.ctx.streams.get j with
  | none => simp
  | some st =>
    cases hg : st.groups with
    | cons g gs => simp [head_of_group hg]
    | nil => simp [head_of_ended hg ((h j st (mem_maskStreams.1 hj) hst).resolve_left (not_not.2 hg))]

theorem headLanes_eq_none {js : List StreamIx} {j : StreamIx} (hj : j ∈ js)
    (h : ∀ st, s.ctx.streams.get j = some st → st.groups = [] ∧ st.ended = true) : s.headLanes js = none := by
  induction js with
  | nil => cases hj
  | cons i js ih =>
    unfold State.headLanes
    rcases List.mem_cons.1 hj with rfl | hj
    · cases hst : s.ctx.streams.get j with
      | none => rfl
      | some st =>
        obtain ⟨hg, he⟩ := h st hst
        simp [head_of_ended hg he]
    · rw [ih hj]
      split <;> rfl

theorem loopHead_finish (h : mask = 0 ∨ (∀ j st, mask.getLsbD j.val = true → s.ctx.streams.get j = some st →
      st.groups ≠ [] ∨ st.ended = true) ∧ ∃ j : Fin 8, mask.getLsbD j.val = true ∧
      ∀ st, s.ctx.streams.get j = some st → st.groups = [] ∧ st.ended = true) :
    s.loopHead mask = .finish := by
  unfold State.loopHead
  split
  · rfl
  · next hm =>
    obtain ⟨hgo, j, hj, hend⟩ := h.resolve_left hm
    rw [streamsWait_eq_false hgo, if_neg Bool.false_ne_true, headLanes_eq_none (mem_maskStreams.2 hj) hend]

theorem firstLanes_getLsbD {n i : Nat} (hi : i < 32) : (firstLanes n).getLsbD i = true ↔ i < n := by
  rw [firstLanes, BitVec.getLsbD_ofNat, Nat.testBit_two_pow_sub_one]
  simp [hi]

/-- L is the AND of the heads' valid lanes (R146). -/
theorem headLanes_bits {len : Fin 8 → Nat} {js : List StreamIx} (h : ∀ j ∈ js, ∃ st g gs,
      s.ctx.streams.get j = some st ∧ st.groups = g :: gs ∧ g.n = len j) :
    ∃ v, s.headLanes js = some v ∧ ∀ i < 32, v.getLsbD i = true ↔ ∀ j ∈ js, i < len j := by
  induction js with
  | nil => exact ⟨BitVec.allOnes 32, rfl, fun i hi => by
    rw [BitVec.getLsbD_allOnes]
    simp [hi]⟩
  | cons j js ih =>
    obtain ⟨st, g, gs, hst, hg, hn⟩ := h j List.mem_cons_self
    obtain ⟨v, hv, hbits⟩ := ih fun j hj => h j (List.mem_cons_of_mem _ hj)
    refine ⟨v &&& firstLanes g.n, ?_, fun i hi => ?_⟩
    · unfold State.headLanes
      simp [hst, head_of_group hg, hv]
    · rw [BitVec.getLsbD_and, Bool.and_eq_true, hbits i hi, firstLanes_getLsbD hi, hn, List.forall_mem_cons, and_comm]

theorem loopHead_lanes {len : Fin 8 → Nat} (hm : mask ≠ 0) (h : ∀ j : Fin 8, mask.getLsbD j.val = true → ∃ st g gs,
      s.ctx.streams.get j = some st ∧ st.groups = g :: gs ∧ g.n = len j) :
    ∃ v, s.loopHead mask = .lanes v ∧
      ∀ i < 32, v.getLsbD i = true ↔ ∀ j : Fin 8, mask.getLsbD j.val = true → i < len j := by
  obtain ⟨v, hv, hbits⟩ := headLanes_bits (js := maskStreams mask) fun j hj => h j (mem_maskStreams.1 hj)
  have hgo : s.streamsWait (maskStreams mask) = false := streamsWait_eq_false fun j st hj hst => by
    obtain ⟨st', g, gs, hst', hg, -⟩ := h j hj
    obtain rfl := Option.some.inj (hst'.symm.trans hst)
    exact .inl (hg ▸ List.cons_ne_nil g gs)
  refine ⟨v, ?_, fun i hi => (hbits i hi).trans (forall_congr' fun j => by rw [mem_maskStreams])⟩
  rw [State.loopHead, if_neg hm, hgo, if_neg Bool.false_ne_true, hv]

end

-- Leaving an instruction while a loop is active

section
variable {s t : State} {c : Ctx} {l : LoopSt} {i : Instr} {npc : Word}

/-- The x registers after a write are those of any context with the same ones before it. -/
theorem wx_x_congr {c c' : Ctx} (h : c.x = c'.x) (d : XReg) (v : Word) : (c.wx d v).x = (c'.wx d v).x := by
  unfold Ctx.wx
  split
  · exact h
  · exact congrArg (·.set d.val v) h

theorem tick_of_no_windows (h : c.windows = []) : c.tick = c := by
  simp [Ctx.tick, h]
  rw [← h]

/-- Going to the head of a loop or to its first body instruction completes no iteration. -/
theorem advance_to_head (h : c.loop = some l) (hn : l.head = true ∨ npc = l.body) :
    c.advance npc = { c with pc := npc } := by
  unfold Ctx.advance
  rw [h]
  refine if_neg fun hin => ?_
  simp only [Bool.and_eq_true, decide_eq_true_eq, Ctx.inBody, Ctx.atFrontier, h, Bool.or_eq_true, Bool.not_eq_true',
    ne_eq] at hin
  obtain ⟨⟨⟨⟨hhead, hbody⟩, hstop⟩, hpass⟩, hnpc⟩ := hin
  rcases hn with hn | hn
  · rw [hn] at hhead
    cases hhead
  · rcases hstop with hlt | ⟨⟨-, hp⟩, -⟩
    · rw [← hnpc, hn] at hlt
      exact absurd hbody (BitVec.not_le.2 hlt)
    · exact hp hpass

/-- Nor does completing an instruction that jumps there. -/
theorem retire_to_head (h : s.ctx.loop = some l) (hw : s.ctx.windows = []) (hn : l.head = true ∨ npc = l.body) :
    s.retire i (some npc) = s.jumped s.ctx npc := by
  rw [State.retire, tick_of_no_windows hw, Option.getD_some, advance_to_head h hn]
  rfl

end

-- The issue of SREP

/-- The loop of an SREP that has issued, at its head for the first time. -/
def issuedLoop (s : State) (d : XReg) (n : Fin 65) (mask : BitVec 8) (k : Nat) (stop : Word) : LoopSt :=
  ⟨s.ctx.pc, s.ctx.pc + 12, stop, k, n.val, mask, d, 0, 0, true⟩

section
variable {s s' : State} {d : XReg} {n : Fin 65} {mask : BitVec 8} {k : Nat} {stop : Word} {tr : Option Trap}

/-- The body of an SREP that issues: the trap of the fetch that keeps its loop from ending, or a first look at the
head. -/
theorem exec_srep (hp : s.passOver 4096 n.val (s.ctx.pc + 12) = (s', (k, stop), tr))
    (h : Calm s (.srep d n mask) = true) :
    let l := issuedLoop s d n mask k stop
    exec (.srep d n mask) s = s.finish (.srep d n mask) ((s'.headTrap l tr).elim (s'.loopStep l) .trap) := by
  intro l
  obtain ⟨hl, -, -⟩ := calm_iff.1 h
  have hlen : word (Instr.srep d n mask).len = 12 := by rw [Instr.len_srep]; rfl
  show execSrep d n mask s = _
  unfold execSrep
  rw [run_user h rfl rfl, hl]
  simp only [State.findEnd, hlen, show passWords = 4096 from rfl, hp]
  change s.finish _ (match s'.headTrap l tr with | some t => .trap t | none => s'.loopStep l) = _
  cases s'.headTrap l tr <;> rfl

theorem State.Fetches.of_passOver {a : Word} {k₀ n₀ : Nat} (hp : s.passOver k₀ n₀ a = (s', (k, stop), tr)) :
    s.Fetches s' := by
  have h := fetches_passOver s k₀ n₀ a
  rwa [hp] at h

/-- No queued command of a calm state writes the register of an SREP's count (R117). -/
theorem xPending_eq_false (hf : s.Fetches s') (h : Calm s (.srep d n mask) = true) : s'.xPending d = false := by
  obtain ⟨m, n', f, rfl⟩ := hf
  obtain ⟨-, -, hq⟩ := calm_iff.1 h
  refine List.any_eq_false.2 fun q hmem => ?_
  have hcalm := List.any_eq_false.1 hq q hmem
  rw [Bool.and_eq_true]
  rintro ⟨hreal, hd⟩
  refine hcalm (List.any_eq_true.2 ⟨.x d, List.mem_append_left _ (List.mem_append_left _ List.mem_cons_self), ?_⟩)
  rw [Bool.and_eq_true, List.contains_iff_mem]
  exact ⟨hreal, List.mem_filter.2 ⟨List.contains_iff_mem.1 hd, rfl⟩⟩

theorem leaveHead_awaited {l : LoopSt} (h : s.loopHead l.mask = .wait) : s.leaveHead l = none := by
  rw [State.leaveHead, h]

theorem leaveHead_unknown {l : LoopSt} (h : s.loopHead l.mask = .finish) (hk : l.toPass ≠ 0) : s.leaveHead l = none := by
  rw [State.leaveHead, h]
  exact if_pos (by simp [hk])

theorem leaveHead_finish {l : LoopSt} (h : s.loopHead l.mask = .finish) (hx : s.xPending l.dst = false)
    (hk : l.toPass = 0) : s.leaveHead l =
      some ({ s.wx l.dst (word l.count) with ctx := { (s.wx l.dst (word l.count)).ctx with loop := none } }, l.stop) := by
  rw [State.leaveHead, h]
  exact if_neg (by simp [hx, hk])

theorem leaveHead_lanes {l : LoopSt} {v : BitVec 32} (h : s.loopHead l.mask = .lanes v) : s.leaveHead l =
    some ({ s with ctx := { s.ctx with loop := some { l with head := false, lanes := v } } }, l.body) := by
  rw [State.leaveHead, h]

theorem headTrap_finish {l : LoopSt} (h : s.loopHead l.mask = .finish) (tr : Option Trap) : s.headTrap l tr = tr := by
  rw [State.headTrap, h]

theorem headTrap_awaited {l : LoopSt} (h : s.loopHead l.mask = .wait) (tr : Option Trap) : s.headTrap l tr = none := by
  rw [State.headTrap, h]

theorem headTrap_lanes {l : LoopSt} {v : BitVec 32} (h : s.loopHead l.mask = .lanes v) (tr : Option Trap) :
    s.headTrap l tr = none := by
  rw [State.headTrap, h]

section
variable (hp : s.passOver 4096 n.val (s.ctx.pc + 12) = (s', (k, stop), tr))
include hp

theorem srep_traps {tr' : Trap} (htr : tr = some tr') (hh : s'.loopHead mask = .finish) : Traps (.srep d n mask) s tr' :=
  fun h ht => by
  obtain ⟨-, hwin, -⟩ := calm_iff.1 h
  rw [exec_srep hp h, headTrap_finish hh, htr, Option.elim_some, finish_trap, enterTrap_ready _ ht hwin]

/-- SREP stands at its head while it cannot leave it. -/
theorem srep_stands (h : Calm s (.srep d n mask) = true)
    (ht : s'.headTrap (issuedLoop s d n mask k stop) tr = none)
    (hl : s'.leaveHead (issuedLoop s d n mask k stop) = none) :
    ∃ t, exec (.srep d n mask) s = .next t ∧ t.ctx.pc = s.ctx.pc ∧ t.ctx.x = s.ctx.x ∧
      t.ctx.loop = some (issuedLoop s d n mask k stop) := by
  obtain ⟨-, hwin, -⟩ := calm_iff.1 h
  rw [exec_srep hp h, ht, Option.elim_none, State.loopStep, hl]
  obtain ⟨m, n', f, rfl⟩ := State.Fetches.of_passOver hp
  rw [finish_jump]
  exact ⟨_, congrArg _ (retire_to_head rfl hwin (.inl rfl)), rfl, rfl, rfl⟩

/-- SREP ends at once: it goes to the instruction after its body, and counts no iteration. -/
theorem srep_ends (h : Calm s (.srep d n mask) = true) (hh : s'.loopHead mask = .finish) (hk : k = 0) (htr : tr = none) :
    ∃ t, exec (.srep d n mask) s = .next t ∧ t.ctx.pc = stop ∧ t.ctx.loop = none ∧ t.ctx.x = (s.ctx.wx d 0).x ∧
      t.ctx.f = s.ctx.f ∧ t.ctx.v = s.ctx.v ∧ t.ctx.streams = s.ctx.streams := by
  obtain ⟨-, hwin, -⟩ := calm_iff.1 h
  rw [exec_srep hp h, headTrap_finish hh, htr, Option.elim_none, State.loopStep,
    leaveHead_finish hh (xPending_eq_false (State.Fetches.of_passOver hp) h) hk]
  obtain ⟨m, n', f, rfl⟩ := State.Fetches.of_passOver hp
  rw [finish_jump, retire_jumped rfl (by simpa [State.wx] using hwin)]
  refine ⟨_, rfl, rfl, rfl, wx_x_congr (c := { s.ctx with fetched := f }) (c' := s.ctx) rfl d 0, ?_, ?_, ?_⟩
  all_goals
    unfold State.jumped State.wx Ctx.wx
    dsimp only
    split <;> rfl

/-- With a head group in every stream of the mask, SREP enters its body. -/
theorem srep_enters {v : BitVec 32} (h : Calm s (.srep d n mask) = true) (hh : s'.loopHead mask = .lanes v) :
    ∃ t, exec (.srep d n mask) s = .next t ∧ t.ctx.pc = s.ctx.pc + 12 ∧ t.ctx.x = s.ctx.x ∧
      t.ctx.loop = some { issuedLoop s d n mask k stop with head := false, lanes := v } := by
  obtain ⟨-, hwin, -⟩ := calm_iff.1 h
  rw [exec_srep hp h, headTrap_lanes hh, Option.elim_none, State.loopStep, leaveHead_lanes hh]
  obtain ⟨m, n', f, rfl⟩ := State.Fetches.of_passOver hp
  rw [finish_jump]
  exact ⟨_, congrArg _ (retire_to_head rfl hwin (.inr rfl)), rfl, rfl, rfl⟩

end
end

-- The end of an iteration

section
variable {s : State} {i : Instr} {l : LoopSt} {body : State → Res}

/-- An instruction that an active SREP allows is performed, where nothing else holds it back. -/
theorem run_in_loop (hf : loopForbids s.ctx i = false) (hs : writesStream s.ctx i = false)
    (hu : (s.ctx.super || userMay i) = true) (hw : s.ctx.windows = []) (hq : s.queued s.cur = []) :
    s.run i body = s.finish i (body s) := by
  have hp : (!s.ctx.super && !userMay i) = false := by
    rw [← Bool.not_or, hu]
    rfl
  simp [State.run, hf, hs, hp, hitWindows, hw, State.mustWait, hq]

/-- The head group goes of every stream of the mask that has one (R146). -/
theorem consumeHeads_get {mask : BitVec 8} {st : Vector (Option StreamSt) 8} {j : Fin 8} {x : StreamSt} {g : Group}
    {gs : List Group} (hj : st.get j = some x) (hg : x.groups = g :: gs) :
    (consumeHeads mask st).get j = some (if mask.getLsbD j.val then { x with groups := gs } else x) := by
  rw [consumeHeads, Vector.get_ofFn, hj, Option.map_some, StreamSt.consume, hg]

theorem inBody_iff {c : Ctx} (hl : c.loop = some l) (hh : l.head = false) (hk : l.toPass = 0) :
    c.inBody = true ↔ l.body ≤ c.pc ∧ c.pc < l.stop := by
  simp [Ctx.inBody, Ctx.atFrontier, hl, hh, hk]

/-- The last instruction of a body completes the iteration. -/
theorem advance_ends {c : Ctx} {npc : Word} (hl : c.loop = some l) (hin : c.inBody = true) (hk : l.toPass = 0)
    (hn : npc = l.stop) : c.advance npc = { c.endIteration l with pc := l.srep } := by
  rw [Ctx.advance, hl]
  exact if_pos (by simp [hin, hk, hn])

theorem addi_in_body (d a : XReg) (imm : BitVec 30) : bodyOpc (encode (.addi d a imm) / 4 % 256) = true := by
  have h : encI 0x30 d.val a.val 0 imm.toNat / 4 % 256 = 0x30 := by
    unfold encI
    omega
  rw [show encode (.addi d a imm) = encI 0x30 d.val a.val 0 imm.toNat from rfl, h]
  decide

/-- An ADDI that is the last instruction of a body. -/
theorem addi_ends (d a : XReg) (imm : BitVec 30) (hl : s.ctx.loop = some l) (hh : l.head = false) (hk : l.toPass = 0)
    (hin : l.body ≤ s.ctx.pc ∧ s.ctx.pc < l.stop) (hw : s.ctx.windows = []) (hq : s.queued s.cur = [])
    (hn : s.ctx.pc + 8 = l.stop) :
    ∃ t, exec (.addi d a imm) s = .next t ∧ t.ctx.pc = l.srep ∧
      t.ctx.loop = some { l with head := true, count := l.count + 1 } ∧
      t.ctx.streams = consumeHeads l.mask s.ctx.streams ∧ t.ctx.x = (s.ctx.wx d (s.ctx.rx a + imm.signExtend 64)).x := by
  have hf : loopForbids s.ctx (.addi d a imm) = false := by
    simp [loopForbids, hl, addi_in_body]
  show ∃ t, execAddi d a imm s = _ ∧ _
  unfold execAddi State.int1
  rw [run_in_loop hf rfl (Bool.or_true _) hw hq, finish_done, State.retire]
  have hloop : (s.ctx.wx d (s.ctx.rx a + imm.signExtend 64)).loop = some l := (Ctx.wx_loop ..).trans hl
  have hend := advance_ends (npc := s.ctx.pc + word 8) hloop ((inBody_iff hloop hh hk).2 (by rwa [Ctx.wx_pc])) hk hn
  have hc : (s.wx d ((fun x => x + sext30 imm) (s.rx a))).ctx = s.ctx.wx d (s.ctx.rx a + imm.signExtend 64) := rfl
  rw [hc, tick_of_no_windows ((Ctx.wx_windows ..).trans hw), Option.getD_none, Ctx.wx_pc, Instr.len_addi, hend]
  exact ⟨_, rfl, rfl, rfl, congrArg (consumeHeads l.mask) (Ctx.wx_streams ..), rfl⟩

/-- A return to the end of a body completes the iteration (R147). -/
theorem rett_ends (hl : s.ctx.loop = some l) (hh : l.head = false) (hk : l.toPass = 0) (hin : s.ctx.inBody = false)
    (hw : s.ctx.windows = []) (hq : s.queued s.cur = []) (hs : s.ctx.super = true)
    (hp : s.ctx.trapcause.toNat / 2 ^ 16 % 4 ≤ 1) (hpc : s.ctx.trappc = l.stop) :
    ∃ t, exec .rett s = .next t ∧ t.ctx.pc = l.srep ∧ t.ctx.loop = some { l with head := true, count := l.count + 1 } ∧
      t.ctx.streams = consumeHeads l.mask s.ctx.streams ∧ t.ctx.x = s.ctx.x ∧ t.ctx.inh = false := by
  have hf : loopForbids s.ctx .rett = false := by
    simp [loopForbids, hl, hin]
  have hr : s.ctx.trapReturn.returnTo s.ctx.trappc = (s.ctx.trapReturn.endIteration l, l.srep) := by
    rw [Ctx.returnTo, show s.ctx.trapReturn.loop = some l from hl]
    exact if_pos (by simp [hh, hk, hpc])
  have hlevel : ¬ bits s.ctx.trapcause.toNat 16 2 > s.ctx.super.toNat := by
    rw [hs]
    exact Nat.not_lt.2 hp
  show ∃ t, execRett s = _ ∧ _
  unfold execRett
  rw [run_in_loop hf (writesStream_of_dests fun _ => List.not_mem_nil) (by simp [hs]) hw hq, if_neg hlevel, hr]
  exact ⟨_, congrArg _ (retire_to_head (s := { s with ctx := s.ctx.trapReturn.endIteration l }) rfl hw (.inl rfl)), rfl,
    rfl, rfl, rfl, rfl⟩

end

/-- Settles O34: SCFG and SSTOP by the context that `startStream` and `stopStream` leave; the read of a group changes how
memory is held only; an SREP that issues does what the head of its loop says (`exec_srep`); the end of an iteration by
`addi_ends` and `rett_ends`. -/
theorem streamRegisters : Obligations.StreamRegisters := by
  unfold Obligations.StreamRegisters
  refine ⟨?configure, ?read, ?srep, ?iteration⟩
  case configure =>
    intro s u j a b n zero fresh
    refine ⟨fun hq => ?_, fun hq => ?_⟩
    · have hempty : ¬ s.queued s.cur ≠ [] := not_not.2 (List.isEmpty_iff.1 hq)
      refine ⟨?_, ?_, fun hj => ?_, fun hj => ?_⟩
      · refine performs_startStream (show execScfgMem u j a b s = _ from rfl) rfl rfl ((if_neg hempty).trans ?_)
        rw [bits_low]
        rfl
      · refine performs_startStream (show execScfgMsg u j b s = _ from rfl) rfl rfl ((if_neg hempty).trans ?_)
        rw [bits_low]
        rfl
      · refine performs_of_done (show execSstop j s = _ from rfl) rfl rfl ((if_neg hempty).trans ?_) rfl rfl rfl rfl rfl rfl
          rfl rfl rfl
        rw [State.stopStream, hj]
      · exact performs_stopStream (show execSstop j s = _ from rfl) rfl rfl (if_neg hempty) hj
    · have hfull : s.queued s.cur ≠ [] := fun he => by simp [he] at hq
      exact ⟨waits_of_wait (show execScfgMem u j a b s = _ from rfl) rfl rfl (if_pos hfull),
        waits_of_wait (show execScfgMsg u j b s = _ from rfl) rfl rfl (if_pos hfull),
        waits_of_wait (show execSstop j s = _ from rfl) rfl rfl (if_pos hfull)⟩
  case read =>
    intro s j st base es hw hgo hst hsrc hend hlen hes
    obtain ⟨u, l, fl, hr, he⟩ := memoryStreamRead_group hw hgo hst hsrc hend hlen hes
    rw [raise_switchTo, raise_eq] at he
    swap
    · exact hr.cur
    refine ⟨_, ⟨l, es.length⟩, he, fun p => ?_, (flagged_cur ..).trans hr.cur, ?_, ?_, checkGroup_length hes, rfl, ?_⟩
    · exact (congrArg (fun m => Mem.reads m p) (flagged_mem ..)).trans (hr.sameBytes hw p)
    · exact (congrArg Ctx.x hr.ctx : u.ctx.x = s.ctx.x)
    · exact (congrArg Ctx.pc hr.ctx : u.ctx.pc = s.ctx.pc)
    · exact Vector.getElem_set_self j.isLt
  case srep =>
    intro s s' d n mask k stop tr body i on stream ends hp
    have hf := State.Fetches.of_passOver hp
    have hstream : s'.ctx.streams = s.ctx.streams := by
      obtain ⟨m, n', f, rfl⟩ := hf
      rfl
    have hfinish : ends → s'.loopHead mask = .finish := fun h => loopHead_finish (by rwa [hstream])
    refine ⟨fun tr' htr h => srep_traps hp htr (hfinish h), fun h => ?_⟩
    intro stands
    have hstands (ht : s'.headTrap (issuedLoop s d n mask k stop) tr = none)
        (hl : s'.leaveHead (issuedLoop s d n mask k stop) = none) : stands := by
      obtain ⟨t, he, hpc, hx, hloop⟩ := srep_stands hp h ht hl
      exact ⟨t, _, he, hpc, hx, hloop, rfl, rfl, rfl, rfl, rfl, rfl, rfl, rfl⟩
    refine ⟨fun hk htr hend => ?_, fun j st hj hst hsrc hg hend => ?_, fun hk htr hend => ?_, fun len hm hlen => ?_⟩
    · exact hstands ((headTrap_finish (hfinish hend) tr).trans htr) (leaveHead_unknown (hfinish hend) hk)
    · have hwait : s'.loopHead mask = .wait := loopHead_wait hj (hstream ▸ hst) (head_of_awaited hsrc hg hend)
      exact hstands (headTrap_awaited hwait tr) (leaveHead_awaited hwait)
    · exact srep_ends hp h (hfinish hend) hk htr
    · obtain ⟨v, hv, hbits⟩ := loopHead_lanes hm (by rwa [hstream])
      obtain ⟨t, he, hpc, hx, hloop⟩ := srep_enters hp h hv
      exact ⟨t, _, he, hpc, hx, hloop, rfl, rfl, rfl, rfl, rfl, rfl, rfl, rfl, hbits⟩
  case iteration =>
    intro s d a imm l hl hh hk hw hq inside closes
    have hcloses (t : State) (hpc : t.ctx.pc = l.srep)
        (hloop : t.ctx.loop = some { l with head := true, count := l.count + 1 })
        (hst : t.ctx.streams = consumeHeads l.mask s.ctx.streams) : closes t :=
      ⟨hpc, hloop, fun j st g gs hj hg => hst ▸ consumeHeads_get hj hg⟩
    refine ⟨fun hin hn => ?_, fun hin hs hp hpc => ?_⟩
    · obtain ⟨t, he, hpc, hloop, hst, hx⟩ := addi_ends d a imm hl hh hk hin hw hq hn
      exact ⟨t, he, hcloses t hpc hloop hst, hx⟩
    · obtain ⟨t, he, hpc, hloop, hst, hx, hinh⟩ := rett_ends hl hh hk
        (by rwa [← Bool.not_eq_true, inBody_iff hl hh hk]) hw hq hs hp hpc
      exact ⟨t, he, hcloses t hpc hloop hst, hx, hinh⟩

end Sys2Proof.Machine

namespace Sys2Proof.Machine

/-! PROOFS. Issue of the vector memory instructions (O33; 05 R138, R140, R141, 03 R71, 09 R218). -/

/-! The count of the stores performed: how memory is held, walked and flushed is no store. -/

section
variable {m : Mem}

theorem Mem.foldl_stores {α : Type} {f : Mem → α → Mem} (hf : ∀ m x, (f m x).stores = m.stores) (l : List α) (m : Mem) :
    (l.foldl f m).stores = m.stores :=
  List.foldlRecOn (motive := fun n => n.stores = m.stores) l f rfl fun n hn x _ => (hf n x).trans hn

theorem Mem.allocate_stores (m : Mem) (l : Nat) : (m.allocate l).stores = m.stores := by
  unfold Mem.allocate
  split <;> rfl

theorem Mem.recallN_stores (k : Nat) (m : Mem) (l : Nat) (f : Partial → Bool) :
    (Mem.recallN k m l f).stores = m.stores := by
  induction k generalizing m l f with
  | zero => rfl
  | succ k ih =>
    unfold Mem.recallN
    split
    · rfl
    · have hflush (m : Mem) (r : Nat × Nat) :
          (m.flushWith (fun m l => Mem.recallN k m l fun _ => true) r.1 r.2).stores = m.stores :=
        @Mem.foldl_stores _ (fun m l => Mem.recallN k m l fun _ => true) (fun m l => ih m l _) _ m
      exact (Mem.allocate_stores ..).trans (Mem.foldl_stores hflush _ _)

theorem Mem.visit_stores (m : Mem) (l : Nat) : (m.visit l).stores = m.stores :=
  (Mem.allocate_stores ..).trans (Mem.recallN_stores ..)

theorem Mem.endWalk_stores (m : Mem) (w : PageWalk) : (m.endWalk w).stores = m.stores := by
  unfold Mem.endWalk
  dsimp only
  split
  · next t _ => exact @Mem.foldl_stores _ (fun m c => m.fillTlbs c t) (fun _ _ => rfl) _ _
  · rfl

theorem Mem.freeWalker_stores (m : Mem) : m.freeWalker.stores = m.stores := by
  unfold Mem.freeWalker
  split
  · split
    · exact Mem.endWalk_stores ..
    · rfl
  · rfl

theorem Mem.learn_stores (m : Mem) (p : Page) : (m.learn p).stores = m.stores := by
  unfold Mem.learn
  dsimp only
  split <;> rfl

theorem Mem.walked_stores (m : Mem) (path : List WalkMark) : (m.walked path).stores = m.stores :=
  @Mem.foldl_stores WalkMark (fun m k => m.visit (lineOf k.pte)) (fun m k => Mem.visit_stores m (lineOf k.pte)) path m

theorem Mem.missWalk_stores (m : Mem) (who : Option ClusterId) (part va : Nat) (w : Walk) :
    (m.missWalk who part va w).stores = m.stores := by
  have hwalked : (m.freeWalker.walked w.path).stores = m.stores :=
    (Mem.walked_stores ..).trans (Mem.freeWalker_stores m)
  unfold Mem.missWalk
  dsimp only
  split
  · rfl
  · cases w with
    | page p path => exact (Mem.learn_stores ..).trans hwalked
    | fault => exact hwalked

theorem Mem.noteWalk_stores (m : Mem) (who : Option ClusterId) (part va : Nat) (w : Walk) :
    (m.noteWalk who part va w).stores = m.stores := by
  unfold Mem.noteWalk
  split
  · split
    · rfl
    · split
      · rfl
      · exact Mem.missWalk_stores ..
  · exact Mem.missWalk_stores ..

end

theorem noteAccess_stores (s : State) (ea : Word) : (s.noteAccess ea).mem.stores = s.mem.stores := by
  unfold State.noteAccess
  split
  · rfl
  · exact Mem.noteWalk_stores ..

theorem noteWalks_stores (s : State) (es : List Planned) : (s.noteWalks es).mem.stores = s.mem.stores := by
  refine List.foldlRecOn (motive := fun t : State => t.mem.stores = s.mem.stores) es _ rfl fun t ht e _ => ?_
  split
  · rw [noteAccess_stores, noteAccess_stores, ht]
  · rw [noteAccess_stores, ht]

/-! What performing a planned access leaves as it is. -/

/-- A state differs from another in memory, in what clusters hold, and in the free choices that are left. -/
def State.MemoryDiffers (s u : State) : Prop := ∃ m cls n, u = { s with mem := m, clusters := cls, fresh := n }

section
variable {s t u : State}

theorem State.ReadAs.differs (h : s.ReadAs u) : s.MemoryDiffers u := by
  obtain ⟨m, cls, n, -, rfl⟩ := h
  exact ⟨m, cls, n, rfl⟩

theorem State.MemoryDiffers.refl (s : State) : s.MemoryDiffers s := ⟨_, _, _, rfl⟩

theorem State.MemoryDiffers.trans (h : s.MemoryDiffers t) (h' : t.MemoryDiffers u) : s.MemoryDiffers u := by
  obtain ⟨m, cls, n, rfl⟩ := h
  obtain ⟨m', cls', n', rfl⟩ := h'
  exact ⟨m', cls', n', rfl⟩

theorem differs_writePlace (s : State) (c : ClusterId) (pl : Place) (bs : List Byte) :
    s.MemoryDiffers (s.writePlace c pl bs) := by
  cases pl <;> exact ⟨_, _, s.fresh, rfl⟩

theorem differs_storeElem (s : State) (c : ClusterId) (t : VTy) (rm : RMode) (e : ElemPlan) (b : Nat) :
    s.MemoryDiffers (s.storeElem c t rm e b).1 := by
  unfold State.storeElem
  split
  · exact differs_writePlace ..
  · split
    · exact .refl s
    · dsimp only
      split
      · exact differs_writePlace ..
      · split
        · exact .refl s
        · exact differs_writePlace ..

theorem differs_storeElems (s : State) (c : ClusterId) (t : VTy) (rm : RMode) (src : Lanes) (es : List ElemPlan) :
    s.MemoryDiffers (s.storeElems c t rm src es).1 := by
  induction es generalizing s with
  | nil => exact .refl s
  | cons e es ih => exact (differs_storeElem ..).trans (ih _)

theorem differs_storePlan (s : State) (c : ClusterId) (t : VTy) (rm : RMode) (src : Lanes) (plan : List ElemPlan) :
    s.MemoryDiffers (s.storePlan c t rm src plan).1 := by
  unfold State.storePlan
  split
  · exact .refl s
  · split
    · unfold State.storeBlock
      dsimp only
      split
      · exact (differs_writePlace ..).trans (differs_writePlace ..)
      · exact differs_writePlace ..
    · exact differs_storeElems ..

end

/-! What a vector memory command does, for its context. -/

/-- The loads of a command, into its register. -/
def State.vecLoad (s : State) (c : CtxId) (q : VCmd) (t : VTy) (d : VReg) : State × Flags :=
  let r := s.loadElems c.core.cl t q.rm q.since q.plan
  (r.1.setCtx c ((r.1.getCtx c).wv d (putElems t ((r.1.getCtx c).rv d) r.2.1)), r.2.2)

/-- The stores of a command, from its register. -/
def State.vecStore (s : State) (c : CtxId) (q : VCmd) (t : VTy) (r : VReg) : State × Flags :=
  s.storePlan c.core.cl t q.rm (q.src (s.getCtx c) r) q.plan

/-- The register that a vector memory instruction loads or stores, and the type of its elements; none for any other
instruction. `true` says that it stores. -/
def vecMemReg : Instr → Option (Bool × VTy × VReg)
  | .vld t _ d _ _ _ _ | .vlds t _ d _ _ _ _ _ | .vgath t _ d _ _ _ _ _ _ => some (false, t, d)
  | .vst t _ r _ _ _ | .vsts t _ r _ _ _ _ | .vscat t _ r _ _ _ _ _ => some (true, t, r)
  | _ => none

section
variable {s u : State} {i : Instr} {q : VCmd} {c : CtxId} {store : Bool} {t : VTy} {r : VReg}

theorem vecMemEffect_eq (h : vecMemReg q.instr = some (store, t, r)) :
    s.vecMemEffect c q = if store then s.vecStore c q t r else s.vecLoad c q t r := by
  obtain ⟨seq, ctx, i, mask, op1, op2, rm, lanes, heads, plan, since⟩ := q
  cases i with
  | vld | vlds | vgath | vst | vsts | vscat =>
    cases h
    rfl
  | _ => cases h

theorem isVectorMem_iff : isVectorMem i = (vecMemReg i).isSome := by cases i <;> rfl

theorem performVec_of_reg (h : vecMemReg q.instr = some (store, t, r)) :
    s.performVec c q = (s.vecMemEffect c q).1.raiseAt c (s.vecMemEffect c q).2 :=
  if_pos (by rw [isVectorMem_iff, h]; rfl)

/-- Flags of the issuing context change its cluster, and its own. -/
theorem raiseAt_differs (h : s.cur = c) (fl : Flags) :
    ∃ cls f, s.raiseAt c fl = { s with clusters := cls, ctx := { s.ctx with fpflags := f } } := by
  subst h
  rw [← State.raise, raise_eq, State.flagged]
  split <;> exact ⟨_, _, rfl⟩

/-- A vector memory command that is performed for the issuing context changes memory, and of the context a v register and
the flags; a load changes only how memory is held. -/
theorem performVec_issuing (hw : s.mem.wf) (h : vecMemReg q.instr = some (store, t, r)) :
    ∃ m cls n v f, s.performVec s.cur q = { s with
        mem := m, clusters := cls, fresh := n, ctx := { s.ctx with v := v, fpflags := f } } ∧
      (store = false → s.mem.Keeps m) := by
  rw [performVec_of_reg h, vecMemEffect_eq h]
  cases store with
  | true =>
    rw [if_pos rfl, State.vecStore]
    have hp := differs_storePlan s s.cur.core.cl t q.rm (q.src (s.getCtx s.cur) r) q.plan
    generalize s.storePlan s.cur.core.cl t q.rm (q.src (s.getCtx s.cur) r) q.plan = p at hp ⊢
    obtain ⟨u, fl⟩ := p
    obtain ⟨m, cls, n, rfl⟩ := hp
    obtain ⟨cls', f, hf⟩ := raiseAt_differs (s := { s with mem := m, clusters := cls, fresh := n }) rfl fl
    exact ⟨m, cls', n, s.ctx.v, f, hf, nofun⟩
  | false =>
    rw [if_neg Bool.false_ne_true, State.vecLoad]
    have hp := readAs_loadElems hw s.cur.core.cl t q.rm q.since q.plan
    generalize s.loadElems s.cur.core.cl t q.rm q.since q.plan = p at hp ⊢
    obtain ⟨u, es, fl⟩ := p
    obtain ⟨m, cls, n, hk, rfl⟩ := hp
    dsimp only
    rw [State.setCtx, if_pos rfl, State.getCtx, if_pos rfl]
    obtain ⟨cls', f, hf⟩ := raiseAt_differs (s := { s with
      mem := m, clusters := cls, fresh := n, ctx := s.ctx.wv r (putElems t (s.ctx.rv r) es) }) rfl fl
    exact ⟨m, cls', n, _, f, hf, fun _ => hk⟩

end

end Sys2Proof.Machine

namespace Sys2Proof.Machine

/-! Issue. -/

/-- The window of a vector memory instruction, as `State.vecMem` opens it. -/
def State.withWindow (s : State) (i : Instr) (la : Option LaCount) (cmd : Option Nat) : State :=
  match la with
  | none => s
  | some n => if n = 0 ∧ cmd = none then s else s.openWindow i n.val cmd

/-- What `State.vecMem` does with elements that pass the checks, where no stream register is configured. -/
def State.issuePlanned (s : State) (i : Instr) (m : XReg) (rnd : Rnd) (v : VecAccess) (la : Option LaCount)
    (es : List Planned) : Res :=
  if (es.map Planned.plan).any ElemPlan.home then
    if s.queued s.cur ≠ [] then .wait s
    else (s.raceElems v es).res s fun _ => .done ((((s.noteWalks es).noteElems v es).performVec s.cur
      { s.command i m rnd [] [] with plan := es.map Planned.plan }).withWindow i la none)
  else .done (((s.noteWalks es).enqueue i m 0 0 rnd [] (es.map Planned.plan)).withWindow i la (some s.core.vseq))

section
variable {s : State} {i : Instr} {m : XReg} {rnd : Rnd} {t : VTy} {store uniform : Bool} {la : Option LaCount}
  {base : Word} {ea : List (VReg × Lanes) → Nat → Nat → Word} {idx : Option VReg} {r : VReg}

/-- The window that stays open over the register of a load until its command has completed (R71). -/
def issueWindows (pc : Word) (i : Instr) (seq : Nat) : Option LaCount → List Window
  | none => []
  | some n => [⟨pc, n.val, dests i, [], some seq⟩]

/-- The access of a vector memory instruction, as its checks take it. -/
def memAccess (s : State) (i : Instr) (m : XReg) (rnd : Rnd) (t : VTy) (store uniform : Bool) (base : Word)
    (ea : Nat → Nat → Word) : VecAccess :=
  ⟨t, store, uniform, base, ea, decide (((s.command i m rnd [] []).actives t).length = 32)⟩

/-- What R140 checks, of the active elements. -/
def State.planAccess (s : State) (i : Instr) (m : XReg) (rnd : Rnd) (t : VTy) (store uniform : Bool) (base : Word)
    (ea : Nat → Nat → Word) : Chk (List Planned) :=
  s.planElems (memAccess s i m rnd t store uniform base ea) (if uniform then s.convAt t base else convOf t none)
    ((s.command i m rnd [] []).actives t)

section
variable (he : exec i s = s.vecMem i m rnd t store uniform la base ea idx) (hn : ∀ j, s.ctx.streams.get j = none)
  (hlen : s.core.vq.length < 16) (hu : userMay i = true)
  (hidx : ∀ r, idx = some r → ∀ q ∈ s.queued s.cur, RegName.v r ∉ dests q.instr)
include he hn hlen hu hidx

theorem exec_vecMem (h : Calm s i = true) : exec i s = s.finish i
    ((s.planAccess i m rnd t store uniform base (ea [])).res s fun es =>
      s.issuePlanned i m rnd (memAccess s i m rnd t store uniform base (ea [])) la es) := by
  rw [he, State.vecMem, run_user h (writesStream_of_no_streams hn i) hu,
    if_neg (show ¬vqSize ≤ _ from not_le.2 hlen)]
  cases idx with
  | none =>
    dsimp only
    rw [if_neg Bool.false_ne_true, heads_of_no_streams hn]
    rfl
  | some r =>
    dsimp only
    rw [if_neg (by simpa using hidx r rfl), heads_of_no_streams hn]
    rfl

end

section
variable {u : State} {c : Ctx}

/-- A window without pending results is counted down, and goes when it ends and has no command. -/
theorem tick_window {p : Word} {n : Nat} {ds : List RegName} {cmd : Option Nat}
    (h : c.windows = [⟨p, n + 1, ds, [], cmd⟩]) :
    c.tick = { c with windows := if n ≠ 0 ∨ cmd.isSome then [⟨p, n, ds, [], cmd⟩] else [] } := by
  unfold Ctx.tick
  rw [h]
  rcases Nat.eq_zero_or_pos n with rfl | hn
  · cases cmd <;> rfl
  · have hn0 : n ≠ 0 := hn.ne'
    simp [hn0]

theorem advance_no_loop (h : c.loop = none) (npc : Word) : c.advance npc = { c with pc := npc } := by
  rw [Ctx.advance, h]

theorem retire_window {p : Word} {n : Nat} {ds : List RegName} {cmd : Option Nat} (hl : u.ctx.loop = none)
    (hw : u.ctx.windows = [⟨p, n + 1, ds, [], cmd⟩]) : u.retire i none =
      u.after { u.ctx with windows := if n ≠ 0 ∨ cmd.isSome then [⟨p, n, ds, [], cmd⟩] else [] } i.len := by
  rw [State.retire, tick_window hw, advance_no_loop (by exact hl)]
  rfl

/-- The instruction that opens its command's window is the first that the window counts. -/
theorem retire_queued (hl : u.ctx.loop = none) (hw : u.ctx.windows = []) (seq : Nat) :
    (u.withWindow i la (some seq)).retire i none =
      u.after { u.ctx with windows := issueWindows u.ctx.pc i seq la } i.len := by
  cases la with
  | none =>
    rw [State.withWindow, retire_after rfl hl hw, issueWindows, ← hw]
  | some n =>
    rw [State.withWindow, if_neg (by simp), State.openWindow, hw, retire_window (by exact hl) rfl, if_pos (.inr rfl)]
    rfl

/-- An access that has been performed at issue advances PC, whatever window it leaves. -/
theorem retire_performed (hl : u.ctx.loop = none) (hw : u.ctx.windows = []) :
    ∃ ws, (u.withWindow i la none).retire i none = u.after { u.ctx with windows := ws } i.len := by
  cases la with
  | none => exact ⟨u.ctx.windows, retire_after rfl hl hw⟩
  | some n =>
    rw [State.withWindow]
    split
    · exact ⟨u.ctx.windows, retire_after rfl hl hw⟩
    · rw [State.openWindow, hw, retire_window (by exact hl) rfl]
      exact ⟨_, rfl⟩

end

section
variable (he : exec i s = s.vecMem i m rnd t store uniform la base ea idx) (hn : ∀ j, s.ctx.streams.get j = none)
  (hlen : s.core.vq.length < 16) (hu : userMay i = true)
  (hidx : ∀ r, idx = some r → ∀ q ∈ s.queued s.cur, RegName.v r ∉ dests q.instr) {es : List Planned}
include he hn hlen hu hidx

/-- An element that fails a check traps (R140). -/
theorem vecMem_traps {tr : Trap} (h : s.planAccess i m rnd t store uniform base (ea []) = .trap tr) : Traps i s tr :=
  fun hc ht => by
  obtain ⟨-, hwin, -⟩ := calm_iff.1 hc
  rw [exec_vecMem he hn hlen hu hidx hc, h, Chk.res, finish_trap, enterTrap_ready _ ht hwin]

/-- Elements that pass the checks, none at its home: a command, with its places (R140, R141). -/
theorem vecMem_queues (hwf : s.mem.wf) (hes : s.planAccess i m rnd t store uniform base (ea []) = .ok es)
    (hhome : ∀ e ∈ es, e.plan.home = false) :
    Performs i s { s.ctx with windows := issueWindows s.ctx.pc i s.core.vseq la } fun u => SameBytes s u ∧
      u.getCore s.cur.core = { s.core with
        vq := s.core.vq ++ [{ s.command i m rnd [] [] with plan := es.map fun e => e.plan }]
        vseq := s.core.vseq + 1 } := fun hc => by
  obtain ⟨hl, hwin, -⟩ := calm_iff.1 hc
  have hq : ¬ (es.map Planned.plan).any ElemPlan.home = true := by simpa using hhome
  have hstores := noteWalks_stores s es
  obtain ⟨n, cls, hk, hu'⟩ := heldAs_noteWalks hwf es
  rw [hu'] at hstores
  rw [exec_vecMem he hn hlen hu hidx hc, hes, Chk.res, State.issuePlanned, if_neg hq, hu', finish_done,
    retire_queued (by exact hl) (by exact hwin)]
  refine ⟨_, rfl, rfl, rfl, hk.reads hwf, ?_⟩
  refine (getCore_setCore_same ..).trans ?_
  show ({ s.core with
    vq := s.core.vq ++ [{ s.command i m rnd [] [] with plan := es.map Planned.plan, since := n.stores }]
    vseq := s.core.vseq + 1 } : CoreSt) = _
  rw [show n.stores = s.mem.stores from hstores]
  rfl

section
variable (hreg : vecMemReg i = some (store, t, r)) (hq : s.queued s.cur = []) (hhome : ∃ e ∈ es, e.plan.home = true)
  (hes : s.planAccess i m rnd t store uniform base (ea []) = .ok es)
include hq hhome hes

/-- With a CHECKED page among them an element that races traps (R140, R218). -/
theorem vecMem_races {tr : Trap}
    (hrace : s.raceElems (memAccess s i m rnd t store uniform base (ea [])) es = .trap tr) : Traps i s tr :=
  fun hc ht => by
  obtain ⟨-, hwin, -⟩ := calm_iff.1 hc
  rw [exec_vecMem he hn hlen hu hidx hc, hes, Chk.res, State.issuePlanned, if_pos (by simpa using hhome),
    if_neg (not_not.2 hq), hrace, Chk.res, finish_trap, enterTrap_ready _ ht hwin]

include hreg in
/-- And without a race the access is performed at issue, and joins no queue. -/
theorem vecMem_performed (hwf : s.mem.wf)
    (hrace : s.raceElems (memAccess s i m rnd t store uniform base (ea [])) es = .ok ()) (hc : Calm s i = true) :
    ∃ u, exec i s = .next u ∧ u.cur = s.cur ∧ u.cores = s.cores ∧ u.ctx.pc = s.ctx.pc + BitVec.ofNat 64 i.len ∧
      (store = false → SameBytes s u) := by
  obtain ⟨hl, hwin, -⟩ := calm_iff.1 hc
  have hnote := (heldAs_noteWalks hwf es).trans
    (heldAs_noteElems (heldAs_noteWalks hwf es).wf (memAccess s i m rnd t store uniform base (ea [])) es)
  rw [exec_vecMem he hn hlen hu hidx hc, hes, Chk.res, State.issuePlanned, if_pos (by simpa using hhome),
    if_neg (not_not.2 hq), hrace, Chk.res, finish_done]
  obtain ⟨n, cls, hk, hnotes⟩ := hnote
  rw [hnotes]
  obtain ⟨n', cls', f, v, fl, hp, hload⟩ := performVec_issuing (s := { s with mem := n, clusters := cls })
    (q := { s.command i m rnd [] [] with plan := es.map Planned.plan }) hk.wf hreg
  rw [show s.cur = State.cur { s with mem := n, clusters := cls } from rfl, hp]
  obtain ⟨ws, hret⟩ := retire_performed (i := i) (la := la) (u := { s with
    mem := n', clusters := cls', fresh := f, ctx := { s.ctx with v := v, fpflags := fl } }) hl hwin
  exact ⟨_, congrArg _ hret, rfl, rfl, rfl, fun hs => (hk.trans (hload hs)).reads hwf⟩

end
end
end

/-- What `Obligations.VectorMemoryIssue` says of an instruction. -/
def MemIssues (s : State) (m : XReg) (rnd : Rnd) (t : VTy) (base : Word) (i : Instr) (store uniform : Bool)
    (ea : Nat → Nat → Word) (ws : List Window) : Prop :=
  (∀ es, s.planAccess i m rnd t store uniform base ea = .ok es →
    ((∀ e ∈ es, e.plan.home = false) → Performs i s { s.ctx with windows := ws } fun u => SameBytes s u ∧
      u.getCore s.cur.core = { s.core with
        vq := s.core.vq ++ [{ s.command i m rnd [] [] with plan := es.map fun e => e.plan }]
        vseq := s.core.vseq + 1 }) ∧
    ((∃ e ∈ es, e.plan.home = true) → (s.queued s.cur).isEmpty = true →
      (∀ tr, s.raceElems (memAccess s i m rnd t store uniform base ea) es = .trap tr → Traps i s tr) ∧
      (s.raceElems (memAccess s i m rnd t store uniform base ea) es = .ok () → Calm s i = true →
        ∃ u, exec i s = .next u ∧ u.cur = s.cur ∧ u.cores = s.cores ∧ u.ctx.pc = s.ctx.pc + BitVec.ofNat 64 i.len ∧
          (store = false → SameBytes s u)))) ∧
  ∀ tr, s.planAccess i m rnd t store uniform base ea = .trap tr → Traps i s tr

theorem memIssues_of_vecMem {s : State} {i : Instr} {m : XReg} {rnd : Rnd} {t : VTy} {store uniform : Bool}
    {la : Option LaCount} {base : Word} {ea : List (VReg × Lanes) → Nat → Nat → Word} {idx : Option VReg} {r : VReg}
    (he : exec i s = s.vecMem i m rnd t store uniform la base ea idx) (hwf : s.mem.wf)
    (hn : ∀ j, s.ctx.streams.get j = none) (hlen : s.core.vq.length < 16) (hu : userMay i = true)
    (hreg : vecMemReg i = some (store, t, r))
    (hidx : ∀ r, idx = some r → ∀ q ∈ s.queued s.cur, RegName.v r ∉ dests q.instr) :
    MemIssues s m rnd t base i store uniform (ea []) (issueWindows s.ctx.pc i s.core.vseq la) :=
  ⟨fun _ hes => ⟨vecMem_queues he hn hlen hu hidx hwf hes, fun hhome hq =>
      ⟨fun _ => vecMem_races he hn hlen hu hidx (List.isEmpty_iff.1 hq) hhome hes,
        vecMem_performed he hn hlen hu hidx hreg (List.isEmpty_iff.1 hq) hhome hes hwf⟩⟩,
    fun _ => vecMem_traps he hn hlen hu hidx⟩

section
variable (s : State) (t : VTy) (rnd : Rnd) (d r b : VReg) (a x m : XReg) (sc : Fin 4) (off : BitVec 32) (la : LaCount)

theorem exec_vld : exec (.vld t rnd d a off m la) s = s.vecMem (.vld t rnd d a off m la) m rnd t false true (some la)
    (s.rx a + sext32 off) (fun _ i n => s.rx a + sext32 off + word (i * n / 8)) none := rfl

theorem exec_vst : exec (.vst t rnd r a off m) s = s.vecMem (.vst t rnd r a off m) m rnd t true true none
    (s.rx a + sext32 off) (fun _ i n => s.rx a + sext32 off + word (i * n / 8)) none := rfl

theorem exec_vlds : exec (.vlds t rnd d a x off m la) s = s.vecMem (.vlds t rnd d a x off m la) m rnd t false false
    (some la) (s.rx a + sext32 off) (fun _ i _ => s.rx a + sext32 off + word i * s.rx x) none := rfl

theorem exec_vsts : exec (.vsts t rnd r a x off m) s = s.vecMem (.vsts t rnd r a x off m) m rnd t true false none
    (s.rx a + sext32 off) (fun _ i _ => s.rx a + sext32 off + word i * s.rx x) none := rfl

theorem exec_vgath : exec (.vgath t rnd d a b sc off m la) s = s.vecMem (.vgath t rnd d a b sc off m la) m rnd t false
    false (some la) (s.rx a + sext32 off) (fun hs i _ => s.rx a + sext32 off + (s.indexLane hs b t i <<< sc.val))
    (some b) := rfl

theorem exec_vscat : exec (.vscat t rnd r a b sc off m) s = s.vecMem (.vscat t rnd r a b sc off m) m rnd t true false
    none (s.rx a + sext32 off) (fun hs i _ => s.rx a + sext32 off + (s.indexLane hs b t i <<< sc.val)) (some b) := rfl

end

/-- Settles O33: each of the six is `State.vecMem` with its own addresses. -/
theorem vectorMemoryIssue : Obligations.VectorMemoryIssue := by
  unfold Obligations.VectorMemoryIssue
  intro s t rnd v r a b m sc off la hwf hn hlen base index issues window free
  have noIndex (r : VReg) (h : none = some r) : ∀ q ∈ s.queued s.cur, RegName.v r ∉ dests q.instr := nomatch h
  have hindex (h : free) (r' : VReg) (hr : some r = some r') : ∀ q ∈ s.queued s.cur, RegName.v r' ∉ dests q.instr :=
    Option.some.inj hr ▸ h
  exact ⟨memIssues_of_vecMem (exec_vld ..) hwf hn hlen rfl rfl noIndex,
    memIssues_of_vecMem (exec_vst ..) hwf hn hlen rfl rfl noIndex,
    memIssues_of_vecMem (exec_vlds ..) hwf hn hlen rfl rfl noIndex,
    memIssues_of_vecMem (exec_vsts ..) hwf hn hlen rfl rfl noIndex, fun hfree =>
    ⟨memIssues_of_vecMem (exec_vgath ..) hwf hn hlen rfl rfl (hindex hfree),
      memIssues_of_vecMem (exec_vscat ..) hwf hn hlen rfl rfl (hindex hfree)⟩⟩

end Sys2Proof.Machine

namespace Sys2Proof.Machine

/-! PROOFS. Selections, comparisons and conversions of floating-point numbers (O29; 05 R123-R127, 02 R50, Table 2.9). The
exact values of chapter 2 come first, as rational numbers. -/

/-- The value of a finite number, 0 for what is none. -/
def FVal.rat : FVal → ℚ
  | .fin n m e => (if n then -1 else 1) * m * 2 ^ e
  | _ => 0

theorem FVal.cast_rat (v : FVal) : (v.rat : ℝ) = v.real := by
  cases v with
  | nan g => exact Rat.cast_zero
  | inf n => exact Rat.cast_zero
  | fin n m e => cases n <;> simp [FVal.rat, FVal.real]

-- The order

/-- The order of numbers and infinities; nothing compares with a NaN. -/
def FVal.Less (u v : FVal) : Prop := match u, v with
  | .nan _, _ | _, .nan _ | .inf false, _ | .inf true, .inf true | .fin _ _ _, .inf true => False
  | .inf true, _ | .fin _ _ _, .inf false => True
  | .fin n m e, .fin n' m' e' => FVal.rat (.fin n m e) < FVal.rat (.fin n' m' e')

/-- The comparison of finite values is that of their exact values. -/
theorem cmp_fin (n : Bool) (m : Nat) (e : Int) (n' : Bool) (m' : Nat) (e' : Int) :
    FVal.cmp (.fin n m e) (.fin n' m' e') = compare (FVal.rat (.fin n m e)) (FVal.rat (.fin n' m' e')) := by
  have hpos : (0 : ℝ) < 2 ^ min e e' := by positivity
  have h := scaled_mul_zpow n m (min_le_left e e')
  have h' := scaled_mul_zpow n' m' (min_le_right e e')
  rw [← FVal.cast_rat] at h h'
  show compare (scaled n m e (min e e')) (scaled n' m' e' (min e e')) = _
  rw [eq_comm, compare_iff]
  rcases lt_trichotomy (scaled n m e (min e e')) (scaled n' m' e' (min e e')) with hs | hs | hs
  · rw [compare_lt_iff_lt.2 hs]
    show FVal.rat _ < FVal.rat _
    rw [← Rat.cast_lt (K := ℝ), ← h, ← h']
    exact mul_lt_mul_of_pos_right (by exact_mod_cast hs) hpos
  · rw [compare_eq_iff_eq.2 hs]
    show FVal.rat _ = FVal.rat _
    rw [← Rat.cast_inj (α := ℝ), ← h, ← h', hs]
  · rw [compare_gt_iff_gt.2 hs]
    show FVal.rat _ < FVal.rat _
    rw [← Rat.cast_lt (K := ℝ), ← h, ← h']
    exact mul_lt_mul_of_pos_right (by exact_mod_cast hs) hpos

section
variable {u v : FVal}

theorem less_iff : u.Less v ↔ u.isNan = false ∧ v.isNan = false ∧ u.cmp v = .lt := by
  cases u with
  | nan g => simp [FVal.Less, FVal.isNan]
  | inf n =>
    cases v with
    | nan g => cases n <;> simp [FVal.Less, FVal.isNan]
    | inf n' => cases n <;> cases n' <;> simp [FVal.Less, FVal.isNan, FVal.cmp]
    | fin n' m' e' => cases n <;> simp [FVal.Less, FVal.isNan, FVal.cmp]
  | fin n m e =>
    cases v with
    | nan g => simp [FVal.Less, FVal.isNan]
    | inf n' => cases n' <;> simp [FVal.Less, FVal.isNan, FVal.cmp]
    | fin n' m' e' =>
      rw [cmp_fin, compare_lt_iff_lt]
      simp [FVal.Less, FVal.isNan]

theorem cmp_swap (hu : u.isNan = false) (hv : v.isNan = false) : v.cmp u = (u.cmp v).swap := by
  cases u with
  | nan g => cases hu
  | inf n =>
    cases v with
    | nan g => cases hv
    | inf n' => cases n <;> cases n' <;> rfl
    | fin n' m' e' => cases n <;> rfl
  | fin n m e =>
    cases v with
    | nan g => cases hv
    | inf n' => cases n' <;> rfl
    | fin n' m' e' => rw [cmp_fin, cmp_fin]; exact Std.OrientedCmp.eq_swap

/-- The three outcomes of a comparison, in terms of the order. -/
theorem cmp_of_less (h : u.Less v) : u.isNan = false ∧ v.isNan = false ∧ u.cmp v = .lt := less_iff.1 h

theorem cmp_of_greater (h : v.Less u) : u.isNan = false ∧ v.isNan = false ∧ u.cmp v = .gt := by
  obtain ⟨hv, hu, h⟩ := less_iff.1 h
  exact ⟨hu, hv, by rw [cmp_swap hv hu, h]; rfl⟩

theorem cmp_of_equal (hu : u.isNan = false) (hv : v.isNan = false) (h : ¬ u.Less v) (h' : ¬ v.Less u) :
    u.cmp v = .eq := by
  have hlt : u.cmp v ≠ .lt := fun hc => h (less_iff.2 ⟨hu, hv, hc⟩)
  have hgt : u.cmp v ≠ .gt := fun hc => h' (less_iff.2 ⟨hv, hu, by rw [cmp_swap hu hv, hc]; rfl⟩)
  cases hc : u.cmp v with
  | eq => rfl
  | lt => exact absurd hc hlt
  | gt => exact absurd hc hgt

theorem sigFlag_numbers (hu : u.isNan = false) (hv : v.isNan = false) : sigFlag [u, v] = 0 := by
  rw [sigFlag_eq, if_neg]
  simp only [List.mem_cons, List.not_mem_nil, or_false]
  rintro (rfl | rfl)
  · cases hu
  · cases hv

end

-- Numbers that are equal

/-- A finite number of a format, as its fields give it: the least exponent, or a significand with all its bits. -/
theorem fin_canonical {F : FSpec} (hF : F.Ieee) {w m : Nat} {n : Bool} {e : Int} (h : F.decode w = .fin n m e) :
    m < 2 ^ (F.mb + 1) ∧ F.emin - F.mb ≤ e ∧ (e = F.emin - F.mb ∨ 2 ^ F.mb ≤ m) := by
  obtain ⟨hm, he⟩ := fin_bounds hF h
  refine ⟨hm, he, ?_⟩
  rw [decode_fin (exponent_ne_top_of_fin hF h), FVal.fin.injEq] at h
  obtain ⟨-, rfl, rfl⟩ := h
  split
  · exact .inl rfl
  · exact .inr (Nat.le_add_left ..)

theorem fin_zero {F : FSpec} (hF : F.Ieee) {w : Nat} {n : Bool} {e : Int} (h : F.decode w = .fin n 0 e) :
    e = F.emin - F.mb :=
  (fin_canonical hF h).2.2.resolve_right (Nat.not_le.2 (Nat.two_pow_pos _))

/-- Equal magnitudes of a format have equal fields. -/
theorem magnitude_inj {b : Nat} {q : Int} {m m' : Nat} {e e' : Int} (h : m < 2 ^ (b + 1) ∧ q ≤ e ∧ (e = q ∨ 2 ^ b ≤ m))
    (h' : m' < 2 ^ (b + 1) ∧ q ≤ e' ∧ (e' = q ∨ 2 ^ b ≤ m')) (hm : m ≠ 0)
    (heq : (m : ℚ) * 2 ^ e = m' * 2 ^ e') : m = m' ∧ e = e' := by
  wlog hle : e ≤ e' generalizing m m' e e'
  · have hm' : m' ≠ 0 := by
      rintro rfl
      simp [hm, zpow_ne_zero] at heq
    obtain ⟨h₁, h₂⟩ := this h' h hm' heq.symm (not_le.1 hle).le
    exact ⟨h₁.symm, h₂.symm⟩
  obtain ⟨k, rfl⟩ : ∃ k : Nat, e' = e + k := ⟨(e' - e).toNat, by omega⟩
  have hk : m = m' * 2 ^ k := by
    rw [zpow_add₀ two_ne_zero, zpow_natCast, mul_comm ((2 : ℚ) ^ e), ← mul_assoc] at heq
    exact_mod_cast mul_right_cancel₀ (zpow_ne_zero _ two_ne_zero) heq
  cases k with
  | zero => simpa using hk
  | succ k =>
    exfalso
    have h2 : 2 ^ b ≤ m' := h'.2.2.resolve_left (by omega)
    have : 2 ^ (b + 1) ≤ m' * 2 ^ (k + 1) := by
      rw [pow_succ, pow_succ]
      calc 2 ^ b * 2 ≤ m' * (2 ^ k * 2) := Nat.mul_le_mul h2 (Nat.le_mul_of_pos_left _ (Nat.two_pow_pos k))
        _ = _ := rfl
    omega

/-- A bit pattern is its three fields. -/
theorem eq_of_fields {F : FSpec} {w w' : Nat} (hw : w < 2 ^ F.width) (hw' : w' < 2 ^ F.width)
    (hn : w / 2 ^ (F.eb + F.mb) % 2 = w' / 2 ^ (F.eb + F.mb) % 2)
    (he : w / 2 ^ F.mb % 2 ^ F.eb = w' / 2 ^ F.mb % 2 ^ F.eb) (hm : w % 2 ^ F.mb = w' % 2 ^ F.mb) : w = w' := by
  have hsign {w : Nat} (hw : w < 2 ^ F.width) : w / 2 ^ (F.eb + F.mb) < 2 :=
    Nat.div_lt_of_lt_mul (by rwa [mul_two, ← two_pow_width])
  rw [Nat.mod_eq_of_lt (hsign hw), Nat.mod_eq_of_lt (hsign hw'), add_comm, pow_add, ← Nat.div_div_eq_div_mul,
    ← Nat.div_div_eq_div_mul] at hn
  have hhigh : w / 2 ^ F.mb = w' / 2 ^ F.mb := by
    rw [← Nat.div_add_mod (w / 2 ^ F.mb) (2 ^ F.eb), ← Nat.div_add_mod (w' / 2 ^ F.mb) (2 ^ F.eb), hn, he]
  rw [← Nat.div_add_mod w (2 ^ F.mb), ← Nat.div_add_mod w' (2 ^ F.mb), hhigh, hm]

theorem fields_of_inf {F : FSpec} {w : Nat} {n : Bool} (h : F.decode w = .inf n) :
    decide (w / 2 ^ (F.eb + F.mb) % 2 = 1) = n ∧ w / 2 ^ F.mb % 2 ^ F.eb = 2 ^ F.eb - 1 ∧ w % 2 ^ F.mb = 0 := by
  unfold FSpec.decode at h
  dsimp only at h
  split at h
  · next ht =>
    simp only [Bool.and_eq_true, decide_eq_true_eq] at ht
    split at h
    · next hm =>
      cases h
      exact ⟨rfl, ht.2, hm⟩
    · cases h
  · split at h
    · cases h
    · split at h <;> cases h

theorem inf_inj {F : FSpec} {w w' : Nat} {n : Bool} (hw : w < 2 ^ F.width) (hw' : w' < 2 ^ F.width)
    (h : F.decode w = .inf n) (h' : F.decode w' = .inf n) : w = w' := by
  obtain ⟨hn, he, hm⟩ := fields_of_inf h
  obtain ⟨hn', he', hm'⟩ := fields_of_inf h'
  refine eq_of_fields hw hw' ?_ (he.trans he'.symm) (hm.trans hm'.symm)
  have hd : w / 2 ^ (F.eb + F.mb) % 2 = 1 ↔ w' / 2 ^ (F.eb + F.mb) % 2 = 1 := decide_eq_decide.1 (hn.trans hn'.symm)
  omega

theorem fin_inj {F : FSpec} (hF : F.Ieee) {w w' m : Nat} {n : Bool} {e : Int} (hw : w < 2 ^ F.width)
    (hw' : w' < 2 ^ F.width) (h : F.decode w = .fin n m e) (h' : F.decode w' = .fin n m e) : w = w' :=
  congrArg Prod.fst ((encode_decode hF .rne hw h).symm.trans (encode_decode hF .rne hw' h'))

theorem rat_fin (n : Bool) (m : Nat) (e : Int) : (FVal.fin n m e).rat = (if n then -1 else 1) * (m * 2 ^ e) :=
  mul_assoc ..

/-- Equal numbers that are not zero have the same sign and the same magnitude. -/
theorem eq_of_rat_eq {n n' : Bool} {m m' : Nat} {e e' : Int} (hm : m ≠ 0)
    (h : (FVal.fin n m e).rat = (FVal.fin n' m' e').rat) : n = n' ∧ (m : ℚ) * 2 ^ e = m' * 2 ^ e' := by
  have hpos : (0 : ℚ) < m * 2 ^ e := by have := Nat.pos_of_ne_zero hm; positivity
  have hnonneg : (0 : ℚ) ≤ m' * 2 ^ e' := by positivity
  rw [rat_fin, rat_fin] at h
  cases n <;> cases n' <;> simp only [Bool.false_eq_true, if_false, if_true, one_mul, neg_mul] at h
  · exact ⟨rfl, h⟩
  · linarith
  · linarith
  · exact ⟨rfl, neg_injective h⟩

/-- Numbers of a format that are equal but not the same are zeros of different sign. -/
theorem zeros_of_equal {F : FSpec} (hF : F.Ieee) {w w' : Nat} (hw : w < 2 ^ F.width) (hw' : w' < 2 ^ F.width)
    (hne : w ≠ w') (hu : (F.decode w).isNan = false) (hv : (F.decode w').isNan = false)
    (h : (F.decode w).cmp (F.decode w') = .eq) :
    ∃ n, F.decode w = .fin n 0 (F.emin - F.mb) ∧ F.decode w' = .fin (!n) 0 (F.emin - F.mb) := by
  cases hd : F.decode w with
  | nan g =>
    rw [hd] at hu
    cases hu
  | inf n =>
    cases hd' : F.decode w' with
    | nan g =>
      rw [hd'] at hv
      cases hv
    | inf n' =>
      rw [hd, hd'] at h
      have hn : n = n' := by
        by_contra hn
        rw [FVal.cmp, if_neg hn] at h
        split at h <;> cases h
      exact absurd (inf_inj hw hw' hd (hn ▸ hd')) hne
    | fin n' m' e' =>
      rw [hd, hd'] at h
      cases n <;> cases h
  | fin n m e =>
    cases hd' : F.decode w' with
    | nan g =>
      rw [hd'] at hv
      cases hv
    | inf n' =>
      rw [hd, hd'] at h
      cases n' <;> cases h
    | fin n' m' e' =>
      rw [hd, hd', cmp_fin, compare_eq_iff_eq] at h
      rcases Nat.eq_zero_or_pos m with rfl | hm
      · have hm' : m' = 0 := by
          by_contra hm'
          simpa [hm', zpow_ne_zero] using (eq_of_rat_eq hm' h.symm).2
        subst hm'
        obtain rfl := fin_zero hF hd
        obtain rfl := fin_zero hF hd'
        have hn : n' = !n := by
          rw [Bool.eq_not]
          rintro rfl
          exact hne (fin_inj hF hw hw' hd hd')
        exact ⟨n, rfl, by rw [hn]⟩
      · obtain ⟨rfl, hmag⟩ := eq_of_rat_eq hm.ne' h
        obtain ⟨rfl, rfl⟩ := magnitude_inj (fin_canonical hF hd) (fin_canonical hF hd') hm.ne' hmag
        exact absurd (fin_inj hF hw hw' hd hd') hne

-- Minimum and maximum

section
variable {F : FSpec} {isMax : Bool} {a b : Nat}

theorem fMinMax_less (h : (F.decode a).Less (F.decode b)) : fMinMax F isMax a b = (if isMax then b else a, 0) := by
  obtain ⟨ha, hb, hc⟩ := cmp_of_less h
  simp only [fMinMax, ha, hb, hc, sigFlag_numbers ha hb]
  cases isMax <;> rfl

theorem fMinMax_greater (h : (F.decode b).Less (F.decode a)) : fMinMax F isMax a b = (if isMax then a else b, 0) := by
  obtain ⟨ha, hb, hc⟩ := cmp_of_greater h
  simp only [fMinMax, ha, hb, hc, sigFlag_numbers ha hb]
  cases isMax <;> rfl

/-- Of equal values the negative one is the lesser (R123). -/
theorem fMinMax_equal (ha : (F.decode a).isNan = false) (hb : (F.decode b).isNan = false)
    (hc : (F.decode a).cmp (F.decode b) = .eq) :
    fMinMax F isMax a b = (if (F.decode a).isNeg != isMax then a else b, 0) := by
  simp only [fMinMax, ha, hb, hc, sigFlag_numbers ha hb]
  rfl

theorem fMinMax_nan_left (ha : (F.decode a).isNan = true) (hb : (F.decode b).isNan = false) :
    fMinMax F isMax a b = (b, sigFlag [F.decode a, F.decode b]) := by
  simp only [fMinMax, ha, hb]
  rfl

theorem fMinMax_nan_right (ha : (F.decode a).isNan = false) (hb : (F.decode b).isNan = true) :
    fMinMax F isMax a b = (a, sigFlag [F.decode a, F.decode b]) := by
  simp only [fMinMax, ha, hb]
  rfl

theorem fMinMax_nans (ha : (F.decode a).isNan = true) (hb : (F.decode b).isNan = true) :
    fMinMax F isMax a b = (F.nanBits, sigFlag [F.decode a, F.decode b]) := by
  simp only [fMinMax, ha, hb]
  rfl

end

-- Comparison

section
variable {u v : FVal} {c : FcmpCond}

/-- FCMP of numbers, by their comparison. -/
theorem fCompare_numbers (hu : u.isNan = false) (hv : v.isNan = false) : fCompare c u v =
    ((match c with | .eq => u.cmp v = .eq | .lt => u.cmp v = .lt | .le => u.cmp v ≠ .gt | .un => false : Bool), 0) := by
  have hs := sigFlag_numbers hu hv
  cases c <;> simp [fCompare, hu, hv, hs, flagIf]

theorem fCompare_unordered (h : u.isNan = true ∨ v.isNan = true) : fCompare c u v =
    match c with
    | .eq => (false, sigFlag [u, v]) | .lt | .le => (false, flNV) | .un => (true, sigFlag [u, v]) := by
  have hun : (u.isNan || v.isNan) = true := by simpa using h
  cases c <;> simp [fCompare, hun, flagIf]

end


-- Rounding to an integer

/-- What `RoundsToInt` says of the magnitude of a value. -/
def RoundsMagnitude (rm : RMode) (neg : Bool) (a : ℝ) (k : Int) : Prop :=
  match rm with
  | .rtz => k = ⌊a⌋
  | .rdn => k = if neg then ⌈a⌉ else ⌊a⌋
  | .rup => k = if neg then ⌊a⌋ else ⌈a⌉
  | .rne => |a - k| ≤ 1 / 2 ∧ (|a - k| = 1 / 2 → k % 2 = 0)
  | .rmm => |a - k| ≤ 1 / 2 ∧ (|a - k| = 1 / 2 → a ≤ |(k : ℝ)|)

/-- The integer with a sign. -/
def signed (neg : Bool) (k : Int) : Int := if neg then -k else k

theorem natCast_ceil_le {a : ℝ} {n : Nat} (hn : n ≤ a) (hn' : a < n + 1) :
    ⌈a⌉ = if a = n then (n : Int) else n + 1 := by
  split
  · next h => rw [h, Int.ceil_natCast]
  · next h =>
    refine Int.ceil_eq_iff.2 ⟨?_, by push_cast; linarith⟩
    push_cast
    linarith [lt_of_le_of_ne hn (Ne.symm h)]

/-- An integer at most one half away is the truncation or the next. -/
theorem nearest_cases {a : ℝ} {n : Nat} {k : Int} (hn : n ≤ a) (hn' : a < n + 1) (hk : |a - k| ≤ 1 / 2) :
    k = n ∧ a - n ≤ 1 / 2 ∧ |a - k| = a - n ∨ k = n + 1 ∧ 1 / 2 ≤ a - n ∧ |a - k| = 1 - (a - n) := by
  obtain ⟨h1, h2⟩ := abs_le.1 hk
  have hlo : (n : ℝ) - 1 < k := by linarith
  have hhi : (k : ℝ) < n + 2 := by linarith
  have hlo' : (n : Int) - 1 < k := by exact_mod_cast hlo
  have hhi' : k < (n : Int) + 2 := by exact_mod_cast hhi
  obtain rfl | rfl : k = n ∨ k = (n : Int) + 1 := by omega
  · left
    push_cast at h2 ⊢
    exact ⟨rfl, h2, abs_of_nonneg (by linarith)⟩
  · right
    push_cast at h1 ⊢
    exact ⟨rfl, by linarith, by rw [abs_of_nonpos (by linarith)]; ring⟩

/-- The integer that a mode rounds a magnitude to is the one that `RoundedTo` describes. -/
theorem RoundsMagnitude.eq {rm : RMode} {neg : Bool} {a : ℝ} {k : Int} {r : Nat × Bool} (h : RoundsMagnitude rm neg a k)
    (hr : RoundedTo rm neg a r) : k = r.1 := by
  obtain ⟨n, hn, hn', -, hr⟩ := hr
  have hfloor : ⌊a⌋ = n := Int.floor_eq_iff.2 ⟨by exact_mod_cast hn, by exact_mod_cast hn'⟩
  have hceil := natCast_ceil_le hn hn'
  cases rm with
  | rtz =>
    have hk : k = ⌊a⌋ := h
    simpa [RoundsUp, hk, hfloor, eq_comm] using hr
  | rdn =>
    have hk : k = if neg then ⌈a⌉ else ⌊a⌋ := h
    rw [hk, hfloor, hceil]
    cases neg <;> by_cases ha : a = n <;> simp [RoundsUp, ha] at hr ⊢ <;> omega
  | rup =>
    have hk : k = if neg then ⌊a⌋ else ⌈a⌉ := h
    rw [hk, hfloor, hceil]
    cases neg <;> by_cases ha : a = n <;> simp [RoundsUp, ha] at hr ⊢ <;> omega
  | rne =>
    obtain ⟨hk, heven⟩ := h
    rcases nearest_cases hn hn' hk with ⟨rfl, hle, habs⟩ | ⟨rfl, hge, habs⟩
    · have hnot : ¬ RoundsUp .rne neg a n := by
        rintro (hgt | ⟨htie, hodd⟩)
        · linarith
        · have := heven (habs.trans htie)
          omega
      rw [(hr.resolve_left fun h => hnot h.2).1]
    · have hup : RoundsUp .rne neg a n := by
        rcases hge.lt_or_eq with hgt | htie
        · exact .inl hgt
        · have := heven (by rw [habs]; linarith)
          exact .inr ⟨htie.symm, by omega⟩
      rw [(hr.resolve_right fun h => h.2 hup).1]
      push_cast
      rfl
  | rmm =>
    obtain ⟨hk, haway⟩ := h
    rcases nearest_cases hn hn' hk with ⟨rfl, hle, habs⟩ | ⟨rfl, hge, habs⟩
    · have hnot : ¬ RoundsUp .rmm neg a n := fun hge => by
        have hge : 1 / 2 ≤ a - n := hge
        have h := haway (habs.trans (le_antisymm hle hge))
        rw [Int.cast_natCast, Nat.abs_cast] at h
        linarith
      rw [(hr.resolve_left fun h => hnot h.2).1]
    · rw [(hr.resolve_right fun h => h.2 hge).1]
      push_cast
      rfl

theorem cast_signed (neg : Bool) (k : Int) : (signed neg k : ℝ) = signum neg * k := by
  cases neg <;> simp [signed, signum]

theorem abs_signed (neg : Bool) (k : Int) : |(signed neg k : ℝ)| = |(k : ℝ)| := by
  rw [cast_signed, abs_signum_mul]

theorem RoundsToInt.magnitude {rm : RMode} {neg : Bool} {x : ℚ} {a : ℝ} {k : Int} (ha : 0 ≤ a)
    (hx : (x : ℝ) = signum neg * a) (h : RoundsToInt rm x k) : RoundsMagnitude rm neg a (signed neg k) := by
  have hfloor : ⌊x⌋ = ⌊signum neg * a⌋ := by rw [← hx, Rat.floor_cast]
  have hceil : ⌈x⌉ = ⌈signum neg * a⌉ := by rw [← hx, Rat.ceil_cast]
  have hdist : ((|x - k| : ℚ) : ℝ) = |a - signed neg k| := by
    rw [← abs_signum_mul neg, mul_sub, cast_signed, ← mul_assoc (signum neg)]
    push_cast
    rw [hx]
    cases neg <;> simp [signum]
  have half : ((1 / 2 : ℚ) : ℝ) = 1 / 2 := by norm_num
  have hnear (h : |x - k| ≤ 1 / 2) : |a - signed neg k| ≤ 1 / 2 := by
    rw [← hdist, ← half]
    exact Rat.cast_le.2 h
  have htie (h : |a - signed neg k| = 1 / 2) : |x - k| = 1 / 2 := by
    rw [← hdist, ← half] at h
    exact Rat.cast_inj.1 h
  cases rm with
  | rtz =>
    have hk : k = if 0 ≤ x then ⌊x⌋ else ⌈x⌉ := h
    have hpos : 0 ≤ x ↔ 0 ≤ signum neg * a := by rw [← hx, Rat.cast_nonneg]
    rw [hk, hfloor, hceil]
    show signed neg _ = ⌊a⌋
    cases neg with
    | false => simp [signed, signum, hpos, ha]
    | true =>
      simp only [signed, signum, if_true, neg_one_mul, Int.floor_neg, Int.ceil_neg, hpos, neg_nonneg]
      split
      · next h0 => rw [le_antisymm h0 ha, Int.ceil_zero, Int.floor_zero, neg_zero, neg_zero]
      · exact neg_neg _
  | rdn =>
    have hk : k = ⌊x⌋ := h
    rw [hk, hfloor]
    cases neg <;> simp [RoundsMagnitude, signed, signum, Int.floor_neg]
  | rup =>
    have hk : k = ⌈x⌉ := h
    rw [hk, hceil]
    cases neg <;> simp [RoundsMagnitude, signed, signum, Int.ceil_neg]
  | rne =>
    obtain ⟨hk, heven⟩ := h
    refine ⟨hnear hk, fun ht => ?_⟩
    have := heven (htie ht)
    unfold signed
    split <;> omega
  | rmm =>
    obtain ⟨hk, haway⟩ := h
    refine ⟨hnear hk, fun ht => ?_⟩
    have habs : ((|x| : ℚ) : ℝ) ≤ ((|(k : ℚ)| : ℚ) : ℝ) := by exact_mod_cast haway (htie ht)
    push_cast at habs
    rw [hx, abs_signum_mul, abs_of_nonneg ha] at habs
    rwa [abs_signed]

/-- The integer that a mode rounds a finite value to, with the mark of a change (R46). -/
theorem roundInt_eq {rm : RMode} {n : Bool} {m : Nat} {e : Int} {k : Int} (h : RoundsToInt rm (FVal.rat (.fin n m e)) k) :
    roundInt rm n m e = (k, decide (FVal.rat (.fin n m e) ≠ k)) := by
  have hr := roundQ_roundedTo rm n m (e := e) (q := 0) (sticky := false) (d := 0) rfl nofun
  rw [add_zero, sub_zero] at hr
  have hx : ((FVal.rat (.fin n m e) : ℚ) : ℝ) = signum n * (m * 2 ^ e) := by rw [FVal.cast_rat, real_fin]
  have hk := (h.magnitude (by positivity) hx).eq hr
  have hcast : ((roundQ rm n m e false 0).1 : ℝ) = signum n * k := by
    rw [← Int.cast_natCast, ← hk, cast_signed]
  have hval : FVal.rat (.fin n m e) = k ↔ ((roundQ rm n m e false 0).1 : ℝ) = (m : ℝ) * 2 ^ e := by
    rw [← Rat.cast_inj (α := ℝ), hx, Rat.cast_intCast, hcast, eq_comm]
    cases n <;> simp [signum, neg_eq_iff_eq_neg]
  have hsigned : (if n then -((roundQ rm n m e false 0).1 : Int) else (roundQ rm n m e false 0).1) = k := by
    rw [← hk, signed]
    cases n <;> simp
  refine Prod.ext hsigned ?_
  rw [Bool.eq_iff_iff, decide_eq_true_iff]
  exact hr.inexact_iff.trans (not_congr hval).symm

/-- A finite value to an integer type: the rounded value, or the nearest bound with NV (Table 2.9). -/
theorem toIntRange_fin {rm : RMode} {lo hi : Int} {v : FVal} {k : Int} (hv : v.finite) (h : RoundsToInt rm v.rat k) :
    toIntRange rm lo hi v =
      if k < lo then (lo, flNV) else if hi < k then (hi, flNV) else (k, if v.rat = k then 0 else flNX) := by
  obtain ⟨n, m, e, rfl⟩ := hv
  simp only [toIntRange, roundInt_eq h, flagIf, gt_iff_lt, decide_eq_true_eq, ne_eq, ite_not]

-- Classes and signs

/-- A finite number is subnormal, or zero, where its exponent field is zero. -/
theorem fin_lt_iff {F : FSpec} (hF : F.Ieee) {w m : Nat} {n : Bool} {e : Int} (h : F.decode w = .fin n m e) :
    m < 2 ^ F.mb ↔ w / 2 ^ F.mb % 2 ^ F.eb = 0 := by
  have hmod : w % 2 ^ F.mb < 2 ^ F.mb := Nat.mod_lt _ (Nat.two_pow_pos _)
  rw [decode_fin (exponent_ne_top_of_fin hF h), FVal.fin.injEq] at h
  obtain ⟨-, rfl, -⟩ := h
  split <;> simp_all

/-- The bits with a new sign: those below it, and the sign that the form selects (R127). -/
theorem signInject_bits (op : FsgnOp) {w a b : Nat} (hw : 1 ≤ w) :
    signInject op w a b < 2 ^ w ∧ signInject op w a b % 2 ^ (w - 1) = a % 2 ^ (w - 1) ∧
      (signInject op w a b).testBit (w - 1) = match op with
        | .cp => b.testBit (w - 1) | .neg => !b.testBit (w - 1) | .xor => a.testBit (w - 1) ^^ b.testBit (w - 1) := by
  obtain ⟨k, rfl⟩ : ∃ k, w = k + 1 := ⟨w - 1, by omega⟩
  have hbit (x : Nat) : bit x k = x.testBit k := by
    rw [Nat.testBit_eq_decide_div_mod_eq]
    rfl
  have hlt : a % 2 ^ k < 2 ^ k := Nat.mod_lt _ (Nat.two_pow_pos k)
  have hsum (n : Bool) : a % 2 ^ k + n.toNat * 2 ^ k < 2 ^ (k + 1) ∧ (a % 2 ^ k + n.toNat * 2 ^ k) % 2 ^ k = a % 2 ^ k ∧
      (a % 2 ^ k + n.toNat * 2 ^ k).testBit k = n := by
    refine ⟨?_, by rw [Nat.add_mul_mod_self_right, Nat.mod_mod], ?_⟩
    · rw [pow_succ]
      cases n <;> simp <;> omega
    · rw [add_comm, mul_comm, Nat.testBit_two_pow_mul_add _ hlt, if_neg (lt_irrefl k), Nat.sub_self]
      cases n <;> rfl
  simp only [signInject, Nat.add_sub_cancel, hbit]
  cases op <;> exact hsum _


-- The instructions

section
variable (s : State) (t : FFmt) (d a b : FReg) (x y : XReg)

theorem fmin_gives : let r := fMinMax (ffmtSpec t) false (s.fbits t a) (s.fbits t b)
    GivesFlags (.fmin t d a b) s (s.ctx.wf d (BitVec.ofNat 64 r.1)) r.2 :=
  givesFlags_wf _ (show execFmin t d a b s = _ from rfl) rfl rfl rfl

theorem fmax_gives : let r := fMinMax (ffmtSpec t) true (s.fbits t a) (s.fbits t b)
    GivesFlags (.fmax t d a b) s (s.ctx.wf d (BitVec.ofNat 64 r.1)) r.2 :=
  givesFlags_wf _ (show execFmax t d a b s = _ from rfl) rfl rfl rfl

theorem fcmp_gives (c : FcmpCond) : let r := fCompare c (s.fval t a) (s.fval t b)
    GivesFlags (.fcmp c t x a b) s (s.ctx.wx x (BitVec.ofNat 64 r.1.toNat)) r.2 :=
  givesFlags_wx _ _ (show execFcmp c t x a b s = _ from rfl) rfl rfl rfl

theorem fclass_gives :
    GivesFlags (.fclass t x a) s (s.ctx.wx x (BitVec.ofNat 64 (2 ^ fClass (ffmtSpec t) (s.fbits t a)))) 0 :=
  givesFlags_wx _ 0 (show execFclass t x a s = _ from rfl) rfl rfl rfl

theorem fsgn_gives (op : FsgnOp) : GivesFlags (.fsgn op t d a b) s
    (s.ctx.wf d (BitVec.ofNat 64 (signInject op (ffmtSpec t).width (s.fbits t a) (s.fbits t b)))) 0 :=
  givesFlags_wf (_, 0) (show execFsgn op t d a b s = _ from rfl) rfl rfl rfl

theorem fmvf_after (h : Calm s (.fmvf d y) = true) :
    exec (.fmvf d y) s = .next (s.after (s.ctx.wf d (s.ctx.rx y)) 8) := by
  show execFmvf d y s = _
  exact run_done (t := s.wf d (s.rx y)) h rfl rfl (Instr.len_fmvf d y) rfl rfl rfl

/-- What FCVT gives: its result in an f register, or in an x register, extended. -/
def FcvtGives (o : CvtOp) (rnd : Rnd) (r : Nat × Flags) : Prop :=
  match cvtNumTy o.dst with
  | .flt _ => GivesFlags (.fcvt o rnd) s (s.ctx.wf (fReg o.d) (BitVec.ofNat 64 r.1)) r.2
  | .int sg w => GivesFlags (.fcvt o rnd) s (s.ctx.wx o.d (BitVec.ofInt 64 (readInt sg w r.1))) r.2

theorem isFloat_iff {t : CvtTy} : t.isFloat = true ↔ ∃ F, cvtNumTy t = .flt F := by
  cases t <;> simp [CvtTy.isFloat, cvtNumTy]

theorem fcvt_gives (o : CvtOp) (rnd : Rnd) :
    FcvtGives s o rnd (convert (roundingMode s rnd) (cvtNumTy o.src) (cvtNumTy o.dst) (s.cvtSource o)) := by
  have hs : writesStream s.ctx (.fcvt o rnd) = false := writesStream_of_dests fun v => by
    show RegName.v v ∉ [cvtReg o.dst o.d]
    unfold cvtReg
    split <;> simp
  rw [← mode_eq_roundingMode]
  unfold FcvtGives
  split
  · next F hdst =>
    have hf : o.dst.isFloat = true := isFloat_iff.2 ⟨F, hdst⟩
    refine givesFlags_wf _ (show execFcvt o rnd s = _ from rfl) ?_ hs rfl
    simp only [hf, if_true]
  · next sg w hdst =>
    have hf : o.dst.isFloat = false := by
      rw [← Bool.not_eq_true, isFloat_iff]
      rintro ⟨F, hF⟩
      rw [hdst] at hF
      cases hF
    refine givesFlags_wx _ _ (show execFcvt o rnd s = _ from rfl) ?_ hs rfl
    simp only [hf, Bool.false_eq_true, if_false, cvtExtend, hdst]

theorem cvtSource_float {o : CvtOp} {G : FSpec} (h : cvtNumTy o.src = .flt G) :
    s.cvtSource o = (s.ctx.rf (fReg o.a)).toNat := if_pos (isFloat_iff.2 ⟨G, h⟩)

theorem cvtSource_int {o : CvtOp} {sg : Bool} {w : Nat} (h : cvtNumTy o.src = .int sg w) :
    s.cvtSource o = (s.ctx.rx o.a).toNat := if_neg fun hf => by
  obtain ⟨F, hF⟩ := isFloat_iff.1 hf
  rw [h] at hF
  cases hF

end

/-- Settles O29: minimum, maximum and comparison by the order of the exact values (`cmp_fin`), the equal case by
`zeros_of_equal`; a conversion to an integer by `toIntRange_fin`; the others by their bits. -/
theorem floatSelectsComparesConverts : Obligations.FloatSelectsComparesConverts := by
  unfold Obligations.FloatSelectsComparesConverts
  intro s t d a b x y F raw op val givesF givesX nv less lt gt eq un
  have hF : F.Ieee := ffmtSpec_ieee t
  have hval : val = FVal.rat := by ext v; cases v <;> rfl
  have hless : less = FVal.Less := rfl
  have hraw (r : FReg) : raw r < 2 ^ F.width := Nat.mod_lt _ (Nat.two_pow_pos _)
  have hnv : sigFlag [op a, op b] = nv := sigFlag_eq _
  have hmin : givesF (.fmin t d a b) _ _ := fmin_gives s t d a b
  have hmax : givesF (.fmax t d a b) _ _ := fmax_gives s t d a b
  have hcmp (c : FcmpCond) : givesX (.fcmp c t x a b) _ _ := fcmp_gives s t a b x c
  have becomesF {i : Instr} {r : Nat × Flags} {v : Nat} {fl : Flags} (hg : givesF i r.1 r.2) (hr : r = (v, fl)) :
      givesF i v fl := by
    rwa [hr] at hg
  have answers (c : FcmpCond) {p : Bool} {fl : Flags} (hr : fCompare c (op a) (op b) = (p, fl)) :
      givesX (.fcmp c t x a b) p.toNat fl := by
    have h := hcmp c
    rwa [show fCompare c (s.fval t a) (s.fval t b) = (p, fl) from hr] at h
  refine ⟨fun h => ?_, fun h => ?_, fun ⟨ha, hb, hlt, hgt⟩ he => ?_, fun ⟨ha, hb, hlt, hgt⟩ hne => ?_, fun ha hb => ?_,
    fun ha hb => ?_, fun ha hb => ?_, fun h => ?_, fun h => ?_, fun ⟨ha, hb, hlt, hgt⟩ => ?_, fun h => ?_, ?fclass,
    fun o => ?fsgn, ?fmvx, fmvf_after s d y, fun o rnd => ?fcvt⟩
  · exact ⟨becomesF hmin (fMinMax_less h), becomesF hmax (fMinMax_less h)⟩
  · exact ⟨becomesF hmin (fMinMax_greater h), becomesF hmax (fMinMax_greater h)⟩
  · have hc := cmp_of_equal ha hb hlt hgt
    have hsame (isMax : Bool) : fMinMax F isMax (raw a) (raw b) = (raw a, 0) := by
      rw [fMinMax_equal ha hb hc, ← he, ite_self]
    exact ⟨becomesF hmin (hsame false), becomesF hmax (hsame true)⟩
  · have hc := cmp_of_equal ha hb hlt hgt
    obtain ⟨n, hna, hnb⟩ := zeros_of_equal hF (hraw a) (hraw b) hne ha hb hc
    have hzero (isMax : Bool) : fMinMax F isMax (raw a) (raw b) = (if n != isMax then raw a else raw b, 0) := by
      rw [fMinMax_equal ha hb hc, hna]
      rfl
    refine ⟨n, hna, hnb, becomesF hmin ((hzero false).trans ?_), becomesF hmax ((hzero true).trans ?_)⟩
    · rw [Bool.bne_false]
    · cases n <;> rfl
  · rw [← hnv]
    exact ⟨becomesF hmin (fMinMax_nan_left ha hb), becomesF hmax (fMinMax_nan_left ha hb)⟩
  · rw [← hnv]
    exact ⟨becomesF hmin (fMinMax_nan_right ha hb), becomesF hmax (fMinMax_nan_right ha hb)⟩
  · rw [← hnv]
    exact ⟨becomesF hmin (fMinMax_nans ha hb), becomesF hmax (fMinMax_nans ha hb)⟩
  · obtain ⟨ha, hb, hc⟩ := cmp_of_less h
    have hnum (c : FcmpCond) := fCompare_numbers (c := c) ha hb
    simp only [hc] at hnum
    exact ⟨answers .eq (hnum .eq), answers .lt (hnum .lt), answers .le (hnum .le), answers .un (hnum .un)⟩
  · obtain ⟨ha, hb, hc⟩ := cmp_of_greater h
    have hnum (c : FcmpCond) := fCompare_numbers (c := c) ha hb
    simp only [hc] at hnum
    exact ⟨answers .eq (hnum .eq), answers .lt (hnum .lt), answers .le (hnum .le)⟩
  · have hnum (c : FcmpCond) := fCompare_numbers (c := c) ha hb
    simp only [cmp_of_equal ha hb hlt hgt] at hnum
    exact ⟨answers .eq (hnum .eq), answers .lt (hnum .lt), answers .le (hnum .le)⟩
  · have hun (c : FcmpCond) := fCompare_unordered (c := c) h
    rw [← hnv]
    exact ⟨answers .eq (hun .eq), answers .lt (hun .lt), answers .le (hun .le), answers .un (hun .un)⟩
  case fclass =>
    refine ⟨fClass F (raw a), fclass_gives s t a x, ?_⟩
    cases hd : op a with
    | nan g => rw [fClass, show F.decode (raw a) = _ from hd]
    | inf n => rw [fClass, show F.decode (raw a) = _ from hd]
    | fin n m e =>
      rw [fClass, show F.decode (raw a) = _ from hd]
      simp only [fin_lt_iff hF hd]
      split_ifs <;> rfl
  case fsgn =>
    obtain ⟨hlt, hlow, hsign⟩ := signInject_bits o (a := raw a) (b := raw b) (show 1 ≤ F.width by unfold FSpec.width; omega)
    exact ⟨_, fsgn_gives s t d a b o, hlt, hlow, hsign⟩
  case fmvx => exact writesX_of_value (fun s => s.rf a) (show execFmvx x a s = _ from rfl) rfl rfl (Instr.len_fmvx x a)
  case fcvt =>
    intro rm out outInt
    have hout {r : Nat} {fl : Flags} (hr : convert rm (cvtNumTy o.src) (cvtNumTy o.dst) (s.cvtSource o) = (r, fl)) :
        out r fl := by
      have h := fcvt_gives s o rnd
      rwa [show convert (roundingMode s rnd) (cvtNumTy o.src) (cvtNumTy o.dst) (s.cvtSource o) = (r, fl) from hr] at h
    refine ⟨fun G F' hsrc hdst => ?_, fun sg w F' hsrc hdst => ?_, fun G sg w hsrc hdst => ?_,
      fun sg sg' w w' hsrc hdst => ?_⟩
    · exact hout (by rw [hsrc, hdst, cvtSource_float s hsrc]; rfl)
    · exact hout (by rw [hsrc, hdst, cvtSource_int s hsrc]; rfl)
    · intro v
      have hint {k : Int} {fl : Flags} (h : toIntRange rm (intLo sg w) (intHi sg w) v = (k, fl)) : out (wrapBits w k) fl :=
        hout (by
          rw [hsrc, hdst, cvtSource_float s hsrc, convert]
          simp only [show G.decode ((s.ctx.rf (fReg o.a)).toNat % 2 ^ G.width) = v from rfl, h])
      refine ⟨fun hnan => ?_, fun n hinf => hint (by rw [hinf]; rfl), fun k hfin hk => ?_⟩
      · obtain ⟨g, hg⟩ := isNan_iff.1 hnan
        exact hint (k := 0) (by rw [hg]; rfl)
      · rw [hval] at hk ⊢
        have h := toIntRange_fin (lo := intLo sg w) (hi := intHi sg w) hfin hk
        split
        · next hlo => exact hint (h.trans (if_pos hlo))
        · next hlo =>
          rw [if_neg hlo] at h
          split
          · next hhi => exact hint (h.trans (if_pos hhi))
          · next hhi => exact hint (h.trans (if_neg hhi))
    · have hint {k : Int} {fl : Flags}
          (h : satInt (intLo sg' w') (intHi sg' w') (readInt sg w (s.ctx.rx o.a).toNat) = (k, fl)) :
          out (wrapBits w' k) fl :=
        hout (by
          rw [hsrc, hdst, cvtSource_int s hsrc, convert]
          simp only [h])
      show if _ then _ else _
      split
      · next hlo => exact hint (if_pos hlo)
      · next hlo =>
        split
        · next hhi => exact hint ((if_neg hlo).trans (if_pos hhi))
        · next hhi => exact hint ((if_neg hlo).trans (if_neg hhi))

end Sys2Proof.Machine

namespace Sys2Proof.Machine

/-! PROOFS. Completion of vector commands (O32; 05 R116, R120, R129-R137, R141). The queue and the frame come first. -/

section
variable {s t : State} {c k : CtxId} {q : VCmd} {rest : List VCmd}

theorem setCtx_cores (s : State) (c : CtxId) (v : Ctx) : (s.setCtx c v).cores = s.cores := by
  unfold State.setCtx
  split <;> rfl

theorem setCtx_mem (s : State) (c : CtxId) (v : Ctx) : (s.setCtx c v).mem = s.mem := by
  unfold State.setCtx
  split <;> rfl

theorem raiseCluster_eq (s : State) (cl : ClusterId) (fl : Flags) :
    ∃ cls, s.raiseCluster cl fl = { s with clusters := cls } := by
  unfold State.raiseCluster
  split <;> exact ⟨_, rfl⟩

/-- Flags raised for a context are in its FPFLAGS (R48), and on their way to its cluster's. -/
theorem raiseAt_eq (s : State) (c : CtxId) (fl : Flags) : ∃ cls, s.raiseAt c fl =
    { s.setCtx c { s.getCtx c with fpflags := (s.getCtx c).fpflags ||| fl } with clusters := cls } ∨
    fl = 0 ∧ s.raiseAt c fl = s := by
  unfold State.raiseAt
  split
  · next h => exact ⟨s.clusters, .inr ⟨h, rfl⟩⟩
  · obtain ⟨cls, h⟩ :=
      raiseCluster_eq (s.setCtx c { s.getCtx c with fpflags := (s.getCtx c).fpflags ||| fl }) c.core.cl fl
    exact ⟨cls, .inl h⟩

theorem raiseAt_getCtx_same (s : State) (c : CtxId) (fl : Flags) :
    (s.raiseAt c fl).getCtx c = { s.getCtx c with fpflags := (s.getCtx c).fpflags ||| fl } := by
  obtain ⟨cls, h | ⟨rfl, h⟩⟩ := raiseAt_eq s c fl
  · rw [h]
    exact State.getCtx_setCtx_same ..
  · rw [h]
    exact congrArg (fun f => { s.getCtx c with fpflags := f }) BitVec.or_zero.symm

theorem raiseAt_getCtx_other (s : State) (fl : Flags) (hk : k ≠ c) : (s.raiseAt c fl).getCtx k = s.getCtx k := by
  obtain ⟨cls, h | ⟨-, h⟩⟩ := raiseAt_eq s c fl
  · rw [h]
    exact getCtx_setCtx_other _ hk
  · rw [h]

theorem raiseAt_cores (s : State) (c : CtxId) (fl : Flags) : (s.raiseAt c fl).cores = s.cores := by
  obtain ⟨cls, h | ⟨-, h⟩⟩ := raiseAt_eq s c fl
  · rw [h]
    exact setCtx_cores ..
  · rw [h]

theorem raiseAt_mem (s : State) (c : CtxId) (fl : Flags) : (s.raiseAt c fl).mem = s.mem := by
  obtain ⟨cls, h | ⟨-, h⟩⟩ := raiseAt_eq s c fl
  · rw [h]
    exact setCtx_mem ..
  · rw [h]

theorem State.MemoryDiffers.cores {u : State} (h : s.MemoryDiffers u) : u.cores = s.cores := by
  obtain ⟨m, cls, n, rfl⟩ := h
  rfl

theorem differs_readVia (s : State) (c : ClusterId) (pa n : Nat) : s.MemoryDiffers (s.readVia c pa n).1 := by
  unfold State.readVia
  split
  · exact .refl s
  · exact ⟨_, _, s.fresh, rfl⟩

theorem differs_readPlace (s : State) (c : ClusterId) (home : Bool) (pl : Place) (n : Nat) :
    s.MemoryDiffers (s.readPlace c home pl n).1 := by
  induction n generalizing s pl with
  | zero => cases pl <;> exact .refl s
  | succ n ih =>
    cases pl with
    | scr k => exact .refl s
    | glob pa =>
      unfold State.readPlace
      split
      · exact ⟨_, s.clusters, s.fresh, rfl⟩
      · split
        · exact differs_readVia ..
        · exact (differs_readVia ..).trans (ih ..)

theorem differs_loadElem (s : State) (c : ClusterId) (t : VTy) (rm : RMode) (since : Nat) (e : ElemPlan) :
    s.MemoryDiffers (s.loadElem c t rm since e).1 := by
  have hr : s.MemoryDiffers (s.readSince c e.home since e.place (e.span t)).1 := by
    obtain ⟨⟨k, hk⟩, -⟩ := s.readSince_cases c e.home since e.place (e.span t)
    rw [hk]
    exact (differs_readPlace s c e.home e.place (e.span t)).trans ⟨_, _, k, rfl⟩
  unfold State.loadElem
  dsimp only
  split
  · exact hr
  · split
    · exact hr.trans (differs_readPlace ..)
    · split <;> exact hr

theorem differs_loadElems (s : State) (c : ClusterId) (t : VTy) (rm : RMode) (since : Nat) (es : List ElemPlan) :
    s.MemoryDiffers (s.loadElems c t rm since es).1 := by
  induction es generalizing s with
  | nil => exact .refl s
  | cons e es ih => exact (differs_loadElem ..).trans (ih _)

/-- Performing a command changes no core. -/
theorem performVec_cores (s : State) (c : CtxId) (q : VCmd) : (s.performVec c q).cores = s.cores := by
  cases h : vecMemReg q.instr with
  | none =>
    rw [State.performVec, if_neg (by rw [isVectorMem_iff, h]; nofun)]
    exact (raiseAt_cores ..).trans (setCtx_cores ..)
  | some r =>
    obtain ⟨store, t, r⟩ := r
    rw [performVec_of_reg h, vecMemEffect_eq h]
    refine (raiseAt_cores ..).trans ?_
    cases store with
    | true => exact (differs_storePlan ..).cores
    | false => exact (setCtx_cores ..).trans (differs_loadElems ..).cores

/-- The state in which the oldest command of a context is performed: it has left the queue. -/
def State.dequeue (s : State) (c : CtxId) (seq : Nat) : State :=
  let k := s.getCore c.core
  s.setCore c.core { k with vq := k.vq.filter fun p => !(decide (p.seq = seq)) }

/-- The state after the command. -/
def State.completed (s : State) (c : CtxId) (q : VCmd) : State :=
  let u := ((s.dequeue c q.seq).performVec c q).bumpSince c
  u.setCtx c ((u.getCtx c).commandDone q.seq)

theorem vectorCommandComplete_next (h : s.queued c = q :: rest) :
    exec (.vectorCommandComplete c) s = .next (s.completed c q) := by
  show execVectorCommandComplete c s = _
  unfold execVectorCommandComplete
  rw [h]
  rfl

/-- The other commands of a context, its oldest gone. -/
theorem filter_dequeued {l : List VCmd} {n : Nat} (h : l.filter (fun p => p.ctx = n) = q :: rest)
    (hne : ∀ p ∈ rest, p.seq ≠ q.seq) :
    (l.filter fun p => !(decide (p.seq = q.seq))).filter (fun p => p.ctx = n) = rest := by
  rw [List.filter_comm, h, List.filter_cons, if_neg (by simp), List.filter_eq_self.2 (by simpa using hne)]

theorem queued_bumpSince (s : State) (c : CtxId) :
    (s.bumpSince c).queued c = (s.queued c).map fun p => { p with since := s.mem.stores } := by
  have hcore : (s.bumpSince c).getCore c.core = _ := getCore_setCore_same ..
  have hctx : (fun p : VCmd => decide (p.ctx = c.idx)) ∘
      (fun p : VCmd => if p.ctx = c.idx then { p with since := s.mem.stores } else p) =
        fun p => decide (p.ctx = c.idx) := by
    funext p
    simp only [Function.comp_apply]
    split <;> rfl
  rw [State.queued, hcore, List.filter_map, hctx]
  exact List.map_congr_left fun p hp => if_pos (of_decide_eq_true (List.mem_filter.1 hp).2)

theorem queued_congr {u : State} (h : u.cores = s.cores) : u.queued c = s.queued c := by
  rw [State.queued, State.getCore, h]
  rfl

theorem queued_completed (h : s.queued c = q :: rest) (hne : ∀ p ∈ rest, p.seq ≠ q.seq) :
    (s.completed c q).queued c = rest.map fun p => { p with since := (s.completed c q).mem.stores } := by
  have hmem : (s.completed c q).mem = ((s.dequeue c q.seq).performVec c q).mem := setCtx_mem ..
  rw [hmem, State.completed, queued_congr (setCtx_cores ..), queued_bumpSince, queued_congr (performVec_cores ..),
    State.queued, State.dequeue, getCore_setCore_same]
  exact congrArg _ (filter_dequeued h hne)

/-! What an arithmetic command leaves: `VCmd.effect` says what it writes and which flags it raises. -/

/-- The registers of a context after a command, and its flags. -/
structure VCmd.Leaves (q : VCmd) (old new : Ctx) : Prop where
  x : new.x = (q.effect old).1.x
  f : new.f = (q.effect old).1.f
  v : new.v = (q.effect old).1.v
  flags : new.fpflags = (q.effect old).1.fpflags ||| (q.effect old).2

theorem performVec_of_arith (h : isVectorMem q.instr = false) (s : State) :
    s.performVec c q = (s.setCtx c (q.effect (s.getCtx c)).1).raiseAt c (q.effect (s.getCtx c)).2 :=
  if_neg (by rw [h]; exact Bool.false_ne_true)

/-- An arithmetic command changes the registers and the flags of its context. -/
theorem completed_arith (h : isVectorMem q.instr = false) : (s.completed c q).mem = s.mem ∧
    (∀ k, k ≠ c → (s.completed c q).getCtx k = s.getCtx k) ∧ q.Leaves (s.getCtx c) ((s.completed c q).getCtx c) := by
  refine ⟨?_, fun k hk => ?_, ?_⟩
  · refine (setCtx_mem ..).trans ?_
    show ((s.dequeue c q.seq).performVec c q).mem = _
    rw [performVec_of_arith h, raiseAt_mem, setCtx_mem]
    rfl
  · refine (getCtx_setCtx_other _ hk).trans ?_
    show ((s.dequeue c q.seq).performVec c q).getCtx k = _
    rw [performVec_of_arith h, raiseAt_getCtx_other _ _ hk, getCtx_setCtx_other _ hk]
    rfl
  · have hnew : (s.completed c q).getCtx c = { (q.effect (s.getCtx c)).1 with
        fpflags := (q.effect (s.getCtx c)).1.fpflags ||| (q.effect (s.getCtx c)).2 }.commandDone q.seq := by
      refine (State.getCtx_setCtx_same ..).trans (congrArg (Ctx.commandDone · q.seq) ?_)
      show ((s.dequeue c q.seq).performVec c q).getCtx c = _
      rw [performVec_of_arith h, raiseAt_getCtx_same, State.getCtx_setCtx_same]
      rfl
    rw [hnew]
    exact ⟨rfl, rfl, rfl, rfl⟩

end

end Sys2Proof.Machine

namespace Sys2Proof.Machine

/-! What a command writes: a v register, lane by lane (R120). -/

/-- Of the registers only a v register has changed. -/
def Ctx.ChangesV (old new : Ctx) (d : VReg) : Prop := new.x = old.x ∧ new.f = old.f ∧ ∀ r, r ≠ d → new.rv r = old.rv r

/-- A context has flags raised. -/
def Ctx.Raised (c : Ctx) (fl : Flags) : Prop := c.fpflags &&& fl = fl

/-- The active lanes of a v register have been given values, without flags. -/
def VCmd.Gives (q : VCmd) (old new : Ctx) (d : VReg) (f : Fin 32 → Lane) : Prop :=
  new.rv d = Vector.ofFn (fun j : Fin 32 => if q.lane j.val then f j else (old.rv d).get j) ∧
    new.fpflags = old.fpflags ∧ old.ChangesV new d

section
variable {q : VCmd} {old new : Ctx} {d : VReg} {l : Lanes} {fl : Flags} {f : Nat → Nat × Flags} {t : VTy}
  {g : Fin 32 → Lane}

theorem Ctx.rv_wv_same (c : Ctx) (d : VReg) (l : Lanes) : (c.wv d l).rv d = l := Vector.getElem_set_self _

theorem Ctx.rv_wv_other (c : Ctx) (l : Lanes) {r : VReg} (h : r ≠ d) : (c.wv d l).rv r = c.rv r :=
  Vector.getElem_set_ne d.isLt r.isLt fun he => h (Fin.ext he.symm)

theorem VCmd.Leaves.rv (h : q.Leaves old new) (r : VReg) : new.rv r = (q.effect old).1.rv r := by
  rw [Ctx.rv, h.v]
  rfl

/-- A command that writes a v register. -/
theorem VCmd.Leaves.writesV (h : q.Leaves old new) (he : q.effect old = (old.wv d l, fl)) :
    new.rv d = l ∧ new.fpflags = old.fpflags ||| fl ∧ old.ChangesV new d := by
  refine ⟨?_, ?_, ?_, ?_, fun r hr => ?_⟩
  · rw [h.rv, he, Ctx.rv_wv_same]
  · rw [h.flags, he]
    rfl
  · rw [h.x, he]
    rfl
  · rw [h.f, he]
    rfl
  · rw [h.rv, he, Ctx.rv_wv_other _ _ hr]

theorem VCmd.Leaves.gives (h : q.Leaves old new) (he : q.effect old =
    (old.wv d (Vector.ofFn fun j : Fin 32 => if q.lane j.val then g j else (old.rv d).get j), 0)) :
    q.Gives old new d g := by
  obtain ⟨hd, hf, ho⟩ := h.writesV he
  exact ⟨hd, hf.trans BitVec.or_zero, ho⟩

/-- A command that writes an x register and no other. -/
theorem VCmd.Leaves.writesX (h : q.Leaves old new) {x : XReg} {v : Word} (he : q.effect old = (old.wx x v, fl)) :
    new.x = (old.wx x v).x ∧ new.v = old.v := by
  refine ⟨by rw [h.x, he], ?_⟩
  rw [h.v, he]
  exact Ctx.wx_v ..

/-- Elements that fill a lane each. -/
theorem act_eq_lane (h : t ≠ .f64) (q : VCmd) (i : Nat) : q.act t i = q.lane i := by rw [VCmd.act, if_neg h]

theorem elemOf_eq (h : t ≠ .f64) (j : Nat) : elemOf t j = j := if_neg h

theorem put_fst (h : t ≠ .f64) (q : VCmd) (v : Lanes) (f : Nat → Nat × Flags) : (q.put t v f).1 =
    Vector.ofFn fun j : Fin 32 => if q.lane j.val then lanePart t j.val (f j.val).1 else v.get j := by
  simp only [VCmd.put, act_eq_lane h, elemOf_eq h]

theorem orElems_eq_zero (l : List Nat) (h : ∀ i, (f i).2 = 0) : orElems l f = 0 :=
  List.foldlRecOn (motive := fun fl : Flags => fl = 0) l _ rfl fun fl hfl i _ => by rw [hfl, h]; rfl

/-- The active elements of a v register are written, and their flags raised. -/
def VCmd.puts (q : VCmd) (old : Ctx) (t : VTy) (d : VReg) (f : Nat → Nat × Flags) : Ctx × Flags :=
  (old.wv d (q.put t (old.rv d) f).1, orElems (q.actives t) f)

/-- An integer result, element by element. -/
theorem VCmd.Leaves.gives_put (h : q.Leaves old new) (he : q.effect old = q.puts old t d f) (ht : t ≠ .f64)
    (hf : ∀ i, (f i).2 = 0) (hg : ∀ j : Fin 32, lanePart t j.val (f j.val).1 = g j) : q.Gives old new d g :=
  h.gives (by rw [he, VCmd.puts, put_fst ht, orElems_eq_zero _ hf]; simp only [hg])

end

/-! The commands that write elements, each with its operation. -/

section
variable {q : VCmd} {old : Ctx} {t : VTy} {sat half : Bool} {rnd : Rnd} {d a b c : VReg} {x m : XReg} {v : VshSrc}

/-- Element i of a source. -/
def VCmd.elem (q : VCmd) (old : Ctx) (t : VTy) (r : VReg) (i : Nat) : Nat := elemBits t (q.src old r) i

theorem effect_vadd (h : q.instr = .vadd t sat rnd d a b m) :
    q.effect old = q.puts old t d fun i => vAddE t sat q.rm (q.elem old t a i) (q.elem old t b i) := by
  simp only [VCmd.effect, h]
  rfl

theorem effect_vsub (h : q.instr = .vsub t sat rnd d a b m) :
    q.effect old = q.puts old t d fun i => vSubE t sat q.rm (q.elem old t a i) (q.elem old t b i) := by
  simp only [VCmd.effect, h]
  rfl

theorem effect_vmul (h : q.instr = .vmul t sat rnd d a b m) :
    q.effect old = q.puts old t d fun i => vMulE t sat q.rm (q.elem old t a i) (q.elem old t b i) := by
  simp only [VCmd.effect, h]
  rfl

theorem effect_vfma (h : q.instr = .vfma t rnd d a b c m) : q.effect old = q.puts old t d fun i =>
    vFmaE t q.rm (q.elem old t a i) (q.elem old t b i) (q.elem old t c i) := by
  simp only [VCmd.effect, h]
  rfl

theorem effect_vmin (h : q.instr = .vmin t d a b m) :
    q.effect old = q.puts old t d fun i => vMinMaxE t false (q.elem old t a i) (q.elem old t b i) := by
  simp only [VCmd.effect, h]
  rfl

theorem effect_vmax (h : q.instr = .vmax t d a b m) :
    q.effect old = q.puts old t d fun i => vMinMaxE t true (q.elem old t a i) (q.elem old t b i) := by
  simp only [VCmd.effect, h]
  rfl

theorem effect_vshl (h : q.instr = .vshl t d a v m) :
    q.effect old = q.puts old t d fun i => vShiftE t false (q.elem old t a i) (q.shift old t v i) := by
  simp only [VCmd.effect, h]
  rfl

theorem effect_vshr (h : q.instr = .vshr t d a v m) :
    q.effect old = q.puts old t d fun i => vShiftE t true (q.elem old t a i) (q.shift old t v i) := by
  simp only [VCmd.effect, h]
  rfl

theorem effect_vsf {fn : VsfFn} (h : q.instr = .vsf fn rnd d a m) :
    q.effect old = q.puts old .f32 d fun i => specialFn fn q.rm (q.elem old .f32 a i) := by
  simp only [VCmd.effect, h]
  rfl

end

/-! Integers in lanes (Table 5.1). -/

section
variable {w : Nat} {sg : Bool} {i : Int} {t : VTy} {l : Lanes}

theorem readInt_unsigned (w n : Nat) : readInt false w n = (BitVec.ofNat w n).toNat := by
  simp [readInt]

theorem ofNat_wrapBits (w : Nat) (i : Int) : BitVec.ofNat w (wrapBits w i) = BitVec.ofInt w i :=
  BitVec.eq_of_toNat_eq (by
    rw [BitVec.toNat_ofNat, BitVec.toNat_ofInt, wrapBits]
    have := BitVec.isLt (BitVec.ofInt w i)
    rw [BitVec.toNat_ofInt] at this
    exact Nat.mod_eq_of_lt this)

/-- A number in the range of an integer type is what its bits read as. -/
theorem readInt_wrapBits (hw : 0 < w) (hlo : intLo sg w ≤ i) (hhi : i ≤ intHi sg w) :
    readInt sg w (wrapBits w i) = i := by
  have hpow : (2 : Int) ^ w = 2 * 2 ^ (w - 1) := by
    rw [← pow_succ', Nat.sub_add_cancel hw]
  cases sg with
  | true =>
    simp only [intLo, intHi, if_true] at hlo hhi
    push_cast at hlo hhi
    rw [readInt_signed, ofNat_wrapBits, BitVec.toInt_ofInt_eq_self hw hlo (by omega)]
  | false =>
    simp only [intLo, intHi, Bool.false_eq_true, if_false] at hlo hhi
    rw [readInt_unsigned, ofNat_wrapBits, BitVec.toNat_ofInt, Int.emod_eq_of_lt hlo (by omega), Int.toNat_of_nonneg hlo]

/-- An element fills its lane by the extension of its type. -/
theorem ofNat_fillLane_int (b : Nat) : BitVec.ofNat 32 (fillLane (.int sg w) b) = BitVec.ofInt 32 (readInt sg w b) := by
  cases sg with
  | true => exact ofNat_wrapBits ..
  | false =>
    rw [readInt_unsigned, BitVec.toNat_ofNat, BitVec.ofInt_natCast]
    rfl

theorem readInt_mod (n : Nat) : readInt sg w (n % 2 ^ w) = readInt sg w n := by
  simp [readInt]

/-- Clamping, as the smaller of the greater. -/
theorem clamp_eq (h : intLo sg w ≤ intHi sg w) :
    (if i < intLo sg w then intLo sg w else if i > intHi sg w then intHi sg w else i) =
    max (intLo sg w) (min (intHi sg w) i) := by
  generalize intLo sg w = lo at *
  generalize intHi sg w = hi at *
  split_ifs <;> omega

theorem intLo_le_intHi (sg : Bool) (w : Nat) : intLo sg w ≤ intHi sg w := by
  have h : (0 : Int) < 2 ^ (w - 1) := by positivity
  have h' : (0 : Int) < 2 ^ w := by positivity
  cases sg <;> simp only [intLo, intHi, if_true, Bool.false_eq_true, if_false] <;> push_cast <;> omega

/-- What an integer result of VADD, VSUB and VMUL leaves in its lane. -/
theorem ofNat_intResult (hw : 0 < w) (sat : Bool) (i : Int) :
    BitVec.ofNat 32 (fillLane (.int sg w) (intResult sat sg w i)) =
      BitVec.ofInt 32 (if sat then max (intLo sg w) (min (intHi sg w) i) else readInt sg w (wrapBits w i)) := by
  rw [ofNat_fillLane_int]
  cases sat with
  | false => rfl
  | true =>
    have h := intLo_le_intHi sg w
    simp only [intResult, if_true, clamp_eq h]
    rw [readInt_wrapBits hw (by omega) (by omega)]

theorem vtyNum_int (h : vtyNum t = .int sg w) : t ≠ .f64 ∧ 0 < w := by
  cases t <;> cases h <;> decide

theorem elemBits_int (h : vtyNum t = .int sg w) (l : Lanes) (i : Nat) : elemBits t l i = laneAt l i % 2 ^ w := by
  rw [elemBits, if_neg (vtyNum_int h).1, h]
  rfl

theorem lanePart_int (h : vtyNum t = .int sg w) (j b : Nat) :
    lanePart t j b = BitVec.ofNat 32 (fillLane (.int sg w) b) := by
  rw [lanePart, if_neg (vtyNum_int h).1, h]

theorem laneAt_fin (l : Lanes) (j : Fin 32) : laneAt l j.val = (l.get j).toNat := by
  rw [laneAt, Vector.getElem?_eq_getElem j.isLt]
  rfl

theorem laneAt_lt (l : Lanes) (i : Nat) : laneAt l i < 2 ^ 32 := BitVec.isLt _

/-- A lane as a 32-bit integer. -/
theorem readInt_lane_signed (l : Lanes) (j : Fin 32) : readInt true 32 (laneAt l j.val) = (l.get j).toInt := by
  rw [readInt_signed, laneAt_fin, BitVec.ofNat_toNat, BitVec.setWidth_eq]

end

end Sys2Proof.Machine

namespace Sys2Proof.Machine

/-! Integer commands, one lemma per row of Table 5.3. -/

section
variable {q : VCmd} {old new : Ctx} {u : VTy} {d a b : VReg} {x m : XReg} {n : Fin 32} {imm : BitVec 32} {rnd : Rnd}
  {sg sat : Bool} {w : Nat}

/-- A lane of a source as a number of an integer type. -/
def VCmd.int (q : VCmd) (old : Ctx) (sg : Bool) (w : Nat) (r : VReg) (j : Fin 32) : Int :=
  readInt sg w (laneAt (q.src old r) j.val)

/-- An integer result in its lane, wrapped or clamped. -/
def intLane (sat sg : Bool) (w : Nat) (v : Int) : Lane :=
  BitVec.ofInt 32 (if sat then max (intLo sg w) (min (intHi sg w) v) else readInt sg w (wrapBits w v))

theorem readInt_elem (hu : vtyNum u = .int sg w) (j : Fin 32) (r : VReg) :
    readInt sg w (q.elem old u r j.val) = q.int old sg w r j := by
  rw [VCmd.elem, elemBits_int hu, readInt_mod]
  rfl

section
variable (h : q.Leaves old new) (hu : vtyNum u = .int sg w)
include h hu

/-- An operation on integers, wrapped or clamped. -/
theorem gives_intResult (op : Int → Int → Int) (he : q.effect old = q.puts old u d fun i =>
      (intResult sat sg w (op (readInt sg w (q.elem old u a i)) (readInt sg w (q.elem old u b i))), 0)) :
    q.Gives old new d fun j => intLane sat sg w (op (q.int old sg w a j) (q.int old sg w b j)) := by
  refine h.gives_put he (vtyNum_int hu).1 (fun _ => rfl) fun j => ?_
  simp only [lanePart_int hu, readInt_elem hu, ofNat_intResult (vtyNum_int hu).2]
  rfl

theorem gives_vadd (hi : q.instr = .vadd u sat rnd d a b m) :
    q.Gives old new d fun j => intLane sat sg w (q.int old sg w a j + q.int old sg w b j) :=
  gives_intResult h hu (· + ·) (by rw [effect_vadd hi]; simp only [vAddE, hu])

theorem gives_vsub (hi : q.instr = .vsub u sat rnd d a b m) :
    q.Gives old new d fun j => intLane sat sg w (q.int old sg w a j - q.int old sg w b j) :=
  gives_intResult h hu (· - ·) (by rw [effect_vsub hi]; simp only [vSubE, hu])

theorem gives_vmul (hi : q.instr = .vmul u sat rnd d a b m) :
    q.Gives old new d fun j => intLane sat sg w (q.int old sg w a j * q.int old sg w b j) :=
  gives_intResult h hu (· * ·) (by rw [effect_vmul hi]; simp only [vMulE, hu])

end

/-! The 32-bit types. -/

/-- A 32-bit element is its lane. -/
theorem ofNat_fillLane_word (sg : Bool) (b : Nat) : BitVec.ofNat 32 (fillLane (.int sg 32) b) = BitVec.ofNat 32 b := by
  rw [ofNat_fillLane_int]
  cases sg with
  | true => rw [readInt_signed, BitVec.ofInt_toInt]
  | false => rw [readInt_unsigned, BitVec.ofInt_natCast, BitVec.ofNat_toNat, BitVec.setWidth_eq]

theorem elem_word (hu : vtyNum u = .int sg 32) (r : VReg) (j : Fin 32) :
    q.elem old u r j.val = ((q.src old r).get j).toNat := by
  rw [VCmd.elem, elemBits_int hu, laneAt_fin, Nat.mod_eq_of_lt (BitVec.isLt _)]

theorem shift_word (hu : vtyNum u = .int sg 32) (r : VReg) (j : Fin 32) :
    q.shift old u (.reg r) j.val = ((q.src old r).get j).toNat := elem_word hu r j

theorem vtyNum_word (hu : u = .i32 ∨ u = .z32) : ∃ sg, vtyNum u = .int sg 32 := by
  rcases hu with rfl | rfl <;> exact ⟨_, rfl⟩

theorem readInt_word_signed (x : Lane) : readInt true 32 x.toNat = x.toInt := by
  rw [readInt_signed, BitVec.ofNat_toNat, BitVec.setWidth_eq]

theorem readInt_word_unsigned (x : Lane) : readInt false 32 x.toNat = x.toNat := by
  rw [readInt_unsigned, BitVec.ofNat_toNat, BitVec.setWidth_eq]

/-- The lane `x` of the lesser, or with `isMax` the greater, of two elements. -/
theorem lanePart_pick (hu : vtyNum u = .int sg 32) (j : Nat) (p : Prop) [Decidable p] (isMax : Bool) (x y : Lane) :
    lanePart u j (if decide p != isMax then x.toNat else y.toNat) = if p ↔ isMax = false then x else y := by
  have hlane (z : Lane) : BitVec.ofNat 32 z.toNat = z := by rw [BitVec.ofNat_toNat, BitVec.setWidth_eq]
  rw [lanePart_int hu, ofNat_fillLane_word]
  by_cases hp : p <;> cases isMax <;> simp [hp, hlane]

section
variable (h : q.Leaves old new)
include h

theorem gives_vshl (hu : u = .i32 ∨ u = .z32) (hi : q.instr = .vshl u d a (.reg b) m) :
    q.Gives old new d fun j => (q.src old a).get j <<< (((q.src old b).get j).toNat % 32) := by
  obtain ⟨sg, hu⟩ := vtyNum_word hu
  refine h.gives_put (effect_vshl hi) (vtyNum_int hu).1 (fun i => by simp only [vShiftE, hu]) fun j => ?_
  simp only [vShiftE, hu, lanePart_int hu, ofNat_fillLane_word, shift_word hu, elem_word hu]
  apply BitVec.eq_of_toNat_eq
  simp [BitVec.toNat_shiftLeft, Nat.shiftLeft_eq]

theorem gives_vminmax (hu : vtyNum u = .int sg 32) (isMax : Bool)
    (hi : q.instr = if isMax then .vmax u d a b m else .vmin u d a b m) :
    q.Gives old new d fun j => if readInt sg 32 ((q.src old a).get j).toNat ≤ readInt sg 32 ((q.src old b).get j).toNat ↔
      isMax = false then (q.src old a).get j else (q.src old b).get j := by
  have he : q.effect old = q.puts old u d fun i => vMinMaxE u isMax (q.elem old u a i) (q.elem old u b i) := by
    cases isMax with
    | true => exact effect_vmax hi
    | false => exact effect_vmin hi
  refine h.gives_put he (vtyNum_int hu).1 (fun i => by simp only [vMinMaxE, hu]) fun j => ?_
  simp only [vMinMaxE, hu, elem_word hu]
  exact lanePart_pick hu ..

theorem gives_vmin (hu : vtyNum u = .int sg 32) (hi : q.instr = .vmin u d a b m) : q.Gives old new d fun j =>
    if readInt sg 32 ((q.src old a).get j).toNat ≤ readInt sg 32 ((q.src old b).get j).toNat
    then (q.src old a).get j else (q.src old b).get j := by
  simpa only [iff_true] using gives_vminmax h hu false hi

theorem gives_vmax (hu : vtyNum u = .int sg 32) (hi : q.instr = .vmax u d a b m) : q.Gives old new d fun j =>
    if readInt sg 32 ((q.src old a).get j).toNat ≤ readInt sg 32 ((q.src old b).get j).toNat
    then (q.src old b).get j else (q.src old a).get j := by
  simpa only [Bool.true_eq_false, iff_false, ite_not] using gives_vminmax h hu true hi

theorem gives_vshr_unsigned (hi : q.instr = .vshr .z32 d a (.imm imm) m) :
    q.Gives old new d fun j => (q.src old a).get j >>> (imm.toNat % 32) := by
  have hu : vtyNum .z32 = .int false 32 := rfl
  refine h.gives_put (effect_vshr hi) nofun (fun i => by simp only [vShiftE, hu]) fun j => ?_
  simp only [vShiftE, hu, lanePart_int hu, ofNat_fillLane_word, VCmd.shift, elem_word hu, readInt_word_unsigned,
    if_true, ofNat_wrapBits]
  apply BitVec.eq_of_toNat_eq
  rw [← Int.natCast_ediv, BitVec.ofInt_natCast, BitVec.toNat_ofNat, BitVec.toNat_ushiftRight, Nat.shiftRight_eq_div_pow]
  exact Nat.mod_eq_of_lt ((Nat.div_le_self ..).trans_lt (BitVec.isLt _))

theorem gives_vshr_signed (hi : q.instr = .vshr .i32 d a (.imm imm) m) :
    q.Gives old new d fun j => ((q.src old a).get j).sshiftRight (imm.toNat % 32) := by
  have hu : vtyNum .i32 = .int true 32 := rfl
  refine h.gives_put (effect_vshr hi) nofun (fun i => by simp only [vShiftE, hu]) fun j => ?_
  simp only [vShiftE, hu, lanePart_int hu, ofNat_fillLane_word, VCmd.shift, elem_word hu, readInt_word_signed,
    if_true, ofNat_wrapBits]
  rw [BitVec.sshiftRight, Int.shiftRight_eq_div_pow]

/-- Bitwise and moved lanes: every lane is written as it comes. -/
theorem gives_lanes {f : Nat → Nat} {g : Fin 32 → Lane} (he : q.effect old = (old.wv d (Vector.ofFn fun j : Fin 32 =>
      if q.lane j.val then BitVec.ofNat 32 (f j.val) else (old.rv d).get j), 0))
    (hg : ∀ j : Fin 32, f j.val = (g j).toNat) : q.Gives old new d g :=
  h.gives (by simp only [he, hg, BitVec.ofNat_toNat, BitVec.setWidth_eq])

theorem gives_vand (hi : q.instr = .vand u d a b m) :
    q.Gives old new d fun j => (q.src old a).get j &&& (q.src old b).get j :=
  gives_lanes h (f := fun j => Nat.land (laneAt (q.src old a) j) (laneAt (q.src old b) j)) (by simp only [VCmd.effect, hi])
    fun j => by simp only [laneAt_fin]; rfl

theorem gives_vor (hi : q.instr = .vor u d a b m) :
    q.Gives old new d fun j => (q.src old a).get j ||| (q.src old b).get j :=
  gives_lanes h (f := fun j => Nat.lor (laneAt (q.src old a) j) (laneAt (q.src old b) j)) (by simp only [VCmd.effect, hi])
    fun j => by simp only [laneAt_fin]; rfl

theorem gives_vxor (hi : q.instr = .vxor u d a b m) :
    q.Gives old new d fun j => (q.src old a).get j ^^^ (q.src old b).get j :=
  gives_lanes h (f := fun j => Nat.xor (laneAt (q.src old a) j) (laneAt (q.src old b) j)) (by simp only [VCmd.effect, hi])
    fun j => by simp only [laneAt_fin]; rfl

theorem gives_vperm (hi : q.instr = .vperm u d a b m) : q.Gives old new d fun j =>
    (q.src old a).get ⟨((q.src old b).get j).toNat % 32, Nat.mod_lt _ (by decide)⟩ :=
  gives_lanes h (f := fun j => laneAt (q.src old a) (laneAt (q.src old b) j % 32)) (by simp only [VCmd.effect, hi])
    fun j => by
      simp only [laneAt_fin (q.src old b)]
      exact laneAt_fin _ ⟨_, Nat.mod_lt _ (by decide)⟩

theorem gives_vbcast_imm (hi : q.instr = .vbcast u (.imm imm) d m) : q.Gives old new d fun _ => imm :=
  gives_lanes h (f := fun _ => imm.toNat) (by simp only [VCmd.effect, hi]) fun _ => rfl

theorem gives_vbcast_lane (hi : q.instr = .vbcast u (.lane a n) d m) :
    q.Gives old new d fun _ => (q.src old a).get n :=
  gives_lanes h (f := fun _ => laneAt (q.src old a) n.val) (by simp only [VCmd.effect, hi]) fun _ => laneAt_fin ..

theorem rv_vsel (hi : q.instr = .vsel u d a b m) : new.rv d = Vector.ofFn fun j : Fin 32 =>
    if q.lane j.val then (q.src old a).get j else (q.src old b).get j :=
  (h.writesV (fl := 0) (by simp only [VCmd.effect, hi])).1

theorem rv_vins (hi : q.instr = .vins u d x n) :
    new.rv d = if q.lane n.val then (old.rv d).set n.val (q.op1.setWidth 32) else old.rv d := by
  rw [h.rv]
  simp only [VCmd.effect, hi]
  split
  · exact Ctx.rv_wv_same ..
  · rfl

theorem x_vext_signed (hi : q.instr = .vext .i32 x a n) :
    new.x = (old.wx x (((q.src old a).get n).signExtend 64)).x := by
  refine (h.writesX (fl := 0) ?_).1
  simp only [VCmd.effect, hi, if_true, readInt_lane_signed]
  rfl

theorem x_vext_unsigned (hi : q.instr = .vext .z32 x a n) :
    new.x = (old.wx x (((q.src old a).get n).setWidth 64)).x := by
  refine (h.writesX (fl := 0) ?_).1
  simp only [VCmd.effect, hi, reduceCtorEq, if_false, laneAt_fin, word, BitVec.ofNat_toNat]

end
end
end Sys2Proof.Machine

namespace Sys2Proof.Machine

/-! Masks, reductions and scans (05 R130, R134, R135). -/

section
variable {q : VCmd} {old new : Ctx} {u : VTy} {d a b : VReg} {x m : XReg} {rnd : Rnd}

/-- The number that has the bits of the indices that satisfy a predicate. -/
theorem testBit_sum_two_pow (p : Nat → Bool) (n : Nat) :
    let s := (List.range n).foldl (fun m i => m + if p i then 2 ^ i else 0) 0
    s < 2 ^ n ∧ ∀ j, s.testBit j = (decide (j < n) && p j) := by
  induction n with
  | zero => simp
  | succ n ih =>
    obtain ⟨hlt, hbit⟩ := ih
    simp only [List.range_succ, List.foldl_append, List.foldl_cons, List.foldl_nil]
    generalize (List.range n).foldl (fun m i => m + if p i then 2 ^ i else 0) 0 = s at *
    cases hp : p n with
    | false =>
      refine ⟨by simp only [Bool.false_eq_true, if_false]; omega, fun j => ?_⟩
      rw [if_neg Bool.false_ne_true, add_zero, hbit]
      rcases eq_or_ne j n with rfl | hj
      · simp [hp]
      · rw [show decide (j < n + 1) = decide (j < n) from decide_eq_decide.2 (by omega)]
    | true =>
      refine ⟨by simp only [if_true]; omega, fun j => ?_⟩
      rw [if_pos rfl, add_comm]
      rcases lt_trichotomy j n with hj | rfl | hj
      · rw [Nat.testBit_two_pow_add_gt hj, hbit,
          show decide (j < n + 1) = decide (j < n) from decide_eq_decide.2 (by omega)]
      · rw [Nat.testBit_two_pow_add_eq, hbit]
        simp [hp]
      · rw [Nat.testBit_lt_two_pow (by
          have := Nat.pow_le_pow_right two_pos (Nat.succ_le_of_lt hj)
          omega)]
        simp [show ¬ j < n + 1 by omega]

/-- A fold over the elements that satisfy a predicate, over all elements. -/
theorem foldl_filter_add {α : Type} [AddMonoid α] (p : Nat → Bool) (f : Nat → α) (l : List Nat) (z : α) :
    (l.filter p).foldl (fun m i => m + f i) z = l.foldl (fun m i => m + if p i then f i else 0) z := by
  induction l generalizing z with
  | nil => rfl
  | cons i l ih =>
    rw [List.filter_cons, List.foldl_cons]
    cases hp : p i with
    | true => rw [if_pos rfl, if_pos rfl, List.foldl_cons, ih]
    | false => rw [if_neg Bool.false_ne_true, if_neg Bool.false_ne_true, add_zero, ih]

theorem actives_eq (h : u ≠ .f64) (q : VCmd) : q.actives u = (List.range 32).filter q.lane := by
  rw [VCmd.actives, elemCount, if_neg h]
  exact List.filter_congr fun i _ => act_eq_lane h q i

/-- VCMP EQ's mask, for a type with one lane per element. -/
theorem cmpMask_bits (h : u ≠ .f64) (f : Nat → Bool × Flags) (j : Nat) (hj : j < 64) :
    (q.cmpMask u f).getLsbD j = (decide (j < 32) && (q.lane j && (f j).1)) := by
  have hsum := testBit_sum_two_pow (fun i => q.lane i && (f i).1) 32
  have he : q.cmpMask u f = word ((List.range 32).foldl (fun m i => m + if q.lane i && (f i).1 then 2 ^ i else 0) 0) := by
    rw [VCmd.cmpMask, actives_eq h, foldl_filter_add]
    refine congrArg word (List.foldl_ext _ _ _ fun m i _ => ?_)
    rw [if_neg h]
    cases q.lane i <;> simp
  rw [he, word, BitVec.getLsbD_ofNat, hsum.2]
  simp [hj]

theorem effect_vcmp {c : VcmpCond} (h : q.instr = .vcmp c u x a b m) : q.effect old =
    (old.wx x (q.cmpMask u fun i => vCmpE c u (q.elem old u a i) (q.elem old u b i)),
      (q.actives u).foldl (fun fl i => fl ||| (vCmpE c u (q.elem old u a i) (q.elem old u b i)).2) 0) := by
  simp only [VCmd.effect, h]
  rfl

theorem vcmp_word (h : q.Leaves old new) (hu : u = .i32 ∨ u = .z32) (hi : q.instr = .vcmp .eq u x a b m) :
    new.rv = old.rv ∧ ∃ v, new.x = (old.wx x v).x ∧ ∀ j < 64, v.getLsbD j =
      (if h : j < 32 then q.lane j && (q.src old a).get ⟨j, h⟩ == (q.src old b).get ⟨j, h⟩ else false) := by
  obtain ⟨hx, hv⟩ := h.writesX (effect_vcmp hi)
  refine ⟨funext fun r => by rw [Ctx.rv, hv]; rfl, _, hx, fun j hj => ?_⟩
  obtain ⟨sg, hw⟩ := vtyNum_word hu
  rw [cmpMask_bits (vtyNum_int hw).1 _ j hj]
  split
  · next h32 =>
    have hinj (y z : Lane) : readInt sg 32 y.toNat = readInt sg 32 z.toNat ↔ y = z := by
      cases sg with
      | true => rw [readInt_word_signed, readInt_word_signed, BitVec.toInt_inj]
      | false => rw [readInt_word_unsigned, readInt_word_unsigned, Int.natCast_inj, BitVec.toNat_inj]
    have he (r : VReg) : q.elem old u r j = ((q.src old r).get ⟨j, h32⟩).toNat := elem_word hw r ⟨j, h32⟩
    simp only [vCmpE, hw, he, hinj, h32, decide_true, Bool.true_and]
    rfl
  · next h32 => simp [h32]

-- Reductions

theorem foldl_add_eq_sum (f : Nat → Int) (l : List Nat) (z : Int) :
    l.foldl (fun n i => n + f i) z = z + (l.map f).sum := by
  induction l generalizing z with
  | nil => simp
  | cons i l ih => rw [List.foldl_cons, ih, List.map_cons, List.sum_cons, add_assoc]

/-- Sums over the lanes of a register. -/
theorem sum_range_lanes (f : Nat → Int) :
    ((List.range 32).map f).sum = ((List.finRange 32).map fun j : Fin 32 => f j.val).sum := by
  rw [← List.map_coe_finRange_eq_range, List.map_map]
  rfl

theorem sum_filter (p : Nat → Bool) (f : Nat → Int) (l : List Nat) :
    ((l.filter p).map f).sum = (l.map fun i => if p i then f i else 0).sum := by
  have h := foldl_filter_add p f l 0
  rwa [foldl_add_eq_sum, foldl_add_eq_sum, zero_add, zero_add] at h

theorem vred_sum (h : q.Leaves old new) {D : Fin 64} (hi : q.instr = .vred .sum .i32 rnd D a m) :
    new.v = old.v ∧ new.x = (old.wx D (BitVec.ofInt 64
      ((List.finRange 32).map fun j => if q.lane j.val then ((q.src old a).get j).toInt else 0).sum)).x := by
  have hu : vtyNum .i32 = .int true 32 := rfl
  have hsum : (q.reduce .sum .i32 (q.src old a)).1 = BitVec.ofInt 64
      ((List.finRange 32).map fun j : Fin 32 => if q.lane j.val then ((q.src old a).get j).toInt else 0).sum := by
    simp only [VCmd.reduce, hu, List.foldl_map]
    rw [foldl_add_eq_sum, zero_add, actives_eq (u := .i32) nofun, sum_filter, sum_range_lanes]
    have he (j : Fin 32) : elemBits .i32 (q.src old a) j.val = ((q.src old a).get j).toNat := elem_word hu a j
    simp only [he, readInt_word_signed]
  obtain ⟨hx, hv⟩ := h.writesX (x := D) (v := (q.reduce .sum .i32 (q.src old a)).1)
    (fl := (q.reduce .sum .i32 (q.src old a)).2) (by simp only [VCmd.effect, hi]; rfl)
  exact ⟨hv, by rw [hx, hsum]⟩

-- Scans

/-- The running sums of 32-bit integers: before each element, and with it. No flag is raised. -/
theorem runningSums_int (rm : RMode) (es : List Nat) (p : Option Nat) {n : Nat} (hn : n < es.length) :
    ∃ r, (runningSums (vAddE .i32 false rm) p es)[n]? = some r ∧
      BitVec.ofNat 32 (r.1.getD 0) = BitVec.ofNat 32 (p.getD 0) + ((es.take n).map (BitVec.ofNat 32)).sum ∧
      BitVec.ofNat 32 r.2.1 = BitVec.ofNat 32 (p.getD 0) + ((es.take (n + 1)).map (BitVec.ofNat 32)).sum := by
  have hadd (i j : Nat) : BitVec.ofNat 32 (vAddE .i32 false rm i j).1 = BitVec.ofNat 32 i + BitVec.ofNat 32 j := by
    show BitVec.ofNat 32 (wrapBits 32 (readInt true 32 i + readInt true 32 j)) = _
    rw [ofNat_wrapBits, BitVec.ofInt_add, readInt_signed, readInt_signed, BitVec.ofInt_toInt, BitVec.ofInt_toInt]
  induction es generalizing p n with
  | nil => cases hn
  | cons e es ih =>
    cases n with
    | zero => cases p <;> simp [runningSums, hadd]
    | succ n =>
      have hn : n < es.length := Nat.lt_of_succ_lt_succ hn
      cases p with
      | none =>
        obtain ⟨r, hr, h1, h2⟩ := ih (some e) hn
        refine ⟨r, hr, ?_, ?_⟩
        · rw [h1]
          simp
        · rw [h2]
          simp [add_assoc]
      | some v =>
        obtain ⟨r, hr, h1, h2⟩ := ih (some (vAddE .i32 false rm v e).1) hn
        refine ⟨r, hr, ?_, ?_⟩
        · rw [h1, Option.getD_some, hadd]
          simp [add_assoc]
        · rw [h2, Option.getD_some, hadd]
          simp [add_assoc]

theorem runningSums_flags (rm : RMode) (es : List Nat) (p : Option Nat) :
    ∀ r ∈ runningSums (vAddE .i32 false rm) p es, r.2.2 = 0 := by
  induction es generalizing p with
  | nil => nofun
  | cons e es ih =>
    cases p with
    | none =>
      rw [runningSums, List.forall_mem_cons]
      exact ⟨rfl, ih _⟩
    | some v =>
      rw [runningSums, List.forall_mem_cons]
      exact ⟨rfl, ih _⟩

/-- The active lanes below a lane come before it among the active lanes. -/
theorem filter_range_split (p : Nat → Bool) {j n : Nat} (hj : j < n) (hp : p j = true) :
    ∃ r, (List.range n).filter p = (List.range j).filter p ++ j :: r ∧ ((List.range n).filter p).idxOf j =
      ((List.range j).filter p).length := by
  obtain ⟨k, rfl⟩ : ∃ k, n = j + (1 + k) := ⟨n - j - 1, by omega⟩
  have hsplit : (List.range (j + (1 + k))).filter p = (List.range j).filter p ++
      j :: ((List.range k).map fun i => j + 1 + i).filter p := by
    rw [List.range_add, List.range_add]
    simp [hp]
  have hnot : j ∉ (List.range j).filter p := by simp
  exact ⟨_, hsplit, by rw [hsplit, List.idxOf_append_of_notMem hnot, List.idxOf_cons_self, add_zero]⟩

/-- A range, cut at a bound. -/
theorem filter_range_lt (p : Nat → Bool) {j n : Nat} (hj : j ≤ n) :
    (List.range n).filter (fun k => p k && decide (k < j)) = (List.range j).filter p := by
  obtain ⟨k, rfl⟩ := Nat.exists_eq_add_of_le hj
  rw [List.range_add, List.filter_append,
    List.filter_eq_nil_iff (l := (List.range k).map (j + ·)) |>.2 (by simp), List.append_nil]
  exact List.filter_congr fun i hi => by simp [List.mem_range.1 hi]

/-- Sums of lanes, as sums of integers. -/
theorem sum_lanes (l : Lanes) (is : List Nat) :
    ((is.map (elemBits .i32 l)).map (BitVec.ofNat 32)).sum =
      BitVec.ofInt 32 (is.map fun i => readInt true 32 (laneAt l i)).sum := by
  induction is with
  | nil => rfl
  | cons i is ih =>
    have hi : BitVec.ofNat 32 (elemBits .i32 l i) = BitVec.ofInt 32 (readInt true 32 (laneAt l i)) := by
      rw [readInt_signed, BitVec.ofInt_toInt, elemBits_int (sg := true) rfl, Nat.mod_eq_of_lt (laneAt_lt ..)]
    simp only [List.map_cons, List.sum_cons, ih, hi, BitVec.ofInt_add]

theorem effect_vscan {excl : Bool} (h : q.instr = .vscan excl u rnd d a m) : q.effect old =
    (old.wv d (q.scan excl u (old.rv d) (q.src old a)).1, (q.scan excl u (old.rv d) (q.src old a)).2) := by
  simp only [VCmd.effect, h]

/-- The value that a scan of 32-bit integers leaves at an element. -/
def VCmd.scanned (q : VCmd) (excl : Bool) (l : Lanes) (i : Nat) : Nat :=
  (runningSums (vAddE .i32 false q.rm) none ((q.actives .i32).map (elemBits .i32 l)))[(q.actives .i32).idxOf i]?.elim 0
    fun r => if excl then r.1.getD 0 else r.2.1

theorem scan_int (excl : Bool) (v l : Lanes) :
    q.scan excl .i32 v l = ((q.put .i32 v fun i => (q.scanned excl l i, 0)).1, 0) := by
  have hflags : (runningSums (vAddE .i32 false q.rm) none ((q.actives .i32).map (elemBits .i32 l))).foldl
      (fun fl r => fl ||| r.2.2) (0 : Flags) = 0 :=
    List.foldlRecOn (motive := fun fl : Flags => fl = 0) _ _ rfl fun fl hfl r hr => by
      rw [hfl, runningSums_flags _ _ _ r hr]
      rfl
  unfold VCmd.scan
  dsimp only
  rw [hflags]
  refine congrArg (fun f => ((q.put .i32 v f).1, (0 : Flags))) (funext fun i => ?_)
  unfold VCmd.scanned
  cases (runningSums (vAddE .i32 false q.rm) none ((q.actives .i32).map (elemBits .i32 l)))[(q.actives .i32).idxOf i]?
    <;> rfl

theorem ofNat_scanned (excl : Bool) (l : Lanes) (j : Fin 32) (hj : q.lane j.val = true) :
    BitVec.ofNat 32 (q.scanned excl l j.val) = BitVec.ofInt 32 ((List.finRange 32).map fun k =>
      if q.lane k.val && (decide (k < j) || (!excl && decide (k = j))) then (l.get k).toInt else 0).sum := by
  have hlane (k : Fin 32) : (l.get k).toInt = readInt true 32 (laneAt l k.val) := (readInt_lane_signed l k).symm
  have hbound (k : Fin 32) : (decide (k < j) || (!excl && decide (k = j))) =
      decide (k.val < if excl then j.val else j.val + 1) := by
    rw [Bool.eq_iff_iff]
    cases excl with
    | true => simp
    | false =>
      simp only [Bool.not_false, Bool.true_and, Bool.or_eq_true, decide_eq_true_eq, Bool.false_eq_true, if_false,
        Fin.ext_iff]
      omega
  simp only [hlane, hbound]
  rw [← sum_range_lanes fun i =>
      if q.lane i && decide (i < if excl then j.val else j.val + 1) then readInt true 32 (laneAt l i) else 0,
    ← sum_filter (fun i => q.lane i && decide (i < if excl then j.val else j.val + 1)), ← sum_lanes]
  obtain ⟨r, hsplit, hidx⟩ := filter_range_split q.lane j.isLt hj
  unfold VCmd.scanned
  rw [actives_eq (u := .i32) nofun, hidx, hsplit]
  obtain ⟨v, hv, h1, h2⟩ := runningSums_int q.rm (((List.range j.val).filter q.lane ++ j.val :: r).map (elemBits .i32 l))
    none (n := ((List.range j.val).filter q.lane).length) (by simp)
  rw [hv]
  cases excl with
  | true =>
    refine h1.trans ?_
    rw [if_pos rfl, filter_range_lt q.lane j.isLt.le, List.map_append, List.take_left' (List.length_map _)]
    exact zero_add _
  | false =>
    refine h2.trans ?_
    rw [if_neg Bool.false_ne_true, filter_range_lt q.lane j.isLt, List.range_succ, List.filter_append,
      List.map_append, List.map_cons, List.take_append, List.length_map, List.take_of_length_le (by simp)]
    simp [hj]

theorem gives_vscan (h : q.Leaves old new) {excl : Bool} (hi : q.instr = .vscan excl .i32 rnd d a m) :
    q.Gives old new d fun j => BitVec.ofInt 32
      ((List.finRange 32).map fun k => if q.lane k.val && (decide (k < j) || (!excl && decide (k = j)))
        then ((q.src old a).get k).toInt else 0).sum := by
  refine h.gives ?_
  rw [effect_vscan hi, scan_int]
  rw [put_fst (t := .i32) nofun]
  refine congrArg (fun g : Fin 32 → Lane => (old.wv d (Vector.ofFn g), (0 : Flags))) (funext fun j => ?_)
  split
  · next hj => rw [lanePart_int (t := .i32) rfl, ofNat_fillLane_word, ofNat_scanned excl _ j hj]
  · rfl

end
end Sys2Proof.Machine

namespace Sys2Proof.Machine

/-! Floating-point commands: the elements that a command writes, and the operations of R129 on them. -/

-- Elements in lanes (R119)

/-- Element `i` of lanes is a number that fills its lanes. -/
def ElemHolds (u : VTy) (l : Lanes) (i r : Nat) : Prop :=
  if u = .f64 then laneAt l (2 * i) + 2 ^ 32 * laneAt l (2 * i + 1) = r else laneAt l i = r

section
variable {q : VCmd} {old new : Ctx} {u : VTy} {d a b b' : VReg} {m : XReg} {rnd : Rnd} {f : Nat → Nat × Flags} {i : Nat}
  {F : FSpec}

theorem vtyNum_flt (h : vtyNum u = .flt F) : F.Ieee ∧ (if u = .f64 then F.width = 64 else F.width ≤ 32) := by
  cases u <;> cases h
  · exact ⟨ffmtSpec_ieee .fp16, by decide⟩
  · exact ⟨ffmtSpec_ieee .bf16, by decide⟩
  · exact ⟨ffmtSpec_ieee .fp32, by decide⟩
  · exact ⟨ffmtSpec_ieee .fp64, by decide⟩

theorem elem_flt (h : vtyNum u = .flt F) (r : VReg) (i : Nat) : q.elem old u r i =
    if u = .f64 then laneAt (q.src old r) (2 * i) + 2 ^ 32 * laneAt (q.src old r) (2 * i + 1)
    else laneAt (q.src old r) i % 2 ^ F.width := by
  rw [VCmd.elem, elemBits, h, mul_comm (2 ^ 32)]
  rfl

theorem elem_lt (h : vtyNum u = .flt F) (r : VReg) (i : Nat) : q.elem old u r i < 2 ^ F.width := by
  obtain ⟨-, hw⟩ := vtyNum_flt h
  rw [elem_flt h]
  split
  · next h64 =>
    rw [if_pos h64] at hw
    have h1 := laneAt_lt (q.src old r) (2 * i)
    have h2 := laneAt_lt (q.src old r) (2 * i + 1)
    rw [hw]
    omega
  · exact Nat.mod_lt _ (Nat.two_pow_pos _)

theorem laneAt_ofFn (g : Fin 32 → Lane) {j : Nat} (hj : j < 32) : laneAt (Vector.ofFn g) j = (g ⟨j, hj⟩).toNat := by
  rw [laneAt_fin _ ⟨j, hj⟩]
  exact congrArg _ (Vector.getElem_ofFn hj)

/-- What a written element leaves in its lanes. -/
theorem holds_put (h : vtyNum u = .flt F) (v : Lanes) (hi : i < elemCount u) (ha : q.act u i = true)
    (hr : (f i).1 < 2 ^ F.width) : ElemHolds u (q.put u v f).1 i (f i).1 := by
  obtain ⟨-, hw⟩ := vtyNum_flt h
  unfold ElemHolds elemCount at *
  split at hi
  · next h64 =>
    subst h64
    rw [if_pos rfl] at hw ⊢
    rw [hw] at hr
    have h0 : elemOf .f64 (2 * i) = i := by simp [elemOf]
    have h1 : elemOf .f64 (2 * i + 1) = i := by
      simp only [elemOf, if_true]
      omega
    simp only [VCmd.put]
    rw [laneAt_ofFn _ (by omega), laneAt_ofFn _ (by omega)]
    simp only [h0, h1, ha, if_true, lanePart, BitVec.toNat_ofNat, Nat.mul_mod_right, Nat.mul_add_mod, Nat.one_mod,
      one_ne_zero, if_false]
    omega
  · next h64 =>
    rw [if_neg h64] at hw ⊢
    rw [put_fst h64, laneAt_ofFn _ hi, if_pos (act_eq_lane h64 q i ▸ ha), lanePart, if_neg h64, h, BitVec.toNat_ofNat]
    show (f i).1 % 2 ^ F.width % 2 ^ 32 = _
    rw [Nat.mod_eq_of_lt hr, Nat.mod_eq_of_lt (hr.trans_le (Nat.pow_le_pow_right two_pos hw))]

theorem flags_or_and_right (z fl : Flags) : (z ||| fl) &&& fl = fl := by
  ext i hi
  simpa using Or.inr

theorem flags_or_and_left {z fl : Flags} (h : z &&& fl = fl) (w : Flags) : (z ||| w) &&& fl = fl := by
  ext i hi
  have hi' := congrArg (·[i]) h
  simp only [BitVec.getElem_and, BitVec.getElem_or, Bool.and_eq_right_iff_imp, Bool.or_eq_true] at hi' ⊢
  exact fun hfl => .inl (hi' hfl)

/-- The flags of an active element are among those of all. -/
theorem orElems_and {l : List Nat} (h : i ∈ l) : orElems l f &&& (f i).2 = (f i).2 := by
  obtain ⟨l₁, l₂, rfl⟩ := List.append_of_mem h
  rw [orElems, List.foldl_append, List.foldl_cons]
  exact List.foldlRecOn (motive := fun z : Flags => z &&& (f i).2 = (f i).2) l₂ _ (flags_or_and_right ..)
    fun z hz _ _ => flags_or_and_left hz _

theorem raised_or {fl fl' : Flags} (hn : new.fpflags = old.fpflags ||| fl) (h : fl &&& fl' = fl') : new.Raised fl' := by
  rw [Ctx.Raised, hn, BitVec.or_comm]
  exact flags_or_and_left h _

/-- A command that writes elements: the other registers, the inactive lanes, and each element with its flags. -/
theorem VCmd.Leaves.elements (h : q.Leaves old new) (he : q.effect old = q.puts old u d f) :
    old.ChangesV new d ∧
    (∀ j : Fin 32, q.act u (elemOf u j.val) = false → (new.rv d).get j = (old.rv d).get j) ∧
    ∀ i < elemCount u, q.act u i = true → new.Raised (f i).2 ∧
      ∀ F, vtyNum u = .flt F → (f i).1 < 2 ^ F.width → ElemHolds u (new.rv d) i (f i).1 := by
  obtain ⟨hd, hf, ho⟩ := h.writesV he
  refine ⟨ho, fun j hj => ?_, fun i hi ha => ⟨raised_or hf (orElems_and ?_), fun F hF hr => ?_⟩⟩
  · rw [hd, VCmd.put]
    exact (Vector.getElem_ofFn j.isLt).trans (if_neg (by rw [hj]; exact Bool.false_ne_true))
  · exact List.mem_filter.2 ⟨List.mem_range.2 hi, ha⟩
  · rw [hd]
    exact holds_put hF _ hi ha hr

-- The operations

/-- Element i of a source as a number of a format. -/
def VCmd.num (q : VCmd) (old : Ctx) (u : VTy) (F : FSpec) (r : VReg) (i : Nat) : FVal := F.decode (q.elem old u r i)

/-- A command rounds the exact value of each active element once, where its operands are finite and it is not zero. -/
def VCmd.RoundsOnce (q : VCmd) (old new : Ctx) (u : VTy) (F : FSpec) (d : VReg) (operands : List VReg) (y : Nat → ℝ) :
    Prop :=
  old.ChangesV new d ∧ (∀ j : Fin 32, q.act u (elemOf u j.val) = false → (new.rv d).get j = (old.rv d).get j) ∧
  ∀ i < elemCount u, q.act u i = true → (∀ r ∈ operands, (q.num old u F r i).finite) → y i ≠ 0 →
    ∃ r, F.Rounds q.rm (y i) r ∧ ElemHolds u (new.rv d) i r.1 ∧ new.Raised r.2

section
variable (h : q.Leaves old new) (hu : vtyNum u = .flt F)
include h hu

theorem roundsOnce_of_puts {operands : List VReg} {y : Nat → ℝ} (he : q.effect old = q.puts old u d f)
    (hy : ∀ i, (∀ r ∈ operands, (q.num old u F r i).finite) → y i ≠ 0 → F.Rounds q.rm (y i) (f i)) :
    q.RoundsOnce old new u F d operands y := by
  obtain ⟨ho, hin, hel⟩ := h.elements he
  refine ⟨ho, hin, fun i hi ha hfin h0 => ?_⟩
  obtain ⟨hr, hh⟩ := hel i hi ha
  have hround := hy i hfin h0
  exact ⟨f i, hround, hh F hu hround.1, hr⟩

theorem rounds_vadd {sat : Bool} (hi : q.instr = .vadd u sat rnd d a b m) :
    q.RoundsOnce old new u F d [a, b] fun i => (q.num old u F a i).real + (q.num old u F b i).real := by
  refine roundsOnce_of_puts h hu (effect_vadd hi) fun i hfin h0 => ?_
  obtain ⟨n₁, m₁, e₁, h₁⟩ := hfin a (by simp)
  obtain ⟨n₂, m₂, e₂, h₂⟩ := hfin b (by simp)
  simp only [VCmd.num] at h₁ h₂
  simp only [VCmd.num, vAddE, hu, h₁, h₂] at h0 ⊢
  exact sum_rounds (vtyNum_flt hu).1 h0

theorem rounds_vsub {sat : Bool} (hi : q.instr = .vsub u sat rnd d a b m) :
    q.RoundsOnce old new u F d [a, b] fun i => (q.num old u F a i).real - (q.num old u F b i).real := by
  refine roundsOnce_of_puts h hu (effect_vsub hi) fun i hfin h0 => ?_
  obtain ⟨n₁, m₁, e₁, h₁⟩ := hfin a (by simp)
  obtain ⟨n₂, m₂, e₂, h₂⟩ := hfin b (by simp)
  simp only [VCmd.num] at h₁ h₂
  simp only [VCmd.num, vSubE, hu, h₁, h₂, sub_eq_add_neg, ← real_neg] at h0 ⊢
  exact sum_rounds (vtyNum_flt hu).1 h0

theorem rounds_vmul {sat : Bool} (hi : q.instr = .vmul u sat rnd d a b m) :
    q.RoundsOnce old new u F d [a, b] fun i => (q.num old u F a i).real * (q.num old u F b i).real := by
  refine roundsOnce_of_puts h hu (effect_vmul hi) fun i hfin h0 => ?_
  obtain ⟨n₁, m₁, e₁, h₁⟩ := hfin a (by simp)
  obtain ⟨n₂, m₂, e₂, h₂⟩ := hfin b (by simp)
  simp only [VCmd.num] at h₁ h₂
  simp only [VCmd.num, vMulE, hu, h₁, h₂] at h0 ⊢
  exact fMul_rounds (vtyNum_flt hu).1 h0

theorem rounds_vfma (hi : q.instr = .vfma u rnd d a b b' m) : q.RoundsOnce old new u F d [a, b, b'] fun i =>
    (q.num old u F a i).real * (q.num old u F b i).real + (q.num old u F b' i).real := by
  refine roundsOnce_of_puts h hu (effect_vfma hi) fun i hfin h0 => ?_
  obtain ⟨n₁, m₁, e₁, h₁⟩ := hfin a (by simp)
  obtain ⟨n₂, m₂, e₂, h₂⟩ := hfin b (by simp)
  obtain ⟨n₃, m₃, e₃, h₃⟩ := hfin b' (by simp)
  simp only [VCmd.num] at h₁ h₂ h₃
  simp only [VCmd.num, vFmaE, hu, h₁, h₂, h₃, real_mul_real] at h0 ⊢
  exact sum_rounds (vtyNum_flt hu).1 h0

/-- VMIN and VMAX of unequal finite numbers. -/
theorem holds_vminmax (isMax : Bool) (hi : q.instr = if isMax then .vmax u d a b m else .vmin u d a b m) {i : Nat}
    (hlt : i < elemCount u) (ha : q.act u i = true) (hfa : (q.num old u F a i).finite)
    (hfb : (q.num old u F b i).finite) :
    ((q.num old u F a i).real < (q.num old u F b i).real →
      ElemHolds u (new.rv d) i (q.elem old u (if isMax then b else a) i)) ∧
    ((q.num old u F b i).real < (q.num old u F a i).real →
      ElemHolds u (new.rv d) i (q.elem old u (if isMax then a else b) i)) := by
  have he : q.effect old = q.puts old u d fun i => vMinMaxE u isMax (q.elem old u a i) (q.elem old u b i) := by
    cases isMax with
    | true => exact effect_vmax hi
    | false => exact effect_vmin hi
  obtain ⟨-, -, hel⟩ := h.elements he
  obtain ⟨-, hh⟩ := hel i hlt ha
  have holds {r : VReg} (hr : (fMinMax F isMax (q.elem old u a i) (q.elem old u b i)).1 = q.elem old u r i) :
      ElemHolds u (new.rv d) i (q.elem old u r i) := by
    have hval : vMinMaxE u isMax (q.elem old u a i) (q.elem old u b i) =
        fMinMax F isMax (q.elem old u a i) (q.elem old u b i) := by simp only [vMinMaxE, hu]
    have := hh F hu
    rw [hval, hr] at this
    exact this (elem_lt hu r i)
  have less {x y : FVal} (hx : x.finite) (hy : y.finite) (hxy : x.real < y.real) : x.Less y := by
    obtain ⟨n, m, e, rfl⟩ := hx
    obtain ⟨n', m', e', rfl⟩ := hy
    rw [← FVal.cast_rat, ← FVal.cast_rat] at hxy
    exact Rat.cast_lt.1 hxy
  refine ⟨fun hab => holds ?_, fun hba => holds ?_⟩
  · rw [fMinMax_less (less hfa hfb hab)]
    cases isMax <;> rfl
  · rw [fMinMax_greater (less hfb hfa hba)]
    cases isMax <;> rfl

end
end
end Sys2Proof.Machine

namespace Sys2Proof.Machine

/-! VCVT (05 R132): the lanes that a conversion reads and writes, and its results (Table 2.9). -/

section
variable {q : VCmd} {old new : Ctx} {dst src : LaneFmt} {half : Bool} {d a : VReg} {m : XReg} {rnd : Rnd} {i : Nat}

/-- Elements of a conversion. -/
def cvtCount (dst src : LaneFmt) : Nat := if dst.isF64 || src.isF64 then 16 else 32

/-- Element i of a conversion is active. -/
def VCmd.cvtOn (q : VCmd) (dst src : LaneFmt) (i : Nat) : Bool := q.lane (if dst.isF64 || src.isF64 then 2 * i else i)

/-- The bits that element i of a conversion reads. -/
def VCmd.cvtBits (q : VCmd) (old : Ctx) (dst src : LaneFmt) (half : Bool) (a : VReg) (i : Nat) : Nat :=
  if src.isF64 then laneAt (q.src old a) (2 * i) + 2 ^ 32 * laneAt (q.src old a) (2 * i + 1)
  else laneAt (q.src old a) (cvtLane dst src half i)

/-- Element i of a conversion is a number in the destination's lanes. -/
def CvtHolds (dst src : LaneFmt) (half : Bool) (l : Lanes) (i r : Nat) : Prop :=
  if dst.isF64 then laneAt l (2 * i) + 2 ^ 32 * laneAt l (2 * i + 1) = r else laneAt l (cvtLane dst src half i) = r

/-- What a conversion gives for element i. -/
def VCmd.cvtResult (q : VCmd) (old : Ctx) (dst src : LaneFmt) (half : Bool) (a : VReg) (i : Nat) : Nat × Flags :=
  Sys2Proof.Machine.convert q.rm (laneNum src) (laneNum dst) (q.cvtBits old dst src half a i)

theorem effect_vcvt (h : q.instr = .vcvt dst src half rnd d a m) : q.effect old =
    (old.wv d (q.convert dst src half (old.rv d) (q.src old a)).1,
      (q.convert dst src half (old.rv d) (q.src old a)).2) := by
  simp only [VCmd.effect, h]

theorem convert_mod (rm : RMode) (s t : NumTy) (b : Nat) : convert rm s t (b % 2 ^ s.width) = convert rm s t b := by
  cases s <;> cases t <;> simp [convert, NumTy.width, readInt_mod]

theorem laneNum_width (h : dst.isF64 = false) : (laneNum dst).width ≤ 32 := by
  cases dst with
  | ty t =>
    cases t with
    | f64 => cases h
    | _ => decide
  | _ => decide

theorem laneNum_f64 (h : dst.isF64 = true) : dst = .ty .f64 := by
  cases dst with
  | ty t =>
    cases t with
    | f64 => rfl
    | _ => cases h
  | _ => cases h

theorem fillLane_lt {n : NumTy} (h : n.width ≤ 32) (b : Nat) : fillLane n b < 2 ^ 32 := by
  have hpow {w : Nat} (hw : w ≤ 32) : b % 2 ^ w < 2 ^ 32 :=
    (Nat.mod_lt _ (Nat.two_pow_pos _)).trans_le (Nat.pow_le_pow_right two_pos hw)
  cases n with
  | flt F => exact hpow h
  | int sg w =>
    cases sg with
    | true => exact (BitVec.isLt (BitVec.ofInt 32 (readInt true w b))).trans_eq' (BitVec.toNat_ofInt ..)
    | false => exact hpow h

/-- The lane that a conversion writes belongs to its element. -/
theorem cvtLane_eq (dst src : LaneFmt) (half : Bool) (i : Nat) : cvtLane dst src half i = cvtLane dst src half 0 + i := by
  unfold cvtLane
  split <;> omega

theorem cvtLane_lt (h : i < cvtCount dst src) : cvtLane dst src half i < 32 := by
  have hhalf := Bool.toNat_le half
  unfold cvtLane
  unfold cvtCount at h
  generalize dst.isF64 = x at *
  generalize src.isF64 = y at *
  cases x <;> cases y <;> simp at h ⊢ <;> omega

/-- What the model converts is what `cvtResult` says. -/
theorem convert_source (i : Nat) : Sys2Proof.Machine.convert q.rm (laneNum src) (laneNum dst)
    (if src.isF64 then elemBits .f64 (q.src old a) i
      else laneAt (q.src old a) (cvtLane dst src half i) % 2 ^ (laneNum src).width) =
    q.cvtResult old dst src half a i := by
  unfold VCmd.cvtResult VCmd.cvtBits
  split
  · rw [elemBits, if_pos rfl, mul_comm (2 ^ 32)]
  · exact convert_mod ..

theorem convert_wide (h : dst.isF64 = true) : (q.convert dst src half (old.rv d) (q.src old a)).1 =
    Vector.ofFn fun j : Fin 32 => if q.cvtOn dst src (j.val / 2)
      then lanePart .f64 j.val (q.cvtResult old dst src half a (j.val / 2)).1 else (old.rv d).get j := by
  simp only [VCmd.convert, convert_source, VCmd.cvtOn, h, if_true]

theorem convert_narrow (h : dst.isF64 = false) : (q.convert dst src half (old.rv d) (q.src old a)).1 =
    Vector.ofFn fun j : Fin 32 =>
      let i := j.val - cvtLane dst src half 0
      if cvtLane dst src half 0 ≤ j.val ∧ i < cvtCount dst src ∧ q.cvtOn dst src i = true
      then BitVec.ofNat 32 (fillLane (laneNum dst) (q.cvtResult old dst src half a i).1) else (old.rv d).get j := by
  simp only [VCmd.convert, convert_source, VCmd.cvtOn, cvtCount, h, Bool.false_eq_true, if_false]

theorem convert_flags : (q.convert dst src half (old.rv d) (q.src old a)).2 =
    orElems ((List.range (cvtCount dst src)).filter (q.cvtOn dst src)) (q.cvtResult old dst src half a) := by
  unfold VCmd.convert
  simp only [convert_source]
  split <;> rfl

/-- A 64-bit number in a pair of lanes. -/
theorem lanePart_pair (r i : Nat) :
    (lanePart .f64 (2 * i) r).toNat + 2 ^ 32 * (lanePart .f64 (2 * i + 1) r).toNat = r % 2 ^ 64 := by
  simp only [lanePart, if_true, BitVec.toNat_ofNat, Nat.mul_mod_right, Nat.mul_add_mod, Nat.one_mod, one_ne_zero,
    if_false]
  omega

/-- A conversion: the other registers, the lanes that it leaves, and each element with its flags. -/
theorem vcvt_elements (h : q.Leaves old new) (hi : q.instr = .vcvt dst src half rnd d a m) :
    old.ChangesV new d ∧
    (∀ j : Fin 32, (if dst.isF64 then q.cvtOn dst src (j.val / 2) = false
        else ∀ i < cvtCount dst src, q.cvtOn dst src i = true → cvtLane dst src half i ≠ j.val) →
      (new.rv d).get j = (old.rv d).get j) ∧
    ∀ i < cvtCount dst src, q.cvtOn dst src i = true →
      CvtHolds dst src half (new.rv d) i (fillLane (laneNum dst) (q.cvtResult old dst src half a i).1) ∧
      new.Raised (q.cvtResult old dst src half a i).2 := by
  obtain ⟨hd, hf, ho⟩ := h.writesV (effect_vcvt hi)
  have hraised {i : Nat} (hlt : i < cvtCount dst src) (hon : q.cvtOn dst src i = true) :
      new.Raised (q.cvtResult old dst src half a i).2 :=
    raised_or hf (convert_flags ▸ orElems_and (List.mem_filter.2 ⟨List.mem_range.2 hlt, hon⟩))
  refine ⟨ho, fun j hj => ?_, fun i hlt hon => ⟨?_, hraised hlt hon⟩⟩
  · cases h64 : dst.isF64 with
    | true =>
      rw [h64, if_pos rfl] at hj
      rw [hd, convert_wide h64]
      exact (Vector.getElem_ofFn j.isLt).trans (if_neg (by rw [hj]; exact Bool.false_ne_true))
    | false =>
      rw [h64, if_neg Bool.false_ne_true] at hj
      rw [hd, convert_narrow h64]
      refine (Vector.getElem_ofFn j.isLt).trans (if_neg ?_)
      rintro ⟨hle, hlt, hon⟩
      exact hj _ hlt hon (by rw [cvtLane_eq]; exact Nat.add_sub_cancel' hle)
  · unfold CvtHolds
    cases h64 : dst.isF64 with
    | true =>
      have hwide : cvtCount dst src = 16 := by rw [cvtCount, h64]; rfl
      rw [if_pos rfl, hd, convert_wide h64, laneAt_ofFn _ (by omega), laneAt_ofFn _ (by omega)]
      simp only [Nat.mul_div_cancel_left i two_pos, show (2 * i + 1) / 2 = i by omega, hon, if_true]
      rw [lanePart_pair]
      obtain rfl := laneNum_f64 h64
      rfl
    | false =>
      rw [if_neg Bool.false_ne_true, hd, convert_narrow h64, laneAt_ofFn _ (cvtLane_lt hlt)]
      simp only [cvtLane_eq dst src half i, Nat.add_sub_cancel_left, hlt, hon, Nat.le_add_right, and_self, if_true,
        BitVec.toNat_ofNat]
      exact Nat.mod_eq_of_lt (fillLane_lt (laneNum_width h64) _)

-- The results

/-- Element i of a conversion is a number in the destination's lanes, with its flags raised. -/
def CvtLeaves (new : Ctx) (dst src : LaneFmt) (half : Bool) (d : VReg) (i r : Nat) (fl : Flags) : Prop :=
  CvtHolds dst src half (new.rv d) i r ∧ new.Raised fl

theorem laneNum_int {sg : Bool} {w : Nat} (h : laneNum dst = .int sg w) : 0 < w ∧ w ≤ 32 := by
  cases dst with
  | ty t => cases t <;> cases h <;> decide
  | _ => cases h

/-- An integer in the range of its type fills its lane by extension. -/
theorem fillLane_wrapBits {sg : Bool} {w : Nat} {k : Int} (h : laneNum dst = .int sg w) (hlo : intLo sg w ≤ k)
    (hhi : k ≤ intHi sg w) : fillLane (.int sg w) (wrapBits w k) = wrapBits 32 k := by
  obtain ⟨hw, h32⟩ := laneNum_int h
  have hfill := congrArg BitVec.toNat (ofNat_fillLane_int (sg := sg) (w := w) (wrapBits w k))
  rw [readInt_wrapBits hw hlo hhi, BitVec.toNat_ofNat, Nat.mod_eq_of_lt (fillLane_lt (n := .int sg w) h32 _),
    BitVec.toNat_ofInt] at hfill
  exact hfill

/-- Saturation with NV, as the smaller of the greater. -/
theorem saturated_eq {lo hi k : Int} (h : lo ≤ hi) (fl : Flags) :
    (if k < lo then (lo, flNV) else if hi < k then (hi, flNV) else (k, fl)) =
      (max lo (min hi k), if max lo (min hi k) = k then fl else flNV) := by
  rcases lt_or_ge k lo with hlo | hlo
  · rw [if_pos hlo, max_eq_left (min_le_of_right_le hlo.le), if_neg hlo.ne']
  · rw [if_neg (not_lt.2 hlo)]
    rcases lt_or_ge hi k with hhi | hhi
    · rw [if_pos hhi, min_eq_left hhi.le, max_eq_right h, if_neg hhi.ne]
    · rw [if_neg (not_lt.2 hhi), min_eq_right hhi, max_eq_right hlo, if_pos rfl]

section
variable (h : q.Leaves old new) (hi : q.instr = .vcvt dst src half rnd d a m) (hlt : i < cvtCount dst src)
  (hon : q.cvtOn dst src i = true)
include h hi hlt hon

theorem cvt_to_flt {F : FSpec} (hd : laneNum dst = .flt F) {r : Nat × Flags}
    (hr : q.cvtResult old dst src half a i = r) : CvtLeaves new dst src half d i (r.1 % 2 ^ F.width) r.2 := by
  obtain ⟨-, -, hel⟩ := vcvt_elements h hi
  have hleaves := hel i hlt hon
  rwa [hd, hr] at hleaves

theorem cvt_to_int {sg : Bool} {w : Nat} (hd : laneNum dst = .int sg w) {k : Int} {fl : Flags} (hlo : intLo sg w ≤ k)
    (hhi : k ≤ intHi sg w) (hr : q.cvtResult old dst src half a i = (wrapBits w k, fl)) :
    CvtLeaves new dst src half d i (wrapBits 32 k) fl := by
  obtain ⟨-, -, hel⟩ := vcvt_elements h hi
  have hleaves := hel i hlt hon
  rwa [hd, hr, fillLane_wrapBits hd hlo hhi] at hleaves

theorem cvt_flt_flt {F G : FSpec} (hs : laneNum src = .flt G) (hd : laneNum dst = .flt F) :
    let r := F.encode q.rm (G.decode (q.cvtBits old dst src half a i % 2 ^ G.width))
    CvtLeaves new dst src half d i (r.1 % 2 ^ F.width) r.2 :=
  cvt_to_flt h hi hlt hon hd (by rw [VCmd.cvtResult, hs, hd]; rfl)

theorem cvt_int_flt {F : FSpec} {sg : Bool} {w : Nat} (hs : laneNum src = .int sg w) (hd : laneNum dst = .flt F) :
    let k := readInt sg w (q.cvtBits old dst src half a i)
    let r := F.encode q.rm (.fin (decide (k < 0)) k.natAbs 0)
    CvtLeaves new dst src half d i (r.1 % 2 ^ F.width) r.2 :=
  cvt_to_flt h hi hlt hon hd (by rw [VCmd.cvtResult, hs, hd]; rfl)

theorem cvt_int_int {sg sg' : Bool} {w w' : Nat} (hs : laneNum src = .int sg w) (hd : laneNum dst = .int sg' w') :
    let k := readInt sg w (q.cvtBits old dst src half a i)
    let k' := max (intLo sg' w') (min (intHi sg' w') k)
    CvtLeaves new dst src half d i (wrapBits 32 k') (if k' = k then 0 else flNV) :=
  have hle := intLo_le_intHi sg' w'
  cvt_to_int h hi hlt hon hd (le_max_left ..) (max_le hle (min_le_left ..)) (by
    rw [VCmd.cvtResult, hs, hd, Sys2Proof.Machine.convert]
    exact congrArg (fun r : Int × Flags => (wrapBits w' r.1, r.2)) (saturated_eq hle 0))

/-- A conversion from floating point to an integer type, by what the value rounds to. -/
theorem cvt_flt_int {G : FSpec} {sg : Bool} {w : Nat} (hs : laneNum src = .flt G) (hd : laneNum dst = .int sg w)
    {k : Int} {fl : Flags} (hlo : intLo sg w ≤ k) (hhi : k ≤ intHi sg w) (hk : toIntRange q.rm (intLo sg w) (intHi sg w)
      (G.decode (q.cvtBits old dst src half a i % 2 ^ G.width)) = (k, fl)) :
    CvtLeaves new dst src half d i (wrapBits 32 k) fl :=
  cvt_to_int h hi hlt hon hd hlo hhi (by rw [VCmd.cvtResult, hs, hd, Sys2Proof.Machine.convert, hk])

theorem cvt_flt_int_nan {G : FSpec} {sg : Bool} {w : Nat} (hs : laneNum src = .flt G) (hd : laneNum dst = .int sg w)
    (hv : (G.decode (q.cvtBits old dst src half a i % 2 ^ G.width)).isNan = true) :
    CvtLeaves new dst src half d i 0 flNV := by
  obtain ⟨g, hg⟩ := isNan_iff.1 hv
  have hlo : intLo sg w ≤ 0 := by cases sg <;> simp [intLo]
  have hhi : 0 ≤ intHi sg w := by
    have h1 : (0 : Int) < 2 ^ (w - 1) := by positivity
    have h2 : (0 : Int) < 2 ^ w := by positivity
    cases sg <;> simp only [intHi, if_true, Bool.false_eq_true, if_false] <;> push_cast <;> omega
  exact cvt_flt_int h hi hlt hon hs hd hlo hhi (by rw [hg]; rfl)

theorem cvt_flt_int_inf {G : FSpec} {sg n : Bool} {w : Nat} (hs : laneNum src = .flt G) (hd : laneNum dst = .int sg w)
    (hv : G.decode (q.cvtBits old dst src half a i % 2 ^ G.width) = .inf n) :
    CvtLeaves new dst src half d i (wrapBits 32 (if n then intLo sg w else intHi sg w)) flNV := by
  have hle := intLo_le_intHi sg w
  exact cvt_flt_int h hi hlt hon hs hd (by split <;> simp [hle]) (by split <;> simp [hle]) (by rw [hv]; rfl)

theorem cvt_flt_int_fin {G : FSpec} {sg : Bool} {w : Nat} {v : FVal} {k : Int} (hs : laneNum src = .flt G)
    (hd : laneNum dst = .int sg w) (hv : G.decode (q.cvtBits old dst src half a i % 2 ^ G.width) = v) (hf : v.finite)
    (hk : RoundsToInt q.rm v.rat k) :
    let k' := max (intLo sg w) (min (intHi sg w) k)
    CvtLeaves new dst src half d i (wrapBits 32 k') (if k' = k then if v.rat = k then 0 else flNX else flNV) :=
  have hle := intLo_le_intHi sg w
  cvt_flt_int h hi hlt hon hs hd (le_max_left ..) (max_le hle (min_le_left ..)) (by
    rw [hv, toIntRange_fin hf hk, saturated_eq hle])

end

end
end Sys2Proof.Machine

namespace Sys2Proof.Machine

/-! VQNT and VDQ (05 R133): packed blocks, their scales, and the exact values of their elements (02 R37-R41). -/

-- Packing

theorem packElems_lt (w : Nat) (es : List Nat) : packElems w es < 2 ^ (w * es.length) := by
  induction es with
  | nil => exact Nat.one_pos
  | cons e es ih =>
    have h := Nat.mod_lt e (Nat.two_pow_pos w)
    rw [packElems, List.length_cons, Nat.mul_succ, add_comm (w * es.length), pow_add]
    calc e % 2 ^ w + 2 ^ w * packElems w es < 2 ^ w * (packElems w es + 1) := by rw [Nat.mul_succ]; omega
      _ ≤ 2 ^ w * 2 ^ (w * es.length) := Nat.mul_le_mul_left _ ih

/-- Each element is found in its place. -/
theorem packElems_get (w : Nat) {es : List Nat} {j e : Nat} (h : es[j]? = some e) :
    packElems w es / 2 ^ (w * j) % 2 ^ w = e % 2 ^ w := by
  induction es generalizing j with
  | nil => cases h
  | cons e' es ih =>
    cases j with
    | zero =>
      cases h
      rw [packElems, Nat.mul_zero, pow_zero, Nat.div_one, Nat.add_mul_mod_self_left, Nat.mod_mod]
    | succ j =>
      rw [packElems, Nat.mul_succ, add_comm (w * j), pow_add, ← Nat.div_div_eq_div_mul,
        Nat.add_mul_div_left _ _ (Nat.two_pow_pos w), Nat.div_eq_of_lt (Nat.mod_lt _ (Nat.two_pow_pos w)), zero_add]
      exact ih h

/-- Lanes hold a number, as far as they go. -/
theorem lanesNat_eq (l : List Lane) (p : Nat) (h : ∀ j x, l[j]? = some x → x = BitVec.ofNat 32 (p / 2 ^ (32 * j))) :
    l.foldr (fun x n => x.toNat + 2 ^ 32 * n) 0 = p % 2 ^ (32 * l.length) := by
  induction l generalizing p with
  | nil => simp [Nat.mod_one]
  | cons x l ih =>
    have hx := h 0 x rfl
    have hl := ih (p / 2 ^ 32) fun j y hy => by
      rw [h (j + 1) y hy, Nat.mul_succ, add_comm, pow_add, Nat.div_div_eq_div_mul]
    rw [List.foldr_cons, hl, hx, List.length_cons, Nat.mul_succ, add_comm (32 * l.length), pow_add, BitVec.toNat_ofNat,
      Nat.mul_zero, pow_zero, Nat.div_one, Nat.mod_mul]

theorem lanesNat_blockLanes {p n : Nat} (h : p < 2 ^ n) (hn : n ≤ 32 * 32) :
    lanesNat (blockLanes p) = p := by
  unfold lanesNat
  rw [lanesNat_eq _ p, Vector.length_toList]
  · generalize 32 * 32 = k at *
    exact Nat.mod_eq_of_lt (h.trans_le (Nat.pow_le_pow_right two_pos hn))
  · intro j x hx
    obtain ⟨hj, rfl⟩ := List.getElem?_eq_some_iff.1 hx
    simp [blockLanes]

-- The scale of an MX block

/-- `leadExp` is the exponent of the largest finite magnitude. -/
theorem leadExp_spec (vs : List FVal) :
    (leadExp vs = none → ∀ v ∈ vs, v.finite → v.real = 0) ∧
    ∀ l, leadExp vs = some l → (∃ v ∈ vs, v.finite ∧ (2 : ℝ) ^ l ≤ |v.real|) ∧
      ∀ v ∈ vs, v.finite → |v.real| < (2 : ℝ) ^ (l + 1) := by
  induction vs with
  | nil => exact ⟨fun _ => nofun, nofun⟩
  | cons v vs ih =>
    obtain ⟨ih0, ih1⟩ := ih
    have skip (he : leadExp (v :: vs) = leadExp vs) (hv : v.finite → v.real = 0) :
        (leadExp (v :: vs) = none → ∀ u ∈ v :: vs, u.finite → u.real = 0) ∧
        ∀ l, leadExp (v :: vs) = some l → (∃ u ∈ v :: vs, u.finite ∧ (2 : ℝ) ^ l ≤ |u.real|) ∧
          ∀ u ∈ v :: vs, u.finite → |u.real| < (2 : ℝ) ^ (l + 1) := by
      rw [he]
      refine ⟨fun h => List.forall_mem_cons.2 ⟨hv, ih0 h⟩, fun l h => ?_⟩
      obtain ⟨⟨u, hu, hfu, hle⟩, hlt⟩ := ih1 l h
      refine ⟨⟨u, List.mem_cons_of_mem _ hu, hfu, hle⟩, List.forall_mem_cons.2 ⟨fun hf => ?_, hlt⟩⟩
      rw [hv hf, abs_zero]
      positivity
    cases v with
    | nan g => exact skip rfl nofun
    | inf n => exact skip rfl nofun
    | fin n m e =>
      rcases eq_or_ne m 0 with rfl | hm
      · exact skip rfl fun _ => by simp [real_fin]
      · have hlo := two_pow_ex_le hm e le_rfl
        have hhi := lt_two_pow_ex hm e one_pos
        rw [add_zero, ← abs_real_fin n] at hlo hhi
        cases hr : leadExp vs with
        | none =>
          have hval : leadExp (.fin n m e :: vs) = some (e + bitLen m - 1) := (if_neg hm).trans (by rw [hr])
          rw [hval]
          refine ⟨nofun, fun l h => ?_⟩
          cases h
          refine ⟨⟨_, List.mem_cons_self, ⟨n, m, e, rfl⟩, hlo⟩, List.forall_mem_cons.2 ⟨fun _ => hhi, fun u hu hf => ?_⟩⟩
          rw [ih0 hr u hu hf, abs_zero]
          positivity
        | some r =>
          have hval : leadExp (.fin n m e :: vs) = some (max r (e + bitLen m - 1)) := (if_neg hm).trans (by rw [hr])
          obtain ⟨⟨u, hu, hfu, hle⟩, hlt⟩ := ih1 r hr
          have mono {x y : Int} (h : x ≤ y) : (2 : ℝ) ^ x ≤ 2 ^ y := zpow_le_zpow_right₀ one_le_two h
          rw [hval]
          refine ⟨nofun, fun l h => ?_⟩
          cases h
          refine ⟨?_, List.forall_mem_cons.2 ⟨fun _ => hhi.trans_le (mono (by omega)),
            fun u hu hf => (hlt u hu hf).trans_le (mono (by omega))⟩⟩
          rcases le_total r (e + bitLen m - 1) with hmax | hmax
          · exact ⟨_, List.mem_cons_self, ⟨n, m, e, rfl⟩, by simpa only [max_eq_right hmax] using hlo⟩
          · exact ⟨u, List.mem_cons_of_mem _ hu, hfu, by simpa only [max_eq_left hmax] using hle⟩

theorem leadExp_eq {vs : List FVal} {k : Int} (hk : ∃ v ∈ vs, v.finite ∧ (2 : ℝ) ^ k ≤ |v.real|)
    (hlt : ∀ v ∈ vs, v.finite → |v.real| < (2 : ℝ) ^ (k + 1)) : leadExp vs = some k := by
  obtain ⟨v, hv, hf, hle⟩ := hk
  obtain ⟨h0, h1⟩ := leadExp_spec vs
  cases hl : leadExp vs with
  | none =>
    rw [h0 hl v hv hf, abs_zero] at hle
    exact absurd hle (not_le.2 (by positivity))
  | some l =>
    obtain ⟨⟨u, hu, hfu, hleu⟩, hltu⟩ := h1 l hl
    have h2 : (1 : ℝ) < 2 := one_lt_two
    have hkl := (zpow_lt_zpow_iff_right₀ h2).1 (hle.trans_lt (hltu v hv hf))
    have hlk := (zpow_lt_zpow_iff_right₀ h2).1 (hleu.trans_lt (hlt u hu hfu))
    rw [show l = k by omega]

section
variable {q : VCmd} {old new : Ctx} {t : BlkFmt} {rm : RMode} {vs : List FVal} {d a : VReg} {x m : XReg} {rnd : Rnd}

theorem mxQuant_nan (ht : t.isDxb = false) (h : ∃ v ∈ vs, v.isNan = true) :
    (blkQuant t rm vs).2.1 = 255 ∧ (blkQuant t rm vs).1 = List.replicate vs.length 0 := by
  rw [blkQuant, ht, if_neg Bool.false_ne_true, mxQuant, if_pos (List.any_eq_true.2 h)]
  exact ⟨rfl, List.map_const' ..⟩

/-- The clamped exponent of R39. -/
theorem mxQuant_scale (ht : t.isDxb = false) (h : ∀ v ∈ vs, v.isNan = false) {k : Int} (hk : leadExp vs = some k) :
    (blkQuant t rm vs).2.1 = (max (-127) (min 127 (k - mxEmax t)) + 127).toNat := by
  have hnot : ¬ vs.any FVal.isNan = true := by
    simpa using h
  rw [blkQuant, ht, if_neg Bool.false_ne_true, mxQuant, if_neg hnot, hk]
  show (min (max (k - mxEmax t) (-127)) 127 + 127).toNat = _
  congr 2
  omega

theorem blkQuant_length : (blkQuant t rm vs).1.length = vs.length := by
  unfold blkQuant
  split
  · unfold dxbQuant
    extract_lets fins hasInf top E1 small top' E0 cs fl plain
    have hplain (b : Bool) : (plain b).length = vs.length := by simp [plain, cs]
    split
    · split <;> exact hplain _
    · exact hplain _
  · unfold mxQuant
    split <;> simp

/-- The values that VQNT quantises. -/
def VCmd.blockVals (q : VCmd) (old : Ctx) (a : VReg) : List FVal :=
  (List.range 32).map fun i => specFp32.decode (if q.lane i then laneAt (q.src old a) i else 0)

theorem effect_vqnt (h : q.instr = .vqnt t rnd d a x m) : q.effect old =
    let r := blkQuant t q.rm (q.blockVals old a)
    ((old.wv d (blockLanes (packElems t.bits r.1))).wx x (word r.2.1), r.2.2) := by
  simp only [VCmd.effect, h]
  rfl

theorem bits_le (t : BlkFmt) : t.bits ≤ 8 := by cases t <;> decide

/-- VQNT's register, its scale and its flags. -/
theorem vqnt_writes (h : q.Leaves old new) (hi : q.instr = .vqnt t rnd d a x m) :
    let r := blkQuant t q.rm (q.blockVals old a)
    (∀ (j : Nat) e, r.1[j]? = some e → lanesNat (new.rv d) / 2 ^ (t.bits * j) % 2 ^ t.bits = e % 2 ^ t.bits) ∧
    (∀ j : Fin 32, t.bits ≤ j.val → (new.rv d).get j = 0) ∧ new.x = (old.wx x (BitVec.ofNat 64 r.2.1)).x ∧
    new.Raised r.2.2 := by
  intro r
  have hlen : r.1.length = 32 := blkQuant_length.trans (by simp [VCmd.blockVals])
  have hlt : packElems t.bits r.1 < 2 ^ (t.bits * 32) := hlen ▸ packElems_lt t.bits r.1
  have hrv : new.rv d = blockLanes (packElems t.bits r.1) := by
    rw [h.rv, effect_vqnt hi]
    exact (congrArg (·.get d) (Ctx.wx_v ..)).trans (Ctx.rv_wv_same ..)
  have hflags : new.fpflags = old.fpflags ||| r.2.2 := by
    rw [h.flags, effect_vqnt hi]
    exact congrArg (· ||| r.2.2) (Ctx.wx_fpflags ..)
  refine ⟨fun j e he => ?_, fun j hj => ?_, ?_, raised_or hflags (BitVec.and_self ..)⟩
  · have := bits_le t
    rw [hrv, lanesNat_blockLanes hlt (by omega)]
    exact packElems_get t.bits he
  · rw [hrv, blockLanes]
    refine (Vector.getElem_ofFn j.isLt).trans ?_
    rw [Nat.div_eq_of_lt (hlt.trans_le (Nat.pow_le_pow_right two_pos (by rw [mul_comm]; exact Nat.mul_le_mul_left _ hj)))]
    rfl
  · rw [h.x, effect_vqnt hi]
    exact wx_x_congr (c := old.wv d _) (c' := old) rfl x _

end
end Sys2Proof.Machine

namespace Sys2Proof.Machine

/-! VDQ (05 R133): the exact value of each element, rounded to FP32. -/

section
variable {q : VCmd} {old new : Ctx} {t : BlkFmt} {d a : VReg} {x m : XReg} {rnd : Rnd}
  {f : Nat → Nat × Flags} {fl : Flags}

/-- Lane `j` is a 32-bit number. -/
def LaneIs (new : Ctx) (d : VReg) (j : Fin 32) (r : Nat) : Prop := (new.rv d).get j = BitVec.ofNat 32 r

/-- The value `y` is rounded once to FP32, into lane `j`. -/
def LaneRounds (rm : RMode) (new : Ctx) (d : VReg) (j : Fin 32) (y : ℝ) : Prop :=
  ∃ r, specFp32.Rounds rm y r ∧ LaneIs new d j r.1 ∧ new.Raised r.2

theorem specFp32_ieee : specFp32.Ieee := ffmtSpec_ieee .fp32

theorem lanePart_f32 (j b : Nat) : lanePart .f32 j b = BitVec.ofNat 32 b := by
  rw [lanePart, if_neg nofun]
  exact BitVec.eq_of_toNat_eq (by rw [BitVec.toNat_ofNat, BitVec.toNat_ofNat]; exact Nat.mod_mod ..)

/-- FP32 results, lane by lane. -/
theorem lanes_f32 (h : q.Leaves old new) (he : q.effect old = (old.wv d (q.put .f32 (old.rv d) f).1, fl))
    (hfl : ∀ j : Fin 32, q.lane j.val = true → fl &&& (f j.val).2 = (f j.val).2) :
    old.ChangesV new d ∧ ∀ j : Fin 32, (q.lane j.val = false → (new.rv d).get j = (old.rv d).get j) ∧
      (q.lane j.val = true → LaneIs new d j (f j.val).1 ∧ new.Raised (f j.val).2) := by
  obtain ⟨hd, hf, ho⟩ := h.writesV he
  have hget (j : Fin 32) : (new.rv d).get j = if q.lane j.val then BitVec.ofNat 32 (f j.val).1 else (old.rv d).get j := by
    rw [hd, put_fst (t := .f32) nofun]
    simp only [lanePart_f32]
    exact Vector.getElem_ofFn j.isLt
  refine ⟨ho, fun j => ⟨fun hj => ?_, fun hj => ⟨?_, raised_or hf (hfl j hj)⟩⟩⟩
  · rw [hget, hj, if_neg Bool.false_ne_true]
  · exact (hget j).trans (if_pos hj)

/-- Element j of a block. -/
def VCmd.blockElem (q : VCmd) (old : Ctx) (t : BlkFmt) (a : VReg) (j : Nat) : Nat :=
  lanesNat (q.src old a) / 2 ^ (t.bits * j) % 2 ^ t.bits

/-- The exact value of element j, under the scale that was read at the issue. -/
def VCmd.blockVal (q : VCmd) (old : Ctx) (t : BlkFmt) (a : VReg) (j : Nat) : FVal :=
  blkDecode t (q.op1.toNat % 2 ^ 32) (q.blockElem old t a j)

theorem effect_vdq (h : q.instr = .vdq t rnd d a x m) : q.effect old =
    (old.wv d (q.put .f32 (old.rv d) fun j => specFp32.encode q.rm (q.blockVal old t a j)).1,
      orElems (q.actives .f32) (fun j => specFp32.encode q.rm (q.blockVal old t a j)) |||
        if q.actives .f32 = [] then 0 else blkScaleFlag t (q.op1.toNat % 2 ^ 32)) := by
  simp only [VCmd.effect, h]
  rfl

theorem mem_actives_f32 {j : Fin 32} (hj : q.lane j.val = true) : j.val ∈ q.actives .f32 := by
  rw [actives_eq (u := .f32) nofun]
  exact List.mem_filter.2 ⟨List.mem_range.2 j.isLt, hj⟩

theorem vdq_lanes (h : q.Leaves old new) (hi : q.instr = .vdq t rnd d a x m) :
    old.ChangesV new d ∧ ∀ j : Fin 32, (q.lane j.val = false → (new.rv d).get j = (old.rv d).get j) ∧
      (q.lane j.val = true → LaneIs new d j (specFp32.encode q.rm (q.blockVal old t a j.val)).1 ∧
        new.Raised (specFp32.encode q.rm (q.blockVal old t a j.val)).2 ∧
        new.Raised (blkScaleFlag t (q.op1.toNat % 2 ^ 32))) := by
  obtain ⟨ho, hl⟩ := lanes_f32 h (effect_vdq hi) fun j hj => flags_or_and_left (orElems_and (mem_actives_f32 hj)) _
  obtain ⟨-, hf, -⟩ := h.writesV (effect_vdq hi)
  refine ⟨ho, fun j => ⟨(hl j).1, fun hj => ?_⟩⟩
  obtain ⟨his, hr⟩ := (hl j).2 hj
  refine ⟨his, hr, raised_or hf ?_⟩
  rw [if_neg (List.ne_nil_of_mem (mem_actives_f32 hj))]
  exact flags_or_and_right ..

/-- A finite element is rounded. -/
theorem encode_rounds_real {F : FSpec} (hF : F.Ieee) {rm : RMode} {v : FVal} (hv : v.finite) (h0 : v.real ≠ 0) :
    F.Rounds rm v.real (F.encode rm v) := by
  obtain ⟨n, m, e, rfl⟩ := hv
  rw [FSpec.encode, if_neg (mt real_eq_zero_iff.2 h0)]
  exact round_rounds_real hF h0

section
variable (h : q.Leaves old new) (hi : q.instr = .vdq t rnd d a x m) {j : Fin 32} (hj : q.lane j.val = true)
include h hi hj

theorem vdq_nan (hv : q.blockVal old t a j.val = .nan false) : LaneIs new d j specFp32.nanBits := by
  obtain ⟨his, -, -⟩ := ((vdq_lanes h hi).2 j).2 hj
  rwa [hv, encode_nan specFp32_ieee] at his

theorem vdq_zero {n : Bool} {e : Int} (hv : q.blockVal old t a j.val = .fin n 0 e) :
    LaneIs new d j (specFp32.sign n) := by
  obtain ⟨his, -, -⟩ := ((vdq_lanes h hi).2 j).2 hj
  rwa [hv] at his

theorem vdq_rounds {y : ℝ} (hv : (q.blockVal old t a j.val).finite) (hy : (q.blockVal old t a j.val).real = y)
    (h0 : y ≠ 0) : LaneRounds q.rm new d j y := by
  obtain ⟨his, hr, -⟩ := ((vdq_lanes h hi).2 j).2 hj
  subst hy
  exact ⟨_, encode_rounds_real specFp32_ieee hv h0, his, hr⟩

/-- DXB (R40). -/
theorem vdq_dxb (ht : t.isDxb = true) :
    let sc := q.op1.toNat % 2 ^ 32
    let e := q.blockElem old t a j.val
    let mb := if t = .dxb8 then 6 else 2
    let E : Nat := if e.testBit (mb + 1) then sc / 2 ^ 10 % 2 ^ 10 else sc % 2 ^ 10
    (2 ^ 20 ≤ sc → LaneIs new d j specFp32.nanBits ∧ new.Raised flNV) ∧
    (sc < 2 ^ 20 → (E = 1023 → LaneIs new d j specFp32.nanBits) ∧
      (E = 0 ∨ (E < 1023 ∧ e % 2 ^ mb = 0) → LaneIs new d j (specFp32.sign (e.testBit mb))) ∧
      (E ≠ 0 → E < 1023 →
        let y := (if e.testBit mb then -1 else 1) * ((e % 2 ^ mb : Nat) : ℝ) *
          (2 : ℝ) ^ ((E : Int) - if t = .dxb8 then 516 else 512)
        y ≠ 0 → LaneRounds q.rm new d j y)) := by
  intro sc e mb E
  have hsc : sc < 2 ^ 32 := Nat.mod_lt _ (by decide)
  have hval : q.blockVal old t a j.val = if sc / 2 ^ 20 % 2 ^ 12 ≠ 0 ∨ E = 1023 then .nan false
      else if E = 0 then .fin (e.testBit mb) 0 0 else .fin (e.testBit mb) (e % 2 ^ mb) (E - dxbShift t) := by
    simp only [E, Nat.testBit_eq_decide_div_mod_eq, decide_eq_true_eq]
    rw [VCmd.blockVal, blkDecode, if_pos ht, dxbDecode]
    simp only [Bool.or_eq_true, decide_eq_true_eq]
    rfl
  refine ⟨fun hge => ?_, fun hlt => ?_⟩
  · have hres : sc / 2 ^ 20 % 2 ^ 12 ≠ 0 := by omega
    refine ⟨vdq_nan h hi hj (by rw [hval, if_pos (.inl hres)]), ?_⟩
    obtain ⟨-, -, hr⟩ := ((vdq_lanes h hi).2 j).2 hj
    have hflag : blkScaleFlag t sc = flNV := by
      rw [blkScaleFlag, ht, decide_eq_true hres]
      rfl
    rwa [hflag] at hr
  · have hres : sc / 2 ^ 20 % 2 ^ 12 = 0 := by omega
    simp only [hres, ne_eq, not_true_eq_false, false_or] at hval
    refine ⟨fun hE => vdq_nan h hi hj (by rw [hval, if_pos hE]), fun hE => ?_, fun h0 hE => ?_⟩
    · rcases hE with hE | ⟨hE, h0⟩
      · exact vdq_zero h hi hj (by rw [hval, if_neg (by omega), if_pos hE])
      · rw [if_neg (by omega), h0] at hval
        split at hval <;> exact vdq_zero h hi hj hval
    · intro y hy
      rw [if_neg (by omega), if_neg h0] at hval
      refine vdq_rounds h hi hj ⟨_, _, _, hval⟩ ?_ hy
      rw [hval, real_fin, ← mul_assoc]
      rfl

/-- MX with integer elements (R38). -/
theorem vdq_mxint8 (ht : t = .mxint8) (hs : q.op1.toNat % 2 ^ 32 % 256 ≠ 255) :
    let y := ((BitVec.ofNat 8 (q.blockElem old t a j.val)).toInt : ℝ) *
      (2 : ℝ) ^ (Int.ofNat (q.op1.toNat % 2 ^ 32 % 256) - 133)
    y ≠ 0 → LaneRounds q.rm new d j y := by
  intro y hy
  have hval : q.blockVal old t a j.val =
      let k := int8Of (q.blockElem old t a j.val)
      .fin (k < 0) k.natAbs (-6 + (q.op1.toNat % 2 ^ 32 % 256 : Nat) - 127) := by
    subst ht
    exact if_neg hs
  refine vdq_rounds h hi hj ⟨_, _, _, hval⟩ ?_ hy
  rw [hval, real_fin, ← mul_assoc, signum_mul_natAbs, int8Of, readInt_signed]
  congr 2
  simp only [Int.ofNat_eq_natCast]
  omega

/-- MX with floating-point elements (R38). -/
theorem vdq_mxfp (ht : t.isDxb = false) (hint : t ≠ .mxint8) (hs : q.op1.toNat % 2 ^ 32 % 256 ≠ 255)
    (hfin : ((mxSpec t).decode (q.blockElem old t a j.val)).finite) :
    let y := ((mxSpec t).decode (q.blockElem old t a j.val)).real *
      (2 : ℝ) ^ (Int.ofNat (q.op1.toNat % 2 ^ 32 % 256) - 127)
    y ≠ 0 → LaneRounds q.rm new d j y := by
  intro y hy
  obtain ⟨n, k, e, hv⟩ := hfin
  have hval : q.blockVal old t a j.val = .fin n k (e - (127 - (q.op1.toNat % 2 ^ 32 % 256 : Nat))) := by
    rw [VCmd.blockVal, blkDecode, if_neg (by rw [ht]; exact Bool.false_ne_true)]
    refine (if_neg hs).trans ?_
    cases t with
    | mxint8 => exact absurd rfl hint
    | _ => simp only [hv, FVal.scaleDown]
  refine vdq_rounds h hi hj ⟨_, _, _, hval⟩ ?_ hy
  simp only [y, hval, hv, real_fin, mul_assoc, ← zpow_add₀ (two_ne_zero (α := ℝ))]
  congr 3
  simp only [Int.ofNat_eq_natCast]
  omega

theorem vdq_mx_nan (ht : t.isDxb = false) (hs : q.op1.toNat % 2 ^ 32 % 256 = 255) : LaneIs new d j specFp32.nanBits :=
  vdq_nan h hi hj (by
    rw [VCmd.blockVal, blkDecode, if_neg (by rw [ht]; exact Bool.false_ne_true)]
    exact if_pos hs)

end
end
end Sys2Proof.Machine

namespace Sys2Proof.Machine

/-! VSF (05 R136, 02 R53): the functions where their exact value is a number of FP32's own arithmetic. -/

section
variable {q : VCmd} {old new : Ctx} {d a : VReg} {m : XReg} {rnd : Rnd} {fn : VsfFn} {rm : RMode}
  {k : Nat} {e : Int} {n : Bool}

theorem vsf_lanes (h : q.Leaves old new) (hi : q.instr = .vsf fn rnd d a m) :
    old.ChangesV new d ∧ ∀ j : Fin 32, (q.lane j.val = false → (new.rv d).get j = (old.rv d).get j) ∧
      (q.lane j.val = true → let r := specialFn fn q.rm (laneAt (q.src old a) j.val)
        LaneIs new d j r.1 ∧ new.Raised r.2) := by
  have helem (j : Nat) : q.elem old .f32 a j = laneAt (q.src old a) j := Nat.mod_eq_of_lt (laneAt_lt ..)
  have hl := lanes_f32 h (effect_vsf hi) fun j hj => orElems_and (mem_actives_f32 hj)
  simpa only [helem] using hl

/-- A number of FP32 that is not zero, and what `specialFn` does with it. -/
theorem specialFn_fin {b : Nat} (h : specFp32.decode b = .fin n (k + 1) e) : specialFn fn rm b = match fn with
    | .exp2 => exp2Fin rm n (k + 1) e
    | .exp => expFin rm n (k + 1) e
    | .log2 => if n then (specFp32.nanBits, flNV) else log2Fin rm (k + 1) e
    | .rcp => rcpFin rm n (k + 1) e
    | .rsqrt => if n then (specFp32.nanBits, flNV) else rsqrtFin rm (k + 1) e
    | .tanh => tanhFin rm n (k + 1) e
    | .sigmoid => sigmoidFin rm n (k + 1) e := by
  unfold specialFn
  rw [h]
  exact if_neg k.succ_ne_zero

theorem rcpFin_rounds (hk : k ≠ 0) : specFp32.Rounds rm (1 / (FVal.fin n k e).real) (rcpFin rm n k e) := by
  have h := fDiv_rounds (rm := rm) (n₁ := false) (n₂ := n) (e₁ := 0) (e₂ := e) specFp32_ieee (by decide) one_ne_zero hk
  have hone : (FVal.fin false 1 0).real = 1 := by simp [real_fin, signum]
  rwa [hone] at h

/-- The root of a reciprocal, from a truncated quotient whose exponent is even. -/
theorem rsqrtFin_rounds (hk : k ≠ 0) (hlt : k < 2 ^ 24) :
    specFp32.Rounds rm (1 / √(FVal.fin false k e).real) (rsqrtFin rm k e) := by
  unfold rsqrtFin
  extract_lets p r
  obtain ⟨j, hj⟩ : ∃ j : Int, -e - p = 2 * j := ⟨(-e - p) / 2, by simp only [p]; split <;> omega⟩
  have hpos : (0 : ℝ) < k := by exact_mod_cast Nat.pos_of_ne_zero hk
  have hp : 200 ≤ p := Nat.le_add_right ..
  have hdiv : ((2 ^ p / k : Nat) : ℝ) ≤ 2 ^ p / k := by exact_mod_cast Nat.cast_div_le (α := ℝ)
  have hdiv' : (2 ^ p / k : ℝ) < (2 ^ p / k : Nat) + 1 := by
    rw [div_lt_iff₀ hpos]
    exact_mod_cast (Nat.div_lt_iff_lt_mul (Nat.pos_of_ne_zero hk)).1 (Nat.lt_succ_self (2 ^ p / k))
  have hle : 2 ^ (guardBits + guardBits) ≤ 2 ^ p / k := by
    rw [Nat.le_div_iff_mul_le (Nat.pos_of_ne_zero hk)]
    calc 2 ^ (guardBits + guardBits) * k ≤ 2 ^ (guardBits + guardBits) * 2 ^ 24 := Nat.mul_le_mul_left _ hlt.le
      _ ≤ 2 ^ p := by
        rw [← pow_add]
        exact Nat.pow_le_pow_right two_pos (le_trans (by decide) hp)
  have hsticky : decide (r * r * k ≠ 2 ^ p) = true ↔ (isqrt (2 ^ p / k) : ℝ) * isqrt (2 ^ p / k) ≠ 2 ^ p / k := by
    rw [decide_eq_true_iff, ne_eq, ne_eq, eq_div_iff hpos.ne']
    exact_mod_cast Iff.rfl
  have h := sqrt_rounds (rm := rm) specFp32_ieee (by decide) hdiv hdiv' hle hsticky j
  rw [hj, Int.mul_ediv_cancel_left _ two_ne_zero]
  convert h using 1
  have hval : (2 : ℝ) ^ p / k * 2 ^ (j + j) = ((FVal.fin false k e).real)⁻¹ := by
    rw [show j + j = -e - p by omega, real_fin, zpow_sub₀ two_ne_zero, zpow_neg, zpow_natCast]
    simp only [signum, Bool.false_eq_true, if_false]
    field_simp
  rw [← sqrt_mul_two_zpow (by positivity), hval, Real.sqrt_inv, one_div]

-- Powers of two

theorem real_one (n : Int) : (FVal.fin false 1 n).real = (2 : ℝ) ^ n := by simp [real_fin, signum]

theorem round_two_pow (n : Int) : specFp32.Rounds rm ((2 : ℝ) ^ n) (specFp32.round rm false 1 n) := by
  rw [← real_one]
  exact round_rounds_real specFp32_ieee (by rw [real_one]; positivity)

theorem exponent_one (n : Int) : n + (bitLen 1 : Nat) - 1 = n := by
  rw [show bitLen 1 = 1 from rfl]
  omega

/-- Every power of two from 2^200 on overflows alike. -/
theorem hugeFp32_eq {n : Int} (hn : 200 ≤ n) : specFp32.round rm false 1 n = hugeFp32 rm := by
  have huge {n : Int} (hn : 200 ≤ n) : specFp32.round rm false 1 n = (specFp32.sign false +
      if OverflowsToInf rm false then specFp32.infBits else specFp32.infBits - 1, flOF ||| flNX) := by
    have hbig : specFp32.emax < n := lt_of_lt_of_le (by decide) hn
    refine (round_eq specFp32_ieee rm false 1 n false).trans (if_pos ?_)
    rw [exponent_one]
    split <;> omega
  exact (huge hn).trans (huge le_rfl).symm

/-- What becomes of a magnitude far below the smallest number. -/
def underflowed (rm : RMode) : Nat × Flags := (if roundsUp rm false false .lt true then 1 else 0, flNX ||| flUF)

theorem tinyFp32_eq (rm : RMode) : tinyFp32 rm = underflowed rm := by cases rm <;> decide +kernel

/-- Every power of two up to 2^-512 underflows alike. -/
theorem round_tiny {n : Int} (hn : n ≤ -512) : specFp32.round rm false 1 n = underflowed rm := by
  have hmin : specFp32.emin = -126 := by decide
  have hmax : specFp32.emax = 127 := by decide
  have hunb : roundQ rm false 1 n false (n - (23 : Nat)) = (2 ^ 23, false) := by
    rw [roundQ_exact rm false 1 (by omega), show n - (n - (23 : Nat)) = 23 by omega]
    rfl
  have hround : roundQ rm false 1 n false (-126 - (23 : Nat)) =
      (if roundsUp rm false false .lt true then 1 else 0, true) := by
    have hd : ∃ d, (-126 - ((23 : Nat) : Int) - n).toNat = d + 2 := ⟨(-126 - (23 : Nat) - n).toNat - 2, by omega⟩
    obtain ⟨d, hd⟩ := hd
    have hpow : 1 < 2 ^ (d + 2) := Nat.one_lt_two_pow (by omega)
    have hcmp : compare 2 (2 ^ (d + 2)) = .lt := by
      rw [compare_lt_iff_lt, pow_add]
      have := Nat.two_pow_pos d
      omega
    rw [roundQ, if_neg (by omega)]
    simp only [hd, Nat.div_eq_of_lt hpow, Nat.mod_eq_of_lt hpow, mul_one, hcmp]
    simp
  rw [round_eq specFp32_ieee, exponent_one]
  simp only [hmin, hmax, show specFp32.mb = 23 from rfl, hunb, max_eq_right (show n ≤ -126 by omega), hround]
  rw [if_neg (show ¬ (2 ^ 23 ≥ 2 ^ (23 + 1)) by decide), if_neg (by omega), decide_eq_true (show n < -126 by omega),
    underflowed]
  cases roundsUp rm false false .lt true <;> rfl

/-- The leading bit of a number that is a power of two. -/
theorem exponent_eq (hk : k ≠ 0) {c : Int} (hlo : (2 : ℝ) ^ c ≤ k * 2 ^ e) (hhi : (k * 2 ^ e : ℝ) < 2 ^ (c + 1)) :
    e + bitLen k - 1 = c := by
  have h1 := two_pow_ex_le hk e le_rfl
  have h2 := lt_two_pow_ex hk e one_pos
  rw [add_zero] at h1 h2
  have h3 := (zpow_lt_zpow_iff_right₀ (one_lt_two (α := ℝ))).1 (hlo.trans_lt h2)
  have h4 := (zpow_lt_zpow_iff_right₀ (one_lt_two (α := ℝ))).1 (h1.trans_lt hhi)
  omega

/-- The logarithm of a power of two is an integer (R53). -/
theorem log2Fin_two_pow (hk : k ≠ 0) {c : Int} (hv : (FVal.fin n k e).real = (2 : ℝ) ^ c) :
    n = false ∧ log2Fin rm k e = if c = 0 then (0, 0) else specFp32.round rm (decide (c < 0)) c.natAbs 0 := by
  have hpos : (0 : ℝ) < k * 2 ^ e := by
    have := Nat.pos_of_ne_zero hk
    positivity
  have hn : n = false := by
    cases n with
    | false => rfl
    | true =>
      have h2 : (0 : ℝ) < 2 ^ c := by positivity
      rw [← hv, real_fin, signum, if_pos rfl] at h2
      linarith
  subst hn
  rw [real_fin, signum, if_neg Bool.false_ne_true, one_mul] at hv
  have hex := exponent_eq hk hv.ge (by rw [hv]; exact zpow_lt_zpow_right₀ one_lt_two (by omega))
  have hlen : 1 ≤ bitLen k := by
    rw [bitLen, if_neg hk]
    omega
  have hpow : k = 2 ^ (bitLen k - 1) := by
    have h : (k : ℝ) = 2 ^ (bitLen k - 1) := by
      have h2 : (2 : ℝ) ^ c = 2 ^ (bitLen k - 1) * 2 ^ e := by
        rw [← zpow_natCast, ← zpow_add₀ two_ne_zero]
        congr 1
        omega
      exact mul_right_cancel₀ (zpow_ne_zero e two_ne_zero) (hv.trans h2)
    exact_mod_cast h
  refine ⟨rfl, (if_pos hpow).trans ?_⟩
  rw [hex]

theorem round_int {c : Int} (hc : c ≠ 0) : specFp32.Rounds rm c (specFp32.round rm (decide (c < 0)) c.natAbs 0) := by
  have hval : (FVal.fin (decide (c < 0)) c.natAbs 0).real = c := by
    rw [real_fin, zpow_zero, mul_one, signum_mul_natAbs]
  rw [← hval]
  exact round_rounds_real specFp32_ieee (by rw [hval]; exact_mod_cast hc)

/-- An integral number of FP32 in fixed point. -/
theorem toFx_int {K : Nat} (he : -149 ≤ e) (hv : (k * 2 ^ e : ℝ) = K) : toFx k e = K * fxOne := by
  have hfx : fxBits = 400 := rfl
  rw [toFx, if_pos (by omega), fxOne]
  have h : ((k * 2 ^ (e + fxBits).toNat : Nat) : ℝ) = (K * 2 ^ fxBits : Nat) := by
    push_cast
    rw [← hv, ← zpow_natCast, ← zpow_natCast, Int.toNat_of_nonneg (by omega), zpow_add₀ two_ne_zero, mul_assoc]
  exact_mod_cast h

/-- The power of two of an integer (R53). -/
theorem exp2Fin_int (hk : k ≠ 0) (he : -149 ≤ e) {c : Int} (hv : (FVal.fin n k e).real = c) :
    exp2Fin rm n k e = specFp32.round rm false 1 c := by
  have hmag : (k * 2 ^ e : ℝ) = c.natAbs := by
    rw [Nat.cast_natAbs, Int.cast_abs, ← hv, abs_real_fin]
  have hpos : (0 : ℝ) < k * 2 ^ e := by
    have := Nat.pos_of_ne_zero hk
    positivity
  have hsign : c = if n then -(c.natAbs : Int) else c.natAbs := by
    have h : (c : ℝ) = signum n * c.natAbs := by rw [← hv, real_fin, hmag]
    refine Int.cast_injective (α := ℝ) (h.trans ?_)
    cases n <;> simp [signum]
  unfold exp2Fin
  split
  · next hbig =>
    have hlarge : 512 ≤ c.natAbs := by
      have h := two_pow_ex_le hk e le_rfl
      rw [add_zero, hmag] at h
      have h9 : (2 : ℝ) ^ (9 : Int) ≤ c.natAbs := (zpow_le_zpow_right₀ one_le_two (by omega)).trans h
      have h9' : ((512 : Nat) : ℝ) ≤ c.natAbs := le_trans (by norm_num) h9
      exact_mod_cast h9'
    cases n with
    | true =>
      rw [if_pos rfl] at hsign ⊢
      rw [tinyFp32_eq, round_tiny (by omega)]
    | false =>
      rw [if_neg Bool.false_ne_true] at hsign ⊢
      rw [hugeFp32_eq (by omega)]
  · have hfx := toFx_int he hmag
    have hone : 0 < fxOne := Nat.two_pow_pos _
    rw [hfx]
    dsimp only
    rw [if_pos (Nat.mul_mod_left ..), Nat.mul_div_cancel _ hone, ← hsign]

end
end Sys2Proof.Machine

namespace Sys2Proof.Machine

/-! The store of an element that is stored as it is (05 R141). -/

section
variable {s : State} {c : CtxId} {q : VCmd} {rnd : Rnd} {r : VReg} {a m : XReg} {off : BitVec 32} {e : ElemPlan}

/-- A plain write at a place: its bytes read as written, and every other byte as before. -/
theorem storesBytes_writePlace (h : s.mem.wf) (c : ClusterId) (pl : Place) (bs : List Byte) :
    StoresBytes s (s.writePlace c pl bs) pl bs := by
  cases pl with
  | glob pa => exact ⟨fun i b hb => Mem.write_reads_same h hb, fun p hp => Mem.write_reads_other h hp⟩
  | scr k =>
    refine ⟨fun i b hb => cellsGet_write_same h.2 hb, fun p hp => ?_⟩
    cases p with
    | glob pa => exact reads_glob_withSram h (cellsWrite_wf _ _ _ h.2) pa
    | scr k' =>
      refine cellsGet_write_other _ _ _ _ h.2 ?_
      by_contra hin
      exact hp (k' - k) (by omega) (congrArg Place.scr (by omega))

theorem storeElem_stored (s : State) (c : ClusterId) (t : VTy) (rm : RMode) (b : Nat) (h : e.fmt = none) :
    s.storeElem c t rm e b = (s.writePlace c e.place (leBytes ((vtyNum t).width / 8) b), 0) := by
  rw [State.storeElem, h, ElemPlan.span, h]

theorem storePlan_stored (s : State) (c : ClusterId) (t : VTy) (rm : RMode) (src : Lanes) (h : e.fmt = none) :
    (s.storePlan c t rm src [e]).1 =
      s.writePlace c e.place (leBytes ((vtyNum t).width / 8) (elemBits t src e.e)) := by
  rw [State.storePlan, h]
  show (s.storeElem c t rm e (elemBits t src e.e)).1 = _
  rw [storeElem_stored _ _ _ _ _ h]

/-- A store of one 32-bit element stored as it is. -/
theorem completed_vst (hw : s.mem.wf) (he : e.e < 32) (hi : q.instr = .vst .i32 rnd r a off m) (hp : q.plan = [e])
    (hf : e.fmt = none) : StoresBytes s (s.completed c q) e.place
      (leBytes 4 ((q.src (s.getCtx c) r).get ⟨e.e, he⟩).toNat) := by
  have hreg : vecMemReg q.instr = some (true, .i32, r) := by rw [hi]; rfl
  have helem : elemBits .i32 (q.src (s.getCtx c) r) e.e = ((q.src (s.getCtx c) r).get ⟨e.e, he⟩).toNat :=
    elem_word (q := q) (old := s.getCtx c) (sg := true) rfl r ⟨e.e, he⟩
  have hmem : (s.completed c q).mem = ((s.dequeue c q.seq).writePlace c.core.cl e.place
      (leBytes 4 ((q.src (s.getCtx c) r).get ⟨e.e, he⟩).toNat)).mem := by
    refine (setCtx_mem ..).trans ?_
    show ((s.dequeue c q.seq).performVec c q).mem = _
    rw [performVec_of_reg hreg, raiseAt_mem, vecMemEffect_eq hreg, if_pos rfl, State.vecStore, hp,
      storePlan_stored _ _ _ _ _ hf, ← helem]
    rfl
  obtain ⟨hsame, hother⟩ := storesBytes_writePlace (s := s.dequeue c q.seq) hw c.core.cl e.place
    (leBytes 4 ((q.src (s.getCtx c) r).get ⟨e.e, he⟩).toNat)
  exact ⟨fun i b hb => by rw [hmem]; exact hsame i b hb, fun p hp => by rw [hmem]; exact hother p hp⟩

end
end Sys2Proof.Machine

namespace Sys2Proof.Machine

/-! The rows of the statement that are left: VMIN and VMAX by the order of the reals, and Table 2.10's special cases. -/

section
variable {q : VCmd} {old new : Ctx} {u : VTy} {F : FSpec} {d a b : VReg} {m : XReg} {rnd : Rnd} {i : Nat}

open Classical in
/-- VMIN and VMAX of unequal finite numbers take the lesser and the greater. -/
theorem picks_vminmax (h : q.Leaves old new) (hu : vtyNum u = .flt F) (isMax : Bool)
    (hi : q.instr = if isMax then .vmax u d a b m else .vmin u d a b m) (hlt : i < elemCount u) (ha : q.act u i = true)
    (hfa : (q.num old u F a i).finite) (hfb : (q.num old u F b i).finite)
    (hne : (q.num old u F a i).real ≠ (q.num old u F b i).real) :
    ElemHolds u (new.rv d) i (q.elem old u
      (if (q.num old u F a i).real < (q.num old u F b i).real then if isMax then b else a
        else if isMax then a else b) i) := by
  obtain ⟨hless, hgreater⟩ := holds_vminmax h hu isMax hi hlt ha hfa hfb
  split
  · next hab => exact hless hab
  · next hab => exact hgreater (lt_of_le_of_ne (not_lt.1 hab) hne.symm)

end

section
variable {b k : Nat} {n g : Bool} {e : Int} {fn : VsfFn} {rm : RMode}

theorem specialFn_nan (h : specFp32.decode b = .nan g) :
    specialFn fn rm b = (specFp32.nanBits, if g then flNV else 0) := by
  unfold specialFn
  rw [h] <;> rfl

theorem specialFn_inf (h : specFp32.decode b = .inf n) : specialFn fn rm b = match fn with
    | .exp2 | .exp => (if n then 0 else specFp32.infBits, 0)
    | .log2 => if n then (specFp32.nanBits, flNV) else (specFp32.infBits, 0)
    | .rcp => (specFp32.sign n, 0)
    | .rsqrt => if n then (specFp32.nanBits, flNV) else (0, 0)
    | .tanh => (specFp32.sign n + 0x3F800000, 0)
    | .sigmoid => (if n then 0 else 0x3F800000, 0) := by
  unfold specialFn
  rw [h] <;> rfl

theorem specialFn_zero (h : specFp32.decode b = .fin n 0 e) : specialFn fn rm b = match fn with
    | .exp2 | .exp => (0x3F800000, 0)
    | .log2 => (specFp32.sign true + specFp32.infBits, flDZ)
    | .rcp | .rsqrt => (specFp32.sign n + specFp32.infBits, flDZ)
    | .tanh => (specFp32.sign n, 0)
    | .sigmoid => (0x3F000000, 0) := by
  unfold specialFn
  rw [h] <;> rfl

end

/-- Settles O32: the oldest command leaves the queue and is performed (`completed_arith`, `completed_vst`), and each
instruction's effect gives its row of the statement. -/
theorem vectorCommandEffects : Obligations.VectorCommandEffects := by
  unfold Obligations.VectorCommandEffects
  intro s c q rest hq hne old lane src real at64
  have hreal : real = FVal.real := by
    ext v
    cases v <;> rfl
  refine ⟨s.completed c q, vectorCommandComplete_next hq, queued_completed hq hne, fun harith => ?frame, ?effects,
    fun rnd r a m off e he hw hi hp hf => completed_vst hw he hi hp hf⟩
  case frame =>
    obtain ⟨hmem, hctx, -⟩ := completed_arith (s := s) (c := c) harith
    exact ⟨hmem, hctx⟩
  case effects =>
    intro new only gives raised u rnd d a b x m n imm
    have leaves {i : Instr} (hi : q.instr = i) (h : isVectorMem i = false) : q.Leaves old new :=
      (completed_arith (s := s) (c := c) (hi ▸ h)).2.2
    refine ⟨fun sg w sat hu => ⟨fun hi => gives_vadd (leaves hi rfl) hu hi, fun hi => gives_vsub (leaves hi rfl) hu hi,
        fun hi => gives_vmul (leaves hi rfl) hu hi⟩,
      fun hu => ⟨fun hi => gives_vshl (leaves hi rfl) hu hi, fun hi => vcmp_word (leaves hi rfl) hu hi⟩,
      fun hi => ?minz, fun hi => ?maxz, fun hi => ?mini, fun hi => ?maxi,
      fun hi => gives_vshr_unsigned (leaves hi rfl) hi, fun hi => gives_vshr_signed (leaves hi rfl) hi,
      fun hi => gives_vand (leaves hi rfl) hi, fun hi => gives_vor (leaves hi rfl) hi,
      fun hi => gives_vxor (leaves hi rfl) hi, fun hi => rv_vsel (leaves hi rfl) hi,
      fun hi => gives_vperm (leaves hi rfl) hi, fun hi => gives_vbcast_imm (leaves hi rfl) hi,
      fun hi => gives_vbcast_lane (leaves hi rfl) hi, fun hi => rv_vins (leaves hi rfl) hi,
      fun D hi => vred_sum (leaves hi rfl) hi, fun excl hi => gives_vscan (leaves hi rfl) hi,
      fun hi => x_vext_signed (leaves hi rfl) hi, fun hi => x_vext_unsigned (leaves hi rfl) hi,
      fun F b' hu => ?floats, fun dst fr half hi => ?vcvt, fun t hi => ?vqnt, fun t hi => ?vdq, fun fn hi => ?vsf⟩
    case minz =>
      have h := gives_vmin (leaves hi rfl) (sg := false) rfl hi
      simp only [readInt_word_unsigned, Int.ofNat_le] at h
      exact h
    case maxz =>
      have h := gives_vmax (leaves hi rfl) (sg := false) rfl hi
      simp only [readInt_word_unsigned, Int.ofNat_le] at h
      exact h
    case mini =>
      have h := gives_vmin (leaves hi rfl) (sg := true) rfl hi
      simp only [readInt_word_signed] at h
      exact h
    case maxi =>
      have h := gives_vmax (leaves hi rfl) (sg := true) rfl hi
      simp only [readInt_word_signed] at h
      exact h
    case floats =>
      intro elem on num val is rounds picks
      have helem (r : VReg) (i : Nat) : elem (src r) i = q.elem old u r i := (elem_flt hu r i).symm
      have hnum : num = q.num old u F := funext fun r => funext fun i => congrArg F.decode (helem r i)
      have hval : val = fun r i => (q.num old u F r i).real := by
        rw [← hnum, ← hreal]
      have hrounds {operands : List VReg} {y : Nat → ℝ} (h : q.RoundsOnce old new u F d operands y) :
          rounds operands y := by
        rw [VCmd.RoundsOnce, ← hnum] at h
        exact h
      rw [hval]
      refine ⟨fun hi => hrounds (rounds_vadd (leaves hi rfl) hu hi),
        fun hi => hrounds (rounds_vsub (leaves hi rfl) hu hi),
        fun hi => hrounds (rounds_vmul (leaves hi rfl) hu hi), fun hi => hrounds (rounds_vfma (leaves hi rfl) hu hi),
        fun hi => ?vmin, fun hi => ?vmax⟩
      case vmin =>
        intro i hlt ha hfa hfb hne
        rw [hnum] at hfa hfb
        rw [hval] at hne
        have h := picks_vminmax (leaves hi rfl) hu false hi hlt ha hfa hfb hne
        rw [← helem] at h
        exact h
      case vmax =>
        intro i hlt ha hfa hfb hne
        rw [hnum] at hfa hfb
        rw [hval] at hne
        have h := picks_vminmax (leaves hi rfl) hu true hi hlt ha hfa hfb hne
        rw [← helem] at h
        exact h
    case vcvt =>
      have hleaves := leaves hi rfl
      obtain ⟨ho, hin, -⟩ := vcvt_elements hleaves hi
      refine ⟨ho, hin, fun i hlt hon => ⟨fun G F hs hd => cvt_flt_flt hleaves hi hlt hon hs hd,
        fun sg w F hs hd => cvt_int_flt hleaves hi hlt hon hs hd, fun G sg w hs hd =>
          ⟨fun hv => cvt_flt_int_nan hleaves hi hlt hon hs hd hv,
            fun n' hv => cvt_flt_int_inf hleaves hi hlt hon hs hd hv,
            fun n' k e k' hv hk => cvt_flt_int_fin hleaves hi hlt hon hs hd hv ⟨_, _, _, rfl⟩ hk⟩,
        fun sg sg' w w' hs hd => cvt_int_int hleaves hi hlt hon hs hd⟩⟩
    case vqnt =>
      intro vals r
      obtain ⟨helems, hzero, hx, hr⟩ := vqnt_writes (leaves hi rfl) hi
      refine ⟨helems, hzero, hx, hr, fun ht => ⟨fun hnan => mxQuant_nan ht hnan, fun hno k hk hlt => ?_⟩⟩
      rw [hreal] at hk hlt
      exact mxQuant_scale ht hno (leadExp_eq hk hlt)
    case vdq =>
      have hleaves := leaves hi rfl
      obtain ⟨ho, hl⟩ := vdq_lanes hleaves hi
      refine ⟨ho, fun j => ⟨(hl j).1, fun hj => ?_⟩⟩
      intro sc S e is exact'
      split
      · next ht => exact vdq_dxb hleaves hi hj ht
      · next ht =>
        rw [Bool.not_eq_true] at ht
        refine ⟨fun hs => vdq_mx_nan hleaves hi hj ht hs, fun hs => ?_⟩
        split
        · next hint => exact vdq_mxint8 hleaves hi hj hint hs
        · next hint =>
          rw [hreal]
          exact fun hfin => vdq_mxfp hleaves hi hj ht hint hs hfin
    case vsf =>
      obtain ⟨ho, hl⟩ := vsf_lanes (leaves hi rfl) hi
      refine ⟨ho, fun j => ⟨(hl j).1, fun hj => ?_⟩⟩
      intro v is nan inf one rounded
      have gives' {r : Nat} {fl : Flags} (h : specialFn fn q.rm (laneAt (src a) j.val) = (r, fl)) : is r fl := by
        have := (hl j).2 hj
        rw [show specialFn fn q.rm (laneAt (q.src old a) j.val) = (r, fl) from h] at this
        exact this
      have rounds {y : ℝ} (h : specFp32.Rounds q.rm y (specialFn fn q.rm (laneAt (src a) j.val))) : rounded y :=
        ⟨_, h, (hl j).2 hj⟩
      have hv : specFp32.decode (laneAt (src a) j.val) = v := rfl
      clear_value v
      rw [hreal]
      cases v with
      | nan g => exact gives' (specialFn_nan hv)
      | inf n' =>
        have h := specialFn_inf (fn := fn) (rm := q.rm) hv
        cases n' <;> cases fn <;> exact gives' h
      | fin n' k e =>
        cases k with
        | zero =>
          have h := specialFn_zero (fn := fn) (rm := q.rm) hv
          cases fn <;> exact gives' h
        | succ k =>
          have h := specialFn_fin (fn := fn) (rm := q.rm) hv
          have hk := k.succ_ne_zero
          obtain ⟨hlt, he, -⟩ := fin_canonical specFp32_ieee hv
          refine ⟨fun hfn => ?_, fun hfn hn => ?_, fun hfn hn => ?_, fun hfn c hc => ?_, fun hfn c hc => ?_⟩
          · subst hfn
            exact rounds (h ▸ rcpFin_rounds hk)
          · subst hfn hn
            exact rounds (h ▸ rsqrtFin_rounds hk hlt)
          · subst hn
            rcases hfn with rfl | rfl <;> exact gives' h
          · subst hfn
            exact rounds (h.trans (exp2Fin_int hk he hc) ▸ round_two_pow c)
          · subst hfn
            obtain ⟨rfl, hlog⟩ := log2Fin_two_pow (rm := q.rm) hk hc
            have hlog := h.trans hlog
            split
            · next h0 => exact gives' (hlog.trans (if_pos h0))
            · next h0 => exact rounds (hlog.trans (if_neg h0) ▸ round_int h0)

end Sys2Proof.Machine
